-- ==== Sys2Proof/Word.lean ====
section
/-!
DEFINITION. The words of the machine: bytes, instruction words, doublewords, register numbers, and the plain
names for addresses and global IDs (00_scope.md R3-R8).
-/

namespace Sys2Proof

/-- A byte of memory. -/
abbrev Byte := BitVec 8

/-- One 32-bit instruction word, or one ACC lane (R68, R28). -/
abbrev Half := BitVec 32

/-- A 64-bit register or doubleword (R13). -/
abbrev Word := BitVec 64

/-- The number of an X register (R72). -/
abbrev Reg := BitVec 5

/-- A byte address: physical, virtual or local, as a number. -/
abbrev Addr := Nat

/-- A global ID (R8): DEVICE [25:14], DIE [13], ROW [12:9], COL [8:4], CTX [3:0]. -/
abbrev Gid := Nat

end Sys2Proof
end

