-- ==== Sys2Proof/Config.lean ====
section
/-!
DEFINITION. What an implementation fixes and what the spec leaves open, as constants without a body: nothing can be
proved of their values, so a statement holds whatever they are. The free values that may differ from one use to the
next are applied to a counter of the state (`State.draws`).
-/

namespace Sys2Proof.Config

/-- DESIGN CHOICE (log 2). The n-th free pick: which of the possible next steps of the machine is taken, which victim
a cache takes, and whether a stale copy is used (R42, R165, R275, R283, R295). -/
opaque choice : Nat → Nat

/-- DESIGN CHOICE (log 2). Cycles that pass after the n-th step, none among them; one more where nothing could be done: figures in cycles
are "about" figures (R12, R97, R138). -/
opaque elapsed : Nat → Nat

/-- The n-th 64 bits of a core's entropy source (R130). -/
opaque entropy : Nat → Word

/-- A byte read under a key that differs
from the one its sector was written under. XTS works on 16-byte blocks with the address as tweak (R285, R286): the two key IDs with
their generations, the number of the block, its 16 stored bytes and the byte's place among them. -/
opaque wrongKey : Nat × Nat → Nat × Nat → Nat → List Byte → Nat → Byte

/-- A byte that the model does not hold: one of the body of a save image (R403: only the header is architectural), by core, save number
and offset; or one that another device or the host holds and an engine reads (log 9), by device, draw and address. -/
opaque imageByte : Nat → Nat → Nat → Byte

/-- VERSION of the save images that the part writes (R403). -/
opaque imageVersion : BitVec 16

/-- Whether a staged image's ML-DSA-65 signature holds over its digest (R480). -/
opaque signatureOk : List Byte → List Byte → Bool

/-- The ML-DSA-65 identity key that the security controller derives from a configuration record (R482). -/
opaque identityKey : List Byte → List Byte

/-- The ML-DSA-65 signature under a key that the n-th step puts on a response with a measurement (R482): the algorithm is another standard's. -/
opaque spdmSign : Nat → List Byte → List Byte → List Byte

/-- Where bring-up puts Isastan's ring: its base and its doorbell doubleword, in memory of key ID 0 (R474, R483). -/
opaque isaRing : Nat × Nat

/-- The trace ring that bring-up sets up for a stream of a cluster: its base, and by how many its slots exceed two (R430, R483). -/
opaque traceRing : Nat → Nat → Nat × Fin 63

/-- The images present at test: component and bytes; 1 is the boot ROM, 5 the configuration record (R482, R483). -/
opaque factoryImage : Nat → List Byte

/-- The minimum security version of the configuration record (R480). -/
opaque minVersion : Nat

/-- The device and the port at the far end of a Trowen port (R445). -/
opaque portPeer : Nat → Nat × Nat

/-- The reference device of the timebases, which the system configuration names (R453). -/
opaque refDevice : Nat

/-- The n-th reading of a sensor of the management interface (R484). -/
opaque sensor : Nat → Nat → Nat

/-- Which flags set or cleared less than 16 cycles before a read of FLAGOR the n-th read includes (R64). -/
opaque lateFlags : Nat → BitVec 5

/-- The partition by which the front end numbers a new workgroup's launch domains: the first of 16 free numbers
(R167: the front end assigns them). -/
opaque pickBase : Nat → Nat

/-- DEDUCED (log 50). Whether, in the n-th step, the messages that compete at a latch with a later kind of input have arrived (R179). -/
opaque arrived : Nat → Bool

/-- DESIGN CHOICE (log 51). Whether a core of another device of the partition set is a member of a scope-6 launch domain that the n-th launch records (R449: every
device's packet gives the same members). -/
opaque peerMember : Nat → Gid → Bool

/-- DESIGN CHOICE (log 27). Which of the free places of a spill or save area the n-th spilled descriptor, bank or image takes (R186, R404). -/
opaque spillSlot : Nat → Nat

/-- DESIGN CHOICE (log 26). Whether an event homed on another device lists a FIFO bank agent (bit 0), and BANK, HEAD and TAIL of WAIT_LIMIT for an
agent that has no bank on this device (bits [40:4]) (R206). -/
opaque remoteFifo : Nat → BitVec 41

/-- DESIGN CHOICE (log 26). Whether an event is spilled at its home on another device, in the n-th step: the home's number and the name
(R187, R451). -/
opaque farSpilled : Nat → Nat × Nat → Bool

/-- DESIGN CHOICE (log 26). Whether a poll of the n-th step finds every offer of an event that another device has spilled (R186, R451). -/
opaque farServed : Nat → Nat × Nat → Bool

/-- DESIGN CHOICE (log 26). Whether every exchange offer of a core of another device has occurred for its step, in the n-th step (R201, R451). -/
opaque farReady : Nat → Gid → Bool

/-- DESIGN CHOICE (log 23). What a circuit that ends in the n-th step has met at the routers of other devices: the sum of their counts,
whether one was active, and whether every LIVE context there waits in SELECT with no notice (R192-R194, R451). -/
opaque farRouters : Nat → Int × Bool × Bool

end Sys2Proof.Config
end

