-- ==== Sys2Proof/Types.lean ====
section
/-!
DEFINITION. The records that messages, offers, packets and requests carry between the units of the package. They
are plain data: instructions and events (Syntax.lean) and the state (Machine/State.lean) hold them.
-/

namespace Sys2Proof

/-- The latch of a participant: its global ID, and which of its independent offer sets it is. A context has set 0
(R178). Standing agents have one set per thing they offer (R188, R333, R471). -/
structure LatchId where
  gid : Gid
  sub : Nat
  deriving DecidableEq, Repr

/-- An event entry: its home, written device × 2^16 + core for the resolver of a core (R170) and device × 2^16 + 576 +
gang for the wired logic of a gang (R190), and its name. -/
structure EvKey where
  home : Nat
  name : Nat
  deriving DecidableEq, Repr

/-- A stamp (count, time, name) (R180). -/
structure Stamp where
  count : Nat
  time : Nat
  name : Nat
  deriving DecidableEq, Repr

/-- The direction of an offer (R203, R200). -/
inductive Dir where
  | sync | give | take | both
  deriving DecidableEq, Repr

/-- The kind of a payload region (R214), the FIFO tail of a bound bank (R189), and the two payloads that have no
region of their own: the command a kick carries (R333), and bytes an agent gives from its own state. -/
inductive RegionKind where
  | scratch | acc | mailbox | fifo | none
  deriving DecidableEq, Repr

/-- A payload region (R214). `place` is the local address, the first ACC row, the mailbox or the bank. -/
structure Region where
  kind : RegionKind
  len : Nat
  place : Nat
  deriving DecidableEq, Repr

/-- A copy command as COPY stages it (R338): handles, completion name, first element, rounding, saturation, kicker. -/
structure CopyCmd where
  kick : Nat
  src : Nat
  dst : Nat
  compl : Nat
  first : Nat
  rm : Nat
  sat : Bool
  kicker : Gid
  deriving DecidableEq, Repr

/-- One offer on its way to, or stored at, a home (R177, R181). `seq` marks an exchange offer (R201), `copy` the
command of a COPY (R333), `bytes` the bytes that an agent gives, `got` pieces of a payload that is gathered before it
lands, by offset; `armed` is the TIME of the arming (R202). -/
structure OfferMsg where
  latch : LatchId
  arm : Nat
  slot : Nat
  name : Nat
  dir : Dir
  give : Option Region
  take : Option Region
  copy : Option CopyCmd
  bytes : List Byte
  got : List (Nat × List Byte)
  seq : Bool
  armed : Nat
  deriving DecidableEq, Repr

/-- An access kind, by its FAULTCAP.ACCESS code (R409). -/
inductive Access where
  | none | fetch | load | store | amo | upd | wideRead | wideWrite | matrix | walker | landing | engine
  | remoteStore | remoteAmo
  deriving DecidableEq, Repr

/-- A cause with the values its trap entry writes (R408, R409). -/
structure Cause where
  code : Nat
  isAsync : Bool
  tval : Word
  agent : Gid
  skid : Nat
  wp : Nat
  access : Access
  level : Nat
  reason : Nat
  deriving DecidableEq, Repr

/-- The answer to a request, as it is written at the context (R207): registers, flags to OR in, a cause in place
of the registers, and whether the answer refreshes the L1 (R367). -/
structure Answer where
  regs : List (Reg × Word)
  flags : BitVec 5
  trap : Option Cause
  refresh : Bool
  deriving DecidableEq, Repr

/-- A request that waits for its answer (R207). -/
inductive Request where
  /-- EVDEF: the 80 bytes of the descriptor and its address (R210). -/
  | evdef (rd : Reg) (desc : List Byte) (addr : Word)
  /-- EVDEL (R212). -/
  | evdel (rd : Reg) (name : Nat)
  /-- EVSTAT, with the physical parts its record is stored to (R213). -/
  | evstat (rd : Reg) (name : Nat) (addr : Word)
  /-- DONE, after the store acknowledgements (R227). -/
  | done (handle count : Word)
  /-- POOLCFG (R230). -/
  | poolcfg (rd : Reg) (pool : Nat) (cfg : Word)
  /-- POOLPUT with the 48 bytes of its descriptor (R229). -/
  | poolput (rd : Reg) (pool : Nat) (desc : List Byte) (addr : Word)
  /-- FIFOBIND (R232). -/
  | fifobind (bank : Nat) (name ready : Word)
  /-- FIFOBIND at the home of N, and then at that of D: the bank's agent, the bank, the two entries, D's where there is one, and N's SIZE once
  it is known (R232). -/
  | fifoname (agent : Gid) (bank : Nat) (name : EvKey) (ready : Option EvKey) (size : Option Nat)
  /-- FIFOBIND back at its bank, which is bound. -/
  | fifobound (bank name size ready : Nat)
  /-- LAYREG with its record and access kinds (R326). -/
  | layreg (rd : Reg) (rec : List Byte) (kinds : Nat)
  /-- LAYREL (R327). -/
  | layrel (rd : Reg) (handle : Word)
  /-- CSTAT, with ABORT (R339). -/
  | cstat (rd : Reg) (name : Nat) (abort : Bool)
  /-- PSTAT (R359). -/
  | pstat (rd : Reg) (handle : Word) (addr : Word)
  /-- RESCLS (R360). -/
  | rescls (rd : Reg) (handle : Word) (cls : Nat)
  /-- The answer of Welt or Cantle, formed when the operation was handled. -/
  | answer (a : Answer)
  /-- From a bank of another device: the answer to a watchpoint's registration there, and a match of it at byte `i` of its range, with BASE and
  the control register as they were registered (R422, R424). -/
  | watched (wp : Nat) (ok : Bool)
  | matched (wp : Nat) (base ctl : Word) (i : Nat) (who : Gid) (acc : Access)
  /-- A participant's poll of an event that its home has spilled, from another device (R186, R187, R451). -/
  | poll (ev : EvKey)
  deriving DecidableEq, Repr

/-- An operation that a tree instruction sends to its Cantle (R366). -/
inductive TreeOp where
  /-- TCFG.NEW with the 64 bytes of the descriptor (R380). -/
  | cfgNew (rd : Reg) (rec : List Byte) (addr : Word)
  /-- TCFG.GROW with its 16 bytes (R380). -/
  | cfgGrow (rd : Reg) (rec : List Byte) (addr : Word)
  | cfgDel (rd : Reg)
  | root (rd : Reg) (action : Half)
  | desc (rd : Reg)
  /-- TEXP with the k entries of 8 bytes (R384). -/
  | expand (rd : Reg) (node : Nat) (entries : List (Half × Half))
  | terminal (rd : Reg) (node : Nat)
  | back (rd : Reg) (leaf : Nat) (v : Half) (vlo : Bool)
  | batch (rd : Reg)
  | reuse (rd : Reg) (child : Nat)
  | readStats (rd : Reg) (node : Nat)
  | readLinks (rd : Reg) (node : Nat)
  | readTree (rd : Reg)
  deriving DecidableEq, Repr

/-- An AMO on its way to its point of coherence (R308, R315). -/
structure AmoReq where
  rt : Reg
  pa : Addr
  key : Nat
  n : Nat
  op : Nat
  v : Nat
  c : Nat
  deriving DecidableEq, Repr

/-- A UPD operand at one element: raw bits of the combination so far, or for FADD the exact sum as a fraction
`num / 2^den`, with the special values met (R309). -/
structure UpdElem where
  addr : Addr
  bits : Nat
  num : Int
  den : Nat
  nan : Bool
  posInf : Bool
  negInf : Bool
  deriving DecidableEq, Repr

/-- A UPD partial of one sector on its way to the home (R309). -/
structure UpdMsg where
  core : Nat
  sector : Nat
  key : Nat
  op : Nat
  n : Nat
  elems : List UpdElem
  deriving DecidableEq, Repr

/-- What a window access does at its target (R288). -/
inductive WinOp where
  | load | store (data : List Byte) | amo (r : AmoReq) | upd (op n v : Nat) | zero
  /-- The sectors of the bytes become poisoned: those of a poisoned store (R260, R329). -/
  | stain
  /-- An engine's write of bytes of one aligned 16-byte part, by their places in it (R441). -/
  | part (bs : List (Nat × Byte))
  /-- A watchpoint registers the 16 bytes here, with its BASE and control register; or its registration goes (R422, R425). -/
  | watch (wp : Nat) (base ctl : Word)
  | unwatch (wp : Nat)
  deriving DecidableEq, Repr

/-- An access through the global scratchpad window (R288, R455), with the device, core and context it comes from. -/
structure WinAcc where
  dev : Nat
  core : Nat
  ctx : Nat
  pa : Addr
  len : Nat
  op : WinOp
  deriving DecidableEq, Repr

/-- A host access to the device memory aperture, or to the register aperture (R463). -/
structure HostAcc where
  regs : Bool
  off : Addr
  len : Nat
  data : Option (List Byte)
  deriving DecidableEq, Repr

/-- How a host-window load ended (R459). -/
inductive HostStatus where
  | ok (data : List Byte) | poisoned | unsupported | aborted | timeout
  /-- A COPY's reads that an error ends: the bytes before it, and the error as R464 counts it, 0 to 3. -/
  | cut (data : List Byte) (why : Nat)
  deriving DecidableEq, Repr

/-- Where one delivery of an occurrence goes: the taker and its arm number, the giver, the offset and length in the
given bytes and the offset in the taken ones (R173). -/
structure Delivery where
  taker : LatchId
  arm : Nat
  giver : LatchId
  src : Nat
  len : Nat
  dst : Nat
  deriving DecidableEq, Repr

/-- What a commit tells a latch: the deliveries its participant gives, and whether it takes the occurrence's only delivery, whose landing
is the last (R176, R178). -/
structure CommitMsg where
  gives : List Delivery
  sole : Bool
  /-- The occurrence has no delivery at all: it ends when every latch has committed (R181). -/
  void : Bool
  /-- BCAST or GATHER: bytes that go to several takers on another device are sent there once (R451). -/
  copied : Bool
  deriving DecidableEq, Repr

/-- Who made a configuration request: the address of its 64-byte record, the key it lies under, the ring's owner
(0 Isastan, p + 1 partition p, 33 the trace service) (R474). -/
structure CfgRef where
  owner : Nat
  addr : Addr
  key : Nat
  deriving DecidableEq, Repr

/-- The contents of a create request (R473, R475, R476). -/
structure PartSpec where
  part : Nat
  clusters : List Nat
  classes : List Nat
  key : Nat
  queues : List Nat
  hostRanges : List (Nat × Nat)
  regions : List (Nat × Word × Word)
  spill : Nat × Nat
  save : Nat × Nat
  ring : Nat
  bell : Nat
  entry : Word
  set : Option (Nat × Nat × Nat)
  /-- The cores of the set's members on other devices, as global IDs with CTX 0 (R167). -/
  peers : List Gid
  deriving DecidableEq, Repr

/-- The contents of an assign request (R475 code 4). -/
structure AssignSpec where
  part : Nat
  classes : List Nat
  quotas : List (Nat × Nat)
  queues : List (Nat × Nat × Nat)
  hostRanges : List (Nat × Nat)
  deriving DecidableEq, Repr

/-- The contents of a trace and replay request (R475 code 5): a staging ring, where it has slots; the partition and the replay
mode (0 OFF, 1 RECORD, 2 REPLAY) of its next launch, with the number of the recorded workgroup that it replays. -/
structure TraceSpec where
  cluster : Nat
  stream : Nat
  base : Nat
  slots : Nat
  wg : Option (Nat × Nat × Nat)
  deriving DecidableEq, Repr

/-- A descriptor request of PBIND with its 32 bytes (R342, R356). -/
structure BindReq where
  core : Nat
  ctx : Nat
  rd : Reg
  desc : List Byte
  addr : Word
  deriving DecidableEq, Repr

/-- What a REGISTER_WRITE writes: a register without a behaviour of its own (R24, R465, R412). -/
inductive PlainReg where
  /-- A queue register of the host aperture: queue and offset (R465). -/
  | queue (q off : Nat)
  /-- DBGCTL's plain fields, DBGSEL, TRCTL or COUNTn of a core: the offset in the debug block (R412). -/
  | debug (core off : Nat)
  /-- Any other offset of the host register aperture (R464). -/
  | host (off : Nat)
  deriving DecidableEq, Repr

end Sys2Proof
end

