-- ==== Sys2Proof/Syntax.lean ====
section
/-!
DEFINITION. The instructions of Varvon (03_encoding_and_assembly.md, R72-R77) and the machine's own events,
one constructor per row of spec/opcode_table.json, in its order but that the messages which the model sends
come before the other events. A program instruction carries the fields of its
words; a machine event carries what it is about. The docstring names the rule of the row.
-/

namespace Sys2Proof

/-- One step of the machine: a program instruction, or an event that has no encoding. -/
inductive Instr where
  /-- ADD: R100. -/
  | add (rd rs1 rs2 : Reg)
  /-- SUB: R100. -/
  | sub (rd rs1 rs2 : Reg)
  /-- AND: R100. -/
  | and (rd rs1 rs2 : Reg)
  /-- OR: R100. -/
  | or (rd rs1 rs2 : Reg)
  /-- XOR: R100. -/
  | xor (rd rs1 rs2 : Reg)
  /-- ANDN: R100. -/
  | andn (rd rs1 rs2 : Reg)
  /-- SHL: R100. -/
  | shl (rd rs1 rs2 : Reg)
  /-- SHR: R100. -/
  | shr (rd rs1 rs2 : Reg)
  /-- SAR: R100. -/
  | sar (rd rs1 rs2 : Reg)
  /-- ROT: R100. -/
  | rot (rd rs1 rs2 : Reg)
  /-- MIN: R100. -/
  | min (rd rs1 rs2 : Reg)
  /-- MAX: R100. -/
  | max (rd rs1 rs2 : Reg)
  /-- MINU: R100. -/
  | minu (rd rs1 rs2 : Reg)
  /-- MAXU: R100. -/
  | maxu (rd rs1 rs2 : Reg)
  /-- MUL: R101. -/
  | mul (rd rs1 rs2 : Reg)
  /-- MULH: R101. -/
  | mulh (rd rs1 rs2 : Reg)
  /-- MULHU: R101. -/
  | mulhu (rd rs1 rs2 : Reg)
  /-- DIV: R101. -/
  | div (rd rs1 rs2 : Reg)
  /-- DIVU: R101. -/
  | divu (rd rs1 rs2 : Reg)
  /-- REM: R101. -/
  | rem (rd rs1 rs2 : Reg)
  /-- REMU: R101. -/
  | remu (rd rs1 rs2 : Reg)
  /-- CMP: R102. -/
  | cmp (cond : BitVec 3) (rd rs1 rs2 : Reg)
  /-- SEL: R103. -/
  | sel (rd rc rs1 rs2 : Reg)
  /-- CLZ: R104. -/
  | clz (rd rs1 : Reg)
  /-- CTZ: R104. -/
  | ctz (rd rs1 : Reg)
  /-- POPC: R104. -/
  | popc (rd rs1 : Reg)
  /-- BEXT: R104. -/
  | bext (rd rs1 rs2 : Reg)
  /-- BINS: R104. -/
  | bins (rd rs1 rs2 : Reg)
  /-- MOVI: R105. -/
  | movi (rd : Reg) (imm : BitVec 12)
  /-- MOVI_LITERAL: R105. -/
  | moviLit (rd : Reg) (lit : BitVec 64)
  /-- ADDI: R105. -/
  | addi (rd rs1 : Reg) (imm : BitVec 12)
  /-- ADDI_LITERAL: R105. -/
  | addiLit (rd rs1 : Reg) (lit : BitVec 64)
  /-- ANDI: R105. -/
  | andi (rd rs1 : Reg) (imm : BitVec 12)
  /-- ANDI_LITERAL: R105. -/
  | andiLit (rd rs1 : Reg) (lit : BitVec 64)
  /-- ORI: R105. -/
  | ori (rd rs1 : Reg) (imm : BitVec 12)
  /-- ORI_LITERAL: R105. -/
  | oriLit (rd rs1 : Reg) (lit : BitVec 64)
  /-- XORI: R105. -/
  | xori (rd rs1 : Reg) (imm : BitVec 12)
  /-- XORI_LITERAL: R105. -/
  | xoriLit (rd rs1 : Reg) (lit : BitVec 64)
  /-- SHLI: R105. -/
  | shli (rd rs1 : Reg) (sh : BitVec 6)
  /-- SHRI: R105. -/
  | shri (rd rs1 : Reg) (sh : BitVec 6)
  /-- SARI: R105. -/
  | sari (rd rs1 : Reg) (sh : BitVec 6)
  /-- BR: R107. -/
  | br (cond : BitVec 3) (rs1 : Reg) (off : BitVec 15)
  /-- LOOP: R108. -/
  | loop (rs1 : Reg) (off : BitVec 15)
  /-- JMP: R109. -/
  | jmp (off : BitVec 18)
  /-- JMP_LITERAL: R109. -/
  | jmpLit (lit : BitVec 64)
  /-- CALL: R109. -/
  | call (rd : Reg) (off : BitVec 18)
  /-- CALL_LITERAL: R109. -/
  | callLit (rd : Reg) (lit : BitVec 64)
  /-- JR: R110. -/
  | jr (rd rs1 : Reg)
  /-- RET: R110. -/
  | ret
  /-- LD: R114. -/
  | ld (sz : BitVec 3) (rt rb : Reg) (disp : BitVec 10)
  /-- LD_LITERAL: R114. -/
  | ldLit (sz : BitVec 3) (rt rb : Reg) (lit : BitVec 64)
  /-- ST: R114. -/
  | st (sz : BitVec 3) (rt rb : Reg) (disp : BitVec 10)
  /-- ST_LITERAL: R114. -/
  | stLit (sz : BitVec 3) (rt rb : Reg) (lit : BitVec 64)
  /-- LDP: R114. -/
  | ldp (rt rb : Reg) (disp : BitVec 10)
  /-- LDP_LITERAL: R114. -/
  | ldpLit (rt rb : Reg) (lit : BitVec 64)
  /-- STP: R114. -/
  | stp (rt rb : Reg) (disp : BitVec 10)
  /-- STP_LITERAL: R114. -/
  | stpLit (rt rb : Reg) (lit : BitVec 64)
  /-- PREF: R115. -/
  | pref (hint rb : Reg) (disp : BitVec 10)
  /-- PREF_LITERAL: R115. -/
  | prefLit (hint rb : Reg) (lit : BitVec 64)
  /-- AMO: R315. -/
  | amo (rt rb : Reg) (sz : BitVec 3) (rv aop : Reg)
  /-- UPD: R316. -/
  | upd (rb : Reg) (sz : BitVec 3) (rv aop : Reg)
  /-- FADD: R116. -/
  | fadd (rd rs1 rs2 : Reg) (d : BitVec 1) (rm : BitVec 3)
  /-- FSUB: R116. -/
  | fsub (rd rs1 rs2 : Reg) (d : BitVec 1) (rm : BitVec 3)
  /-- FMUL: R116. -/
  | fmul (rd rs1 rs2 : Reg) (d : BitVec 1) (rm : BitVec 3)
  /-- FDIV: R116. -/
  | fdiv (rd rs1 rs2 : Reg) (d : BitVec 1) (rm : BitVec 3)
  /-- FSQRT: R116. -/
  | fsqrt (rd rs1 : Reg) (d : BitVec 1) (rm : BitVec 3)
  /-- FMIN: R116. -/
  | fmin (rd rs1 rs2 : Reg) (d : BitVec 1)
  /-- FMAX: R116. -/
  | fmax (rd rs1 rs2 : Reg) (d : BitVec 1)
  /-- FMINM: R116. -/
  | fminm (rd rs1 rs2 : Reg) (d : BitVec 1)
  /-- FMAXM: R116. -/
  | fmaxm (rd rs1 rs2 : Reg) (d : BitVec 1)
  /-- FMA: R117. -/
  | fma (rd rs1 rs2 rs3 : Reg) (d : BitVec 1)
  /-- FCMP: R118. -/
  | fcmp (d : BitVec 1) (cond : BitVec 3) (rd rs1 rs2 : Reg)
  /-- FCVT: R119. -/
  | fcvt (rd rs1 : Reg) (tk fk rm : BitVec 3)
  /-- FCLASS: R120. -/
  | fclass (rd rs1 : Reg) (d : BitVec 1)
  /-- CSRR: R121. -/
  | csrr (rd : Reg) (csr : BitVec 12)
  /-- CSRW: R121. -/
  | csrw (rd : Reg) (csr : BitVec 12) (rs1 : Reg)
  /-- CSRS: R121. -/
  | csrs (rd : Reg) (csr : BitVec 12) (rs1 : Reg)
  /-- CSRC: R121. -/
  | csrc (rd : Reg) (csr : BitVec 12) (rs1 : Reg)
  /-- MBW: R123. -/
  | mbw (n : BitVec 3) (rs1 : Reg)
  /-- MBR: R123. -/
  | mbr (rd : Reg) (n : BitVec 3)
  /-- MBQ: R123. -/
  | mbq (rd : Reg) (n : BitVec 3)
  /-- NOP: R125. -/
  | nop
  /-- ERET: R126. -/
  | eret
  /-- BRK: R127. -/
  | brk
  /-- HALT: R129. -/
  | halt
  /-- RAND: R130. -/
  | rand (rd : Reg)
  /-- TRAP: R128. -/
  | trap (code : BitVec 12)
  /-- VLDA: R140. -/
  | vlda (d : BitVec 4) (a rm : BitVec 3) (sat : BitVec 1)
  /-- VSTA: R141. -/
  | vsta (s : BitVec 4) (a rm : BitVec 3) (sat : BitVec 1)
  /-- VADD: R142. -/
  | vadd (d s : BitVec 4) (b rm : BitVec 3) (sat : BitVec 1)
  /-- VSUB: R142. -/
  | vsub (d s : BitVec 4) (b rm : BitVec 3) (sat : BitVec 1)
  /-- VMUL: R142. -/
  | vmul (d s : BitVec 4) (b rm : BitVec 3) (sat : BitVec 1)
  /-- VFMA: R142. -/
  | vfma (d s : BitVec 4) (a b rm : BitVec 3) (sat : BitVec 1)
  /-- VFMS: R142. -/
  | vfms (d s : BitVec 4) (a b rm : BitVec 3) (sat : BitVec 1)
  /-- VMAX: R142. -/
  | vmax (d s : BitVec 4) (b : BitVec 3)
  /-- VMIN: R142. -/
  | vmin (d s : BitVec 4) (b : BitVec 3)
  /-- VABS: R142. -/
  | vabs (d s : BitVec 4)
  /-- VNEG: R142. -/
  | vneg (d s : BitVec 4)
  /-- VCLAMP: R142. -/
  | vclamp (d s : BitVec 4) (a b : BitVec 3)
  /-- VSCALE: R142. -/
  | vscale (d s : BitVec 4) (b rm : BitVec 3) (sat : BitVec 1)
  /-- VDOT: R143. -/
  | vdot (d s : BitVec 4) (a b rm : BitVec 3) (sat : BitVec 1)
  /-- VAND: R144. -/
  | vand (d s : BitVec 4) (b : BitVec 3)
  /-- VOR: R144. -/
  | vor (d s : BitVec 4) (b : BitVec 3)
  /-- VXOR: R144. -/
  | vxor (d s : BitVec 4) (b : BitVec 3)
  /-- VSHL: R144. -/
  | vshl (d s : BitVec 4) (b : BitVec 3)
  /-- VSHR: R144. -/
  | vshr (d s : BitVec 4) (b : BitVec 3) (arith : BitVec 1)
  /-- VSEL: R146. -/
  | vsel (d s : BitVec 4) (b n : BitVec 3) (peek : BitVec 1)
  /-- VCMP: R145. -/
  | vcmp (n : BitVec 3) (s : BitVec 4) (b cond : BitVec 3)
  /-- VPERM: R147. -/
  | vperm (d s : BitVec 4) (b : BitVec 3)
  /-- VSHUF: R147. -/
  | vshuf (d s : BitVec 4) (pat : BitVec 3)
  /-- VIOTA: R148. -/
  | viota (d : BitVec 4)
  /-- VRED: R149. -/
  | vred (n : BitVec 3) (s : BitVec 4) (op : BitVec 3)
  /-- VBCAST: R150. -/
  | vbcast (d : BitVec 4) (n : BitVec 3) (peek : BitVec 1)
  /-- VCVT: R151. -/
  | vcvt (s : BitVec 4) (b rm : BitVec 3) (sat : BitVec 1)
  /-- VCVT_AUTO: R58, R151. -/
  | vcvtAuto (s : BitVec 4) (b rm : BitVec 3) (sat : BitVec 1)
  /-- VEXP2: R152. -/
  | vexp2 (d s : BitVec 4)
  /-- VLOG2: R152. -/
  | vlog2 (d s : BitVec 4)
  /-- VRCP: R152. -/
  | vrcp (d s : BitVec 4)
  /-- VRSQ: R152. -/
  | vrsq (d s : BitVec 4)
  /-- VTANH: R152. -/
  | vtanh (d s : BitVec 4)
  /-- VSIG: R152. -/
  | vsig (d s : BitVec 4)
  /-- PSET: R153. -/
  | pset (n rs1 : Reg)
  /-- PADD: R153. -/
  | padd (n rs1 : Reg)
  /-- PGET: R153. -/
  | pget (rd n : Reg)
  /-- FSET: R153. -/
  | fset (n rs1 : Reg)
  /-- FGET: R153. -/
  | fget (rd n : Reg)
  /-- ACCCFG: R154. -/
  | acccfg (rs1 : Reg)
  /-- ACCCFG_KEEP: R154. -/
  | acccfgKeep (rs1 : Reg)
  /-- ACCSW: R155. -/
  | accsw
  /-- REP: R156. -/
  | rep (cnt : BitVec 12) (ni rowstep : BitVec 4) (ptrstep : BitVec 3)
  /-- EVDEF: R210. -/
  | evdef (rd rs1 : Reg)
  /-- EVDEL: R212. -/
  | evdel (rd rs1 : Reg)
  /-- EVSTAT: R213. -/
  | evstat (rd rs1 rs2 : Reg)
  /-- OFFER_SYNC: R215. -/
  | offerSync (rn : Reg)
  /-- OFFER_GIVE: R215. -/
  | offerGive (rn rg : Reg)
  /-- OFFER_TAKE: R215. -/
  | offerTake (rt rn : Reg)
  /-- OFFER_BOTH: R215. -/
  | offerBoth (rt rn rg : Reg)
  /-- WDRAW: R217. -/
  | wdraw (slot : BitVec 3)
  /-- WDRAW_ALL: R217. -/
  | wdrawAll
  /-- SELECT_NB: R218. -/
  | selectNb (rd : Reg)
  /-- SELECT_T: R218. -/
  | selectT (rd : Reg)
  /-- SELECT_NB_LIMIT: R218. -/
  | selectNbLimit (rd : Reg) (lit : BitVec 64)
  /-- SELECT_T_LIMIT: R218. -/
  | selectTLimit (rd : Reg) (lit : BitVec 64)
  /-- PHASE: R220. -/
  | phase (rd : Reg)
  /-- GANG: R221. -/
  | gang
  /-- SPAWN: R222. -/
  | spawn (rd rs1 rs2 : Reg)
  /-- HEND: R223. -/
  | hend
  /-- TAKE: R224. -/
  | take (rs1 rs2 : Reg)
  /-- DONE: R227. -/
  | done (rs1 rs2 : Reg)
  /-- POOLCFG: R230. -/
  | poolcfg (rd rs1 rs2 : Reg)
  /-- POOLPUT: R229. -/
  | poolput (rd rs1 rs2 : Reg)
  /-- DOMSET: R231. -/
  | domset (rs1 : Reg)
  /-- FIFOBIND: R232. -/
  | fifobind (rs3 rs1 rs2 : Reg)
  /-- MLDB: R253. -/
  | mldb (rs1 rs2 : Reg) (ft : BitVec 4) (bank : BitVec 3) (row0 : BitVec 10) (sc : BitVec 1) (nrm1 : BitVec 10)
  /-- MMUL: R255. -/
  | mmul (d nrm1 : BitVec 4) (pa pm1 : BitVec 3) (z : BitVec 1) (km1 : BitVec 8)
  /-- MCFG: R256. -/
  | mcfg (rs1 : Reg)
  /-- MSTAT: R257. -/
  | mstat (rd : Reg) (sel : BitVec 32)
  /-- MSPILL: R260. -/
  | mspill (rs1 : Reg) (mask : BitVec 8)
  /-- MFILL: R260. -/
  | mfill (rs1 : Reg) (mask : BitVec 8)
  /-- FENCE_L: R318. -/
  | fenceL
  /-- CFLUSH: R319. -/
  | cflush (depth rs1 : Reg)
  /-- CINV: R319. -/
  | cinv (depth rs1 : Reg)
  /-- CINV_I: R320. -/
  | cinvI (rs1 : Reg)
  /-- CZERO: R321. -/
  | czero (rs1 : Reg)
  /-- BANKROLE: R322. -/
  | bankrole (rd rs1 rs2 : Reg)
  /-- TLBI_ALL: R323. -/
  | tlbiAll (part : BitVec 1)
  /-- TLBI_ASID: R323. -/
  | tlbiAsid (part : BitVec 1) (rs2 : Reg)
  /-- TLBI_PAGE: R323. -/
  | tlbiPage (part : BitVec 1) (rs1 rs2 : Reg)
  /-- TLBI_VA: R323. -/
  | tlbiVa (part : BitVec 1) (rs1 : Reg)
  /-- WPSET: R324. -/
  | wpset (n : BitVec 2) (rs1 rs2 : Reg)
  /-- FIFOADV: R325. -/
  | fifoadv (rd rs1 rs2 : Reg)
  /-- LAYREG: R326. -/
  | layreg (acc : BitVec 2) (rd rs1 : Reg)
  /-- LAYREG_LITERAL: R326. -/
  | layregLit (acc : BitVec 2) (rd : Reg) (lit : BitVec 64)
  /-- LAYREL: R327. -/
  | layrel (rd rs1 : Reg)
  /-- COPY: R338. -/
  | copy (rm : BitVec 3) (sat : BitVec 1) (rd rs1 rs2 rs3 : Reg)
  /-- COPY_FIRST: R338. -/
  | copyFirst (rm : BitVec 3) (sat : BitVec 1) (rd rs1 rs2 rs3 : Reg) (lit : BitVec 64)
  /-- CSTAT: R339. -/
  | cstat (rd rs1 : Reg)
  /-- CSTAT_ABORT: R339. -/
  | cstatAbort (rd rs1 : Reg)
  /-- PBIND: R356. -/
  | pbind (rd rs1 : Reg)
  /-- PUNBIND: R357. -/
  | punbind (rd rs1 : Reg)
  /-- PSTAT: R359. -/
  | pstat (rd rs1 rs2 : Reg)
  /-- PERMIT: R358. -/
  | permit (rt rs1 rs2 : Reg)
  /-- RESCLS: R360. -/
  | rescls (cls : BitVec 2) (rd rs1 : Reg)
  /-- TCFG_NEW: R380. -/
  | tcfgNew (rd rs1 rs2 : Reg)
  /-- TCFG_NEW_LITERAL: R380. -/
  | tcfgNewLit (rd rs2 : Reg) (lit : BitVec 64)
  /-- TCFG_GROW: R380. -/
  | tcfgGrow (rd rs1 rs2 : Reg)
  /-- TCFG_GROW_LITERAL: R380. -/
  | tcfgGrowLit (rd rs2 : Reg) (lit : BitVec 64)
  /-- TCFG_DEL: R380. -/
  | tcfgDel (rd rs2 : Reg)
  /-- TROOT: R381. -/
  | troot (rd rs1 rs2 : Reg)
  /-- TDESC: R382. -/
  | tdesc (rd rs1 : Reg)
  /-- TEXP: R384. -/
  | texp (rd rs1 rs2 rs3 : Reg) (k : BitVec 9)
  /-- TEXP_TERM: R384. -/
  | texpTerm (rd rs1 rs2 : Reg)
  /-- TBACK: R385. -/
  | tback (rd rs1 rs2 rs3 : Reg)
  /-- TBACK_VLO: R385. -/
  | tbackVlo (rd rs1 rs2 : Reg)
  /-- TBATCH: R383. -/
  | tbatch (rd rs1 : Reg)
  /-- TREUSE: R383. -/
  | treuse (rd rs1 rs2 : Reg)
  /-- TREAD_STATS: R386. -/
  | treadStats (rd rs1 rs2 : Reg)
  /-- TREAD_LINKS: R386. -/
  | treadLinks (rd rs1 rs2 : Reg)
  /-- TREAD_TREE: R386. -/
  | treadTree (rd rs1 : Reg)
  /-- LOAD_DATA_RETURN: R96. Here and where else an answer is owed, `ctx` is the context with 16 times its workgroup (`State.asker`). -/
  | loadDataReturn (core ctx : Nat) (data : List Byte)
  /-- MAILBOX_DEPOSIT: R35, R176: the occurrence and taker whose payload it is. -/
  | mailboxDeposit (core mb : Nat) (v : Word) (ev : EvKey) (l : LatchId) (arm : Nat)
  /-- REQUEST_ANSWER: R207. -/
  | requestAnswer (core ctx : Nat) (r : Request)
  /-- HOME_OFFER_ARRIVES: R181: the offers of one arming to one home, which arrive one after another. -/
  | homeOfferArrives (home : Nat) (offers : List OfferMsg)
  /-- HOME_GRANT: R181. -/
  | homeGrant (ev : EvKey) (l : LatchId) (arm : Nat)
  /-- HOME_REFUSAL: R181. -/
  | homeRefusal (ev : EvKey) (l : LatchId) (arm : Nat)
  /-- HOME_WOUND_REQUEST: R181. -/
  | homeWoundRequest (ev : EvKey) (l : LatchId) (arm : Nat)
  /-- HOME_WITHDRAWAL: R181: whether it comes from a commit. -/
  | homeWithdrawal (ev : EvKey) (l : LatchId) (arm : Nat) (commit : Bool)
  /-- HOME_DELIVERY_CONFIRMED: R181. -/
  | homeDeliveryConfirmed (ev : EvKey) (l : LatchId) (arm : Nat)
  /-- LATCH_ENABLE_NOTICE: R178. -/
  | latchEnableNotice (l : LatchId) (ev : EvKey) (arm : Nat) (st : Stamp)
  /-- LATCH_CANCEL: R178. -/
  | latchCancel (l : LatchId) (ev : EvKey) (arm : Nat)
  /-- LATCH_CLAIM: R178. -/
  | latchClaim (l : LatchId) (ev : EvKey) (arm : Nat) (st : Stamp)
  /-- LATCH_RELEASE: R178. -/
  | latchRelease (l : LatchId) (ev : EvKey) (arm : Nat)
  /-- LATCH_COMMIT: R178: the deliveries this participant gives. -/
  | latchCommit (l : LatchId) (ev : EvKey) (arm : Nat) (told : CommitMsg)
  /-- LATCH_REFUSAL: R209. -/
  | latchRefusal (l : LatchId) (ev : EvKey) (arm why : Nat)
  /-- LATCH_LAST_PAYLOAD_DELIVERED: R178. -/
  | latchLastPayloadDelivered (l : LatchId) (ev : EvKey) (arm : Nat)
  /-- PAYLOAD_LANDING: R176. -/
  | payloadLanding (ev : EvKey) (l : LatchId) (arm dst : Nat) (data : List Byte) (giver : Gid)
  /-- STORE_ACK: R191. -/
  | storeAck (core ctx : Nat)
  /-- L1_SECTOR_FILL: R276. -/
  | l1SectorFill (core sector key : Nat)
  /-- LLC_FILL: R282. -/
  | llcFill (line key cls rcls : Nat)
  /-- AMO_AT_HOME: R308. -/
  | amoAtHome (core ctx : Nat) (r : AmoReq)
  /-- UPD_PARTIAL_COMBINE: R309. -/
  | updPartialCombine (m : UpdMsg)
  /-- PAGE_WALK: R291. -/
  | pageWalk (core ctx : Nat) (va : Addr) (access : Access)
  /-- WINDOW_ACCESS_AT_TARGET: R288. -/
  | windowAccessAtTarget (w : WinAcc)
  /-- HOST_WINDOW_COMPLETION: R459. -/
  | hostWindowCompletion (core ctx : Nat) (st : HostStatus)
  /-- INSTRUCTION_FETCH_FILL: R42. -/
  | instructionFetchFill (core ctx : Nat) (pa : Addr)
  /-- WELT_BIND: R349. -/
  | weltBind (b : BindReq)
  /-- WELT_UNBIND: R352. -/
  | weltUnbind (core ctx : Nat) (rd : Reg) (handle : Word)
  /-- CANTLE_OPERATION: R366. -/
  | cantleOperation (core ctx cluster tree : Nat) (op : TreeOp)
  /-- HOST_LOAD_TIMEOUT: R459. -/
  | hostLoadTimeout (core ctx : Nat)
  /-- PREEMPTION_REQUEST: R401. -/
  | preemptionRequest (part wg : Nat)
  /-- PACKAGE_RESET: R485, R483: the result of bring-up (BOOTERR, 0 for none) and the device ID of the system configuration. -/
  | packageReset (err dev : Nat)
  /-- RAND_ENTROPY_READY: R130. -/
  | randEntropyReady (core ctx : Nat)
  /-- MBW_COMPLETE: R35. -/
  | mbwComplete (core ctx : Nat)
  /-- MBR_COMPLETE: R35. -/
  | mbrComplete (core ctx : Nat)
  /-- HALT_COMPLETE: R129. -/
  | haltComplete (core : Nat)
  /-- ASYNC_TRAP_ENTRY: R18. -/
  | asyncTrapEntry (core ctx : Nat)
  /-- UNCORRECTABLE: R410. -/
  | uncorrectable (core ctx : Nat) (agent : Gid) (access : Access) (reason : Nat) (addr : Word)
  /-- WIDE_EXECUTE: R131. -/
  | wideExecute (core : Nat)
  /-- REP_PASS: R158. -/
  | repPass (core : Nat)
  /-- MMUL_JOIN: R244: the gang, 0-95. -/
  | mmulJoin (g : Nat)
  /-- MMUL_ROW_BROADCAST: R245. -/
  | mmulRowBroadcast (g : Nat)
  /-- HOME_RETRY_TIME: R181. -/
  | homeRetryTime (ev : EvKey)
  /-- LATCH_LIMIT_EXPIRY: R178. -/
  | latchLimitExpiry (l : LatchId)
  /-- LATCH_STOP: R184. -/
  | latchStop (l : LatchId)
  /-- LATCH_RESUME: R178. -/
  | latchResume (l : LatchId)
  /-- SPILL_POLL: R187. -/
  | spillPoll (l : LatchId)
  /-- STANDING_AGENT_OFFER: R188. -/
  | standingAgentOffer (l : LatchId)
  /-- PROBE_ROUTER_VISIT: R192. -/
  | probeRouterVisit (probe : Nat)
  /-- RELEASE_COMPLETE: R305. -/
  | releaseComplete (core ctx : Nat)
  /-- BANK_ROLE_CHANGE_COMPLETE: R271. -/
  | bankRoleChangeComplete (core : Nat)
  /-- COPY_COMMAND_RUN: R336. -/
  | copyCommandRun (cluster : Nat)
  /-- COPY_COMPLETION_OFFER: R334. -/
  | copyCompletionOffer (cluster : Nat)
  /-- PIPELINE_STAGE_PRODUCE: R350. -/
  | pipelineStageProduce (die entry : Nat)
  /-- PERMIT_AGENT_OFFER: R344. -/
  | permitAgentOffer (die sub : Nat)
  /-- BATCH_OFFER: R372. -/
  | batchOffer (cluster tree : Nat)
  /-- RECLAMATION_FREE: R377. -/
  | reclamationFree (cluster tree node : Nat)
  /-- LAUNCH_PACKET: R394: the queue and the 256 bytes of the packet read from the ring. -/
  | launchPacket (q : Nat) (pkt : List Byte)
  /-- POOL_PACKET: R470. -/
  | poolPacket (q : Nat) (pkt : List Byte)
  /-- WAIT_PACKET: R471. -/
  | waitPacket (q : Nat) (pkt : List Byte)
  /-- SIGNAL_PACKET: R471. -/
  | signalPacket (q : Nat) (pkt : List Byte)
  /-- COPY_PACKET: R470: the host bytes of a host-to-device copy, or how its host access ended. -/
  | copyPacket (q : Nat) (pkt : List Byte) (src : HostStatus)
  /-- BIND_PACKET: R470. -/
  | bindPacket (q : Nat) (pkt : List Byte)
  /-- BIND_RELEASE_PACKET: R470. -/
  | bindReleasePacket (q : Nat) (pkt : List Byte)
  /-- COMPLETION_RECORD_WRITE: R469. -/
  | completionRecordWrite (q : Nat)
  /-- HOST_APERTURE_ACCESS: R463. -/
  | hostApertureAccess (a : HostAcc)
  /-- PLACEMENT: R397: the queue whose head launch is the candidate. -/
  | placement (q : Nat)
  /-- GANG_DRAIN: R398. -/
  | gangDrain (q : Nat)
  /-- GANG_COMPACTION: R398. -/
  | gangCompaction (q : Nat)
  /-- CORE_HALTED: R401. -/
  | coreHalted (core : Nat)
  /-- CONTEXT_SWITCH: R404: the outgoing and the incoming workgroup, each with its partition. -/
  | contextSwitch (part wg inPart inWg : Nat)
  /-- CORE_RESTORE: R405. -/
  | coreRestore (core : Nat)
  /-- RESIDENT_PAIR_SWAP: R406: the running workgroup of the pair. -/
  | residentPairSwap (part wg : Nat)
  /-- REPLACEMENT: R400: the placement map, old core to new core. -/
  | replacement (part wg : Nat) (cores : List (Nat × Nat))
  /-- CREATE_PARTITION: R475. -/
  | createPartition (ref : CfgRef) (p : PartSpec)
  /-- DESTROY_PARTITION: R477. -/
  | destroyPartition (ref : CfgRef) (part : Nat)
  /-- WRITE_REGION_REGISTER: R475. -/
  | writeRegionRegister (ref : CfgRef) (cluster n : Nat) (w0 w1 : Word)
  /-- ASSIGN_RESOURCES: R475. -/
  | assignResources (ref : CfgRef) (a : AssignSpec)
  /-- SETUP_TRACE_REPLAY: R475. -/
  | setupTraceReplay (ref : CfgRef) (t : TraceSpec)
  /-- WRITE_ROUTING_TABLE: R446. -/
  | writeRoutingTable (ref : CfgRef) (die dest : Nat) (ports : List Nat)
  /-- PREEMPT_WORKGROUP_REQUEST: R475. -/
  | preemptWorkgroupRequest (ref : CfgRef) (part wg : Nat)
  /-- DEBUG_BLOCK_REQUEST: R475. -/
  | debugBlockRequest (ref : CfgRef) (core off : Nat) (wr : Option Word)
  /-- FLUSH_TRACE_REQUEST: R431. -/
  | flushTraceRequest (ref : CfgRef) (cluster : Nat)
  /-- DBG_HALTREQ: R415. -/
  | dbgHaltreq (core : Nat)
  /-- DBG_RESUME: R415. -/
  | dbgResume (core : Nat)
  /-- DBG_STEP: R417. -/
  | dbgStep (core : Nat)
  /-- STOP_COMPLETE: R415. -/
  | stopComplete (core : Nat)
  /-- STEP_COMPLETE: R417. -/
  | stepComplete (core : Nat)
  /-- DBGDATA_READ: R418. -/
  | dbgdataRead (core : Nat)
  /-- DBGDATA_WRITE: R418. -/
  | dbgdataWrite (core : Nat) (v : Word)
  /-- DBGSTAT_READ: R414. -/
  | dbgstatRead (core : Nat)
  /-- REGISTER_WRITE: R24. -/
  | registerWrite (r : PlainReg) (v : Word)
  /-- TRACE_SAMPLE: R427. -/
  | traceSample (core : Nat)
  /-- TRACE_COUNT_RECORD: R427. -/
  | traceCountRecord (core : Nat)
  /-- SEGMENT_SEAL: R431. -/
  | segmentSeal (cluster stream : Nat)
  /-- SEGMENT_WRITE_ACK: R431. -/
  | segmentWriteAck (cluster stream : Nat)
  /-- POWER_GATE: R433. -/
  | powerGate (cluster : Nat)
  /-- REPLAY_LOG_END: R439. -/
  | replayLogEnd (part wg : Nat)
  /-- TIMEBASE_ALIGNMENT: R453: whether the local timebase is ahead of the reference. -/
  | timebaseAlignment (ahead : Bool)
  /-- LANE_FAILURE: R444: how many lanes still work. -/
  | laneFailure (port working : Nat)
  /-- PORT_RETRAIN_COMPLETE: R444. -/
  | portRetrainComplete (port lanes : Nat)
  /-- PORT_DOWN: R447. -/
  | portDown (port : Nat)
  /-- FLIT_CRC_RETRY: R445. -/
  | flitCrcRetry (port : Nat)
  /-- PLDM_PASS_COMPONENT_TABLE: R479. -/
  | pldmPassComponentTable (comps : List Nat)
  /-- PLDM_UPDATE_COMPONENT: R479. -/
  | pldmUpdateComponent (comp size version : Nat)
  /-- PLDM_REQUEST_FIRMWARE_DATA: R479. -/
  | pldmRequestFirmwareData (data : List Byte)
  /-- PLDM_TRANSFER_COMPLETE: R479. -/
  | pldmTransferComplete (ok : Bool)
  /-- PLDM_VERIFY_COMPLETE: R480. -/
  | pldmVerifyComplete
  /-- PLDM_APPLY_COMPLETE: R479. -/
  | pldmApplyComplete
  /-- PLDM_ACTIVATE_FIRMWARE: R481. -/
  | pldmActivateFirmware
  /-- COMMIT_WINDOW_END: R482. -/
  | commitWindowEnd
  /-- SPDM_REQUEST: R482: the measurement index asked for. -/
  | spdmRequest (index : Nat)
  /-- POWER_LIMIT_SET: R484. -/
  | powerLimitSet (watts : Nat)
  /-- PLDM_PLATFORM_READ: R484. -/
  | pldmPlatformRead (sensor : Nat)
  /-- QTAIL_DOORBELL_WRITE: R465. -/
  | qtailDoorbellWrite (q : Nat) (v : Half)
  /-- POSTED_WRITE_ERROR_MESSAGE: R459. -/
  | postedWriteErrorMessage
  deriving DecidableEq, Repr

end Sys2Proof
end

