-- ==== Sys2Proof/Decode.lean ====
section
/-!
DEFINITION. The decoder: from the words of an instruction to the instruction, or to the item of R79 that makes them no
instruction; total, from the formats of R72 and the opcode table of R77. After it the encoder, from the same tables.
-/

namespace Sys2Proof

/-- What a bit pattern is: an instruction, or illegal under the lowest item of R79 that applies (R80). -/
inductive Dec where
  | ok (i : Instr)
  | illegal (item : Nat)
  deriving DecidableEq, Repr

/-- Go on only if `c` holds; otherwise the pattern is illegal under `item`. -/
def need (item : Nat) (c : Bool) (k : Dec) : Dec := if c then k else .illegal item

/-! ## Fields (R68, R72) -/

def fLen (w : Half) : BitVec 2 := w.extractLsb' 30 2
def fOp (w : Half) : BitVec 7 := w.extractLsb' 23 7
def fRd (w : Half) : Reg := w.extractLsb' 18 5
def fRs1 (w : Half) : Reg := w.extractLsb' 13 5
def fRs2 (w : Half) : Reg := w.extractLsb' 8 5
def fFn (w : Half) : BitVec 8 := w.extractLsb' 0 8
def fBit12 (w : Half) : BitVec 1 := w.extractLsb' 12 1
def fImm (w : Half) : BitVec 12 := w.extractLsb' 0 12
def fCond (w : Half) : BitVec 3 := w.extractLsb' 15 3
def fOff15 (w : Half) : BitVec 15 := w.extractLsb' 0 15
def fOff18 (w : Half) : BitVec 18 := w.extractLsb' 0 18
def fSz (w : Half) : BitVec 3 := w.extractLsb' 10 3
def fDisp (w : Half) : BitVec 10 := w.extractLsb' 0 10
def fRv (w : Half) : Reg := w.extractLsb' 5 5
def fAop (w : Half) : BitVec 5 := w.extractLsb' 0 5
def fAd (w : Half) : BitVec 4 := w.extractLsb' 19 4
def fAs (w : Half) : BitVec 4 := w.extractLsb' 15 4
def fPa (w : Half) : BitVec 3 := w.extractLsb' 12 3
def fPb (w : Half) : BitVec 3 := w.extractLsb' 9 3
def fMod (w : Half) : BitVec 3 := w.extractLsb' 6 3
def fSat (w : Half) : BitVec 1 := w.extractLsb' 5 1
def fWfn (w : Half) : BitVec 5 := w.extractLsb' 0 5
def fEfn (w : Half) : BitVec 4 := w.extractLsb' 4 4
def fEmod (w : Half) : BitVec 4 := w.extractLsb' 0 4
def fCnt (w : Half) : BitVec 12 := w.extractLsb' 11 12
def fNi (w : Half) : BitVec 4 := w.extractLsb' 7 4
def fRowstep (w : Half) : BitVec 4 := w.extractLsb' 3 4
def fPtrstep (w : Half) : BitVec 3 := w.extractLsb' 0 3
def yGid (y : Word) : BitVec 26 := y.extractLsb' 38 26
def yRs3 (y : Word) : Reg := y.extractLsb' 33 5
def yG (y : Word) : BitVec 1 := y.extractLsb' 32 1
def yImm (y : Word) : Half := y.extractLsb' 0 32

/-- A rounding code that is not reserved (R75: 5 and 6 are). -/
def rmOk (rm : BitVec 3) : Bool := rm != 5 && rm != 6

/-- Whether an opcode is assigned (R76). -/
def opcodeAssigned (op : Nat) : Bool :=
  (1 ≤ op && op ≤ 13) || (16 ≤ op && op ≤ 21) || (24 ≤ op && op ≤ 30) || (32 ≤ op && op ≤ 36) ||
  (40 ≤ op && op ≤ 46) || (48 ≤ op && op ≤ 55) || op == 64 || op == 65 || op == 72 || op == 80 || op == 88 || op == 96

/-- The opcodes that take a literal (R77). -/
def takesLiteral (op : Nat) : Bool :=
  (6 ≤ op && op ≤ 10) || op == 18 || op == 19 || (24 ≤ op && op ≤ 28)

/-- Whether LEN is permitted for the opcode and its function code (R77, R378). -/
def lenPermitted (w : Half) (y : Word) : Bool :=
  let op := (fOp w).toNat
  let len := (fLen w).toNat
  if op = 72 then len == 1
  else if op = 88 then len == 1 || (len == 3 && (fFn w == 0 || fFn w == 7))
  else if op = 96 then len == 1 || (len == 3 && fFn w == 0 && (y.extractLsb' 0 2 == 0 || y.extractLsb' 0 2 == 1))
  else if op = 64 then len == 0 || (len == 2 && fEfn w == 5)
  else if takesLiteral op then len == 0 || len == 2
  else len == 0

/-! ## Opcode by opcode (R77) -/

def decAlu (w : Half) : Dec :=
  match (fFn w).toNat with
  | 0 => .ok (.add (fRd w) (fRs1 w) (fRs2 w))
  | 1 => .ok (.sub (fRd w) (fRs1 w) (fRs2 w))
  | 2 => .ok (.and (fRd w) (fRs1 w) (fRs2 w))
  | 3 => .ok (.or (fRd w) (fRs1 w) (fRs2 w))
  | 4 => .ok (.xor (fRd w) (fRs1 w) (fRs2 w))
  | 5 => .ok (.andn (fRd w) (fRs1 w) (fRs2 w))
  | 6 => .ok (.shl (fRd w) (fRs1 w) (fRs2 w))
  | 7 => .ok (.shr (fRd w) (fRs1 w) (fRs2 w))
  | 8 => .ok (.sar (fRd w) (fRs1 w) (fRs2 w))
  | 9 => .ok (.rot (fRd w) (fRs1 w) (fRs2 w))
  | 10 => .ok (.min (fRd w) (fRs1 w) (fRs2 w))
  | 11 => .ok (.max (fRd w) (fRs1 w) (fRs2 w))
  | 12 => .ok (.minu (fRd w) (fRs1 w) (fRs2 w))
  | 13 => .ok (.maxu (fRd w) (fRs1 w) (fRs2 w))
  | _ => .illegal 3

def decMulDiv (w : Half) : Dec :=
  match (fFn w).toNat with
  | 0 => .ok (.mul (fRd w) (fRs1 w) (fRs2 w))
  | 1 => .ok (.mulh (fRd w) (fRs1 w) (fRs2 w))
  | 2 => .ok (.mulhu (fRd w) (fRs1 w) (fRs2 w))
  | 3 => .ok (.div (fRd w) (fRs1 w) (fRs2 w))
  | 4 => .ok (.divu (fRd w) (fRs1 w) (fRs2 w))
  | 5 => .ok (.rem (fRd w) (fRs1 w) (fRs2 w))
  | 6 => .ok (.remu (fRd w) (fRs1 w) (fRs2 w))
  | _ => .illegal 3

def decCmp (w : Half) : Dec :=
  let c : BitVec 3 := w.extractLsb' 0 3
  need 3 (c.toNat ≤ 5) (need 4 (w.extractLsb' 3 5 == 0) (.ok (.cmp c (fRd w) (fRs1 w) (fRs2 w))))

def decSel (w : Half) : Dec :=
  need 4 (w.extractLsb' 0 3 == 0) (.ok (.sel (fRd w) (w.extractLsb' 3 5) (fRs1 w) (fRs2 w)))

/-- A nonzero rs2 in CLZ, CTZ or POPC is reserved (R104). -/
def decBit (w : Half) : Dec :=
  match (fFn w).toNat with
  | 0 => need 3 (fRs2 w == 0) (.ok (.clz (fRd w) (fRs1 w)))
  | 1 => need 3 (fRs2 w == 0) (.ok (.ctz (fRd w) (fRs1 w)))
  | 2 => need 3 (fRs2 w == 0) (.ok (.popc (fRd w) (fRs1 w)))
  | 3 => .ok (.bext (fRd w) (fRs1 w) (fRs2 w))
  | 4 => .ok (.bins (fRd w) (fRs1 w) (fRs2 w))
  | _ => .illegal 3

/-- The immediate forms: `mk` the plain one, `mkL` the literal one, whose imm12 is zero (R74, R105). -/
def decImm (w : Half) (lit : Word) (mk : BitVec 12 → Instr) (mkL : Word → Instr) : Dec :=
  need 4 (fBit12 w == 0)
    (if fLen w == 2 then need 4 (fImm w == 0) (.ok (mkL lit)) else .ok (mk (fImm w)))

def decShift (w : Half) (mk : BitVec 6 → Instr) : Dec :=
  need 4 (w.extractLsb' 6 7 == 0) (.ok (mk (w.extractLsb' 0 6)))

def decMem (w : Half) (lit : Word) (mk : BitVec 10 → Instr) (mkL : Word → Instr) : Dec :=
  if fLen w == 2 then need 4 (fDisp w == 0) (.ok (mkL lit)) else .ok (mk (fDisp w))

/-- A pair's rt is even (R111: an odd one is reserved). -/
def evenReg (r : Reg) : Bool := r.extractLsb' 0 1 == 0

/-- The sizes and operations an AMO may have (R75, R314). -/
def amoOk (rt : Reg) (sz : BitVec 3) (rv : Reg) (aop : BitVec 5) : Bool :=
  (sz.toNat ≤ 3 && aop.toNat ≤ 9) || (sz == 7 && 3 ≤ aop.toNat && aop.toNat ≤ 7 && evenReg rt && evenReg rv)

/-- The sizes and operations a UPD may have (R75, R314). -/
def updOk (sz : BitVec 3) (rv : Reg) (aop : BitVec 5) : Bool :=
  (sz.toNat ≤ 3 && (aop.toNat ≤ 5 || aop == 8 || aop == 9)) || ((sz == 2 || sz == 3) && aop == 10) ||
  (sz == 7 && 3 ≤ aop.toNat && aop.toNat ≤ 5 && evenReg rv)

def decFarith (w : Half) : Dec :=
  let d : BitVec 1 := w.extractLsb' 7 1
  let rm : BitVec 3 := w.extractLsb' 4 3
  match (w.extractLsb' 0 4).toNat with
  | 0 => need 3 (rmOk rm) (.ok (.fadd (fRd w) (fRs1 w) (fRs2 w) d rm))
  | 1 => need 3 (rmOk rm) (.ok (.fsub (fRd w) (fRs1 w) (fRs2 w) d rm))
  | 2 => need 3 (rmOk rm) (.ok (.fmul (fRd w) (fRs1 w) (fRs2 w) d rm))
  | 3 => need 3 (rmOk rm) (.ok (.fdiv (fRd w) (fRs1 w) (fRs2 w) d rm))
  | 4 => need 3 (rmOk rm && fRs2 w == 0) (.ok (.fsqrt (fRd w) (fRs1 w) d rm))
  | 5 => need 3 (rmOk rm) (need 4 (rm == 7) (.ok (.fmin (fRd w) (fRs1 w) (fRs2 w) d)))
  | 6 => need 3 (rmOk rm) (need 4 (rm == 7) (.ok (.fmax (fRd w) (fRs1 w) (fRs2 w) d)))
  | 7 => need 3 (rmOk rm) (need 4 (rm == 7) (.ok (.fminm (fRd w) (fRs1 w) (fRs2 w) d)))
  | 8 => need 3 (rmOk rm) (need 4 (rm == 7) (.ok (.fmaxm (fRd w) (fRs1 w) (fRs2 w) d)))
  | _ => .illegal 3

/-- The conversions FCVT has: both kinds assigned, not equal, not both integer (R77, R119). -/
def fcvtOk (tk fk : BitVec 3) : Bool :=
  tk.toNat ≤ 5 && fk.toNat ≤ 5 && tk != fk && !(2 ≤ tk.toNat && 2 ≤ fk.toNat)

def decFcvt (w : Half) : Dec :=
  let tk : BitVec 3 := w.extractLsb' 10 3
  let fk : BitVec 3 := w.extractLsb' 5 3
  let rm : BitVec 3 := w.extractLsb' 0 3
  need 3 (fcvtOk tk fk && rmOk rm)
    (need 4 (w.extractLsb' 8 2 == 0 && w.extractLsb' 3 2 == 0) (.ok (.fcvt (fRd w) (fRs1 w) tk fk rm)))

def decFcmp (w : Half) : Dec :=
  let c : BitVec 3 := w.extractLsb' 0 3
  need 3 (c.toNat ≤ 3) (need 4 (w.extractLsb' 3 4 == 0)
    (.ok (.fcmp (w.extractLsb' 7 1) c (fRd w) (fRs1 w) (fRs2 w))))

def decMb (w : Half) : Dec :=
  let n : BitVec 3 := w.extractLsb' 0 3
  match (fEfn w).toNat with
  | 0 => need 4 (fRd w == 0 && fRs2 w == 0 && w.extractLsb' 3 1 == 0) (.ok (.mbw n (fRs1 w)))
  | 1 => need 4 (fRs1 w == 0 && fRs2 w == 0 && w.extractLsb' 3 1 == 0) (.ok (.mbr (fRd w) n))
  | 2 => need 4 (fRs1 w == 0 && fRs2 w == 0 && w.extractLsb' 3 1 == 0) (.ok (.mbq (fRd w) n))
  | _ => .illegal 3

def decSys (w : Half) : Dec :=
  let z := fRs1 w == 0 && fRs2 w == 0
  match (fFn w).toNat with
  | 0 => need 4 (fRd w == 0 && z) (.ok .nop)
  | 1 => need 4 (fRd w == 0 && z) (.ok .eret)
  | 2 => need 4 (fRd w == 0 && z) (.ok .brk)
  | 3 => need 4 (fRd w == 0 && z) (.ok .halt)
  | 4 => need 4 z (.ok (.rand (fRd w)))
  | _ => .illegal 3

/-! A MOD value that R139 does not assign is reserved (item 3); any other field that it marks 0 is item 4. -/

def decVmem (w : Half) : Dec :=
  match (fWfn w).toNat with
  | 0 => need 3 (rmOk (fMod w)) (need 4 (fAs w == 0 && fPb w == 0) (.ok (.vlda (fAd w) (fPa w) (fMod w) (fSat w))))
  | 1 => need 3 (rmOk (fMod w)) (need 4 (fAd w == 0 && fPb w == 0) (.ok (.vsta (fAs w) (fPa w) (fMod w) (fSat w))))
  | _ => .illegal 3

def decVarith (w : Half) : Dec :=
  let d := fAd w
  let s := fAs w
  let a := fPa w
  let b := fPb w
  let m := fMod w
  let t := fSat w
  match (fWfn w).toNat with
  | 0 => need 3 (rmOk m) (need 4 (a == 0) (.ok (.vadd d s b m t)))
  | 1 => need 3 (rmOk m) (need 4 (a == 0) (.ok (.vsub d s b m t)))
  | 2 => need 3 (rmOk m) (need 4 (a == 0) (.ok (.vmul d s b m t)))
  | 3 => need 3 (rmOk m) (.ok (.vfma d s a b m t))
  | 4 => need 3 (rmOk m) (.ok (.vfms d s a b m t))
  | 5 => need 3 (m == 0) (need 4 (a == 0 && t == 0) (.ok (.vmax d s b)))
  | 6 => need 3 (m == 0) (need 4 (a == 0 && t == 0) (.ok (.vmin d s b)))
  | 7 => need 3 (m == 0) (need 4 (a == 0 && b == 0 && t == 0) (.ok (.vabs d s)))
  | 8 => need 3 (m == 0) (need 4 (a == 0 && b == 0 && t == 0) (.ok (.vneg d s)))
  | 9 => need 3 (m == 0) (need 4 (t == 0) (.ok (.vclamp d s a b)))
  | 10 => need 3 (rmOk m) (need 4 (a == 0) (.ok (.vscale d s b m t)))
  | 11 => need 3 (rmOk m) (.ok (.vdot d s a b m t))
  | _ => .illegal 3

def decVlogic (w : Half) : Dec :=
  let z := fPa w == 0 && fSat w == 0
  match (fWfn w).toNat with
  | 0 => need 3 (fMod w == 0) (need 4 z (.ok (.vand (fAd w) (fAs w) (fPb w))))
  | 1 => need 3 (fMod w == 0) (need 4 z (.ok (.vor (fAd w) (fAs w) (fPb w))))
  | 2 => need 3 (fMod w == 0) (need 4 z (.ok (.vxor (fAd w) (fAs w) (fPb w))))
  | 3 => need 3 (fMod w == 0) (need 4 z (.ok (.vshl (fAd w) (fAs w) (fPb w))))
  | 4 => need 3 (w.extractLsb' 7 2 == 0) (need 4 z (.ok (.vshr (fAd w) (fAs w) (fPb w) (w.extractLsb' 6 1))))
  | _ => .illegal 3

def decVmove (w : Half) : Dec :=
  let d := fAd w
  let s := fAs w
  let n := fPa w
  let b := fPb w
  let m := fMod w
  let t := fSat w == 0
  match (fWfn w).toNat with
  | 0 => need 3 (w.extractLsb' 7 2 == 0) (need 4 t (.ok (.vsel d s b n (w.extractLsb' 6 1))))
  | 1 => need 3 (m.toNat ≤ 3) (need 4 (d == 0 && t) (.ok (.vcmp n s b m)))
  | 2 => need 3 (m == 0) (need 4 (n == 0 && t) (.ok (.vperm d s b)))
  | 3 => need 3 (m != 7) (need 4 (n == 0 && b == 0 && t) (.ok (.vshuf d s m)))
  | 4 => need 3 (m == 0) (need 4 (s == 0 && n == 0 && b == 0 && t) (.ok (.viota d)))
  | 5 => need 3 (m.toNat ≤ 4) (need 4 (d == 0 && b == 0 && t) (.ok (.vred n s m)))
  | 6 => need 3 (w.extractLsb' 7 2 == 0) (need 4 (s == 0 && b == 0 && t) (.ok (.vbcast d n (w.extractLsb' 6 1))))
  | _ => .illegal 3

def decVconv (w : Half) : Dec :=
  let z := fAd w == 0 && fPa w == 0
  match (fWfn w).toNat with
  | 0 => need 3 (rmOk (fMod w)) (need 4 z (.ok (.vcvt (fAs w) (fPb w) (fMod w) (fSat w))))
  | 1 => need 3 (rmOk (fMod w)) (need 4 z (.ok (.vcvtAuto (fAs w) (fPb w) (fMod w) (fSat w))))
  | _ => .illegal 3

def decVtrans (w : Half) : Dec :=
  let mk (i : Instr) : Dec := need 3 (fMod w == 0) (need 4 (fPa w == 0 && fPb w == 0 && fSat w == 0) (.ok i))
  match (fWfn w).toNat with
  | 0 => mk (.vexp2 (fAd w) (fAs w))
  | 1 => mk (.vlog2 (fAd w) (fAs w))
  | 2 => mk (.vrcp (fAd w) (fAs w))
  | 3 => mk (.vrsq (fAd w) (fAs w))
  | 4 => mk (.vtanh (fAd w) (fAs w))
  | 5 => mk (.vsig (fAd w) (fAs w))
  | _ => .illegal 3

/-- A register index outside an instruction's limits is reserved (R153). -/
def decWctl (w : Half) : Dec :=
  let n := fRs2 w
  match (fFn w).toNat with
  | 0 => need 3 (n.toNat ≤ 7) (need 4 (fRd w == 0) (.ok (.pset n (fRs1 w))))
  | 1 => need 3 (n.toNat ≤ 7) (need 4 (fRd w == 0) (.ok (.padd n (fRs1 w))))
  | 2 => need 3 (n.toNat ≤ 7) (need 4 (fRs1 w == 0) (.ok (.pget (fRd w) n)))
  | 3 => need 3 (4 ≤ n.toNat && n.toNat ≤ 15) (need 4 (fRd w == 0) (.ok (.fset n (fRs1 w))))
  | 4 => need 3 (n.toNat ≤ 15) (need 4 (fRs1 w == 0) (.ok (.fget (fRd w) n)))
  | 5 => need 4 (fRd w == 0 && n == 0) (.ok (.acccfg (fRs1 w)))
  | 6 => need 4 (fRd w == 0 && n == 0) (.ok (.acccfgKeep (fRs1 w)))
  | 7 => need 4 (fRd w == 0 && fRs1 w == 0 && n == 0) (.ok .accsw)
  | _ => .illegal 3

def decEvt (w : Half) (lit : Word) : Dec :=
  let d := fRd w
  let a := fRs1 w
  let b := fRs2 w
  let m := (fEmod w).toNat
  match (fEfn w).toNat with
  | 0 => need 3 (m == 0) (need 4 (b == 0) (.ok (.evdef d a)))
  | 1 => need 3 (m == 0) (need 4 (b == 0) (.ok (.evdel d a)))
  | 2 => need 3 (m == 0) (.ok (.evstat d a b))
  | 3 =>
    match m with
    | 0 => need 4 (d == 0 && b == 0) (.ok (.offerSync a))
    | 1 => need 4 (d == 0) (.ok (.offerGive a b))
    | 2 => need 4 (b == 0) (.ok (.offerTake d a))
    | 3 => .ok (.offerBoth d a b)
    | _ => .illegal 3
  | 4 => need 3 (m ≤ 8) (need 4 (d == 0 && a == 0 && b == 0)
      (if m = 8 then .ok .wdrawAll else .ok (.wdraw (w.extractLsb' 0 3))))
  | 5 =>
    if m = 1 then need 4 (a == 0 && b == 0) (if fLen w == 2 then .ok (.selectNbLimit d lit) else .ok (.selectNb d))
    else if m = 2 then need 4 (a == 0 && b == 0) (if fLen w == 2 then .ok (.selectTLimit d lit) else .ok (.selectT d))
    else .illegal 3
  | 6 => need 3 (m == 0) (need 4 (a == 0 && b == 0) (.ok (.phase d)))
  | 7 => need 3 (m == 0) (need 4 (d == 0 && a == 0 && b == 0) (.ok .gang))
  | _ => .illegal 3

def decExec (w : Half) : Dec :=
  let d := fRd w
  let a := fRs1 w
  let b := fRs2 w
  let m := fEmod w == 0
  match (fEfn w).toNat with
  | 0 => need 3 m (.ok (.spawn d a b))
  | 1 => need 3 m (need 4 (d == 0 && a == 0 && b == 0) (.ok .hend))
  | 2 => need 3 m (need 4 (d == 0) (.ok (.take a b)))
  | 3 => need 3 m (need 4 (d == 0) (.ok (.done a b)))
  | 4 => need 3 m (.ok (.poolcfg d a b))
  | 5 => need 3 m (.ok (.poolput d a b))
  | 6 => need 3 m (need 4 (d == 0 && b == 0) (.ok (.domset a)))
  | 7 => need 3 m (.ok (.fifobind d a b))
  | _ => .illegal 3

/-- GID, rs3 and G of Y are zero (R251, R326, R355, R378). -/
def yClean (y : Word) : Bool := yGid y == 0 && yRs3 y == 0 && yG y == 0

def decMat (w : Half) (y : Word) : Dec :=
  let d := fRd w
  let a := fRs1 w
  let b := fRs2 w
  let m := yImm y
  match (fFn w).toNat with
  | 0 => need 4 (d == 0 && yClean y && m.extractLsb' 24 4 == 0 && (b == 0 || m.extractLsb' 10 1 == 1))
      (.ok (.mldb a b (m.extractLsb' 28 4) (m.extractLsb' 21 3) (m.extractLsb' 11 10) (m.extractLsb' 10 1)
        (m.extractLsb' 0 10)))
  | 1 => need 4 (d == 0 && a == 0 && b == 0 && yClean y && m.extractLsb' 8 9 == 0)
      (.ok (.mmul (m.extractLsb' 28 4) (m.extractLsb' 24 4) (m.extractLsb' 21 3) (m.extractLsb' 18 3)
        (m.extractLsb' 17 1) (m.extractLsb' 0 8)))
  | 2 => need 4 (d == 0 && b == 0 && yClean y && m == 0) (.ok (.mcfg a))
  | 3 => need 3 (m == 0 || (8 ≤ m.toNat && m.toNat ≤ 15)) (need 4 (a == 0 && b == 0 && yClean y) (.ok (.mstat d m)))
  | 4 => need 4 (d == 0 && b == 0 && yClean y && m.extractLsb' 8 24 == 0) (.ok (.mspill a (m.extractLsb' 0 8)))
  | 5 => need 4 (d == 0 && b == 0 && yClean y && m.extractLsb' 8 24 == 0) (.ok (.mfill a (m.extractLsb' 0 8)))
  | _ => .illegal 3

def decMemctl (w : Half) : Dec :=
  let d := fRd w
  let a := fRs1 w
  let b := fRs2 w
  match (fFn w).toNat with
  | 0 => need 4 (d == 0 && a == 0 && b == 0) (.ok .fenceL)
  | 1 => need 3 (d.toNat ≤ 1) (need 4 (b == 0) (.ok (.cflush d a)))
  | 2 => need 3 (d.toNat ≤ 1) (need 4 (b == 0) (.ok (.cinv d a)))
  | 3 => need 4 (d == 0 && b == 0) (.ok (.cinvI a))
  | 4 => need 4 (d == 0 && b == 0) (.ok (.czero a))
  | 5 => .ok (.bankrole d a b)
  | 6 =>
    let p : BitVec 1 := d.extractLsb' 2 1
    let z := d.extractLsb' 3 2 == 0
    match (d.extractLsb' 0 2).toNat with
    | 0 => need 4 (z && a == 0 && b == 0) (.ok (.tlbiAll p))
    | 1 => need 4 (z && a == 0) (.ok (.tlbiAsid p b))
    | 2 => need 4 z (.ok (.tlbiPage p a b))
    | _ => need 4 (z && b == 0) (.ok (.tlbiVa p a))
  | 7 => need 4 (d.extractLsb' 2 3 == 0) (.ok (.wpset (d.extractLsb' 0 2) a b))
  | 8 => .ok (.fifoadv d a b)
  | _ => .illegal 3

def decEng (w : Half) (y lit : Word) : Dec :=
  let d := fRd w
  let a := fRs1 w
  let b := fRs2 w
  let m := yImm y
  let long := fLen w == 3
  match (fFn w).toNat with
  | 0 => need 3 (rmOk (m.extractLsb' 0 3) && m.extractLsb' 4 28 == 0) (need 4 (yGid y == 0 && yG y == 0)
      (if long then .ok (.copyFirst (m.extractLsb' 0 3) (m.extractLsb' 3 1) d a b (yRs3 y) lit)
       else .ok (.copy (m.extractLsb' 0 3) (m.extractLsb' 3 1) d a b (yRs3 y))))
  | 1 => need 4 (b == 0 && yClean y && m.extractLsb' 1 31 == 0)
      (if m.extractLsb' 0 1 == 1 then .ok (.cstatAbort d a) else .ok (.cstat d a))
  | 2 => need 4 (b == 0 && yClean y && m == 0) (.ok (.pbind d a))
  | 3 => need 4 (b == 0 && yClean y && m == 0) (.ok (.punbind d a))
  | 4 => need 4 (yClean y && m == 0) (.ok (.pstat d a b))
  | 5 => need 4 (yClean y && m == 0) (.ok (.permit d a b))
  | 6 => need 3 (m.extractLsb' 0 2 != 3) (need 4 (b == 0 && yClean y && m.extractLsb' 2 30 == 0)
      (.ok (.rescls (m.extractLsb' 0 2) d a)))
  | 7 => need 3 (m.extractLsb' 0 2 != 0) (need 4 (b == 0 && yClean y && m.extractLsb' 2 30 == 0)
      (if long then need 4 (a == 0) (.ok (.layregLit (m.extractLsb' 0 2) d lit))
       else .ok (.layreg (m.extractLsb' 0 2) d a)))
  | 8 => need 4 (b == 0 && yClean y && m == 0) (.ok (.layrel d a))
  | _ => .illegal 3

def decTree (w : Half) (y lit : Word) : Dec :=
  let d := fRd w
  let a := fRs1 w
  let b := fRs2 w
  let m := yImm y
  let g := yGid y == 0 && yG y == 0
  let z := yClean y
  let long := fLen w == 3
  match (fFn w).toNat with
  | 0 =>
    let hi := m.extractLsb' 2 30 == 0
    match (m.extractLsb' 0 2).toNat with
    | 0 => if long then need 4 (a == 0 && z && hi) (.ok (.tcfgNewLit d b lit)) else need 4 (z && hi) (.ok (.tcfgNew d a b))
    | 1 => if long then need 4 (a == 0 && z && hi) (.ok (.tcfgGrowLit d b lit)) else need 4 (z && hi) (.ok (.tcfgGrow d a b))
    | 2 => need 4 (a == 0 && z && hi) (.ok (.tcfgDel d b))
    | _ => .illegal 3
  | 1 => need 4 (z && m == 0) (.ok (.troot d a b))
  | 2 => need 4 (b == 0 && z && m == 0) (.ok (.tdesc d a))
  | 3 =>
    if m.extractLsb' 16 1 == 1 then need 4 (z && m == 0x10000) (.ok (.texpTerm d a b))
    else need 3 (1 ≤ (m.extractLsb' 0 9).toNat && (m.extractLsb' 0 9).toNat ≤ 256)
      (need 4 (g && m.extractLsb' 9 23 == 0) (.ok (.texp d a b (yRs3 y) (m.extractLsb' 0 9))))
  | 4 =>
    if m.extractLsb' 0 1 == 1 then need 4 (z && m == 1) (.ok (.tbackVlo d a b))
    else need 4 (g && m == 0) (.ok (.tback d a b (yRs3 y)))
  | 5 => need 4 (b == 0 && z && m == 0) (.ok (.tbatch d a))
  | 6 => need 4 (z && m == 0) (.ok (.treuse d a b))
  | 7 =>
    let pair := evenReg d && d != 0
    let hi := m.extractLsb' 2 30 == 0
    match (m.extractLsb' 0 2).toNat with
    | 0 => need 3 pair (need 4 (z && hi) (.ok (.treadStats d a b)))
    | 1 => need 3 pair (need 4 (z && hi) (.ok (.treadLinks d a b)))
    | 2 => need 3 pair (need 4 (b == 0 && z && hi) (.ok (.treadTree d a)))
    | _ => .illegal 3
  | _ => .illegal 3

/-- The body of the decoder, once the opcode is assigned and LEN permitted. -/
def decodeOp (w : Half) (y lit : Word) : Dec :=
  match (fOp w).toNat with
  | 0x01 => decAlu w
  | 0x02 => decMulDiv w
  | 0x03 => decCmp w
  | 0x04 => decSel w
  | 0x05 => decBit w
  | 0x06 => need 4 (fRs1 w == 0) (decImm w lit (.movi (fRd w)) (.moviLit (fRd w)))
  | 0x07 => decImm w lit (.addi (fRd w) (fRs1 w)) (.addiLit (fRd w) (fRs1 w))
  | 0x08 => decImm w lit (.andi (fRd w) (fRs1 w)) (.andiLit (fRd w) (fRs1 w))
  | 0x09 => decImm w lit (.ori (fRd w) (fRs1 w)) (.oriLit (fRd w) (fRs1 w))
  | 0x0A => decImm w lit (.xori (fRd w) (fRs1 w)) (.xoriLit (fRd w) (fRs1 w))
  | 0x0B => decShift w (.shli (fRd w) (fRs1 w))
  | 0x0C => decShift w (.shri (fRd w) (fRs1 w))
  | 0x0D => decShift w (.sari (fRd w) (fRs1 w))
  | 0x10 => need 3 ((fCond w).toNat ≤ 5) (.ok (.br (fCond w) (fRd w) (fOff15 w)))
  | 0x11 => need 3 (fRd w != 0) (need 4 (fCond w == 0) (.ok (.loop (fRd w) (fOff15 w))))
  | 0x12 => need 4 (fRd w == 0)
      (if fLen w == 2 then need 4 (fOff18 w == 0) (.ok (.jmpLit lit)) else .ok (.jmp (fOff18 w)))
  | 0x13 => if fLen w == 2 then need 4 (fOff18 w == 0) (.ok (.callLit (fRd w) lit)) else .ok (.call (fRd w) (fOff18 w))
  | 0x14 => need 4 (fRs2 w == 0 && fFn w == 0) (.ok (.jr (fRd w) (fRs1 w)))
  | 0x15 => need 4 (fRd w == 0 && fRs1 w == 0 && fRs2 w == 0 && fFn w == 0) (.ok .ret)
  | 0x18 => need 3 (fSz w != 7) (decMem w lit (.ld (fSz w) (fRd w) (fRs1 w)) (.ldLit (fSz w) (fRd w) (fRs1 w)))
  | 0x19 => need 3 ((fSz w).toNat ≤ 3) (decMem w lit (.st (fSz w) (fRd w) (fRs1 w)) (.stLit (fSz w) (fRd w) (fRs1 w)))
  | 0x1A => need 3 (fSz w == 7 && evenReg (fRd w)) (decMem w lit (.ldp (fRd w) (fRs1 w)) (.ldpLit (fRd w) (fRs1 w)))
  | 0x1B => need 3 (fSz w == 7 && evenReg (fRd w)) (decMem w lit (.stp (fRd w) (fRs1 w)) (.stpLit (fRd w) (fRs1 w)))
  | 0x1C => need 3 ((fRd w).toNat ≤ 2)
      (need 4 (fSz w == 0) (decMem w lit (.pref (fRd w) (fRs1 w)) (.prefLit (fRd w) (fRs1 w))))
  | 0x1D => need 3 (amoOk (fRd w) (fSz w) (fRv w) (fAop w)) (.ok (.amo (fRd w) (fRs1 w) (fSz w) (fRv w) (fAop w)))
  | 0x1E => need 3 (updOk (fSz w) (fRv w) (fAop w)) (need 4 (fRd w == 0)
      (.ok (.upd (fRs1 w) (fSz w) (fRv w) (fAop w))))
  | 0x20 => decFarith w
  | 0x21 => need 4 (w.extractLsb' 0 2 == 0)
      (.ok (.fma (fRd w) (fRs1 w) (fRs2 w) (w.extractLsb' 3 5) (w.extractLsb' 2 1)))
  | 0x22 => decFcmp w
  | 0x23 => decFcvt w
  | 0x24 => need 4 (fRs2 w == 0 && w.extractLsb' 0 7 == 0) (.ok (.fclass (fRd w) (fRs1 w) (w.extractLsb' 7 1)))
  | 0x28 => need 3 (fRs1 w == 0) (need 4 (fBit12 w == 0) (.ok (.csrr (fRd w) (fImm w))))
  | 0x29 => need 4 (fBit12 w == 0) (.ok (.csrw (fRd w) (fImm w) (fRs1 w)))
  | 0x2A => need 4 (fBit12 w == 0) (.ok (.csrs (fRd w) (fImm w) (fRs1 w)))
  | 0x2B => need 4 (fBit12 w == 0) (.ok (.csrc (fRd w) (fImm w) (fRs1 w)))
  | 0x2C => decMb w
  | 0x2D => decSys w
  | 0x2E => need 4 (fRd w == 0 && fRs1 w == 0 && fBit12 w == 0) (.ok (.trap (fImm w)))
  | 0x30 => decVmem w
  | 0x31 => decVarith w
  | 0x32 => decVlogic w
  | 0x33 => decVmove w
  | 0x34 => decVconv w
  | 0x35 => decVtrans w
  | 0x36 => decWctl w
  | 0x37 => .ok (.rep (fCnt w) (fNi w) (fRowstep w) (fPtrstep w))
  | 0x40 => decEvt w lit
  | 0x41 => decExec w
  | 0x48 => decMat w y
  | 0x50 => decMemctl w
  | 0x58 => decEng w y lit
  | 0x60 => decTree w y lit
  | _ => .illegal 1

/-- The decoder (R79, R80): the first word, the extension doubleword and the literal (0 where the instruction has
none). -/
def decodeWords (w : Half) (y lit : Word) : Dec :=
  need 1 (opcodeAssigned (fOp w).toNat) (need 2 (lenPermitted w y) (decodeOp w y lit))

/-- How many words an instruction with this first word has (R68). -/
def wordCount (w : Half) : Nat :=
  match (fLen w).toNat with
  | 0 => 1
  | 1 => 3
  | 2 => 3
  | _ => 5

/-- A doubleword of two words, the lower address first (R68). -/
def dword (lo hi : Half) : Word := hi ++ lo

/-- The decoder on the words of an instruction, in address order: missing words read as zero. -/
def decodeList (ws : List Half) : Dec :=
  let w := ws.getD 0 0
  let a := dword (ws.getD 1 0) (ws.getD 2 0)
  let b := dword (ws.getD 3 0) (ws.getD 4 0)
  match (fLen w).toNat with
  | 0 => decodeWords w 0 0
  | 1 => decodeWords w a 0
  | 2 => decodeWords w 0 a
  | _ => decodeWords w a b

/-- A word of four bytes, the byte at the lowest address first (R4). -/
def wordOfBytes (bs : List Byte) : Half := bs.getD 3 0 ++ bs.getD 2 0 ++ bs.getD 1 0 ++ bs.getD 0 0

/-- The decoder on bytes (R4): the instruction with its length in bytes, or the item of R79. -/
def decodeBytes (bs : List Byte) : Dec :=
  decodeList ((List.range 5).map fun k => wordOfBytes (bs.drop (4 * k)))

/-! ## The encoder -/

def packC (op : BitVec 7) (rd rs1 rs2 : Reg) (fn : BitVec 8) : BitVec 30 := op ++ rd ++ rs1 ++ rs2 ++ fn
def packI (op : BitVec 7) (rd rs1 : Reg) (imm : BitVec 12) : BitVec 30 := op ++ rd ++ rs1 ++ 0#1 ++ imm
def packBc (op : BitVec 7) (rs1 : Reg) (cond : BitVec 3) (off : BitVec 15) : BitVec 30 := op ++ rs1 ++ cond ++ off
def packBj (op : BitVec 7) (rd : Reg) (off : BitVec 18) : BitVec 30 := op ++ rd ++ off
def packM (op : BitVec 7) (rt rb : Reg) (sz : BitVec 3) (disp : BitVec 10) : BitVec 30 := op ++ rt ++ rb ++ sz ++ disp
def packMa (op : BitVec 7) (rt rb : Reg) (sz : BitVec 3) (rv : Reg) (aop : BitVec 5) : BitVec 30 :=
  op ++ rt ++ rb ++ sz ++ rv ++ aop
def packW (op : BitVec 7) (ad as_ : BitVec 4) (pa pb mod : BitVec 3) (sat : BitVec 1) (fn : BitVec 5) : BitVec 30 :=
  op ++ ad ++ as_ ++ pa ++ pb ++ mod ++ sat ++ fn
def packRep (op : BitVec 7) (cnt : BitVec 12) (ni rowstep : BitVec 4) (ptrstep : BitVec 3) : BitVec 30 :=
  op ++ cnt ++ ni ++ rowstep ++ ptrstep
def packE (op : BitVec 7) (rd rs1 rs2 : Reg) (fn mod : BitVec 4) : BitVec 30 := op ++ rd ++ rs1 ++ rs2 ++ fn ++ mod
def packY (rs3 : Reg) (imm : Half) : Word := 0#26 ++ rs3 ++ 0#1 ++ imm

/-- The two words of a doubleword, the lower address first (R68). -/
def words2 (v : Word) : List Half := [v.extractLsb' 0 32, v.extractLsb' 32 32]

def words1 (b : BitVec 30) : List Half := [0#2 ++ b]
def wordsY (b : BitVec 30) (y : Word) : List Half := (1#2 ++ b) :: words2 y
def wordsL (b : BitVec 30) (lit : Word) : List Half := (2#2 ++ b) :: words2 lit
def wordsYL (b : BitVec 30) (y lit : Word) : List Half := (3#2 ++ b) :: (words2 y ++ words2 lit)

/-- The words of an instruction (R72, R77 and the entries' encoding rows), in address order. A machine event has
none. -/
def encode : Instr → List Half
  | .add rd rs1 rs2 => words1 (packC 0x01 rd rs1 rs2 0)
  | .sub rd rs1 rs2 => words1 (packC 0x01 rd rs1 rs2 1)
  | .and rd rs1 rs2 => words1 (packC 0x01 rd rs1 rs2 2)
  | .or rd rs1 rs2 => words1 (packC 0x01 rd rs1 rs2 3)
  | .xor rd rs1 rs2 => words1 (packC 0x01 rd rs1 rs2 4)
  | .andn rd rs1 rs2 => words1 (packC 0x01 rd rs1 rs2 5)
  | .shl rd rs1 rs2 => words1 (packC 0x01 rd rs1 rs2 6)
  | .shr rd rs1 rs2 => words1 (packC 0x01 rd rs1 rs2 7)
  | .sar rd rs1 rs2 => words1 (packC 0x01 rd rs1 rs2 8)
  | .rot rd rs1 rs2 => words1 (packC 0x01 rd rs1 rs2 9)
  | .min rd rs1 rs2 => words1 (packC 0x01 rd rs1 rs2 10)
  | .max rd rs1 rs2 => words1 (packC 0x01 rd rs1 rs2 11)
  | .minu rd rs1 rs2 => words1 (packC 0x01 rd rs1 rs2 12)
  | .maxu rd rs1 rs2 => words1 (packC 0x01 rd rs1 rs2 13)
  | .mul rd rs1 rs2 => words1 (packC 0x02 rd rs1 rs2 0)
  | .mulh rd rs1 rs2 => words1 (packC 0x02 rd rs1 rs2 1)
  | .mulhu rd rs1 rs2 => words1 (packC 0x02 rd rs1 rs2 2)
  | .div rd rs1 rs2 => words1 (packC 0x02 rd rs1 rs2 3)
  | .divu rd rs1 rs2 => words1 (packC 0x02 rd rs1 rs2 4)
  | .rem rd rs1 rs2 => words1 (packC 0x02 rd rs1 rs2 5)
  | .remu rd rs1 rs2 => words1 (packC 0x02 rd rs1 rs2 6)
  | .cmp cond rd rs1 rs2 => words1 (packC 0x03 rd rs1 rs2 (0#5 ++ cond))
  | .sel rd rc rs1 rs2 => words1 (packC 0x04 rd rs1 rs2 (rc ++ 0#3))
  | .clz rd rs1 => words1 (packC 0x05 rd rs1 0 0)
  | .ctz rd rs1 => words1 (packC 0x05 rd rs1 0 1)
  | .popc rd rs1 => words1 (packC 0x05 rd rs1 0 2)
  | .bext rd rs1 rs2 => words1 (packC 0x05 rd rs1 rs2 3)
  | .bins rd rs1 rs2 => words1 (packC 0x05 rd rs1 rs2 4)
  | .movi rd imm => words1 (packI 0x06 rd 0 imm)
  | .moviLit rd lit => wordsL (packI 0x06 rd 0 0) lit
  | .addi rd rs1 imm => words1 (packI 0x07 rd rs1 imm)
  | .addiLit rd rs1 lit => wordsL (packI 0x07 rd rs1 0) lit
  | .andi rd rs1 imm => words1 (packI 0x08 rd rs1 imm)
  | .andiLit rd rs1 lit => wordsL (packI 0x08 rd rs1 0) lit
  | .ori rd rs1 imm => words1 (packI 0x09 rd rs1 imm)
  | .oriLit rd rs1 lit => wordsL (packI 0x09 rd rs1 0) lit
  | .xori rd rs1 imm => words1 (packI 0x0A rd rs1 imm)
  | .xoriLit rd rs1 lit => wordsL (packI 0x0A rd rs1 0) lit
  | .shli rd rs1 sh => words1 (packI 0x0B rd rs1 (0#6 ++ sh))
  | .shri rd rs1 sh => words1 (packI 0x0C rd rs1 (0#6 ++ sh))
  | .sari rd rs1 sh => words1 (packI 0x0D rd rs1 (0#6 ++ sh))
  | .br cond rs1 off => words1 (packBc 0x10 rs1 cond off)
  | .loop rs1 off => words1 (packBc 0x11 rs1 0 off)
  | .jmp off => words1 (packBj 0x12 0 off)
  | .jmpLit lit => wordsL (packBj 0x12 0 0) lit
  | .call rd off => words1 (packBj 0x13 rd off)
  | .callLit rd lit => wordsL (packBj 0x13 rd 0) lit
  | .jr rd rs1 => words1 (packC 0x14 rd rs1 0 0)
  | .ret => words1 (packC 0x15 0 0 0 0)
  | .ld sz rt rb disp => words1 (packM 0x18 rt rb sz disp)
  | .ldLit sz rt rb lit => wordsL (packM 0x18 rt rb sz 0) lit
  | .st sz rt rb disp => words1 (packM 0x19 rt rb sz disp)
  | .stLit sz rt rb lit => wordsL (packM 0x19 rt rb sz 0) lit
  | .ldp rt rb disp => words1 (packM 0x1A rt rb 7 disp)
  | .ldpLit rt rb lit => wordsL (packM 0x1A rt rb 7 0) lit
  | .stp rt rb disp => words1 (packM 0x1B rt rb 7 disp)
  | .stpLit rt rb lit => wordsL (packM 0x1B rt rb 7 0) lit
  | .pref hint rb disp => words1 (packM 0x1C hint rb 0 disp)
  | .prefLit hint rb lit => wordsL (packM 0x1C hint rb 0 0) lit
  | .amo rt rb sz rv aop => words1 (packMa 0x1D rt rb sz rv aop)
  | .upd rb sz rv aop => words1 (packMa 0x1E 0 rb sz rv aop)
  | .fadd rd rs1 rs2 d rm => words1 (packC 0x20 rd rs1 rs2 (d ++ rm ++ 0#4))
  | .fsub rd rs1 rs2 d rm => words1 (packC 0x20 rd rs1 rs2 (d ++ rm ++ 1#4))
  | .fmul rd rs1 rs2 d rm => words1 (packC 0x20 rd rs1 rs2 (d ++ rm ++ 2#4))
  | .fdiv rd rs1 rs2 d rm => words1 (packC 0x20 rd rs1 rs2 (d ++ rm ++ 3#4))
  | .fsqrt rd rs1 d rm => words1 (packC 0x20 rd rs1 0 (d ++ rm ++ 4#4))
  | .fmin rd rs1 rs2 d => words1 (packC 0x20 rd rs1 rs2 (d ++ 7#3 ++ 5#4))
  | .fmax rd rs1 rs2 d => words1 (packC 0x20 rd rs1 rs2 (d ++ 7#3 ++ 6#4))
  | .fminm rd rs1 rs2 d => words1 (packC 0x20 rd rs1 rs2 (d ++ 7#3 ++ 7#4))
  | .fmaxm rd rs1 rs2 d => words1 (packC 0x20 rd rs1 rs2 (d ++ 7#3 ++ 8#4))
  | .fma rd rs1 rs2 rs3 d => words1 (packC 0x21 rd rs1 rs2 (rs3 ++ d ++ 0#2))
  | .fcmp d cond rd rs1 rs2 => words1 (packC 0x22 rd rs1 rs2 (d ++ 0#4 ++ cond))
  | .fcvt rd rs1 tk fk rm => words1 (packC 0x23 rd rs1 (tk ++ 0#2) (fk ++ 0#2 ++ rm))
  | .fclass rd rs1 d => words1 (packC 0x24 rd rs1 0 (d ++ 0#7))
  | .csrr rd csr => words1 (packI 0x28 rd 0 csr)
  | .csrw rd csr rs1 => words1 (packI 0x29 rd rs1 csr)
  | .csrs rd csr rs1 => words1 (packI 0x2A rd rs1 csr)
  | .csrc rd csr rs1 => words1 (packI 0x2B rd rs1 csr)
  | .mbw n rs1 => words1 (packC 0x2C 0 rs1 0 (0#5 ++ n))
  | .mbr rd n => words1 (packC 0x2C rd 0 0 (2#5 ++ n))
  | .mbq rd n => words1 (packC 0x2C rd 0 0 (4#5 ++ n))
  | .nop => words1 (packC 0x2D 0 0 0 0)
  | .eret => words1 (packC 0x2D 0 0 0 1)
  | .brk => words1 (packC 0x2D 0 0 0 2)
  | .halt => words1 (packC 0x2D 0 0 0 3)
  | .rand rd => words1 (packC 0x2D rd 0 0 4)
  | .trap code => words1 (packI 0x2E 0 0 code)
  | .vlda d a rm sat => words1 (packW 0x30 d 0 a 0 rm sat 0)
  | .vsta s a rm sat => words1 (packW 0x30 0 s a 0 rm sat 1)
  | .vadd d s b rm sat => words1 (packW 0x31 d s 0 b rm sat 0)
  | .vsub d s b rm sat => words1 (packW 0x31 d s 0 b rm sat 1)
  | .vmul d s b rm sat => words1 (packW 0x31 d s 0 b rm sat 2)
  | .vfma d s a b rm sat => words1 (packW 0x31 d s a b rm sat 3)
  | .vfms d s a b rm sat => words1 (packW 0x31 d s a b rm sat 4)
  | .vmax d s b => words1 (packW 0x31 d s 0 b 0 0 5)
  | .vmin d s b => words1 (packW 0x31 d s 0 b 0 0 6)
  | .vabs d s => words1 (packW 0x31 d s 0 0 0 0 7)
  | .vneg d s => words1 (packW 0x31 d s 0 0 0 0 8)
  | .vclamp d s a b => words1 (packW 0x31 d s a b 0 0 9)
  | .vscale d s b rm sat => words1 (packW 0x31 d s 0 b rm sat 10)
  | .vdot d s a b rm sat => words1 (packW 0x31 d s a b rm sat 11)
  | .vand d s b => words1 (packW 0x32 d s 0 b 0 0 0)
  | .vor d s b => words1 (packW 0x32 d s 0 b 0 0 1)
  | .vxor d s b => words1 (packW 0x32 d s 0 b 0 0 2)
  | .vshl d s b => words1 (packW 0x32 d s 0 b 0 0 3)
  | .vshr d s b arith => words1 (packW 0x32 d s 0 b (0#2 ++ arith) 0 4)
  | .vsel d s b n peek => words1 (packW 0x33 d s n b (0#2 ++ peek) 0 0)
  | .vcmp n s b cond => words1 (packW 0x33 0 s n b cond 0 1)
  | .vperm d s b => words1 (packW 0x33 d s 0 b 0 0 2)
  | .vshuf d s pat => words1 (packW 0x33 d s 0 0 pat 0 3)
  | .viota d => words1 (packW 0x33 d 0 0 0 0 0 4)
  | .vred n s op => words1 (packW 0x33 0 s n 0 op 0 5)
  | .vbcast d n peek => words1 (packW 0x33 d 0 n 0 (0#2 ++ peek) 0 6)
  | .vcvt s b rm sat => words1 (packW 0x34 0 s 0 b rm sat 0)
  | .vcvtAuto s b rm sat => words1 (packW 0x34 0 s 0 b rm sat 1)
  | .vexp2 d s => words1 (packW 0x35 d s 0 0 0 0 0)
  | .vlog2 d s => words1 (packW 0x35 d s 0 0 0 0 1)
  | .vrcp d s => words1 (packW 0x35 d s 0 0 0 0 2)
  | .vrsq d s => words1 (packW 0x35 d s 0 0 0 0 3)
  | .vtanh d s => words1 (packW 0x35 d s 0 0 0 0 4)
  | .vsig d s => words1 (packW 0x35 d s 0 0 0 0 5)
  | .pset n rs1 => words1 (packC 0x36 0 rs1 n 0)
  | .padd n rs1 => words1 (packC 0x36 0 rs1 n 1)
  | .pget rd n => words1 (packC 0x36 rd 0 n 2)
  | .fset n rs1 => words1 (packC 0x36 0 rs1 n 3)
  | .fget rd n => words1 (packC 0x36 rd 0 n 4)
  | .acccfg rs1 => words1 (packC 0x36 0 rs1 0 5)
  | .acccfgKeep rs1 => words1 (packC 0x36 0 rs1 0 6)
  | .accsw => words1 (packC 0x36 0 0 0 7)
  | .rep cnt ni rowstep ptrstep => words1 (packRep 0x37 cnt ni rowstep ptrstep)
  | .evdef rd rs1 => words1 (packE 0x40 rd rs1 0 0 0)
  | .evdel rd rs1 => words1 (packE 0x40 rd rs1 0 1 0)
  | .evstat rd rs1 rs2 => words1 (packE 0x40 rd rs1 rs2 2 0)
  | .offerSync rn => words1 (packE 0x40 0 rn 0 3 0)
  | .offerGive rn rg => words1 (packE 0x40 0 rn rg 3 1)
  | .offerTake rt rn => words1 (packE 0x40 rt rn 0 3 2)
  | .offerBoth rt rn rg => words1 (packE 0x40 rt rn rg 3 3)
  | .wdraw slot => words1 (packE 0x40 0 0 0 4 (0#1 ++ slot))
  | .wdrawAll => words1 (packE 0x40 0 0 0 4 8)
  | .selectNb rd => words1 (packE 0x40 rd 0 0 5 1)
  | .selectT rd => words1 (packE 0x40 rd 0 0 5 2)
  | .selectNbLimit rd lit => wordsL (packE 0x40 rd 0 0 5 1) lit
  | .selectTLimit rd lit => wordsL (packE 0x40 rd 0 0 5 2) lit
  | .phase rd => words1 (packE 0x40 rd 0 0 6 0)
  | .gang => words1 (packE 0x40 0 0 0 7 0)
  | .spawn rd rs1 rs2 => words1 (packE 0x41 rd rs1 rs2 0 0)
  | .hend => words1 (packE 0x41 0 0 0 1 0)
  | .take rs1 rs2 => words1 (packE 0x41 0 rs1 rs2 2 0)
  | .done rs1 rs2 => words1 (packE 0x41 0 rs1 rs2 3 0)
  | .poolcfg rd rs1 rs2 => words1 (packE 0x41 rd rs1 rs2 4 0)
  | .poolput rd rs1 rs2 => words1 (packE 0x41 rd rs1 rs2 5 0)
  | .domset rs1 => words1 (packE 0x41 0 rs1 0 6 0)
  | .fifobind rs3 rs1 rs2 => words1 (packE 0x41 rs3 rs1 rs2 7 0)
  | .mldb rs1 rs2 ft bank row0 sc nrm1 => wordsY (packC 0x48 0 rs1 rs2 0) (packY 0 (ft ++ 0#4 ++ bank ++ row0 ++ sc ++ nrm1))
  | .mmul d nrm1 pa pm1 z km1 => wordsY (packC 0x48 0 0 0 1) (packY 0 (d ++ nrm1 ++ pa ++ pm1 ++ z ++ 0#9 ++ km1))
  | .mcfg rs1 => wordsY (packC 0x48 0 rs1 0 2) (packY 0 0)
  | .mstat rd sel => wordsY (packC 0x48 rd 0 0 3) (packY 0 sel)
  | .mspill rs1 mask => wordsY (packC 0x48 0 rs1 0 4) (packY 0 (0#24 ++ mask))
  | .mfill rs1 mask => wordsY (packC 0x48 0 rs1 0 5) (packY 0 (0#24 ++ mask))
  | .fenceL => words1 (packC 0x50 0 0 0 0)
  | .cflush depth rs1 => words1 (packC 0x50 depth rs1 0 1)
  | .cinv depth rs1 => words1 (packC 0x50 depth rs1 0 2)
  | .cinvI rs1 => words1 (packC 0x50 0 rs1 0 3)
  | .czero rs1 => words1 (packC 0x50 0 rs1 0 4)
  | .bankrole rd rs1 rs2 => words1 (packC 0x50 rd rs1 rs2 5)
  | .tlbiAll part => words1 (packC 0x50 (0#2 ++ part ++ 0#2) 0 0 6)
  | .tlbiAsid part rs2 => words1 (packC 0x50 (0#2 ++ part ++ 1#2) 0 rs2 6)
  | .tlbiPage part rs1 rs2 => words1 (packC 0x50 (0#2 ++ part ++ 2#2) rs1 rs2 6)
  | .tlbiVa part rs1 => words1 (packC 0x50 (0#2 ++ part ++ 3#2) rs1 0 6)
  | .wpset n rs1 rs2 => words1 (packC 0x50 (0#3 ++ n) rs1 rs2 7)
  | .fifoadv rd rs1 rs2 => words1 (packC 0x50 rd rs1 rs2 8)
  | .layreg acc rd rs1 => wordsY (packC 0x58 rd rs1 0 7) (packY 0 (0#30 ++ acc))
  | .layregLit acc rd lit => wordsYL (packC 0x58 rd 0 0 7) (packY 0 (0#30 ++ acc)) lit
  | .layrel rd rs1 => wordsY (packC 0x58 rd rs1 0 8) (packY 0 0)
  | .copy rm sat rd rs1 rs2 rs3 => wordsY (packC 0x58 rd rs1 rs2 0) (packY rs3 (0#28 ++ sat ++ rm))
  | .copyFirst rm sat rd rs1 rs2 rs3 lit => wordsYL (packC 0x58 rd rs1 rs2 0) (packY rs3 (0#28 ++ sat ++ rm)) lit
  | .cstat rd rs1 => wordsY (packC 0x58 rd rs1 0 1) (packY 0 0)
  | .cstatAbort rd rs1 => wordsY (packC 0x58 rd rs1 0 1) (packY 0 1)
  | .pbind rd rs1 => wordsY (packC 0x58 rd rs1 0 2) (packY 0 0)
  | .punbind rd rs1 => wordsY (packC 0x58 rd rs1 0 3) (packY 0 0)
  | .pstat rd rs1 rs2 => wordsY (packC 0x58 rd rs1 rs2 4) (packY 0 0)
  | .permit rt rs1 rs2 => wordsY (packC 0x58 rt rs1 rs2 5) (packY 0 0)
  | .rescls cls rd rs1 => wordsY (packC 0x58 rd rs1 0 6) (packY 0 (0#30 ++ cls))
  | .tcfgNew rd rs1 rs2 => wordsY (packC 0x60 rd rs1 rs2 0) (packY 0 0)
  | .tcfgNewLit rd rs2 lit => wordsYL (packC 0x60 rd 0 rs2 0) (packY 0 0) lit
  | .tcfgGrow rd rs1 rs2 => wordsY (packC 0x60 rd rs1 rs2 0) (packY 0 1)
  | .tcfgGrowLit rd rs2 lit => wordsYL (packC 0x60 rd 0 rs2 0) (packY 0 1) lit
  | .tcfgDel rd rs2 => wordsY (packC 0x60 rd 0 rs2 0) (packY 0 2)
  | .troot rd rs1 rs2 => wordsY (packC 0x60 rd rs1 rs2 1) (packY 0 0)
  | .tdesc rd rs1 => wordsY (packC 0x60 rd rs1 0 2) (packY 0 0)
  | .texp rd rs1 rs2 rs3 k => wordsY (packC 0x60 rd rs1 rs2 3) (packY rs3 (0#23 ++ k))
  | .texpTerm rd rs1 rs2 => wordsY (packC 0x60 rd rs1 rs2 3) (packY 0 0x10000)
  | .tback rd rs1 rs2 rs3 => wordsY (packC 0x60 rd rs1 rs2 4) (packY rs3 0)
  | .tbackVlo rd rs1 rs2 => wordsY (packC 0x60 rd rs1 rs2 4) (packY 0 1)
  | .tbatch rd rs1 => wordsY (packC 0x60 rd rs1 0 5) (packY 0 0)
  | .treuse rd rs1 rs2 => wordsY (packC 0x60 rd rs1 rs2 6) (packY 0 0)
  | .treadStats rd rs1 rs2 => wordsY (packC 0x60 rd rs1 rs2 7) (packY 0 0)
  | .treadLinks rd rs1 rs2 => wordsY (packC 0x60 rd rs1 rs2 7) (packY 0 1)
  | .treadTree rd rs1 => wordsY (packC 0x60 rd rs1 0 7) (packY 0 2)
  | .packageReset _ _ => []
  | .instructionFetchFill _ _ _ => []
  | .loadDataReturn _ _ _ => []
  | .randEntropyReady _ _ => []
  | .mbwComplete _ _ => []
  | .mbrComplete _ _ => []
  | .mailboxDeposit _ _ _ _ _ _ => []
  | .requestAnswer _ _ _ => []
  | .haltComplete _ => []
  | .asyncTrapEntry _ _ => []
  | .uncorrectable _ _ _ _ _ _ => []
  | .wideExecute _ => []
  | .repPass _ => []
  | .mmulJoin _ => []
  | .mmulRowBroadcast _ => []
  | .homeOfferArrives _ _ => []
  | .homeGrant _ _ _ => []
  | .homeRefusal _ _ _ => []
  | .homeWoundRequest _ _ _ => []
  | .homeWithdrawal _ _ _ _ => []
  | .homeRetryTime _ => []
  | .homeDeliveryConfirmed _ _ _ => []
  | .latchEnableNotice _ _ _ _ => []
  | .latchCancel _ _ _ => []
  | .latchClaim _ _ _ _ => []
  | .latchRelease _ _ _ => []
  | .latchCommit _ _ _ _ => []
  | .latchLimitExpiry _ => []
  | .latchStop _ => []
  | .latchResume _ => []
  | .latchRefusal _ _ _ _ => []
  | .latchLastPayloadDelivered _ _ _ => []
  | .spillPoll _ => []
  | .payloadLanding _ _ _ _ _ _ => []
  | .standingAgentOffer _ => []
  | .probeRouterVisit _ => []
  | .storeAck _ _ => []
  | .releaseComplete _ _ => []
  | .l1SectorFill _ _ _ => []
  | .llcFill _ _ _ _ => []
  | .amoAtHome _ _ _ => []
  | .updPartialCombine _ => []
  | .pageWalk _ _ _ _ => []
  | .windowAccessAtTarget _ => []
  | .hostWindowCompletion _ _ _ => []
  | .hostLoadTimeout _ _ => []
  | .bankRoleChangeComplete _ => []
  | .copyCommandRun _ => []
  | .copyCompletionOffer _ => []
  | .pipelineStageProduce _ _ => []
  | .permitAgentOffer _ _ => []
  | .weltBind _ => []
  | .weltUnbind _ _ _ _ => []
  | .cantleOperation _ _ _ _ _ => []
  | .batchOffer _ _ => []
  | .reclamationFree _ _ _ => []
  | .launchPacket _ _ => []
  | .poolPacket _ _ => []
  | .waitPacket _ _ => []
  | .signalPacket _ _ => []
  | .copyPacket _ _ _ => []
  | .bindPacket _ _ => []
  | .bindReleasePacket _ _ => []
  | .completionRecordWrite _ => []
  | .hostApertureAccess _ => []
  | .placement _ => []
  | .gangDrain _ => []
  | .gangCompaction _ => []
  | .preemptionRequest _ _ => []
  | .coreHalted _ => []
  | .contextSwitch _ _ _ _ => []
  | .coreRestore _ => []
  | .residentPairSwap _ _ => []
  | .replacement _ _ _ => []
  | .createPartition _ _ => []
  | .destroyPartition _ _ => []
  | .writeRegionRegister _ _ _ _ _ => []
  | .assignResources _ _ => []
  | .setupTraceReplay _ _ => []
  | .writeRoutingTable _ _ _ _ => []
  | .preemptWorkgroupRequest _ _ _ => []
  | .debugBlockRequest _ _ _ _ => []
  | .flushTraceRequest _ _ => []
  | .dbgHaltreq _ => []
  | .dbgResume _ => []
  | .dbgStep _ => []
  | .stopComplete _ => []
  | .stepComplete _ => []
  | .dbgdataRead _ => []
  | .dbgdataWrite _ _ => []
  | .dbgstatRead _ => []
  | .registerWrite _ _ => []
  | .traceSample _ => []
  | .traceCountRecord _ => []
  | .segmentSeal _ _ => []
  | .segmentWriteAck _ _ => []
  | .powerGate _ => []
  | .replayLogEnd _ _ => []
  | .timebaseAlignment _ => []
  | .laneFailure _ _ => []
  | .portRetrainComplete _ _ => []
  | .portDown _ => []
  | .flitCrcRetry _ => []
  | .pldmPassComponentTable _ => []
  | .pldmUpdateComponent _ _ _ => []
  | .pldmRequestFirmwareData _ => []
  | .pldmTransferComplete _ => []
  | .pldmVerifyComplete => []
  | .pldmApplyComplete => []
  | .pldmActivateFirmware => []
  | .commitWindowEnd => []
  | .spdmRequest _ => []
  | .powerLimitSet _ => []
  | .pldmPlatformRead _ => []
  | .qtailDoorbellWrite _ _ => []
  | .postedWriteErrorMessage => []

/-- The first word of an instruction, zero-extended: the TVAL of several causes (R79, R134). -/
def firstWord (i : Instr) : Word := ((encode i).getD 0 0).setWidth 64

/-- The length of an instruction in bytes (R68). -/
def byteLen (i : Instr) : Nat := 4 * (encode i).length

/-- The bytes of a number, least significant first (R4). -/
def bytesOfNat : Nat → Nat → List Byte
  | 0, _ => []
  | n + 1, v => BitVec.ofNat 8 (v % 256) :: bytesOfNat n (v / 256)

/-- The instruction the decoder reads from an instruction whose bits are `w`, numbered as the opcode table numbers
them (bit 0 the least significant bit of the first word); the bits above `nbits` are zero. -/
def decodeTableWord (nbits w : Nat) : Option Instr :=
  match decodeBytes (bytesOfNat 20 (w % 2 ^ nbits)) with
  | .ok i => some i
  | .illegal _ => none

end Sys2Proof
end

