-- ==== Sys2Proof/Machine/State.lean ====
section
/-!
DEFINITION. Everything the spec gives the package to hold, as plain data: contexts, cores, wide sides, latches and
homes, clusters, dies, the front end, the partitions, firmware and links; and the machine right after reset.
INVENTORY.md lists each item with its rule and its reset value.
-/

namespace Sys2Proof.Machine

open Sys2Proof

/-- A table: pairs of a number and a record, kept in rising order by `Tbl.put` (Ops.lean). A number that is not
listed holds the table's reset record. -/
abbrev Tbl (α : Type) := List (Nat × α)

/-- Bytes of memory: (address, byte) pairs in rising order, none with the byte an unlisted address reads as (0,
R483 step 3 for GDDR 7, R263 for the local space). -/
abbrev Memory := List Host.Cell

/-- A privilege level (R16). -/
inductive Priv where
  | u | s | h
  deriving DecidableEq, Repr

/-- A bank role (R37). -/
inductive Role where
  | cache | scratch | operand | fifo | caddy
  deriving DecidableEq, Repr

/-- Why a LIVE context is not ready (R164). `none` is a context that is ready. -/
inductive Wait where
  | none
  /-- An instruction fetch (R42), at this physical word address, under this key (R269). -/
  | fetch (pa : Addr) (key : Nat)
  /-- A table walk for this virtual page (R291). -/
  | walk (va : Addr) (access : Access)
  /-- A sector fill of the L1 (R276). -/
  | fill (sector : Nat)
  /-- Data from a window or the host (R288, R459): the load's address and how many bytes are asked for. -/
  | data (ea : Addr) (n : Nat)
  /-- The answer of an AMO (R308). -/
  | amo (rt : Reg) (n : Nat) (ea : Addr)
  /-- A full wide queue (R33). -/
  | wideFull
  /-- An overlapping queued wide access (R34), or an MSPILL or MFILL (R262): the local or physical bytes. -/
  | overlap (isLocal : Bool) (lo n : Nat)
  /-- The value of PGET, FGET or MSTAT (R131). -/
  | wideVal
  | mbw (n : Nat) (v : Word)
  | mbr (n : Nat) (rd : Reg)
  /-- SELECT, with .T or .NB, and the bytes of the instruction (R218). -/
  | select (t : Bool) (rd : Reg) (len : Nat)
  | phase (rd : Reg)
  | gang
  | rand (rd : Reg)
  /-- Step 1 of HALT (R129). -/
  | halt
  /-- The answer of a request (R207), and the bytes of the instruction. -/
  | request (len : Nat)
  /-- DONE, for its store acknowledgements (R227). -/
  | storeAcks (handle count : Word)
  /-- A release (R305). -/
  | release
  /-- A full store buffer (R97). -/
  | stbuf
  /-- A bank role change in progress (R274). -/
  | role (bank : Nat)
  /-- BANKROLE until its change is complete (R271). -/
  | roleChange
  /-- FIFOADV, for earlier wide accesses to the bank (R325). -/
  | fifoAcc (bank : Nat)
  /-- A full replay ring (R440). -/
  | replay
  /-- The second part of a misaligned load (R113). -/
  | half
  /-- The answer of an abandoned load, before the next request goes outside. -/
  | stale
  /-- TLBI, for the walks in flight at its issue: core and context (R323). -/
  | walks (ws : List (Nat × Nat))
  /-- The entry of a synchronous trap of the control context, which waits for the end of a REP's pass (R160). -/
  | trapping (c : Cause)
  deriving DecidableEq, Repr

/-- A staged offer of a context (R215): what SELECT will send. -/
structure Staged where
  name : Nat
  dir : Dir
  give : Option Region
  take : Option Region
  copy : Option CopyCmd
  deriving DecidableEq, Repr

/-- One hardware context (R13). -/
structure Ctx where
  live : Bool
  x : Vector Word 32
  pc : Word
  priv : Priv
  status : Word
  epc : Word
  cause : Word
  tval : Word
  faultcap : Word
  hstatus : Word
  hepc : Word
  hcause : Word
  htval : Word
  hfaultcap : Word
  frm : BitVec 3
  fflags : BitVec 5
  evlim : Half
  evsel : BitVec 4
  asid : BitVec 16
  ptroot : Word
  cclass : BitVec 4
  rescls : BitVec 2
  staged : Tbl Staged
  backoff : Nat
  wait : Wait
  /-- Pending asynchronous causes (R18). -/
  pend : List Cause
  /-- Sectors of the core's L1 that hold bytes the context stored since its last release (R305). -/
  released : List Nat
  /-- Stores of the context to a window, the host or straight to a home that are not acknowledged yet (R305). -/
  owed : Nat
  /-- Set when the release the waiting instruction began is complete. -/
  relDone : Bool
  /-- The data that came back for the waiting load. -/
  rdata : Option (List Byte)
  /-- The 64-byte record that came back for EVSTAT or PSTAT, before it is stored. -/
  recd : Option (List Byte)
  /-- The part of a misaligned load that has been performed: whether it is the upper one, and its bytes (R113). -/
  half : Option (Bool × List Byte)
  /-- A body word of the REP at the PC is being fetched: no asynchronous cause is taken inside the capture (R156, R157). -/
  capturing : Bool
  /-- Words fetched from a window or the host for the instruction at the PC: no cache keeps them (R267). -/
  fetched : Tbl Half
  /-- The answer of a load that was abandoned is still to come from outside (R114). -/
  stale : Bool
  /-- The zero-length read that follows the context's host-window stores at a release is out (R458). -/
  flushing : Bool
  /-- Next item of the context's replay log (R436). -/
  logPos : Nat
  /-- X1-X31 as they stood at a logged trap whose handler has not returned yet (R435). -/
  trapX : Option (Vector Word 32)
  /-- Page, reserved-bit, region and fetch faults into each level that have not returned yet: the code, the PC and X1-X31 at the trap. They are
  logged where the handler returns elsewhere (R437). -/
  faults : Tbl (Nat × Word × Vector Word 32)
  /-- CYCLE of the latest flag set by the wide side, a home or an engine, and the flags set in that cycle (R65). -/
  flagCyc : Word
  flagNew : BitVec 5
  deriving DecidableEq, Repr

/-- The state R13 gives a created context, not live. -/
def Ctx.reset : Ctx :=
  { live := false, x := Vector.replicate 32 0, pc := 0, priv := .u, status := 0, epc := 0, cause := 0, tval := 0,
    faultcap := 0, hstatus := 0, hepc := 0, hcause := 0, htval := 0, hfaultcap := 0, frm := 0, fflags := 0,
    evlim := 0, evsel := 0, asid := 0, ptroot := 0, cclass := 0, rescls := 0, staged := [], backoff := 0,
    wait := .none, pend := [], released := [], owed := 0, relDone := false, rdata := none,
    recd := none, half := none, capturing := false, fetched := [], stale := false, flushing := false, logPos := 0,
    trapX := none, faults := [], flagCyc := 0, flagNew := 0 }

/-- The shape and the status words of an ACC bank (R28, R29). -/
structure Acc where
  /-- Lane l of row r is item 64 r + l. -/
  lanes : List Half
  st : List Half
  rows : Nat
  int : Bool
  deriving DecidableEq, Repr

/-- ACC at core reset (R28, R155). -/
def Acc.reset : Acc := { lanes := List.replicate 1024 0, st := List.replicate 16 0, rows := 16, int := false }

/-- One entry of the wide queue (R33): the instruction with the values it took at issue. -/
structure WEntry where
  i : Instr
  /-- X[rs1] and X[rs2] at issue. -/
  v1 : Word
  v2 : Word
  /-- The rounding mode, taken at issue (R51). -/
  rm : Nat
  /-- MMUL: its number (R242), its shape word's A format, the next row, and whether it has joined. -/
  e : Nat
  j : Nat
  afmt : Half
  row : Nat
  joined : Bool
  /-- REP: the captured body and the next pass (R156, R158). -/
  body : List Instr
  pass : Nat
  /-- Helpers spawned since it was queued: what they access waits for it as the control context does (R222). -/
  helpers : List Nat
  /-- Local bytes it reads or writes, as checked at entry: address and length (R34). -/
  runs : List (Nat × Nat)
  /-- MSPILL, MFILL: the translated pages (virtual page, physical page, key) (R261). -/
  pages : List (Nat × Nat × Nat)
  deriving DecidableEq, Repr

/-- The wide side of a core (R27). -/
structure Wide where
  acc : Acc
  shadow : Acc
  ptr : List Word
  origin : List (BitVec 21)
  fmt : List Half
  queue : List WEntry
  mcfg : Word
  /-- The matrix configuration of the core's second resident context (R240). -/
  mcfg2 : Word
  gmis : Bool
  mpois : Bool
  /-- Gang occurrences seen, and MMULs queued since the latest (R242). -/
  gangE : Nat
  gangJ : Nat
  deriving DecidableEq, Repr

/-- The wide side at core reset. -/
def Wide.reset : Wide :=
  { acc := Acc.reset, shadow := Acc.reset, ptr := List.replicate 8 0, origin := List.replicate 8 0,
    fmt := [0x40000000, 0x20000000, 0x30000000, 0x10200071] ++ List.replicate 12 0x40000000, queue := [],
    mcfg := 7, mcfg2 := 7, gmis := false, mpois := false, gangE := 0, gangJ := 0 }

/-- A FIFO bank's counters and binding (R277, R189). -/
structure FifoBank where
  head : BitVec 24
  tail : BitVec 24
  /-- The bound channel, its SIZE, and the ready event, 0 for none. -/
  bound : Option (Nat × Nat × Nat)
  /-- CYCLE of the latest change of a counter, and the counters as they stood at the start of that cycle (R280). -/
  cyc : Word
  head0 : BitVec 24
  tail0 : BitVec 24
  deriving DecidableEq, Repr

/-- The counters on entering FIFO (R272). -/
def FifoBank.reset : FifoBank := { head := 0, tail := 0, bound := none, cyc := 0, head0 := 0, tail0 := 0 }

/-- One sector of the L1 (R275): its line's way, its bytes as filled and stored, which bytes are dirty, its poison,
key and the update-only partials (R309: the AOP, the size and the touched elements). -/
structure Sector where
  way : Nat
  bytes : List Byte
  dirty : List Nat
  pois : Bool
  key : Nat
  upd : Option (Nat × Nat × List UpdElem)
  /-- An uncorrectable error of its bank hit these bytes: their poison does not go by a refresh (R287). -/
  hurt : Bool
  /-- The context that last stored, for the AGENT of a match (R423). -/
  by_ : Nat
  deriving DecidableEq, Repr

/-- A store that waits in the store buffer (R97): for its sector's fill, or for its performing at its home, a window
target or the host. -/
structure StEntry where
  ctx : Nat
  pa : Addr
  key : Nat
  data : List Byte
  /-- Sent straight to its point of coherence, not through the L1. -/
  direct : Bool
  deriving DecidableEq, Repr

/-- A report of a remote watchpoint match (R424). -/
structure WatchReport where
  wp : Nat
  access : Access
  agent : Gid
  addr : Word
  time : Nat
  deriving DecidableEq, Repr

/-- A trace record (R426): its TIME, TYPE, GID, ARG and the doublewords of its payload. -/
structure TraceRec where
  time : Nat
  ty : Nat
  gid : Gid
  arg : Nat
  payload : List Word
  deriving DecidableEq, Repr

/-- The debug block of a core (R412-R418), less the counters. -/
structure Dbg where
  /-- WPSKIP, BRKSTOP, STEPCTX as DBGCTL holds them. -/
  ctl : Word
  why : Nat
  whyctx : Nat
  wp : Nat
  pois : Bool
  err : Bool
  time : Word
  sel : Word
  trctl : Word
  counts : List Word
  /-- CYCLE at which the next SAMPLE and the next COUNT record fall (R427). -/
  sampleAt : Nat
  countAt : Nat
  deriving DecidableEq, Repr

/-- The debug block at reset. -/
def Dbg.reset : Dbg :=
  { ctl := 0, why := 0, whyctx := 0, wp := 0, pois := false, err := false, time := 0, sel := 0, trctl := 0,
    counts := List.replicate 6 0, sampleAt := 0, countAt := 0 }

/-- Whether a core issues (R401, R415). -/
inductive Run where
  | running
  /-- A pre-emption is stopping the core. -/
  | halting
  /-- A debug stop is stopping the core. -/
  | stopping (why whyctx wp : Nat)
  /-- Halted by a pre-emption. -/
  | halted
  | stopped
  /-- Stepping one context; whether it has issued. -/
  | stepping (ctx : Nat) (issued : Bool)
  deriving DecidableEq, Repr

/-- A bank role change in progress (R271): the bank, the role, the waiting context, the register of its result. -/
structure RoleChange where
  bank : Nat
  role : Role
  ctx : Nat
  rd : Reg
  deriving DecidableEq, Repr

/-- The exchange plan of a bulk-synchronous launch on a core (R199-R201). -/
structure Exchange where
  plan : Addr
  key : Nat
  nstep : Nat
  step : Nat
  phase : Nat
  /-- The first phase occurrence has been passed. -/
  past : Bool
  /-- Exchange offers of the running step that have not occurred yet. -/
  left : List Nat
  running : Bool
  /-- A refusal of an exchange offer that found its context elsewhere than in PHASE: the name, and bits [63:32] of the value (R220). -/
  refused : Option (Nat × Nat)
  deriving DecidableEq, Repr

/-- A payload that the router of a stopped core holds (R185). -/
structure Held where
  ev : EvKey
  l : LatchId
  arm : Nat
  dst : Nat
  data : List Byte
  giver : Gid
  deriving DecidableEq, Repr

/-- A saved workgroup on one core (R403-R406): the header's fields, the records of the contexts, the core and the wide
side, the core's watch entries (R422), and the banks that were spilled (R404). Payloads queued for it stay with the
router. -/
structure Image where
  seq : Nat
  part : Nat
  wg : Nat
  haltt : Nat
  ctxs : Tbl Ctx
  rr : Nat
  tvec : Word
  htvec : Word
  hdeleg : Word
  mb : Vector Word 8
  mbFull : BitVec 8
  wpBase : List Word
  wpCtl : List Word
  watches : List (Nat × Nat × Nat)
  reports : List WatchReport
  roles : Vector Role 32
  lmem : BitVec 16
  lbase : BitVec 13
  sysdom : BitVec 13
  sysv : Bool
  wide : Wide
  exch : Option Exchange
  banks : List Nat
  loc : Memory
  locPoison : List Nat
  sidecar : Memory
  tags : Tbl Half
  fifo : Tbl FifoBank
  /-- Where in the partition's save area each spilled bank lies; under 32, the copy of the CADDY image (R404). -/
  places : Tbl Addr
  /-- The debug block, where the core was stopped by the debugger (R415). -/
  dbg : Option Dbg
  /-- PAIR: the image of a parked resident partner (R403). -/
  pair : Bool
  deriving DecidableEq, Repr

/-- A tile that the router of a stopped core holds (R185, R330): for which workgroup (`wgTag`, Ops.lean; 0 for whatever the core runs),
the binder's core, its local address, its bytes, and the tag that it gives operand banks. -/
structure HeldTile where
  wg : Nat
  binder : Nat
  place : Nat
  data : List Byte
  tag : Option Half
  deriving DecidableEq, Repr

/-- One core (R14). -/
structure Core where
  ctxs : Tbl Ctx
  /-- FFLAGS of contexts that have ended and have no record any more: they stay until the number is created again (R64). -/
  endFlags : Tbl (BitVec 5)
  rr : Nat
  tvec : Word
  htvec : Word
  hdeleg : Word
  mb : Vector Word 8
  mbFull : BitVec 8
  /-- Mailboxes at which a .PEEK has read the value that a waiting MBR is to take (R137). -/
  peeked : BitVec 8
  loc : Memory
  locPoison : List Nat
  sidecar : Memory
  tags : Tbl Half
  roles : Vector Role 32
  fifo : Tbl FifoBank
  roleChange : Option RoleChange
  l1 : Tbl Sector
  stbuf : List StEntry
  /-- Parts of misaligned local stores that are still to be performed: local address and bytes (R113). -/
  late : List (Addr × List Byte)
  /-- The instruction cache: words by address / 4, each with the key ID it was fetched under (R42, R285). -/
  icache : Tbl (Nat × Half)
  wide : Wide
  wpBase : List Word
  wpCtl : List Word
  reports : List WatchReport
  dbg : Dbg
  enc : List TraceRec
  lossOwed : Nat
  sent : Int
  /-- Of the router's count, what completed traffic with another router has left in it, by that router; other devices are 2^16 (R191, R192). -/
  edge : Tbl Int
  active : Bool
  held : List Held
  tiles : List HeldTile
  lmem : BitVec 16
  lbase : BitVec 13
  sysdom : BitVec 13
  sysv : Bool
  run : Run
  part : Option Nat
  wg : Option Nat
  lastPart : Option Nat
  exch : Option Exchange
  saveSeq : Nat
  image : Option Image
  parked : Option Image
  /-- A pre-emption holds the core beside a stop of the debugger (R415). -/
  haltPend : Bool
  /-- The stepped instruction is in the wide queue (R417). -/
  stepWide : Bool
  /-- SEQ of the image that was restored on the core (R426). -/
  restSeq : Nat
  /-- PINNED operand banks that a switched-out workgroup has left in place, and whose they are (R241). -/
  pins : Tbl Nat
  /-- The entropy source holds at least 64 bits (R130). -/
  entropy : Bool
  /-- CYCLE of the latest issue: the pipeline issues one instruction per cycle (R165). -/
  issuedAt : Option Word
  /-- What the debugger's writes of CYCLE and TIME have added to the core's own view of them (R418). -/
  cycleAdd : Word
  timeAdd : Word
  deriving DecidableEq, Repr

/-- The default bank layout (R37). -/
def defaultRoles : Vector Role 32 :=
  #v[.cache, .cache, .cache, .cache, .cache, .cache, .cache, .cache,
     .cache, .cache, .cache, .cache, .cache, .cache, .cache, .cache,
     .scratch, .scratch, .scratch, .scratch, .scratch, .scratch, .scratch, .scratch,
     .operand, .operand, .operand, .operand, .operand, .operand, .operand, .operand]

/-- A core at core reset. -/
def Core.reset : Core :=
  { ctxs := [], endFlags := [], rr := 0, tvec := 0, htvec := 0, hdeleg := 0, mb := Vector.replicate 8 0, mbFull := 0, peeked := 0, loc := [],
    locPoison := [], sidecar := [], tags := [], roles := defaultRoles, fifo := [], roleChange := none, l1 := [],
    stbuf := [], late := [], icache := [], wide := Wide.reset, wpBase := List.replicate 4 0, wpCtl := List.replicate 4 0,
    reports := [], dbg := Dbg.reset, enc := [], lossOwed := 0, sent := 0, edge := [], active := false, held := [], tiles := [],
    lmem := 0, lbase := 0, sysdom := 0, sysv := false, run := .running, part := none, wg := none, lastPart := none,
    exch := none, saveSeq := 0, image := none, parked := none, haltPend := false, stepWide := false, restSeq := 0, pins := [], entropy := true, issuedAt := none,
    cycleAdd := 0, timeAdd := 0 }

/-- The state of an offer latch (R178). -/
inductive LatchSt where
  | idle
  | armed
  | claimed (ev : EvKey) (st : Stamp)
  | committed (ev : EvKey)
  | dormant
  deriving DecidableEq, Repr

/-- An offer latch (R178). -/
structure Latch where
  st : LatchSt
  arm : Nat
  offers : List (EvKey × OfferMsg)
  notices : List (EvKey × Stamp)
  wound : Option (EvKey × Stamp)
  expPend : Bool
  stopPend : Bool
  /-- A refusal that waits behind a claim (R209): the name, and bits [63:32] of OFFER_REFUSED's value (R205). -/
  refusal : Option (Nat × Nat)
  /-- CYCLE at the arming, and the limit in cycles, 0 for none (R178). -/
  armedAt : Nat
  limit : Nat
  /-- The next poll of spilled events, in cycles (R187). -/
  pollAt : Option Nat
  /-- An asynchronous cause ends the wait in place of the return (R208). -/
  causePend : Bool
  /-- The committed event's last payload has landed while the core is stopped (R178). -/
  doneStopped : Bool
  /-- Payload messages of the occurrence that the latch's router has sent to other devices (R191). -/
  gave : Nat
  /-- CYCLE in which the latch last handled an input: it handles one per cycle (R179). -/
  inAt : Option Word
  /-- The commit told the latch that it takes the occurrence's only delivery, whose landing is the last (R176). -/
  sole : Bool
  /-- The saved PC of its stopped context lies after the waiting instruction: the result comes at resumption (R178). -/
  past : Bool
  /-- WAIT_LIMIT's value, read at an expiry that is held pending (R206). -/
  expVal : Word
  deriving DecidableEq, Repr

/-- A latch as R13 gives it: IDLE. -/
def Latch.reset : Latch :=
  { st := .idle, arm := 0, offers := [], notices := [], wound := none, expPend := false, stopPend := false,
    refusal := none, armedAt := 0, limit := 0, pollAt := none, causePend := false, doneStopped := false, gave := 0, inAt := none,
    sole := false, past := false, expVal := 0 }

/-- The mode of an event (R171). -/
inductive Mode where
  | sync | channel | bcast | gather | reduce | exchange
  deriving DecidableEq, Repr

/-- A descriptor as its home holds it (R171), the participants in their order (R172). -/
structure EventDesc where
  name : Nat
  mode : Mode
  size : Nat
  op : Nat
  all : Bool
  format : Half
  root : Gid
  parts : List Gid
  deriving DecidableEq, Repr

/-- The state of an event entry (R181). -/
inductive HomeSt where
  | waiting
  | claiming (i : Nat)
  | backoff
  | commit
  deriving DecidableEq, Repr

/-- An event entry at its home (R181). -/
structure Home where
  desc : EventDesc
  st : HomeSt
  offers : List OfferMsg
  /-- Latches that have granted the running claim; and claims whose answer is still in flight after the claim was given
  up, by latch and arm number. -/
  granted : List LatchId
  late : List (LatchId × Nat)
  stamp : Option Stamp
  starve : Nat
  occ : Nat
  lasten : Nat
  retryAt : Nat
  spilled : Bool
  /-- Where the descriptor lies in the partition's event spill area (R186). -/
  spillPa : Option Addr
  /-- The front end's agent takes part in the first occurrence, as the last of the descriptor's participants (R199). -/
  front : Bool
  /-- Deliveries of the occurrence that are not confirmed yet: takers with the bytes still to come. -/
  due : List (LatchId × Nat)
  /-- Bytes given to a REDUCE so far, by giver. -/
  reduce : List (LatchId × List Byte)
  imbal : List Word
  /-- The superstep that the committed phase occurrence ends (R202). -/
  step : Nat
  /-- A drained circuit has begun and ended since the event was enabled (R193). -/
  drained : Bool
  deriving DecidableEq, Repr

/-- A launch domain (R167). -/
structure Ldom where
  part : Nat
  wg : Nat
  scope : Nat
  /-- The member cores, as global IDs with CTX 0 in ascending order (R167). -/
  members : List Gid
  running : Bool
  deriving DecidableEq, Repr

/-- The coloured probe of a domain (R192-R194). -/
structure Probe where
  scope : Nat
  domain : Nat
  members : List Nat
  pos : Nat
  black : Bool
  sum : Int
  /-- Events of the domain that were enabled when the circuit began. -/
  enabled : List (EvKey × Stamp)
  /-- Every context met in this circuit waits in SELECT with no notice; it was so throughout the last drained circuit. -/
  still : Bool
  quiet : Bool
  stalled : Bool
  deriving DecidableEq, Repr

/-- A TLB entry (R294, R295): pages are 4 KiB pages. -/
structure TlbEntry where
  asid : Nat
  glob : Bool
  vpage : Nat
  npages : Nat
  ppage : Nat
  level : Nat
  /-- Bits [7:0] of the leaf: D, A, U, X, W, R. -/
  perm : BitVec 8
  deriving DecidableEq, Repr

/-- A task of a pool (R228). -/
structure Task where
  code : Word
  frame : Word
  lo : Word
  hi : Word
  grain : Nat
  cevent : EvKey
  gen : Nat
  age : Nat
  retired : Nat
  intervals : List (Nat × Nat)
  /-- The completion offer was refused and waits for an EVDEF (R229). -/
  refused : Bool
  deriving DecidableEq, Repr

/-- A work pool (R195, R225-R230). -/
structure Pool where
  en : Bool
  cerr : Bool
  tasks : Tbl Task
  gens : Tbl Nat
  served : Nat
  nextAge : Nat
  takes : List OfferMsg
  deriving DecidableEq, Repr

/-- A pool, enabled and empty (R230). -/
def Pool.reset : Pool := { en := true, cerr := false, tasks := [], gens := [], served := 0, nextAge := 0, takes := [] }

/-- The command a copy engine runs, with its progress (R336). -/
structure CopyRun where
  cmd : CopyCmd
  next : Nat
  flags : BitVec 5
  pcnt : Nat
  met : List Nat
  /-- Bytes of aligned 16-byte parts that later elements reach too, by part: each part is written once (R441). -/
  buf : Tbl (Nat × Tbl Byte)
  abort : Bool
  /-- The summary, once the command has ended and its completion is still to be offered (R334). -/
  ended : Option Word
  deriving DecidableEq, Repr

/-- The copy engine of a cluster (R333-R336). -/
structure CopyEngine where
  queue : List CopyCmd
  run : Option CopyRun
  summaries : Tbl Word
  /-- Ended commands whose completion event is still to be offered or to occur: the event and the summary. -/
  ended : List (EvKey × Word)
  /-- Events whose home refused the agent's offer (R333, R334). -/
  refused : List EvKey
  /-- Writes to other devices and to the host that have not been acknowledged (R310). -/
  owed : Nat
  deriving DecidableEq, Repr

/-- An idle copy engine. -/
def CopyEngine.reset : CopyEngine := { queue := [], run := none, summaries := [], ended := [], refused := [], owed := 0 }

/-- An extent of a node pool: the physical page and key of each of its 4 KiB pages, and its nodes (R361). -/
structure Extent where
  pages : List (Nat × Nat)
  nodes : Nat
  deriving DecidableEq, Repr

/-- A search tree (R361-R372). -/
structure Tree where
  part : Nat
  /-- The workgroup whose context configured it, as `wgTag` (Ops.lean) numbers it (R399). -/
  wg : Nat
  c : Half
  fpv : Half
  vlv : Half
  bev : EvKey
  ccls : Nat
  rcls : Nat
  alt : Bool
  bsz : Nat
  extents : List Extent
  /-- Allocated nodes as half-open runs in rising order; the reclamation set is part of them. -/
  alloc : List (Nat × Nat)
  reclaim : List Nat
  root : Option Nat
  gen : Half
  openB : List Nat
  closed : List (Half × List Nat)
  seq : Half
  berr : Bool
  /-- Whether the batch event is still to be offered after a refusal. -/
  refused : Bool
  deriving DecidableEq, Repr

/-- One trace stream of a cluster (R430): the staging ring and the open segment. -/
structure Stream where
  base : Addr
  slots : Nat
  seq : Nat
  ovw : Nat
  recs : List TraceRec
  lossAt : Nat
  prev : List Byte
  /-- Sealed segments: slot, SEQ. -/
  sealed : List (Nat × Nat)
  slot : Nat
  deriving DecidableEq, Repr

/-- A stream without a staging ring. -/
def Stream.reset : Stream :=
  { base := 0, slots := 0, seq := 0, ovw := 0, recs := [], lossAt := 0, prev := [], sealed := [], slot := 0 }

/-- One cluster. -/
structure Cluster where
  regions : Tbl (Word × Word)
  tlb : List TlbEntry
  /-- Table entries of levels 1-4 held by the walk cache: physical address and value. -/
  walkCache : Tbl Word
  pools : Tbl Pool
  copy : CopyEngine
  trees : Tbl Tree
  buffer : List TraceRec
  loss : Nat
  streams : Tbl Stream
  gated : Option Nat
  deriving DecidableEq, Repr

/-- A cluster at package reset. -/
def Cluster.reset : Cluster :=
  { regions := [], tlb := [], walkCache := [], pools := [], copy := CopyEngine.reset, trees := [], buffer := [],
    loss := 0, streams := [], gated := none }

/-- A registered layout record (R326, R331): its fields, the kinds, the pinned translations of its pages. -/
structure Layout where
  part : Nat
  gen : Nat
  kinds : Nat
  base : Word
  format : Half
  ccls : Nat
  rcls : Nat
  dims : List Nat
  strs : List Word
  sbase : Word
  /-- (virtual page, physical page, key). -/
  pages : List (Nat × Nat × Nat)
  deriving DecidableEq, Repr

/-- A production of a stage entry: its number, the source tile, its bytes and its poison mark (R340, R350). -/
structure Prod where
  num : Nat
  tile : Nat
  bytes : List Byte
  pois : Bool
  deriving DecidableEq, Repr

/-- A stage entry of the pipeline table (R348). -/
structure Entry where
  part : Nat
  kind : Nat
  /-- The byte string of R347, and its handle. -/
  bytes : List Byte
  handle : Word
  /-- FETCH: the physical page and key of each page of the source. -/
  pages : List (Nat × Nat × Nat)
  cyc : Bool
  catchUp : Bool
  /-- The format of the tiles it takes (R341). -/
  infmt : Half
  /-- The entry before it with the next production it takes, and the catch-up entry it takes from in turn. -/
  pred : Option Nat
  next : Nat
  alt : Option Nat
  nextAlt : Nat
  /-- It takes from the catch-up entry next (R351). -/
  turn : Bool
  /-- The bound subscribers whose chain passes through it, and the oldest of them. -/
  refs : List Nat
  owner : Nat
  /-- FETCH: the slot of the layout record it reads through (R392). -/
  src : Nat
  /-- Productions made; those kept for its branches (R390); with a ONCE source the tiles produced and, at FETCH, those
  to come. -/
  made : Nat
  held : List Prod
  done : List Nat
  todo : List Nat
  deriving DecidableEq, Repr

/-- The state of a subscription (R353). -/
inductive SubSt where
  | joining | running | detached | ended
  deriving DecidableEq, Repr

/-- A subscription of a pipeline (R343-R353), listed under its MCAST entry. -/
structure Sub where
  part : Nat
  core : Nat
  ctx : Nat
  /-- The binder's workgroup, as `wgTag` (Ops.lean) numbers it. -/
  wg : Nat
  gen : Nat
  pbase : Nat
  /-- The slot of its layout record. -/
  src : Nat
  desc : List Byte
  st : SubSt
  /-- The entries of its chain, in chain order, and the shared ones among them (K of R349). -/
  chain : List Nat
  k : Nat
  age : Nat
  /-- Tiles of the source, and the format that reaches MCAST (R340, R341). -/
  total : Nat
  fmt : Half
  /-- Deliveries made, and those of the pass. -/
  seq : Nat
  passCount : Nat
  /-- Tiles delivered in the pass (ONCE). -/
  got : List Nat
  /-- The tile of the delivery under way, which MCAST has taken (R390); whether it ends its pass, and its bytes until they land. -/
  tile : Option Nat
  ends : Bool
  lands : Option (List Byte)
  /-- The subscription has rejoined while a delivery was under way: the new pass starts after it (R353). -/
  fresh : Bool
  passPend : Bool
  passes : Nat
  flags : BitVec 5
  pcnt : Nat
  deriving DecidableEq, Repr

/-- One compute die. -/
structure Die where
  layouts : Tbl Layout
  layGens : Tbl Nat
  entries : Tbl Entry
  subs : Tbl Sub
  subGens : Tbl Nat
  nextAge : Nat
  routes : Tbl (List Nat)
  deriving DecidableEq, Repr

/-- A die at package reset. -/
def Die.reset : Die :=
  { layouts := [], layGens := [], entries := [], subs := [], subGens := [], nextAge := 0, routes := [] }

/-- A line present in the LLC (R281-R285), by its line address. -/
structure LlcLine where
  key : Nat
  cls : Nat
  rcls : Nat
  deriving DecidableEq, Repr

/-- How far a Trowen port is (R444, R445). -/
structure Port where
  retries : Nat
  peer : Nat
  peerPort : Nat
  lanes : Nat
  state : Nat
  /-- Lanes that work (R444). -/
  good : Nat
  deriving DecidableEq, Repr

/-- A port at reset: DOWN. -/
def Port.reset : Port := { retries := 0, peer := 0, peerPort := 0, lanes := 0, state := 0, good := 8 }

/-- A partition (R473). -/
structure Partition where
  clusters : List Nat
  classes : List Nat
  key : Nat
  queues : List Nat
  hostRanges : List (Nat × Nat)
  spill : Nat × Nat
  save : Nat × Nat
  ring : Nat
  bell : Nat
  lead : Nat
  /-- The partition set: its system domain number, and the first and the count of its scope-6 launch domains (R473). -/
  set : Option (Nat × Nat × Nat)
  /-- The cores of the set's members on other devices, as global IDs (R167). -/
  peers : List Gid
  stalls : Nat
  /-- Records of its ring that have been handled (R474). -/
  handled : Nat
  deriving DecidableEq, Repr

/-- Isastan's ring of configuration requests: its doorbell doubleword, and the records that have been handled (R474, R483). -/
structure IsaRing where
  base : Addr
  bell : Addr
  handled : Nat
  deriving DecidableEq, Repr

/-- A range in a bank of this device that a core of another device watches: the core and its watchpoint, the place, and BASE and the control
register as they were registered (R422, R424). -/
structure FarWatch where
  dev : Nat
  core : Nat
  wp : Nat
  place : Addr
  base : Word
  ctl : Word
  deriving DecidableEq, Repr

/-- The replay mode of a workgroup (R435). -/
inductive Replay where
  | off | record | replay
  deriving DecidableEq, Repr

/-- An item of the replay log (R435, R437): an input of a context by kind, a commit, or a trap. -/
inductive LogItem where
  | input (gid : Gid) (kind : Nat) (v : Word)
  | commit (ev : EvKey)
  | trap (gid : Gid) (code : Nat) (pc : Word)
  deriving DecidableEq, Repr

/-- A workgroup (R393). -/
structure Wg where
  part : Nat
  num : Nat
  /-- The placement map: image core, placed core. -/
  map : List (Nat × Nat)
  queue : Nat
  pkt : List Byte
  ldomBase : Nat
  preempt : Bool
  repl : Bool
  pair : Bool
  bsp : Bool
  image : Addr
  mode : Replay
  log : List LogItem
  /-- Cores whose control context has completed HALT. -/
  ended : List Nat
  /-- It is off its cores, with these images by image core (R404); a compaction moves it (R398). -/
  saved : Bool
  moving : Bool
  images : Tbl Image
  /-- Old cores and new ones of its re-placements: what another device still sends to an old core (R400). -/
  was : List (Nat × Nat)
  deriving DecidableEq, Repr

/-- What a queue thread is doing with its packet (R469). -/
inductive QStage where
  /-- Between packets. -/
  | idle
  /-- A launch that waits for its placement: when it became a candidate (CYCLE). -/
  | candidate (pkt : List Byte) (since : Nat)
  /-- A WAIT or SIGNAL whose offer is armed. -/
  | offering (pkt : List Byte)
  /-- The packet is over: its completion record waits to be written. -/
  | ending
  deriving DecidableEq, Repr

/-- A completion record that waits for room in the ring (R469): tag, status, WG, value, CEVENT. -/
structure CRec where
  tag : Half
  status : Nat
  wg : Nat
  value : Word
  cevent : Nat
  bufs : List Byte
  /-- It ends the packet the thread is on. -/
  last : Bool
  deriving DecidableEq, Repr

/-- A queue (R465). -/
structure Queue where
  qbase : Word
  qcbase : Word
  log : Nat
  qtail : Half
  qhead : Half
  qchead : Half
  qctail : Half
  en : Bool
  part : Nat
  age : Nat
  prio : Nat
  stage : QStage
  recs : List CRec
  /-- Pending SIGNAL.NB offers and completion events: sub number, name, record to write. -/
  offers : List (Nat × Nat × Option CRec)
  nextSub : Nat
  /-- Rows drained for its candidate (R398): package cluster and row. -/
  drained : List (Nat × Nat)
  deriving DecidableEq, Repr

/-- A queue at reset (R465). -/
def Queue.reset : Queue :=
  { qbase := 0, qcbase := 0, log := 4, qtail := 0, qhead := 0, qchead := 0, qctail := 0, en := false, part := 0,
    age := 1000, prio := 0, stage := .idle, recs := [], offers := [], nextSub := 0, drained := [] }

/-- The registers of the host aperture that R464 lists. -/
structure HostRegs where
  device : Nat
  booterr : Nat
  stage : Nat
  activating : Bool
  fault : Bool
  ready : Bool
  /-- POISON, UR, CA, TIMEOUT, POSTERR, BADTAIL, BADPKT. -/
  counts : List Word
  deriving DecidableEq, Repr

/-- They read zero at reset. -/
def HostRegs.reset : HostRegs :=
  { device := 0, booterr := 0, stage := 0, activating := false, fault := false, ready := false,
    counts := List.replicate 7 0 }

/-- How far a firmware update is (R479-R481). -/
inductive UpdStage where
  | idle | transferring | transferred | verified | failed | applied
  deriving DecidableEq, Repr

/-- The firmware of the package and its update (R479-R482). Components: 2 security controller, 3 Isastan, 4 command
processor. An image is its version and bytes. -/
structure Firmware where
  running : Tbl (Nat × List Byte)
  /-- To be activated at the next package reset (R481). -/
  pending : Tbl (Nat × List Byte)
  table : List Nat
  stage : UpdStage
  comp : Nat
  size : Nat
  version : Nat
  staged : List Byte
  /-- An open commit window: the TIME it opened (R482). -/
  window : Option Nat
  held : List Nat
  deriving DecidableEq, Repr

/-- No update under way. -/
def Firmware.reset : Firmware :=
  { running := [], pending := [], table := [], stage := .idle, comp := 0, size := 0, version := 0, staged := [],
    window := none, held := [] }

/-- What the package sends to the outside. -/
inductive Out where
  /-- A message of the event protocol, a window access, a request or an answer for another device. -/
  | device (dev : Nat) (m : Instr)
  /-- A posted store to the host window (R458). -/
  | hostStore (addr : Nat) (data : List Byte)
  /-- The marker that bytes just stored to the host window are poisoned (R260). -/
  | hostStain (addr len : Nat)
  /-- A load request to the host window (R458). -/
  | hostLoad (core ctx addr len : Nat)
  /-- A completion record (R469): queue, index in the ring, its 32 bytes. -/
  | completion (q idx : Nat) (rec : List Byte)
  /-- Bytes of a COPY packet to the host (R470). -/
  | hostCopy (q addr : Nat) (data : List Byte)
  /-- The reply of a memory aperture access (R463): none is an unsupported-request status. -/
  | aperture (off : Nat) (data : Option (List Byte))
  /-- A value read from a debug block (R412). -/
  | debug (core off : Nat) (v : Word)
  /-- A sealed segment sent to storage (R431): cluster, stream, SEQ, physical address. -/
  | segment (cluster stream seq : Nat) (pa : Addr)
  /-- The report of a firmware step (R479, R480): component and success. -/
  | pldm (step comp : Nat) (ok : Bool)
  /-- A block of the image asked for (R479). -/
  | pldmRequest (offset len : Nat)
  /-- The answer of an SPDM request (R482): index, measurement and ML-DSA-65 signature. -/
  | spdm (index : Nat) (m sig : List Byte)
  /-- A sensor value (R484). -/
  | sensor (id : Nat) (v : Nat)
  /-- The loss of a route, reported to management (R448, R484). -/
  | routeLost (dev : Nat)
  /-- An alignment message on a port: TIME (R453). -/
  | align (port : Nat) (time : Word)
  /-- The device has lost every route to the reference device, and its timebase runs free (R453). -/
  | runsFree
  /-- A posted write of the bytes of one aligned 16-byte part to the host window (R441), each with its address. -/
  | hostPart (bs : List (Nat × Byte))
  deriving DecidableEq, Repr

/-- The whole package. -/
structure State where
  cores : Tbl Core
  latches : List (LatchId × Latch)
  homes : List (EvKey × Home)
  ldoms : Tbl Ldom
  probes : Tbl Probe
  clusters : Tbl Cluster
  dies : Tbl Die
  time : Word
  cycle : Word
  /-- A correction that one cycle of the timebase is still to make: 0 in place of 1 where true, 2 where false (R453). -/
  slew : Option Bool
  /-- CYCLE of the latest correction: there is one in 64 cycles at most (R453). -/
  slewAt : Option Nat
  /-- Periods of 65,536 cycles whose alignment messages have been sent (R453). -/
  alignSent : Nat
  dev : Nat
  mem : Memory
  /-- Key ID and generation of each GDDR 7 sector written under another key than key 0. -/
  keyTag : Tbl (Nat × Nat)
  memPoison : List Nat
  llc : Tbl LlcLine
  /-- Exact sums kept with a line for UPD.FADD (R309), by element address. -/
  fsums : Tbl UpdElem
  quotas : Tbl Nat
  keyGen : Tbl Nat
  /-- Watch entries of the home slices and banks (R422): core, watchpoint, place kind, address. -/
  watches : List (Nat × Nat × Nat × Nat)
  /-- Entries of the banks that cores of other devices hold (R422). -/
  farWatches : List FarWatch
  parts : Tbl Partition
  /-- The ring of Isastan, from bring-up on (R474, R483). -/
  isaRing : Option IsaRing
  wgs : Tbl Wg
  nextWg : Nat
  /-- The replay mode set up for the next launch of a partition, with the number of the recorded workgroup it replays; the log of
  each recorded workgroup that has ended, by partition × 2^16 + number, with its map and domain base (R435, R475). -/
  replayNext : Tbl (Replay × Nat)
  replayLogs : Tbl (List (Nat × Nat) × Nat × List LogItem)
  hostRegs : HostRegs
  queues : Tbl Queue
  ports : Tbl Port
  fw : Firmware
  power : Nat
  /-- Messages in flight and inputs from outside, oldest first. -/
  agenda : List Instr
  /-- Messages for other devices that their senders hold while no port is usable, oldest first: core of the sending router, device (R448). -/
  links : List (Nat × Nat × Instr)
  out : List Out
  draws : Nat
  /-- The nonzero FFLAGS of the contexts (core, context), newest first, each with the cycle from which they stood so: what a read of
  FLAGOR needs of the last 16 cycles (R64). -/
  flagLog : List (Nat × List ((Nat × Nat) × BitVec 5))
  /-- The core and context whose instruction is being executed. -/
  cur : Nat × Nat
  deriving DecidableEq, Repr

/-- The package right after a package reset, before bring-up (R485): every register at its reset value. -/
def State.reset : State :=
  { cores := [], latches := [], homes := [], ldoms := [], probes := [], clusters := [], dies := [], time := 0,
    cycle := 0, slew := none, slewAt := none, alignSent := 0, dev := 0, mem := [], keyTag := [], memPoison := [], llc := [], fsums := [], quotas := [], keyGen := [],
    watches := [], farWatches := [], parts := [], isaRing := none, wgs := [], nextWg := 0, replayNext := [], replayLogs := [], hostRegs := HostRegs.reset, queues := [], ports := [],
    fw := Firmware.reset, power := 1600, agenda := [], links := [], out := [], draws := 0, flagLog := [], cur := (0, 0) }

/-- Why the machine stops with a fault. The spec gives every condition an exception, a status or a dropped message
(R81, R329, R467), so only one reason is left. -/
inductive Fault where
  /-- Raised by nobody in this model: the spec names no condition in which the package stops for good. Safe. -/
  | deviceStopped
  deriving DecidableEq, Repr

/-- Why a step has no meaning. -/
inductive Refusal where
  /-- Raised by `exec` for an instruction that has no meaning yet. Safe: no claim can be proved about it. -/
  | notModelled (mnemonic : String)
  deriving DecidableEq, Repr

end Sys2Proof.Machine
end

