-- ==== Sys2Proof/Machine/Ops.lean ====
section
/-!
DEFINITION. The named operations on the state that every meaning is built from: tables, bytes, places and global
IDs, contexts and cores, messages, the trace and the replay log, and taking a trap (R19) with the return from it (R21).
-/

namespace Sys2Proof.Machine

open Sys2Proof

/-- What a step answers. -/
abbrev Ans := Host.Outcome State Fault Refusal

/-! ## Tables -/

/-- The record listed under a number. -/
def tfind {α : Type} : Tbl α → Nat → Option α
  | [], _ => none
  | (j, v) :: t, k => if j = k then some v else tfind t k

/-- The record under a number, `d` where none is listed. -/
def tget {α : Type} (d : α) (t : Tbl α) (k : Nat) : α := (tfind t k).getD d

/-- Lists a record under a number, in place of the one it had, else before the first greater number. -/
def tput {α : Type} : Tbl α → Nat → α → Tbl α
  | [], k, v => [(k, v)]
  | (j, w) :: t, k, v => if j = k then (k, v) :: t else if k < j then (k, v) :: (j, w) :: t else (j, w) :: tput t k v

/-- Takes a number off the table. -/
def tdel {α : Type} : Tbl α → Nat → Tbl α
  | [], _ => []
  | (j, w) :: t, k => if j = k then tdel t k else (j, w) :: tdel t k

/-- The record under a key of any kind. -/
def kfind {κ α : Type} [DecidableEq κ] : List (κ × α) → κ → Option α
  | [], _ => none
  | (j, v) :: t, k => if j = k then some v else kfind t k

/-- Lists a record under a key, in its place or at the end. -/
def kput {κ α : Type} [DecidableEq κ] : List (κ × α) → κ → α → List (κ × α)
  | [], k, v => [(k, v)]
  | (j, w) :: t, k, v => if j = k then (k, v) :: t else (j, w) :: kput t k v

/-- Takes a key off. -/
def kdel {κ α : Type} [DecidableEq κ] : List (κ × α) → κ → List (κ × α)
  | [], _ => []
  | (j, w) :: t, k => if j = k then kdel t k else (j, w) :: kdel t k

/-- Replaces one item of a list. -/
def lset {α : Type} : List α → Nat → α → List α
  | [], _, _ => []
  | _ :: t, 0, v => v :: t
  | a :: t, n + 1, v => a :: lset t n v

/-- Adds an item to a set of numbers, kept in rising order. -/
def nadd : List Nat → Nat → List Nat
  | [], k => [k]
  | j :: t, k => if j = k then j :: t else if k < j then k :: j :: t else j :: nadd t k

/-! ## Bytes (R4) -/

/-- The byte at an address; an address that is not listed holds 0 (R483, R263). -/
def memByte : Memory → Addr → Byte
  | [], _ => 0
  | (b, v) :: t, a => if b = a then v else memByte t a

/-- Takes an address off the list. -/
def memDrop : Memory → Addr → Memory
  | [], _ => []
  | (b, v) :: t, a => if b = a then memDrop t a else (b, v) :: memDrop t a

/-- Lists a byte at an address. -/
def memPut : Memory → Addr → Byte → Memory
  | [], a, v => [(a, v)]
  | (b, w) :: t, a, v => if b = a then (a, v) :: t else if a < b then (a, v) :: (b, w) :: t else (b, w) :: memPut t a v

/-- Writes one byte: a byte that an unlisted address reads as is not listed. -/
def memSet (m : Memory) (a : Addr) (v : Byte) : Memory := if v = 0 then memDrop m a else memPut m a v

/-- `n` bytes from an address on. -/
def memRead (m : Memory) (a : Addr) : Nat → List Byte
  | 0 => []
  | n + 1 => memByte m a :: memRead m (a + 1) n

/-- Writes bytes from an address on. -/
def memWrite (m : Memory) (a : Addr) : List Byte → Memory
  | [] => m
  | b :: bs => memWrite (memSet m a b) (a + 1) bs

/-- The canonical form of a memory: addresses strictly rising, no byte 0 listed. -/
def Memory.wf : Memory → Bool
  | [] => true
  | [(_, v)] => v != 0
  | (a, v) :: (b, w) :: t => v != 0 && a < b && Memory.wf ((b, w) :: t)

/-- The number that bytes hold, the first one least significant (R4). -/
def natOfBytes : List Byte → Nat
  | [] => 0
  | b :: bs => b.toNat + 256 * natOfBytes bs

/-- The 64-bit value of bytes. -/
def wordOf (bs : List Byte) : Word := BitVec.ofNat 64 (natOfBytes bs)

/-- The little-endian value of `n` bytes at an offset of a record. -/
def field (bs : List Byte) (off n : Nat) : Nat := natOfBytes ((bs.drop off).take n)

/-- Bits [lo + w - 1 : lo] of a number. -/
def bits (v lo w : Nat) : Nat := v / 2 ^ lo % 2 ^ w

/-- Bit `i` of a number. -/
def nbit (v i : Nat) : Bool := v / 2 ^ i % 2 == 1

/-- A two's-complement number of `w` bits (R67, SignExt). -/
def signed (v w : Nat) : Int := if v % 2 ^ w < 2 ^ (w - 1) then ((v % 2 ^ w : Nat) : Int) else (v % 2 ^ w : Nat) - (2 ^ w : Nat)

/-- The bits of an integer modulo 2^w. -/
def wrap (v : Int) (w : Nat) : Nat := (v % (2 ^ w : Nat)).toNat

/-! ## Places and global IDs (R6-R9) -/

def coreDie (c : Nat) : Nat := c / 288
def coreRow (c : Nat) : Nat := c % 288 / 18
def coreCol (c : Nat) : Nat := c % 18
def coreAt (die row col : Nat) : Nat := die * 288 + row * 18 + col

/-- The package cluster of a core (R7). -/
def clusterOf (c : Nat) : Nat := coreDie c * 12 + coreRow c / 4 * 3 + coreCol c / 6

/-- The gang domain number of a core (R167). -/
def gangOf (c : Nat) : Nat := 4 * clusterOf c + coreRow c % 4

/-- The position of a core in its gang (R7). -/
def posOf (c : Nat) : Nat := coreCol c % 6

/-- The core at a position of a gang. -/
def gangCore (g p : Nat) : Nat := coreAt (g / 4 / 12) (g / 4 % 12 / 3 * 4 + g % 4) (g / 4 % 12 % 3 * 6 + p)

/-- The first core of a cluster: the lowest logical row and column (R188). -/
def firstCore (k : Nat) : Nat := coreAt (k / 12) (k % 12 / 3 * 4) (k % 12 % 3 * 6)

/-- The cores of a cluster, in rising global-ID order. -/
def clusterCores (k : Nat) : List Nat :=
  (List.range 4).flatMap fun r => (List.range 6).map fun p => firstCore k + 18 * r + p

/-- A global ID (R8). -/
def gidOf (dev c x : Nat) : Gid :=
  dev * 2 ^ 14 + coreDie c * 2 ^ 13 + coreRow c * 2 ^ 9 + coreCol c * 2 ^ 4 + x

def gidDev (g : Gid) : Nat := bits g 14 12
def gidCol (g : Gid) : Nat := bits g 4 5
def gidCtx (g : Gid) : Nat := bits g 0 4

/-- The core a global ID names, on its own device. -/
def gidCore (g : Gid) : Nat := coreAt (bits g 13 1) (bits g 9 4) (gidCol g)

/-- Whether a global ID names a participant (R10). -/
def gidValid (g : Gid) : Bool := g < 2 ^ 26 && gidCol g < 18

/-! ## Cores and contexts -/

def State.core (s : State) (c : Nat) : Core := tget Core.reset s.cores c
def State.setCore (s : State) (c : Nat) (k : Core) : State := { s with cores := tput s.cores c k }
def State.updCore (s : State) (c : Nat) (f : Core → Core) : State := s.setCore c (f (s.core c))
def Core.ctx (k : Core) (x : Nat) : Ctx := tget Ctx.reset k.ctxs x
def Core.setCtx (k : Core) (x : Nat) (v : Ctx) : Core := { k with ctxs := tput k.ctxs x v }
def State.ctx (s : State) (c x : Nat) : Ctx := (s.core c).ctx x
def State.setCtx (s : State) (c x : Nat) (v : Ctx) : State := s.setCore c ((s.core c).setCtx x v)
def State.updCtx (s : State) (c x : Nat) (f : Ctx → Ctx) : State := s.setCtx c x (f (s.ctx c x))

/-- The core whose instruction is being executed, and its context. -/
def State.myCore (s : State) : Core := s.core s.cur.1
def State.me (s : State) : Ctx := s.ctx s.cur.1 s.cur.2
def State.setMe (s : State) (v : Ctx) : State := s.setCtx s.cur.1 s.cur.2 v
def State.setMyCore (s : State) (k : Core) : State := s.setCore s.cur.1 k
def State.myGid (s : State) : Gid := gidOf s.dev s.cur.1 s.cur.2

def State.cluster (s : State) (k : Nat) : Cluster := tget Cluster.reset s.clusters k
def State.setCluster (s : State) (k : Nat) (v : Cluster) : State := { s with clusters := tput s.clusters k v }
def State.die (s : State) (d : Nat) : Die := tget Die.reset s.dies d
def State.setDie (s : State) (d : Nat) (v : Die) : State := { s with dies := tput s.dies d v }
def State.queue (s : State) (q : Nat) : Queue := tget Queue.reset s.queues q
def State.setQueue (s : State) (q : Nat) (v : Queue) : State := { s with queues := tput s.queues q v }
def State.latch (s : State) (l : LatchId) : Latch := (kfind s.latches l).getD Latch.reset
def State.setLatch (s : State) (l : LatchId) (v : Latch) : State := { s with latches := kput s.latches l v }
def State.home (s : State) (e : EvKey) : Option Home := kfind s.homes e
def State.setHome (s : State) (e : EvKey) (h : Home) : State := { s with homes := kput s.homes e h }

/-- The value of an X register: X0 reads as zero (R15). -/
def xread (k : Ctx) (r : Reg) : Word := if r = 0 then 0 else k.x[r.toNat]'r.isLt

/-- Writes an X register: a write to X0 is ignored (R15). -/
def xwrite (k : Ctx) (r : Reg) (v : Word) : Ctx := if r = 0 then k else { k with x := k.x.set r.toNat v r.isLt }

/-- The register after this one, of a pair (R111). -/
def nextReg (r : Reg) : Reg := r + 1

/-- Moves past an instruction of `n` bytes. -/
def advance (k : Ctx) (n : Nat) : Ctx := { k with pc := k.pc + BitVec.ofNat 64 n }

/-- The running context takes a value into a register and moves past its instruction. -/
def State.ret (s : State) (i : Instr) (rd : Reg) (v : Word) : State := s.setMe (advance (xwrite s.me rd v) (byteLen i))

/-- The running context moves past its instruction. -/
def State.pass (s : State) (i : Instr) : State := s.setMe (advance s.me (byteLen i))

/-- The running context waits; its instruction executes again, or is completed by an event (R96). -/
def State.hold (s : State) (w : Wait) : State := s.setMe { s.me with wait := w }
def State.holdFor (s : State) (b : Bool) (w : Wait) : State := if b then s.hold w else s

/-- Flags that the wide side, a home or an engine sets in a context (R26, R65): they are ORed in, and remembered for the cycle, so that a CSR
write of the same cycle does not lose them. -/
def Ctx.orFlags (k : Ctx) (now : Word) (f : BitVec 5) : Ctx :=
  { k with fflags := k.fflags ||| f, flagCyc := now, flagNew := (if k.flagCyc = now then k.flagNew else 0) ||| f }

/-- The flags set in a cycle, which OR into a value that is written in it (R65). -/
def Ctx.setIn (k : Ctx) (now : Word) : BitVec 5 := if k.flagCyc = now then k.flagNew else 0

/-- A context is ready again. -/
def State.wake (s : State) (c x : Nat) : State := s.updCtx c x fun k => { k with wait := .none }

/-- Wakes the contexts of a core whose wait meets a test. -/
def wakeCtxs (p : Wait → Bool) : Tbl Ctx → Tbl Ctx
  | [] => []
  | (x, k) :: t => (x, if p k.wait then { k with wait := .none } else k) :: wakeCtxs p t

def Core.wakeIf (k : Core) (p : Wait → Bool) : Core := { k with ctxs := wakeCtxs p k.ctxs }

/-- Which workgroup a core's latches belong to: those of a saved or parked one stay at the homes (R184, R406). -/
def wgTag (k : Core) : Nat := match k.wg with
  | some n => n + 1
  | none => 0

/-- A context as the messages that owe it an answer name it: its number, and whose it is (R401). -/
def State.asker (s : State) (c x : Nat) : Nat := x % 16 + 16 * wgTag (s.core c)

/-! ## Messages, free values, levels -/

/-- Sends a message: it is delivered in a later step. -/
def State.send (s : State) (i : Instr) : State := { s with agenda := s.agenda ++ [i] }

/-- Sends several messages, in order. -/
def State.sendAll (s : State) (is : List Instr) : State := { s with agenda := s.agenda ++ is }

/-- Sends to the outside. -/
def State.emit (s : State) (o : Out) : State := { s with out := s.out ++ [o] }

/-- The next free pick, and the state that has used it (log 2). -/
def State.pick (s : State) : Nat := Config.choice s.draws
def State.used (s : State) : State := { s with draws := s.draws + 1 }

/-- The code of a level (R16). -/
def Priv.code : Priv → Nat
  | .u => 0
  | .s => 1
  | .h => 2

/-- The level of a code; 3 is never held. -/
def privOf (n : Nat) : Priv := if n = 0 then .u else if n = 1 then .s else .h

/-- The code of a bank role (R37). -/
def Role.code : Role → Nat
  | .cache => 0
  | .scratch => 1
  | .operand => 2
  | .fifo => 3
  | .caddy => 4

/-- The role of a code of at most 4. -/
def roleOf (n : Nat) : Role :=
  if n = 0 then .cache else if n = 1 then .scratch else if n = 2 then .operand else if n = 3 then .fifo else .caddy

/-- The role of a bank. -/
def Core.role (k : Core) (b : Nat) : Role := if h : b < 32 then k.roles[b] else .scratch

def Core.setRole (k : Core) (b : Nat) (r : Role) : Core := if h : b < 32 then { k with roles := k.roles.set b r } else k

/-- The code of an access kind (R409). -/
def accessCode : Access → Nat
  | .none => 0
  | .fetch => 1
  | .load => 2
  | .store => 3
  | .amo => 4
  | .upd => 5
  | .wideRead => 6
  | .wideWrite => 7
  | .matrix => 8
  | .walker => 9
  | .landing => 10
  | .engine => 11
  | .remoteStore => 12
  | .remoteAmo => 13

/-! ## The trace (R426-R433) -/

/-- The length of a record: the LONG ones have 64 bytes. -/
def recBytes (r : TraceRec) : Nat := if r.ty = 4 || r.ty = 10 || r.ty = 13 || r.ty = 14 then 64 else 32

def recsBytes (rs : List TraceRec) : Nat := (rs.map recBytes).foldl (· + ·) 0

/-- The stream of a record (R430). -/
def streamOf (r : TraceRec) : Nat := if 12 ≤ r.ty then 1 else 0

/-- Bytes of records a segment holds (R430). -/
def segmentRoom : Nat := 0xFFF40

/-- Moves buffered records into the open segments as far as their segments have room: each stream's in order (R428), so none of a stream
in `full`. -/
def drainBuffer (full : List Nat) : List TraceRec → Tbl Stream → List TraceRec × Tbl Stream
  | [], st => ([], st)
  | r :: rs, st =>
    let k := streamOf r
    let m := tget Stream.reset st k
    if !full.contains k ∧ m.slots ≠ 0 ∧ recsBytes m.recs + recBytes r ≤ segmentRoom then
      drainBuffer full rs (tput st k { m with recs := m.recs ++ [r] })
    else
      let (rest, st') := drainBuffer (k :: full) rs st
      (r :: rest, st')

/-- Moves the records of a core's encoder into its cluster's 64 KiB buffer, as far as it has room (R429). -/
def drainEncoder : List TraceRec → List TraceRec → List TraceRec × List TraceRec
  | [], buf => ([], buf)
  | r :: rs, buf =>
    if recsBytes buf + recBytes r ≤ 65536 then drainEncoder rs (buf ++ [r]) else (r :: rs, buf)

/-- Drains what a core has recorded. -/
def State.drainTrace (s : State) (c : Nat) : State :=
  let k := s.core c
  let cl := s.cluster (clusterOf c)
  let (b0, st0) := drainBuffer [] cl.buffer cl.streams
  let (enc, b1) := drainEncoder k.enc b0
  let (b2, st1) := drainBuffer [] b1 st0
  (s.setCore c { k with enc := enc }).setCluster (clusterOf c) { cl with buffer := b2, streams := st1 }

/-- The LOSS record that precedes the next record kept, where one is owed and EN enables it (R427, R429). -/
def lossDue (s : State) (c time : Nat) : List TraceRec :=
  let k := s.core c
  if k.lossOwed = 0 || !k.dbg.trctl.getLsbD 11 then [] else [⟨time, 11, gidOf s.dev c 0, 0, [BitVec.ofNat 64 k.lossOwed, 0]⟩]

/-- Records an item of the trace: one that finds the encoder (16 records) without room for it is dropped and counted (R429); a record of the
replay log never is (R440). -/
def State.trace (s : State) (c : Nat) (r : TraceRec) : State :=
  let k := s.core c
  let more := lossDue s c r.time ++ [r]
  if 16 < k.enc.length + more.length && r.ty < 12 then
    let cl := s.cluster (clusterOf c)
    (s.setCore c { k with lossOwed := k.lossOwed + 1 }).setCluster (clusterOf c) { cl with loss := cl.loss + 1 }
  else
    (s.setCore c { k with enc := k.enc ++ more, lossOwed := if more.length = 1 then k.lossOwed else 0 }).drainTrace c

/-- Records an item whose TYPE the core's TRCTL.EN enables (R427). -/
def State.traceIf (s : State) (c x ty arg : Nat) (payload : List Word) : State :=
  if (s.core c).dbg.trctl.getLsbD ty then
    s.trace c { time := s.time.toNat, ty := ty, gid := gidOf s.dev c x, arg := arg, payload := payload }
  else s

/-! ## Replay (R435-R440) -/

/-- The workgroup a core runs. -/
def State.wgOf (s : State) (c : Nat) : Option (Nat × Wg) :=
  match (s.core c).wg with
  | none => none
  | some n => match tfind s.wgs n with
    | none => none
    | some w => some (n, w)

/-- The items of the log that a context's own order lists: its inputs and checked traps. -/
def ctxItems (g : Gid) : List LogItem → List LogItem
  | [] => []
  | .input h k v :: t => if h = g then .input h k v :: ctxItems g t else ctxItems g t
  | .trap h c pc :: t => if h = g then .trap h c pc :: ctxItems g t else ctxItems g t
  | .commit _ :: t => ctxItems g t

/-- A log without the first input or trap of one context or agent. -/
def dropItem (g : Gid) : List LogItem → List LogItem
  | [] => []
  | .commit e :: t => .commit e :: dropItem g t
  | .input h k v :: t => if h = g then t else .input h k v :: dropItem g t
  | .trap h c pc :: t => if h = g then t else .trap h c pc :: dropItem g t

/-- The next item of a context's own is met: a context counts those it has met; an agent's leave the log. -/
def State.logNext (s : State) (n : Nat) (w : Wg) (c x : Nat) : State :=
  if x < 11 then s.updCtx c x fun q => { q with logPos := q.logPos + 1 }
  else { s with wgs := tput s.wgs n { w with log := dropItem (gidOf s.dev c x) w.log } }

/-- Items of its own that a context has met; an agent's log holds none that it has. -/
def State.logPos (s : State) (c x : Nat) : Nat := if x < 11 then (s.ctx c x).logPos else 0

/-- A core begins to stop for the debugger, unless it is stopped (R415). One that a pre-emption is stopping, or has stopped and saved,
belongs to both. -/
def Core.stop (k : Core) (why whyctx wp : Nat) : Core := match k.run with
  | .stopped => k
  | .stopping _ _ _ => { k with run := .stopping why whyctx wp }
  | .halting => { k with run := .stopping why whyctx wp, haltPend := true }
  | .halted => { k with run := .stopping why whyctx wp, haltPend := k.image.isSome }
  | _ => { k with run := .stopping why whyctx wp }

/-- Stops a list of cores (R439). -/
def stopCores (why : Nat) : List Nat → State → State
  | [], s => s
  | c :: cs, s => stopCores why cs (s.updCore c fun k => k.stop why 0 0)

/-- The replay diverges: a DIVERGE record is written and every core of the workgroup stops with WHY 5 (R439); the log is no
longer enforced. -/
def State.diverge (s : State) (n : Nat) (w : Wg) (c reason pos : Nat) (expected found : Word) : State :=
  let r : TraceRec := ⟨s.time.toNat, 14, gidOf s.dev c 0, reason, [BitVec.ofNat 64 pos, expected, found]⟩
  stopCores 5 ((w.map.map (·.2)).filter fun c => (s.core c).wg == some n) (({ s with wgs := tput s.wgs n { w with mode := .off } } : State).trace c r)

/-- The DIVERGE reason of a trap that differs: 4 for an uncorrectable error or poison (R439). -/
def trapReason (code : Nat) : Nat := if code = 0x09 ∨ code = 0x20 then 4 else 3

/-- Appends an item to the log of a recorded workgroup. -/
def State.record (s : State) (n : Nat) (w : Wg) (it : LogItem) : State :=
  { s with wgs := tput s.wgs n { w with log := w.log ++ [it] } }

/-- An INPUT record (R426, R435): the kind, a value or an address, the length, and the data of up to 32 bytes. A kind 7 item has its
index in bits [8:4] of the number under which it is logged. -/
def inputRec (s : State) (g : Gid) (kind : Nat) (v : Word) (bs : List Byte) : TraceRec :=
  ⟨s.time.toNat, 13, g, kind % 16,
    [if kind % 16 = 7 then BitVec.ofNat 64 (kind / 16) else v, BitVec.ofNat 64 bs.length, wordOf (bs.take 8), wordOf ((bs.drop 8).take 8),
      wordOf ((bs.drop 16).take 8), wordOf ((bs.drop 24).take 8)]⟩

/-- An input of a context (R435) at the log: its own value when not replayed, the logged value in REPLAY (R436). -/
def State.logInput (s : State) (c x kind : Nat) (v : Word) : Word × State :=
  match s.wgOf c with
  | none => (v, s)
  | some (n, w) =>
    match w.mode with
    | .off => (v, s)
    | .record => (v, s.record n w (.input (gidOf s.dev c x) kind v))
    | .replay =>
      let pos := s.logPos c x
      match (ctxItems (gidOf s.dev c x) w.log)[pos]? with
      | some (.input _ k u) =>
        if k = kind then (u, s.logNext n w c x)
        else (v, s.diverge n w c 2 pos (BitVec.ofNat 64 (k % 16)) (BitVec.ofNat 64 (kind % 16)))
      | some (.trap _ t _) => (v, s.diverge n w c (trapReason t) pos (BitVec.ofNat 64 t) 0)
      | some (.commit _) => (v, s)
      | none => (v, s)

/-- A core's workgroup is being recorded. -/
def State.records (s : State) (c : Nat) : Bool := match s.wgOf c with
  | some (_, w) => w.mode == .record
  | none => false

/-- An input of a context: at the log, and as a record of stream 1. -/
def State.input (s : State) (c x kind : Nat) (v : Word) : Word × State :=
  let r := s.logInput c x kind v
  (r.1, if s.records c then r.2.trace c (inputRec s (gidOf s.dev c x) kind v (bytesOfNat 8 v.toNat)) else r.2)

/-- The records of an input of many bytes, 32 at a time, from an address on; `f` bounds their number (log 54). -/
def traceData (c : Nat) (g : Gid) (kind : Nat) : Nat → Nat → List Byte → State → State
  | 0, _, _, s => s
  | f + 1, a, bs, s =>
    if bs.isEmpty then s
    else traceData c g kind f (a + 32) (bs.drop 32) (s.trace c (inputRec s g kind (BitVec.ofNat 64 a) (bs.take 32)))

/-- Data at the log, by doublewords; `f` bounds their number. -/
def logData (s : State) (c x : Nat) : Nat → List Byte → List Byte × State
  | 0, bs => (bs, s)
  | f + 1, bs =>
    if bs.isEmpty then ([], s)
    else
      let r := s.logInput c x 6 (wordOf (bs.take 8))
      let t := logData r.2 c x f (bs.drop 8)
      ((bytesOfNat 8 r.1.toNat).take (min 8 bs.length) ++ t.1, t.2)

/-- Data from outside a workgroup, for an address, as inputs of kind 6 (R435, R436). -/
def dataInput (s : State) (c x a : Nat) (bs : List Byte) : List Byte × State :=
  let r := logData s c x (bs.length + 1) bs
  (r.1, if s.records c then traceData c (gidOf s.dev c x) 6 (bs.length + 1) a bs r.2 else r.2)

/-- A recorded workgroup whose replay ring has no free slot holds back every context that would log (R440). -/
def State.replayFull (s : State) (c : Nat) : Bool :=
  match s.wgOf c with
  | none => false
  | some (_, w) =>
    let m := tget Stream.reset (s.cluster (clusterOf c)).streams 1
    decide (w.mode = .record) && decide (m.slots ≠ 0) && decide (m.slots ≤ m.sealed.length + 1) &&
      decide (segmentRoom < recsBytes m.recs + 128)

/-- Traps that a replay neither logs nor checks (R437). -/
def unlogged (code : Nat) : Bool := code == 0x21 || code == 0x22

/-- PAGE_FAULT, RESERVED_BIT, REGION and FETCH_FAULT: a replay leaves them out where the handler returns to the trapping instruction (R437). -/
def mayReturn (code : Nat) : Bool := code == 0x01 || code == 0x06 || code == 0x07 || code == 0x08

/-- Logs a trap in RECORD, with the registers as they stood at it, and checks it in REPLAY: its code and its instruction (R435, R437, R439). -/
def State.checkTrap (s : State) (c x code : Nat) (pcAt : Word) (old : Vector Word 32) : State :=
  match s.wgOf c with
  | none => s
  | some (n, w) =>
    match w.mode with
      | .off => s
      | .record => (s.record n w (.trap (gidOf s.dev c x) code pcAt)).updCtx c x fun q => { q with trapX := some (q.trapX.getD old) }
      | .replay =>
        let pos := (s.ctx c x).logPos
        match (ctxItems (gidOf s.dev c x) w.log)[pos]? with
        | some (.trap _ t pc) =>
          if t = code ∧ pc = pcAt then s.logNext n w c x
          else s.diverge n w c (max (trapReason t) (trapReason code)) pos (BitVec.ofNat 64 t) (BitVec.ofNat 64 code)
        | some (.input _ k _) => s.diverge n w c (trapReason code) pos (BitVec.ofNat 64 k) (BitVec.ofNat 64 code)
        | some (.commit _) => s
        | none => s

/-- A trap at a PC as a replay takes note of it: at once, or, of a fault whose handler may return to it, at that return (R437). The
level that was entered holds one fault. -/
def State.logTrap (s : State) (c x code : Nat) (pc : Word) : State :=
  let k := s.ctx c x
  if unlogged code || (s.wgOf c).all (·.2.mode == .off) then s
  else if mayReturn code then s.updCtx c x fun q => { q with faults := tput q.faults k.priv.code (code, pc, k.x) }
  else (s.updCtx c x fun q => { q with faults := tdel q.faults k.priv.code }).checkTrap c x code pc k.x

/-! ## Taking a trap and returning from it (R19, R21) -/

/-- A synchronous cause with a TVAL; the other values zero. -/
def cause (code : Nat) (tval : Word) : Cause :=
  { code := code, isAsync := false, tval := tval, agent := 0, skid := 0, wp := 0, access := .none, level := 0, reason := 0 }

/-- The contents of FAULTCAP for a cause (R409). -/
def faultcap (c : Cause) : Word :=
  BitVec.ofNat 64 (c.agent * 2 ^ 38 + c.skid * 2 ^ 26 + c.wp * 2 ^ 24 + accessCode c.access * 2 ^ 20 + c.level * 2 ^ 17 +
    c.reason * 2 ^ 13 + c.code)

/-- The level a trap goes to (R19). -/
def trapTarget (hdeleg : Word) (p : Priv) (code : Nat) : Priv :=
  if p = .h ∨ 64 ≤ code ∨ hdeleg.getLsbD code = false then .h else .s

/-- The group of a cause (R19). -/
def trapGroup (code : Nat) (isAsync : Bool) : Nat := if isAsync then 2 else if code ≤ 0x0D then 0 else 1

/-- The address of the handler (R19, R25). -/
def trapVector (tvec : Word) (code : Nat) (isAsync : Bool) : Word :=
  if tvec.extractLsb' 0 2 = 1 then (tvec &&& ~~~3) + BitVec.ofNat 64 (256 * trapGroup code isAsync) else tvec &&& ~~~3

/-- The status after a trap entry from level `p` (R19): PIE takes IE, IE is cleared, PP takes the level. -/
def statusEnter (st : Word) (p : Priv) : Word := BitVec.ofNat 64 (4 * p.code + 2 * (st.extractLsb' 0 1).toNat)

/-- The CAUSE register of a cause. -/
def causeWord (c : Cause) : Word := (if c.isAsync then 0x8000000000000000 else 0) ||| BitVec.ofNat 64 c.code

/-- Trap entry as one step (R19), at the context's PC: it saves PC, cause, value and status of the target level,
raises the level, and goes to the handler. Any wait of the context is over. -/
def enterTrap (k : Core) (x : Ctx) (c : Cause) : Ctx :=
  match trapTarget k.hdeleg x.priv c.code with
  | .s => { x with epc := x.pc, cause := causeWord c, tval := c.tval, faultcap := faultcap c,
                   status := statusEnter x.status x.priv, priv := .s, pc := trapVector k.tvec c.code c.isAsync,
                   wait := .none, relDone := false, rdata := none, recd := none, half := none, fetched := [] }
  | _ => { x with hepc := x.pc, hcause := causeWord c, htval := c.tval, hfaultcap := faultcap c,
                  hstatus := statusEnter x.hstatus x.priv, priv := .h, pc := trapVector k.htvec c.code c.isAsync,
                  wait := .none, relDone := false, rdata := none, recd := none, half := none, fetched := [] }

/-- The control context waits behind a pass of a REP that has begun (R160). -/
def midPass (k : Core) : Bool := match k.wide.queue.head? with
  | some e => e.row != 0 && (match e.i with
    | .rep _ _ _ _ => true
    | _ => false)
  | none => false

/-- A step of the context ends with its trap (R417). -/
def Core.stepped (k : Core) (x : Nat) : Core := { k with run := match k.run with
  | .stepping y b => .stepping y (b || x == y)
  | r => r }

/-- A context enters a trap: entry (R19), its trace record (R426) and the replay log (R437). -/
def State.enterAt (s : State) (c x : Nat) (cz : Cause) : State :=
  let pc := (s.ctx c x).pc
  let s1 := (s.setCtx c x (enterTrap (s.core c) (s.ctx c x) cz)).updCore c fun k => k.stepped x
  (s1.traceIf c x 1 ((if cz.isAsync then 256 else 0) + cz.code) [pc, cz.tval]).logTrap c x cz.code pc

/-- A context takes a trap. The control context's entry waits until the pass of a replaying REP ends (R160). -/
def State.trapAt (s : State) (c x : Nat) (cz : Cause) : State :=
  if x = 0 ∧ midPass (s.core c) then s.updCtx c x fun k => { k with wait := .trapping cz } else s.enterAt c x cz

/-- The pass is over, and the control context enters the trap that waited for its end. -/
def enterTrapping (c : Nat) (s : State) : State := match (s.ctx c 0).wait with
  | .trapping cz => s.enterAt c 0 cz
  | _ => s

/-- The running context takes a synchronous trap. -/
def State.trap (s : State) (cz : Cause) : State := s.trapAt s.cur.1 s.cur.2 cz

/-- ILLEGAL_INSTRUCTION under an item of R79, with the first word in TVAL (R408). -/
def illegal (i : Instr) (item : Nat) : Cause := { cause 0x02 (firstWord i) with reason := item }

/-- The running context raises ILLEGAL_INSTRUCTION. -/
def State.ill (s : State) (i : Instr) (item : Nat) : State := s.trap (illegal i item)

/-- The status after a return (R21): IE takes PIE, PIE is set, PP is cleared. -/
def statusReturn (st : Word) : Word := BitVec.ofNat 64 (2 + (st.extractLsb' 1 1).toNat)

/-- The return from a trap at level S or H (R21, R126). -/
def leaveTrap (x : Ctx) : Ctx :=
  match x.priv with
  | .h => { x with pc := x.hepc &&& ~~~3, priv := privOf (x.hstatus.extractLsb' 2 2).toNat, hstatus := statusReturn x.hstatus }
  | _ => { x with pc := x.epc &&& ~~~3, priv := privOf (x.status.extractLsb' 2 2).toNat, status := statusReturn x.status }

end Sys2Proof.Machine
end

