-- ==== Sys2Proof/Machine/Alu.lean ====
section
/-!
DEFINITION. Integer arithmetic and logic of the control side (04_control_instructions.md R100-R105).
-/

namespace Sys2Proof.Machine

open Sys2Proof

/-! ## The results -/

/-- A shift or rotate amount: bits [5:0] (R100). -/
def amount (b : Word) : Nat := (b.extractLsb' 0 6).toNat

def sminW (a b : Word) : Word := if a.slt b then a else b
def smaxW (a b : Word) : Word := if a.slt b then b else a
def uminW (a b : Word) : Word := if a.ult b then a else b
def umaxW (a b : Word) : Word := if a.ult b then b else a

/-- Bits [127:64] of the signed and the unsigned product (R101). -/
def mulhW (a b : Word) : Word := BitVec.ofInt 64 (a.toInt * b.toInt / 2 ^ 64)
def mulhuW (a b : Word) : Word := BitVec.ofNat 64 (a.toNat * b.toNat / 2 ^ 64)

/-- The saturating signed quotient (R101). -/
def divW (a b : Word) : Word :=
  if b = 0 then (if a.slt 0 then 0x8000000000000000 else 0x7FFFFFFFFFFFFFFF)
  else if a = 0x8000000000000000 ∧ b = 0xFFFFFFFFFFFFFFFF then 0x7FFFFFFFFFFFFFFF
  else BitVec.ofInt 64 (a.toInt.tdiv b.toInt)

def divuW (a b : Word) : Word := if b = 0 then 0xFFFFFFFFFFFFFFFF else BitVec.ofNat 64 (a.toNat / b.toNat)

/-- The exact remainders (R101). -/
def remW (a b : Word) : Word := if b = 0 then a else BitVec.ofInt 64 (a.toInt.tmod b.toInt)
def remuW (a b : Word) : Word := if b = 0 then a else BitVec.ofNat 64 (a.toNat % b.toNat)

/-- CMP's relations by code (R102). -/
def cmpW (cond : BitVec 3) (a b : Word) : Bool :=
  match cond.toNat with
  | 0 => a == b
  | 1 => a != b
  | 2 => a.slt b
  | 3 => !a.slt b
  | 4 => a.ult b
  | _ => !a.ult b

/-- Leading zero bits; 64 for zero (R104). -/
def clzW (a : Word) : Nat := if a = 0 then 64 else 63 - a.toNat.log2

/-- Trailing zero bits among the first `n`. -/
def ctzFrom : Nat → Nat → Nat
  | 0, _ => 0
  | n + 1, v => if v % 2 = 1 then 0 else 1 + ctzFrom n (v / 2)

def ctzW (a : Word) : Nat := ctzFrom 64 a.toNat

/-- One bits among the first `n`. -/
def popFrom : Nat → Nat → Nat
  | 0, _ => 0
  | n + 1, v => v % 2 + popFrom n (v / 2)

def popcW (a : Word) : Nat := popFrom 64 a.toNat

/-- The field descriptor of BEXT and BINS: pos and mask (R104). -/
def fieldPos (f : Word) : Nat := (f.extractLsb' 0 6).toNat
def fieldMask (f : Word) : Word :=
  let len := min (f.extractLsb' 8 7).toNat 64
  BitVec.ofNat 64 (2 ^ min len (64 - fieldPos f) - 1)

def bextW (a f : Word) : Word := (a >>> fieldPos f) &&& fieldMask f
def binsW (d a f : Word) : Word :=
  (d &&& ~~~(fieldMask f <<< fieldPos f)) ||| ((a &&& fieldMask f) <<< fieldPos f)

/-! ## The meanings -/

/-- An instruction that sets rd from two registers. -/
def setRR (i : Instr) (rd rs1 rs2 : Reg) (f : Word → Word → Word) (s : State) : Ans :=
  .next (s.ret i rd (f (xread s.me rs1) (xread s.me rs2)))

/-- An instruction that sets rd from one register. -/
def setR (i : Instr) (rd rs1 : Reg) (f : Word → Word) (s : State) : Ans := .next (s.ret i rd (f (xread s.me rs1)))

def execAdd (rd rs1 rs2 : Reg) (s : State) : Ans := setRR (.add rd rs1 rs2) rd rs1 rs2 (fun a b => a + b) s
def execSub (rd rs1 rs2 : Reg) (s : State) : Ans := setRR (.sub rd rs1 rs2) rd rs1 rs2 (fun a b => a - b) s
def execAnd (rd rs1 rs2 : Reg) (s : State) : Ans := setRR (.and rd rs1 rs2) rd rs1 rs2 (fun a b => a &&& b) s
def execOr (rd rs1 rs2 : Reg) (s : State) : Ans := setRR (.or rd rs1 rs2) rd rs1 rs2 (fun a b => a ||| b) s
def execXor (rd rs1 rs2 : Reg) (s : State) : Ans := setRR (.xor rd rs1 rs2) rd rs1 rs2 (fun a b => a ^^^ b) s
def execAndn (rd rs1 rs2 : Reg) (s : State) : Ans := setRR (.andn rd rs1 rs2) rd rs1 rs2 (fun a b => a &&& ~~~b) s
def execShl (rd rs1 rs2 : Reg) (s : State) : Ans := setRR (.shl rd rs1 rs2) rd rs1 rs2 (fun a b => a <<< amount b) s
def execShr (rd rs1 rs2 : Reg) (s : State) : Ans := setRR (.shr rd rs1 rs2) rd rs1 rs2 (fun a b => a >>> amount b) s
def execSar (rd rs1 rs2 : Reg) (s : State) : Ans := setRR (.sar rd rs1 rs2) rd rs1 rs2 (fun a b => a.sshiftRight (amount b)) s
def execRot (rd rs1 rs2 : Reg) (s : State) : Ans := setRR (.rot rd rs1 rs2) rd rs1 rs2 (fun a b => a.rotateRight (amount b)) s
def execMin (rd rs1 rs2 : Reg) (s : State) : Ans := setRR (.min rd rs1 rs2) rd rs1 rs2 sminW s
def execMax (rd rs1 rs2 : Reg) (s : State) : Ans := setRR (.max rd rs1 rs2) rd rs1 rs2 smaxW s
def execMinu (rd rs1 rs2 : Reg) (s : State) : Ans := setRR (.minu rd rs1 rs2) rd rs1 rs2 uminW s
def execMaxu (rd rs1 rs2 : Reg) (s : State) : Ans := setRR (.maxu rd rs1 rs2) rd rs1 rs2 umaxW s
def execMul (rd rs1 rs2 : Reg) (s : State) : Ans := setRR (.mul rd rs1 rs2) rd rs1 rs2 (fun a b => a * b) s
def execMulh (rd rs1 rs2 : Reg) (s : State) : Ans := setRR (.mulh rd rs1 rs2) rd rs1 rs2 mulhW s
def execMulhu (rd rs1 rs2 : Reg) (s : State) : Ans := setRR (.mulhu rd rs1 rs2) rd rs1 rs2 mulhuW s
def execDiv (rd rs1 rs2 : Reg) (s : State) : Ans := setRR (.div rd rs1 rs2) rd rs1 rs2 divW s
def execDivu (rd rs1 rs2 : Reg) (s : State) : Ans := setRR (.divu rd rs1 rs2) rd rs1 rs2 divuW s
def execRem (rd rs1 rs2 : Reg) (s : State) : Ans := setRR (.rem rd rs1 rs2) rd rs1 rs2 remW s
def execRemu (rd rs1 rs2 : Reg) (s : State) : Ans := setRR (.remu rd rs1 rs2) rd rs1 rs2 remuW s

def execCmp (cond : BitVec 3) (rd rs1 rs2 : Reg) (s : State) : Ans :=
  setRR (.cmp cond rd rs1 rs2) rd rs1 rs2 (fun a b => if cmpW cond a b then 1 else 0) s

def execSel (rd rc rs1 rs2 : Reg) (s : State) : Ans :=
  setRR (.sel rd rc rs1 rs2) rd rs1 rs2 (fun a b => if xread s.me rc ≠ 0 then a else b) s

def execClz (rd rs1 : Reg) (s : State) : Ans := setR (.clz rd rs1) rd rs1 (fun a => BitVec.ofNat 64 (clzW a)) s
def execCtz (rd rs1 : Reg) (s : State) : Ans := setR (.ctz rd rs1) rd rs1 (fun a => BitVec.ofNat 64 (ctzW a)) s
def execPopc (rd rs1 : Reg) (s : State) : Ans := setR (.popc rd rs1) rd rs1 (fun a => BitVec.ofNat 64 (popcW a)) s
def execBext (rd rs1 rs2 : Reg) (s : State) : Ans := setRR (.bext rd rs1 rs2) rd rs1 rs2 bextW s
def execBins (rd rs1 rs2 : Reg) (s : State) : Ans :=
  setRR (.bins rd rs1 rs2) rd rs1 rs2 (fun a f => binsW (xread s.me rd) a f) s

/-- A 12-bit immediate, sign- or zero-extended (R105). -/
def sext12 (imm : BitVec 12) : Word := imm.signExtend 64
def zext12 (imm : BitVec 12) : Word := imm.setWidth 64

def execMovi (rd : Reg) (imm : BitVec 12) (s : State) : Ans := .next (s.ret (.movi rd imm) rd (sext12 imm))
def execMoviLit (rd : Reg) (lit : BitVec 64) (s : State) : Ans := .next (s.ret (.moviLit rd lit) rd lit)
def execAddi (rd rs1 : Reg) (imm : BitVec 12) (s : State) : Ans := setR (.addi rd rs1 imm) rd rs1 (fun a => a + sext12 imm) s
def execAddiLit (rd rs1 : Reg) (lit : BitVec 64) (s : State) : Ans := setR (.addiLit rd rs1 lit) rd rs1 (fun a => a + lit) s
def execAndi (rd rs1 : Reg) (imm : BitVec 12) (s : State) : Ans := setR (.andi rd rs1 imm) rd rs1 (fun a => a &&& zext12 imm) s
def execAndiLit (rd rs1 : Reg) (lit : BitVec 64) (s : State) : Ans := setR (.andiLit rd rs1 lit) rd rs1 (fun a => a &&& lit) s
def execOri (rd rs1 : Reg) (imm : BitVec 12) (s : State) : Ans := setR (.ori rd rs1 imm) rd rs1 (fun a => a ||| zext12 imm) s
def execOriLit (rd rs1 : Reg) (lit : BitVec 64) (s : State) : Ans := setR (.oriLit rd rs1 lit) rd rs1 (fun a => a ||| lit) s
def execXori (rd rs1 : Reg) (imm : BitVec 12) (s : State) : Ans := setR (.xori rd rs1 imm) rd rs1 (fun a => a ^^^ zext12 imm) s
def execXoriLit (rd rs1 : Reg) (lit : BitVec 64) (s : State) : Ans := setR (.xoriLit rd rs1 lit) rd rs1 (fun a => a ^^^ lit) s
def execShli (rd rs1 : Reg) (sh : BitVec 6) (s : State) : Ans := setR (.shli rd rs1 sh) rd rs1 (fun a => a <<< sh.toNat) s
def execShri (rd rs1 : Reg) (sh : BitVec 6) (s : State) : Ans := setR (.shri rd rs1 sh) rd rs1 (fun a => a >>> sh.toNat) s
def execSari (rd rs1 : Reg) (sh : BitVec 6) (s : State) : Ans := setR (.sari rd rs1 sh) rd rs1 (fun a => a.sshiftRight sh.toNat) s

end Sys2Proof.Machine
end

