-- ==== Sys2Proof/Machine/Branch.lean ====
section
/-!
DEFINITION. Branches, calls and loops (04_control_instructions.md R106-R110). A transfer completes; a target that
cannot be fetched raises its fault at the next fetch, there (R106).
-/

namespace Sys2Proof.Machine

open Sys2Proof

/-- BR's tests of a value, taken as signed, against zero (R75, R107). -/
def brTest (cond : BitVec 3) (a : Word) : Bool :=
  match cond.toNat with
  | 0 => a == 0
  | 1 => a != 0
  | 2 => a.slt 0
  | 3 => !a.slt 0
  | 4 => (0 : Word).slt a
  | _ => !(0 : Word).slt a

/-- The target of a word offset from an instruction (R69). -/
def target15 (pc : Word) (off : BitVec 15) : Word := pc + (off.signExtend 64) * 4
def target18 (pc : Word) (off : BitVec 18) : Word := pc + (off.signExtend 64) * 4

/-- NextPC (R67). -/
def nextPc (i : Instr) (k : Ctx) : Word := k.pc + BitVec.ofNat 64 (byteLen i)

/-- Links into rd and goes to a target. -/
def State.jump (s : State) (i : Instr) (rd : Reg) (t : Word) : State :=
  s.setMe { xwrite s.me rd (nextPc i s.me) with pc := t }

/-- A target whose bits [1:0] are not zero raises ILLEGAL_INSTRUCTION, and no register changes (R74, R106). -/
def State.jumpChecked (s : State) (i : Instr) (rd : Reg) (t : Word) : State :=
  if t.extractLsb' 0 2 = 0 then s.jump i rd t else s.ill i 6

def execBr (cond : BitVec 3) (rs1 : Reg) (off : BitVec 15) (s : State) : Ans :=
  .next (if brTest cond (xread s.me rs1) then s.setMe { s.me with pc := target15 s.me.pc off }
    else s.pass (.br cond rs1 off))

def execLoop (rs1 : Reg) (off : BitVec 15) (s : State) : Ans :=
  let v := xread s.me rs1 - 1
  let k := xwrite s.me rs1 v
  .next (s.setMe (if v ≠ 0 then { k with pc := target15 k.pc off } else advance k 4))

def execJmp (off : BitVec 18) (s : State) : Ans := .next (s.jump (.jmp off) 0 (target18 s.me.pc off))
def execJmpLit (lit : BitVec 64) (s : State) : Ans := .next (s.jumpChecked (.jmpLit lit) 0 lit)
def execCall (rd : Reg) (off : BitVec 18) (s : State) : Ans := .next (s.jump (.call rd off) rd (target18 s.me.pc off))
def execCallLit (rd : Reg) (lit : BitVec 64) (s : State) : Ans := .next (s.jumpChecked (.callLit rd lit) rd lit)
def execJr (rd rs1 : Reg) (s : State) : Ans := .next (s.jumpChecked (.jr rd rs1) rd (xread s.me rs1))
def execRet (s : State) : Ans := .next (s.jumpChecked .ret 0 (xread s.me 1))

end Sys2Proof.Machine
end

