-- ==== Sys2Proof/Machine/Access.lean ====
section
/-!
DEFINITION. Where an access goes and whether it may: the physical address map (R266), regions (R269), translation
(R290-R295), the local window (R39), watchpoints (R420, R421), and the checks of R112 in their order.
-/

namespace Sys2Proof.Machine

open Sys2Proof

/-! ## Physical addresses (R266, R288) -/

/-- What a physical address targets. -/
inductive Target where
  | gddr
  | host
  /-- The global scratchpad window: device, core and local address. -/
  | window (dev core loc : Nat)
  | none
  deriving DecidableEq, Repr

def target (pa : Addr) : Target :=
  if pa < 0x1800000000 then .gddr
  else if 0x4000000000000 ≤ pa ∧ pa < 0x5000000000000 then .host
  else if 0x8000000000000 ≤ pa ∧ pa < 0x8080000000000 then
    if bits pa 21 5 < 18 then .window (bits pa 31 12) (coreAt (bits pa 30 1) (bits pa 26 4) (bits pa 21 5)) (bits pa 0 21)
    else .none
  else .none

def isGddr (pa : Addr) : Bool := target pa == .gddr

/-- The physical address of a byte of a core's local space in the window (R288). -/
def windowPa (dev core loc : Nat) : Addr :=
  0x8000000000000 + dev * 2 ^ 31 + coreDie core * 2 ^ 30 + coreRow core * 2 ^ 26 + coreCol core * 2 ^ 21 + loc

/-- The device of a window address. -/
def windowDev (pa : Addr) : Nat := bits pa 31 12

/-- Whether a device can be reached from a die: itself, or one with an entry in the routing table (R446). -/
def reachable (s : State) (die dev : Nat) : Bool := dev == s.dev || (tfind (s.die die).routes dev).isSome

/-! ## Trowen ports (R444-R448) -/

def State.port (s : State) (n : Nat) : Port := tget Port.reset s.ports n
def State.setPort (s : State) (n : Nat) (p : Port) : State := { s with ports := tput s.ports n p }

/-- A port carries traffic. -/
def portUp (p : Port) : Bool := p.state == 2 || p.state == 3

/-- The usable ports of a die's entry for a device (R446, R448). -/
def usablePorts (s : State) (die dev : Nat) : List Nat := (tget [] (s.die die).routes dev).filter fun n => portUp (s.port n)

/-- Messages from a die to a device can leave. -/
def canLeave (s : State) (die dev : Nat) : Bool := !(usablePorts s die dev).isEmpty

/-- A message of a core's router to another device: it leaves, or the sender holds it, behind what it holds for that device already (R447,
R448). -/
def State.toDevice (s : State) (core dev : Nat) (m : Instr) : State :=
  if canLeave s (coreDie core) dev && !(s.links.any fun e => e.1 == core && e.2.1 == dev) then s.emit (.device dev m)
  else { s with links := s.links ++ [(core, dev, m)] }

/-- Whether an address has a target for a core (R266, R446). -/
def hasTarget (s : State) (c : Nat) (pa : Addr) : Bool :=
  match target pa with
  | .none => false
  | .window dev _ _ => reachable s (coreDie c) dev
  | _ => true

/-- The home slice of a GDDR 7 address (R281). -/
def homeSlice (pa : Addr) : Nat :=
  bits pa 10 7 ^^^ bits pa 17 7 ^^^ bits pa 24 7 ^^^ bits pa 31 7 ^^^ bits pa 38 7 ^^^ bits pa 45 7

/-! ## Regions (R268, R269) -/

/-- Whether a region word grants an access kind: X for a fetch, W for writes, R for reads. -/
def regionGrants (w0 : Word) : Access → Bool
  | .fetch => w0.getLsbD 2
  | .store => w0.getLsbD 1
  | .amo => w0.getLsbD 1
  | .upd => w0.getLsbD 1
  | .engine => w0.getLsbD 1
  | _ => w0.getLsbD 0

/-- The lowest-numbered valid region that holds an address. -/
def regionFor : Tbl (Word × Word) → Addr → Option Word
  | [], _ => none
  | (_, w0, w1) :: t, pa =>
    if w0.getLsbD 63 ∧ bits w0.toNat 12 40 ≤ bits pa 12 40 ∧ bits pa 12 40 ≤ bits w1.toNat 12 40 then some w0
    else regionFor t pa

/-- The region check (R269): the key ID of the region that grants the access, or none. -/
def regionCheck (rs : Tbl (Word × Word)) (pa : Addr) (acc : Access) : Option Nat :=
  match regionFor rs pa with
  | some w0 => if regionGrants w0 acc then some (bits w0.toNat 52 6) else none
  | none => none

/-! ## Virtual addresses (R39, R290) -/

/-- Bits [63:57] are copies of bit 56. -/
def canonical (va : Addr) : Bool := va / 2 ^ 56 == 0 || va / 2 ^ 56 == 0xFF

/-- The local window: the last 2 MiB of virtual addresses (R39). -/
def inWindow (va : Addr) : Bool := 0xFFFFFFFFFFE00000 ≤ va

/-- The answer of a translation. -/
inductive Tr where
  | ok (pa key : Nat)
  | fault (c : Cause)
  /-- A table walk is needed. -/
  | walk
  deriving DecidableEq, Repr

/-- A translation or region fault (R298); a fetch raises FETCH_FAULT with its reasons (R408). -/
def memFault (acc : Access) (code va level reason : Nat) : Cause :=
  if acc = .fetch then
    { cause 0x01 (BitVec.ofNat 64 va) with
        access := .fetch, level := level,
        reason := if code = 0x06 then reason else if code = 0x07 then 8 else 8 + reason }
  else { cause code (BitVec.ofNat 64 va) with access := acc, level := level, reason := reason }

/-- A write, for the D bit (R293 check 6). -/
def isWrite : Access → Bool
  | .store => true
  | .amo => true
  | .upd => true
  | .engine => true
  | _ => false

/-- Checks 4 to 6 of R293 on the permission bits of a leaf: the PAGE_FAULT reason that refuses, or none. -/
def leafRefuses (p : Priv) (acc : Access) (perm : BitVec 8) : Option Nat :=
  let user := perm.getLsbD 5
  let r := perm.getLsbD 2
  let w := perm.getLsbD 3
  let lv := match p with
    | .u => user
    | _ => if acc = .fetch then !user else true
  let kind := match acc with
    | .fetch => perm.getLsbD 4
    | .store => w
    | .engine => w
    | .amo => r && w
    | .upd => r && w
    | _ => r
  if !(lv && kind) then some 2 else if !perm.getLsbD 6 then some 3 else if isWrite acc && !perm.getLsbD 7 then some 4 else none

/-- The target test and then the region test of a physical address (R267, R293 check 7), at a walk level. -/
def finalCheck (s : State) (c : Nat) (acc : Access) (va pa level : Nat) : Tr :=
  if !hasTarget s c pa then .fault (memFault acc 0x08 va level 3)
  else match regionCheck (s.cluster (clusterOf c)).regions pa acc with
    | some key => .ok pa key
    | none => .fault (memFault acc 0x08 va level 1)

/-- The TLB entry that matches an access (R295). -/
def tlbFind : List TlbEntry → Nat → Nat → Option TlbEntry
  | [], _, _ => none
  | e :: t, asid, vp =>
    if (e.glob || e.asid == asid) && e.vpage ≤ vp && vp < e.vpage + e.npages then some e else tlbFind t asid vp

/-- Translation of one canonical address outside the local window (R290-R295). -/
def translate (s : State) (c : Nat) (x : Ctx) (va : Addr) (acc : Access) : Tr :=
  let cl := s.cluster (clusterOf c)
  if x.priv = .h then
    if bits va 52 5 ≠ 0 then .fault (memFault acc 0x06 va 0 5)
    else if !hasTarget s c (va % 2 ^ 52) then .fault (memFault acc 0x08 va 0 3)
    else .ok (va % 2 ^ 52) 0
  else if x.ptroot.getLsbD 63 = false then
    if bits va 52 5 ≠ 0 then .fault (memFault acc 0x06 va 0 5) else finalCheck s c acc va (va % 2 ^ 52) 0
  else
    match tlbFind cl.tlb x.asid.toNat (va / 4096 % 2 ^ 45) with
    | none => .walk
    | some e =>
      match leafRefuses x.priv acc e.perm with
      | some r => .fault (memFault acc 0x06 va e.level r)
      | none => finalCheck s c acc va ((e.ppage + (va / 4096 % 2 ^ 45 - e.vpage)) * 4096 + va % 4096) e.level

/-! ## Watchpoints (R419-R421) -/

/-- Whether a watchpoint kind is enabled for an access: RD for reads, WR for writes. -/
def wpKind (ctl : Word) (acc : Access) : Bool := if isWrite acc then ctl.getLsbD 1 else ctl.getLsbD 0

/-- The lowest watched byte of the range at `base` in an access of `n` bytes at `va`. -/
def wpByteFrom (mask base va n : Nat) : Nat → Option Nat
  | 0 => none
  | f + 1 =>
    let i := 16 - (f + 1)
    if nbit mask i && va ≤ base + i && base + i < va + n then some (base + i) else wpByteFrom mask base va n f

def wpByte (mask base va n : Nat) : Option Nat := wpByteFrom mask base va n 16

/-- The watchpoints an access matches (R420), with number, action and lowest matched byte. A stepped instruction under WPSKIP is not checked
(R413, R417). -/
def wpMatches (k : Core) (acc : Access) (va n : Nat) : List (Nat × Nat × Nat) :=
  if (match k.run with | .stepping _ _ => k.dbg.ctl.getLsbD 9 | _ => false) then []
  else (List.range 4).filterMap fun i =>
    let ctl := k.wpCtl.getD i 0
    if wpKind ctl acc then
      (wpByte (bits ctl.toNat 16 16) (k.wpBase.getD i 0).toNat va n).map fun a => (i, bits ctl.toNat 8 2, a)
    else none

/-- The matches that fail check 4 of R112: ACTION 0 or 1. -/
def wpStops (k : Core) (acc : Access) (va n : Nat) : List (Nat × Nat × Nat) := (wpMatches k acc va n).filter fun m => m.2.1 ≤ 1

/-- Traces the matches with ACTION 2 of an access that is performed (R421). -/
def traceWatch (c x : Nat) (acc : Access) (va n : Nat) (s : State) : State :=
  ((wpMatches (s.core c) acc va n).filter fun m => m.2.1 == 2).foldl
    (fun t m => t.traceIf c x 5 (m.1 * 16 + accessCode acc) [BitVec.ofNat 64 m.2.2, BitVec.ofNat 64 (gidOf s.dev c x)]) s

/-! ## The checks of R112 -/

/-- A run of an access in one page: its virtual and physical address, key ID and length. -/
structure Part where
  va : Addr
  pa : Addr
  key : Nat
  len : Nat
  deriving DecidableEq, Repr

/-- What the checks answer. -/
inductive Chk where
  /-- The access goes on: in the local window (one part, `pa` the local address) or outside. -/
  | ok (isLocal : Bool) (parts : List Part)
  | trap (c : Cause)
  /-- Wait for a table walk of this address. -/
  | walk (va : Addr)
  /-- Wait for the role change of this bank (R274). -/
  | role (bank : Nat)
  /-- Stop the core for this watchpoint (R421). -/
  | stop (wp : Nat)
  deriving DecidableEq, Repr

/-- An access cut at 4 KiB boundaries: address and length of each page's run. -/
def pagesOf : Nat → Addr → Nat → List (Addr × Nat)
  | 0, _, _ => []
  | f + 1, va, n =>
    let m := 4096 - va % 4096
    if n ≤ m then [(va, n)] else (va, m) :: pagesOf f (va + m) (n - m)

/-- Check 2 of R112: every page translates, in rising order. -/
def checkPages (s : State) (c : Nat) (x : Ctx) (acc : Access) : List (Addr × Nat) → List Part → Chk
  | [], ps => .ok false ps
  | (va, n) :: t, ps =>
    match translate s c x va acc with
    | .walk => .walk va
    | .fault cz => .trap cz
    | .ok pa key => checkPages s c x acc t (ps ++ [⟨va, pa, key, n⟩])

/-- The banks that local bytes touch, in rising order. -/
def banksOf (lo n : Nat) : List Nat := (List.range ((lo + n - 1) / 65536 - lo / 65536 + 1)).map (lo / 65536 + ·)

/-- Whether a bank's role allows a control-side access (R39). -/
def roleAllows (r : Role) (p : Priv) : Bool := r == .scratch || (r == .caddy && p == .h)

/-- Check 3 of R112: the first bank that refuses, after any role change in progress (R274). -/
def checkBanks (k : Core) (x : Ctx) (acc : Access) (va lo n : Nat) : List Nat → Chk
  | [] => .ok true [⟨va, lo, 0, n⟩]
  | b :: bs =>
    if (match k.roleChange with | some r => r.bank == b | none => false) then .role b
    else if roleAllows (k.role b) x.priv then checkBanks k x acc va lo n bs
    else
      .trap { cause 0x05 (BitVec.ofNat 64 (va + (max lo (b * 65536) - lo))) with
                access := acc, reason := (k.role b).code }

/-- Checks 1 to 3 of R112. -/
def checkPlace (s : State) (c : Nat) (x : Ctx) (acc : Access) (ea n : Nat) : Chk :=
  let last := (ea + n - 1) % 2 ^ 64
  if !(canonical ea && canonical last) || inWindow ea != inWindow last || last < ea then
    .trap { cause 0x04 (BitVec.ofNat 64 ea) with access := acc }
  else if inWindow ea then checkBanks (s.core c) x acc ea (ea % 2 ^ 21) n (banksOf (ea % 2 ^ 21) n)
  else checkPages s c x acc (pagesOf (n / 4096 + 2) ea n) []

/-- Checks 1 to 4 of R112. -/
def checkWatched (s : State) (c : Nat) (x : Ctx) (acc : Access) (ea n : Nat) : Chk :=
  match checkPlace s c x acc ea n with
  | .ok isLocal ps =>
    match wpStops (s.core c) acc ea n with
    | [] => .ok isLocal ps
    | (wp, action, a) :: _ =>
      if action = 0 then .trap { cause 0x0B (BitVec.ofNat 64 a) with access := acc, wp := wp } else .stop wp
  | r => r

/-- The first byte of a run that lies in a poisoned sector. -/
def poisonIn (pois : List Nat) (a n : Nat) : Option Nat :=
  ((List.range ((a + n - 1) / 256 - a / 256 + 1)).filterMap fun i =>
    let sec := a / 256 + i
    if pois.contains sec then some (max a (sec * 256) - a) else none).head?

/-- Whether a sector reads as poisoned to a core: its L1 copy if it has one, else the home. -/
def sectorPoisoned (s : State) (c sec : Nat) : Bool :=
  match tfind (s.core c).l1 sec with
  | some t => if t.upd.isSome then s.memPoison.contains sec else t.pois
  | none => s.memPoison.contains sec

/-- The first poisoned byte of the parts outside the window (check 5 of R112). -/
def partsPoison (s : State) (c : Nat) : List Part → Option Addr
  | [] => none
  | p :: ps =>
    let secs := (List.range ((p.pa + p.len - 1) / 256 - p.pa / 256 + 1)).map (p.pa / 256 + ·)
    match if isGddr p.pa then secs.find? (sectorPoisoned s c) else none with
    | some sec => some (p.va + (max p.pa (sec * 256) - p.pa))
    | none => partsPoison s c ps

/-- All the checks of R112; check 5 only where the access reads. -/
def checkAccess (s : State) (c : Nat) (x : Ctx) (acc : Access) (reads : Bool) (ea n : Nat) : Chk :=
  match checkWatched s c x acc ea n with
  | .ok isLocal ps =>
    if !reads then .ok isLocal ps
    else
      let bad := if isLocal then (poisonIn (s.core c).locPoison (ea % 2 ^ 21) n).map (ea + ·) else partsPoison s c ps
      match bad with
      | some a => .trap { cause 0x09 (BitVec.ofNat 64 a) with access := acc }
      | none => .ok isLocal ps
  | r => r

/-- The core stops before the running instruction, for a watchpoint or BRK (R415, R421, R127). -/
def State.stopFor (s : State) (why wp : Nat) : State :=
  s.updCore s.cur.1 fun k => k.stop why s.cur.2 wp

/-- What the running context does with a check that does not pass: it traps, waits or stops. -/
def State.refuse (s : State) (acc : Access) : Chk → State
  | .ok _ _ => s
  | .trap cz => s.trap cz
  | .walk va => (s.hold (.walk va acc)).send (.pageWalk s.cur.1 s.cur.2 va acc)
  | .role b => s.hold (.role b)
  | .stop wp => s.stopFor 4 wp

end Sys2Proof.Machine
end

