-- ==== Sys2Proof/Machine/Numbers.lean ====
section
/-!
DEFINITION. Number formats and exact values (02_numbers.md R44-R50, R55): every format a format register describes,
the scalar formats, decoding a code into its exact value and encoding a value of the format.
-/

namespace Sys2Proof.Machine

open Sys2Proof

/-- An exact value: a NaN, an infinity, or (-1)^neg × num/den × 2^exp, with den > 0; zero keeps its sign. -/
inductive Val where
  | nan (signalling : Bool)
  | inf (neg : Bool)
  | fin (neg : Bool) (num den : Nat) (exp : Int)
  deriving DecidableEq, Repr

/-- A number format: an integer format, or a float of `e` exponent and `m` mantissa bits. `spec` is 0 NONE, 1 NAN1,
2 IEEE (R44). For an integer, `m` is its width less 1. -/
structure Fmt where
  isInt : Bool
  sgn : Bool
  twos : Bool
  e : Nat
  m : Nat
  bias : Int
  spec : Nat
  ftz : Bool
  /-- Whether it has signalling NaNs (R48). -/
  snan : Bool
  deriving DecidableEq, Repr

/-- IEEE 754 binary32. -/
def fp32 : Fmt := ⟨false, true, false, 8, 23, 127, 2, false, true⟩
/-- IEEE 754 binary64. -/
def fp64 : Fmt := ⟨false, true, false, 11, 52, 1023, 2, false, true⟩
/-- The 32-bit and 64-bit integers of FCVT (R119). -/
def int32 : Fmt := ⟨true, true, true, 0, 31, 0, 0, false, false⟩
def uint32 : Fmt := ⟨true, false, false, 0, 31, 0, 0, false, false⟩
def int64 : Fmt := ⟨true, true, true, 0, 63, 0, 0, false, false⟩
def uint64 : Fmt := ⟨true, false, false, 0, 63, 0, 0, false, false⟩

/-! ## The format register (R44-R46) -/

def fmtKind (f : Half) : Nat := bits f.toNat 28 4
def fmtUthr (f : Half) : Nat := bits f.toNat 22 6
def fmtScaled (f : Half) : Bool := nbit f.toNat 20
/-- Block length in elements. -/
def fmtBlen (f : Half) : Nat := 32 * 2 ^ bits f.toNat 18 2

/-- The format a valid format register value describes. -/
def fmtOf (f : Half) : Fmt :=
  let v := f.toNat
  match fmtKind f with
  | 0 => ⟨false, nbit v 0, false, bits v 1 3, bits v 4 3, signed (bits v 7 8) 8, bits v 15 2, nbit v 17, false⟩
  | 1 => ⟨true, nbit v 0, nbit v 21, 0, bits v 4 3, 0, 0, false, false⟩
  | 2 => ⟨false, true, false, 5, 10, 15, 2, nbit v 17, true⟩
  | 3 => ⟨false, true, false, 8, 7, 127, 2, nbit v 17, true⟩
  | _ => fp32

/-- Which values are valid (R45). -/
def fmtValid (f : Half) : Bool :=
  let v := f.toNat
  let s := bits v 0 1
  let e := bits v 1 3
  let m := bits v 4 3
  let spec := bits v 15 2
  match fmtKind f with
  | 0 => 1 ≤ e && s + e + m ≤ 8 && !nbit v 21 && spec != 3 && (spec != 2 || (2 ≤ e && 1 ≤ m))
  | 1 => e == 0 && bits v 7 8 == 0 && spec == 0 && !nbit v 17 && (!nbit v 21 || s == 1) && (!(s == 1 && !nbit v 21) || 1 ≤ m)
  | 2 => bits v 18 10 == 0 && bits v 0 17 == 0
  | 3 => bits v 18 10 == 0 && bits v 0 17 == 0
  | 4 => bits v 0 28 == 0
  | _ => false

/-- Bytes of one element (R47). -/
def fmtBytes (f : Half) : Nat := match fmtKind f with
  | 0 => 1
  | 1 => 1
  | 2 => 2
  | 3 => 2
  | _ => 4

/-- Width of a code in bits. -/
def Fmt.width (F : Fmt) : Nat := if F.isInt then F.m + 1 else (if F.sgn then 1 else 0) + F.e + F.m

def Fmt.hasInf (F : Fmt) : Bool := !F.isInt && F.spec == 2
def Fmt.hasNan (F : Fmt) : Bool := !F.isInt && F.spec != 0

/-! ## Decoding (R48, R49) -/

/-- The exact value of a code. -/
def decodeCode (F : Fmt) (code : Nat) : Val :=
  if F.isInt then
    let w := F.m + 1
    let c := code % 2 ^ w
    if !F.sgn then .fin false c 1 0
    else if F.twos then .fin (decide (signed c w < 0)) (signed c w).natAbs 1 0
    else .fin (nbit c F.m && bits c 0 F.m != 0) (bits c 0 F.m) 1 0
  else
    let m := bits code 0 F.m
    let x := bits code F.m F.e
    let s := F.sgn && nbit code (F.m + F.e)
    if F.spec = 2 ∧ x = 2 ^ F.e - 1 then
      if m = 0 then .inf s else .nan (F.snan && !nbit m (F.m - 1))
    else if F.spec = 1 ∧ x = 2 ^ F.e - 1 ∧ m = 2 ^ F.m - 1 then .nan false
    else if x ≠ 0 then .fin s (2 ^ F.m + m) 1 ((x : Int) - F.bias - F.m)
    else if F.ftz then .fin s 0 1 0
    else .fin s m 1 (1 - F.bias - F.m)

/-- The significand and exponent of a finite element, for a product (R50): q and ε with value q × 2^ε. -/
def sigExp (F : Fmt) (code : Nat) : Int × Int :=
  match decodeCode F code with
  | .fin neg num _ exp => ((if neg then -(num : Int) else num), if num = 0 then 0 else exp)
  | _ => (0, 0)

/-- The exact value of a scale that is no zero block (R55): 2^e × (16 + f) / 16. -/
def scaleVal (sc : Nat) : Val := .fin false (16 + bits sc 0 4) 1 (signed (bits sc 4 12) 12 - 4)

/-- Whether a scale marks a zero block (R55). -/
def zeroBlock (sc : Nat) : Bool := bits sc 4 12 == 0x800

/-! ## Values of a format -/

/-- The largest finite magnitude of a float format (R50): mantissa and exponent, value num × 2^exp. -/
def Fmt.maxMag (F : Fmt) : Nat × Int :=
  let (x, m) :=
    if F.spec = 2 then (2 ^ F.e - 2, 2 ^ F.m - 1)
    else if F.spec = 1 then (if F.m = 0 then (2 ^ F.e - 2, 0) else (2 ^ F.e - 1, 2 ^ F.m - 2))
    else (2 ^ F.e - 1, 2 ^ F.m - 1)
  if x = 0 then (m, 1 - F.bias - F.m) else (2 ^ F.m + m, (x : Int) - F.bias - F.m)

/-- MaxF of an integer format (R49). -/
def Fmt.maxInt (F : Fmt) : Nat := if F.sgn then 2 ^ F.m - 1 else 2 ^ (F.m + 1) - 1

/-- The magnitude of MinF of an integer format (R49). -/
def Fmt.minMag (F : Fmt) : Nat := if !F.sgn then 0 else if F.twos then 2 ^ F.m else 2 ^ F.m - 1

/-- MaxF as a value, with a sign. -/
def Fmt.maxVal (F : Fmt) (neg : Bool) : Val :=
  if F.isInt then (if neg then .fin (F.minMag != 0) F.minMag 1 0 else .fin false F.maxInt 1 0)
  else .fin neg F.maxMag.1 1 F.maxMag.2

/-- num/den × 2^exp, at the quantum 2^k: the floor, whether a remainder is left, and how twice the remainder compares
with the quantum. -/
def quot (num den : Nat) (exp k : Int) : Nat × Bool × Ordering :=
  let n := num * 2 ^ (exp - k).toNat
  let d := den * 2 ^ (k - exp).toNat
  let r := n % d
  (n / d, r != 0, compare (2 * r) d)

/-- The floor of log2 of num/den × 2^exp, for num > 0. -/
def ilog2 (num den : Nat) (exp : Int) : Int :=
  let l : Int := (num.log2 : Int) - (den.log2 : Int)
  let ok := if 0 ≤ l then decide (den * 2 ^ l.toNat ≤ num) else decide (den ≤ num * 2 ^ (-l).toNat)
  (if ok then l else l - 1) + exp

/-- The canonical NaN of a format (R52). -/
def Fmt.nanCode (F : Fmt) : Nat :=
  let x := (2 ^ F.e - 1) * 2 ^ F.m
  if F.spec = 1 then x + (2 ^ F.m - 1) else x + 2 ^ (F.m - 1)

/-- The code of a value that the format represents exactly. -/
def encodeVal (F : Fmt) (v : Val) : Nat :=
  if F.isInt then
    match v with
    | .fin neg num den exp =>
      let n := (quot num den exp 0).1
      if !neg || n == 0 then n else if F.twos then 2 ^ (F.m + 1) - n else 2 ^ F.m + n
    | _ => 0
  else
    let top := F.m + F.e
    match v with
    | .nan _ => F.nanCode
    | .inf neg => (if neg then 2 ^ top else 0) + (2 ^ F.e - 1) * 2 ^ F.m
    | .fin neg num den exp =>
      let s := if neg && F.sgn then 2 ^ top else 0
      if num = 0 then s
      else
        let l := ilog2 num den exp
        let lo : Int := 1 - F.bias
        if l < lo then s + (quot num den exp (lo - F.m)).1
        else s + (l + F.bias).toNat * 2 ^ F.m + ((quot num den exp (l - F.m)).1 - 2 ^ F.m)

end Sys2Proof.Machine
end

