-- ==== Sys2Proof/Machine/Flags.lean ====
section
/-!
DEFINITION. Rounding, saturation and the five exception flags (R51-R54), the arithmetic of IEEE 754-2019 on exact
values, and the scalar comparison, selection and classification results (R116-R120).
-/

namespace Sys2Proof.Machine

open Sys2Proof

/-- The five flags NV, DZ, OF, UF, NX in bits 4 to 0 (R25). -/
abbrev FFlags := BitVec 5

def nv : FFlags := 16
def dz : FFlags := 8
def ofl : FFlags := 4
def ufl : FFlags := 2
def nx : FFlags := 1

/-- Rounding modes by code (R25): 0 RNE, 1 RTZ, 2 RUP, 3 RDN, 4 RNA. -/
abbrev Rm := Nat

/-- The mode of an instruction: code 7 takes FRM (R75, R136). -/
def rmOf (code : BitVec 3) (frm : BitVec 3) : Rm := if code = 7 then frm.toNat else code.toNat

/-- Whether rounding goes away from zero, given sign, odd floor, whether a rest is left and its half comparison. -/
def roundUp (rm : Rm) (neg odd rest : Bool) (half : Ordering) : Bool :=
  if !rest then false
  else match rm with
    | 0 => half == .gt || (half == .eq && odd)
    | 1 => false
    | 2 => !neg
    | 3 => neg
    | _ => half != .lt

/-- num/den × 2^exp rounded to a multiple of 2^k: the multiple, and whether it is inexact. The multiple q has the code q + `code`,
whose parity decides a tie (R51). -/
def roundMag (rm : Rm) (neg : Bool) (num den : Nat) (exp k : Int) (code : Nat) : Nat × Bool :=
  let (q, rest, half) := quot num den exp k
  (if roundUp rm neg ((q + code) % 2 == 1) rest half then q + 1 else q, rest)

/-- |a × 2^j| against |b × 2^k|. -/
def cmpMag (a : Nat) (j : Int) (b : Nat) (k : Int) : Ordering :=
  compare (a * 2 ^ (j - k).toNat) (b * 2 ^ (k - j).toNat)

/-- The overflow result of a format with ∞ (R52). -/
def overflowVal (F : Fmt) (rm : Rm) (neg : Bool) : Val :=
  match rm with
  | 1 => F.maxVal neg
  | 2 => if neg then F.maxVal true else .inf false
  | 3 => if neg then .inf true else F.maxVal false
  | _ => .inf neg

/-- RoundFRM into an integer format (R52): y clamped to the ends of the range with NV. DESIGN CHOICE (log 48): a negative x that rounds to zero
gives the code with no bit set, in a sign-magnitude format too, where R49 reads the code with the sign set and no magnitude as 0 as well. -/
def roundInt (F : Fmt) (rm : Rm) (neg : Bool) (num den : Nat) (exp : Int) : Val × FFlags :=
  let (y, inexact) := roundMag rm neg num den exp 0 0
  let lim := if neg then F.minMag else F.maxInt
  if lim < y then (.fin (neg && lim != 0) lim 1 0, nv) else (.fin (neg && y != 0) y 1 0, if inexact then nx else 0)

/-- RoundFRM of a finite value into a float format (R52). -/
def roundFloat (F : Fmt) (rm : Rm) (neg : Bool) (num den : Nat) (exp : Int) : Val × FFlags :=
  if num = 0 then (.fin (neg && F.sgn) 0 1 0, 0)
  else
    let lo : Int := 1 - F.bias
    let l : Int := max lo (ilog2 num den exp)
    let k : Int := l - F.m
    let (y, inexact) := roundMag rm neg num den exp k ((l - lo).toNat * 2 ^ F.m)
    let f0 : FFlags := if inexact then nx else 0
    if !F.sgn && neg then (.fin false 0 1 0, if y ≠ 0 then nv else if inexact then f0 ||| ufl else f0)
    else
      let small := cmpMag y k 1 lo == .lt
      let f1 : FFlags := if inexact && small then f0 ||| ufl else f0
      if F.ftz && y != 0 && small then (.fin neg 0 1 0, f1 ||| ufl ||| nx)
      else if cmpMag y k F.maxMag.1 F.maxMag.2 == .gt then
        (if F.hasInf then overflowVal F rm neg else F.maxVal neg, f1 ||| ofl ||| nx)
      else (.fin neg y 1 k, f1)

/-- RoundFRM (R52). -/
def roundVal (F : Fmt) (rm : Rm) (v : Val) : Val × FFlags :=
  match v with
  | .nan s =>
    if F.hasNan then (.nan false, if s then nv else 0) else (.fin false 0 1 0, nv)
  | .inf neg =>
    if neg && !F.sgn then (.fin false 0 1 0, nv)
    else if F.hasInf then (.inf neg, 0)
    else if F.isInt then (F.maxVal neg, nv)
    else (F.maxVal neg, nx)
  | .fin neg num den exp => if F.isInt then roundInt F rm neg num den exp else roundFloat F rm neg num den exp

/-- Sat on a result of RoundFRM (R53); NX is set when the exact value was itself infinite. -/
def satVal (F : Fmt) (v : Val) (r : Val × FFlags) : Val × FFlags :=
  match r.1, v with
  | .inf neg, .inf _ => (F.maxVal neg, r.2 ||| nx)
  | .inf neg, _ => (F.maxVal neg, r.2)
  | _, _ => r

/-- RoundFRM and, under SAT, Sat: the code and the flags. -/
def roundCode (F : Fmt) (rm : Rm) (sat : Bool) (v : Val) : Nat × FFlags :=
  let r := if sat then satVal F v (roundVal F rm v) else roundVal F rm v
  (encodeVal F r.1, r.2)

/-! ## Exact arithmetic (R54) -/

def isNan : Val → Bool
  | .nan _ => true
  | _ => false

def isSnan : Val → Bool
  | .nan s => s
  | _ => false

def isZero : Val → Bool
  | .fin _ num _ _ => num == 0
  | _ => false

def signOf : Val → Bool
  | .nan _ => false
  | .inf n => n
  | .fin n _ _ _ => n

def negVal : Val → Val
  | .nan s => .nan s
  | .inf n => .inf (!n)
  | .fin n a d e => .fin (!n) a d e

/-- A NaN result from operands, NV for a signalling one (the rounding of a signalling NaN sets it). -/
def nanOf (a b : Val) : Val := .nan (isSnan a || isSnan b)

/-- The exact sum; an exact zero of unlike signs is +0, -0 under RDN. -/
def addVal (rm : Rm) (a b : Val) : Val × FFlags :=
  match a, b with
  | .inf m, .inf n => if m = n then (.inf m, 0) else (.nan false, nv)
  | .inf m, .fin _ _ _ _ => (.inf m, 0)
  | .fin _ _ _ _, .inf n => (.inf n, 0)
  | .fin m x d j, .fin n y e k =>
    let lo := min j k
    let p : Int := (x * e * 2 ^ (j - lo).toNat : Nat)
    let q : Int := (y * d * 2 ^ (k - lo).toNat : Nat)
    let t : Int := (if m then -p else p) + (if n then -q else q)
    let neg := if t = 0 then (if m = n then m else decide (rm = 3)) else decide (t < 0)
    (.fin neg t.natAbs (d * e) lo, 0)
  | a, b => (nanOf a b, 0)

/-- The exact product. -/
def mulVal (a b : Val) : Val × FFlags :=
  match a, b with
  | .nan s, b => (.nan (s || isSnan b), 0)
  | a, .nan s => (.nan (s || isSnan a), 0)
  | .fin m x d j, .fin n y e k => (.fin (m != n) (x * y) (d * e) (j + k), 0)
  | a, b => if isZero a || isZero b then (.nan false, nv) else (.inf (signOf a != signOf b), 0)

/-- The exact quotient. -/
def divVal (a b : Val) : Val × FFlags :=
  match a, b with
  | .nan s, b => (.nan (s || isSnan b), 0)
  | a, .nan s => (.nan (s || isSnan a), 0)
  | .inf _, .inf _ => (.nan false, nv)
  | .inf m, .fin n _ _ _ => (.inf (m != n), 0)
  | .fin m _ _ _, .inf n => (.fin (m != n) 0 1 0, 0)
  | .fin m x d j, .fin n y e k =>
    if y = 0 then (if x = 0 then (.nan false, nv) else (.inf (m != n), dz))
    else (.fin (m != n) (x * e) (d * y) (j - k), 0)

/-- The integer square root, by Newton's method from above. -/
def isqrtGo : Nat → Nat → Nat → Nat
  | 0, _, r => r
  | f + 1, n, r => let t := (r + n / r) / 2; if t < r then isqrtGo f n t else r

def isqrt (n : Nat) : Nat := if n = 0 then 0 else isqrtGo (n.log2 + 2) n (2 ^ (n.log2 / 2 + 1))

/-- √(num × 2^exp) as a value that rounds as the root does in every format of at most 120 mantissa bits: an inexact
root stands between two of its approximations. -/
def sqrtMag (num : Nat) (exp : Int) : Val :=
  let n := num * 2 ^ (256 + (exp % 2).toNat)
  let h := (exp - exp % 2) / 2 - 128
  let r := isqrt n
  if r * r = n then .fin false r 1 h else .fin false (2 * r + 1) 1 (h - 1)

/-- The square root (R116). -/
def sqrtVal (a : Val) : Val × FFlags :=
  match a with
  | .nan s => (.nan s, 0)
  | .inf neg => if neg then (.nan false, nv) else (.inf false, 0)
  | .fin neg num den exp =>
    if num = 0 then (.fin neg 0 1 0, 0)
    else if neg then (.nan false, nv)
    else
      match sqrtMag (num * den) exp with
      | .fin n x _ e => (.fin n x den e, 0)
      | v => (v, 0)

/-- a × b + c with one rounding to come; ∞ × 0 gives NaN with NV whatever c is (R117). -/
def fmaVal (rm : Rm) (a b c : Val) : Val × FFlags :=
  let (p, f) := mulVal a b
  let (t, g) := addVal rm p c
  if f ≠ 0 then (.nan (isSnan c), f) else (t, g)

/-- Rounds an exact result with the flags of its operation. -/
def finish (F : Fmt) (rm : Rm) (sat : Bool) (r : Val × FFlags) : Nat × FFlags :=
  let (c, f) := roundCode F rm sat r.1
  (c, f ||| r.2)

/-- a < b; a NaN is neither below nor above anything, and -0 equals +0. -/
def ltVal (a b : Val) : Bool :=
  match a, b with
  | .nan _, _ => false
  | _, .nan _ => false
  | .inf m, .inf n => m && !n
  | .inf m, _ => m
  | _, .inf n => !n
  | .fin m x d j, .fin n y e k =>
    let lo := min j k
    let p : Int := (x * e * 2 ^ (j - lo).toNat : Nat)
    let q : Int := (y * d * 2 ^ (k - lo).toNat : Nat)
    decide ((if m then -p else p) < (if n then -q else q))

def eqVal (a b : Val) : Bool := !isNan a && !isNan b && !ltVal a b && !ltVal b a

/-- a counts below b: -0 below +0 (R116). -/
def belowVal (a b : Val) : Bool := ltVal a b || (eqVal a b && signOf a && !signOf b)

/-- FMIN, FMAX, FMINM, FMAXM on codes (R116, ops 5 to 8): one operand exactly, or the canonical NaN. -/
def selectCode (F : Fmt) (op : Nat) (x y : Nat) : Nat × FFlags :=
  let a := decodeCode F x
  let b := decodeCode F y
  let f : FFlags := if isSnan a || isSnan b then nv else 0
  let pick := if op = 5 ∨ op = 7 then (if belowVal b a then y else x) else (if belowVal a b then y else x)
  if isNan a || isNan b then
    if op ≤ 6 ∧ !(isNan a && isNan b) then (if isNan a then y else x, f) else (F.nanCode, f)
  else (pick, f)

/-- FCMP (R118): cond 0 EQ, 1 LT, 2 LE, 3 UN. -/
def fcmpCode (F : Fmt) (cond x y : Nat) : Bool × FFlags :=
  let a := decodeCode F x
  let b := decodeCode F y
  let un := isNan a || isNan b
  let f : FFlags := if isSnan a || isSnan b || ((cond == 1 || cond == 2) && un) then nv else 0
  (match cond with
    | 0 => eqVal a b
    | 1 => !un && ltVal a b
    | 2 => !un && (ltVal a b || eqVal a b)
    | _ => un, f)

/-- FCLASS (R120). -/
def fclassCode (F : Fmt) (x : Nat) : Nat :=
  let neg := if nbit x (F.m + F.e) then 128 else 0
  match decodeCode F x with
  | .nan s => neg + (if s then 6 else 5)
  | .inf _ => neg + 4
  | .fin _ num _ exp =>
    let intv := if (quot num 1 exp 0).2.1 then 0 else 64
    let pow2 := if num ≠ 0 ∧ 2 ^ num.log2 = num then 32 else 0
    neg + intv + pow2 + (if num = 0 then 1 else if bits x F.m F.e = 0 then 2 else 3)

/-- An exact sum of many terms (R143, R149, R174): NaN where a term is one or infinities meet with both signs; the
second flag says that infinities met. -/
def sumVals (rm : Rm) (a : Val) : List Val → Val × FFlags
  | [] => (a, 0)
  | b :: bs =>
    let (t, f) := addVal rm a b
    let (u, g) := sumVals rm t bs
    (u, f ||| g)

/-- An integer clamped to 32 bits (R136): the raw bits and OF where it clamped. -/
def clamp32 (v : Int) : Nat × FFlags :=
  if v > 2147483647 then (0x7FFFFFFF, ofl) else if v < -2147483648 then (0x80000000, ofl) else (wrap v 32, 0)

end Sys2Proof.Machine
end

