-- ==== Sys2Proof/Machine/Cache.lean ====
section
/-!
DEFINITION. The levels of memory: the home (key, poison, exact sums; R285-R287, R309), the L1 of a core (R275, R276),
its store buffer (R97), release and refresh (R305, R306), local bytes, and watch matches at the place of a write (R423).
-/

namespace Sys2Proof.Machine

open Sys2Proof

/-! ## The home (R285-R287, R309) -/

/-- A key ID with its generation (R477). -/
def keyNow (s : State) (key : Nat) : Nat × Nat := (key, tget 0 s.keyGen key)

/-- What an access under a key reads at an address: the bytes, or others under a key that differs from the one its
sector was written under (R285). -/
def homeByte (s : State) (key a : Nat) : Byte :=
  let tag := tget (0, 0) s.keyTag (a / 256)
  if tag = keyNow s key then memByte s.mem a
  else Config.wrongKey tag (keyNow s key) (a / 16) (memRead s.mem (a / 16 * 16) 16) (a % 16)

/-- Bytes read at the home. -/
def homeBytes (s : State) (key a : Nat) : Nat → List Byte
  | 0 => []
  | n + 1 => homeByte s key a :: homeBytes s key (a + 1) n

/-- Exact sums of the touched lines become their rounded values, which memory already holds (R309). -/
def settle (s : State) (a n : Nat) : State :=
  { s with fsums := s.fsums.filter fun e => e.1 / 1024 < a / 1024 || (a + n - 1) / 1024 < e.1 / 1024 }

/-- Reads at the home: the bytes, and the state with the lines' sums settled. -/
def homeRead (s : State) (key a n : Nat) : List Byte × State := (homeBytes s key a n, settle s a n)

/-- Makes a sector hold what an access under `key` would read of it, under that key (R285: written back under its own
key, dropped, refilled under the access's). -/
def rekey (s : State) (key sec : Nat) : State :=
  if tget (0, 0) s.keyTag sec = keyNow s key then s
  else
    let bs := homeBytes s key (sec * 256) 256
    { settle s (sec * 256) 256 with
             mem := memWrite s.mem (sec * 256) bs,
             keyTag := if keyNow s key = (0, 0) then tdel s.keyTag sec else tput s.keyTag sec (keyNow s key) }

/-- The sectors that bytes touch. -/
def sectorsOf (a n : Nat) : List Nat := if n = 0 then [] else (List.range ((a + n - 1) / 256 - a / 256 + 1)).map (a / 256 + ·)

/-- Sectors that bytes cover whole. -/
def wholeSectors (a n : Nat) : List Nat := (sectorsOf a n).filter fun q => a ≤ q * 256 && q * 256 + 256 ≤ a + n

/-- Writes at the home under a key. A write of all 256 bytes of a sector clears its poison (R276). -/
def homeWrite (s : State) (key a : Nat) (bs : List Byte) : State :=
  let s1 := settle ((sectorsOf a bs.length).foldl (fun t q => rekey t key q) s) a bs.length
  { s1 with mem := memWrite s1.mem a bs,
            memPoison := s1.memPoison.filter fun q => !(wholeSectors a bs.length).contains q }

/-! ## The lines of a home slice (R282-R285) -/

/-- The set of a line in its home slice: PA[27:17] (log 5). -/
def llcSet (line : Nat) : Nat × Nat := (homeSlice (line * 1024), bits line 7 11)

/-- The lines a fill may replace: STREAM ones before WARM ones, never PINNED ones (R283). -/
def llcVictims (ls : List (Nat × LlcLine)) : List Nat :=
  let stream := ls.filter fun e => e.2.rcls == 2
  let warm := ls.filter fun e => e.2.rcls == 0
  (if stream.isEmpty then warm else stream).map (·.1)

/-- Fills a line that its slice does not list, under the class quotas (R282, R283). -/
def llcNew (s : State) (line key cls rcls : Nat) : State :=
  let q := tget 0 s.quotas cls
  let set := s.llc.filter fun e => llcSet e.1 == llcSet line && e.1 != line
  let mine := set.filter fun e => e.2.cls == cls
  let r := if rcls = 1 ∧ q ≤ (mine.filter fun e => e.2.rcls == 1).length + 1 then 0 else rcls
  let put (t : State) : State := { t with llc := tput t.llc line ⟨key, cls, r⟩ }
  let replace (vs : List Nat) : State :=
    match vs[s.pick % (max vs.length 1)]? with
    | some v => put (settle { s.used with llc := tdel s.llc v } (v * 1024) 1024)
    | none => s
  if q = 0 then s
  else if mine.length < q then
    if set.length < 16 then put s
    else replace (llcVictims (set.filter fun e =>
      tget 0 s.quotas e.2.cls < (set.filter fun f => f.2.cls == e.2.cls).length))
  else replace (llcVictims mine)

/-- A fill of a line: one listed under another key is dropped first (R285). -/
def llcInsert (s : State) (line key cls rcls : Nat) : State :=
  match tfind s.llc line with
  | some l => if l.key = key then s else llcNew (settle { s with llc := tdel s.llc line } (line * 1024) 1024) line key cls rcls
  | none => llcNew s line key cls rcls

/-- An access at the home for a context finds a line that its slice lists under another key: the line is dropped and filled again
under the access's key, in the context's classes (R285). -/
def homeTouch (s : State) (key line : Nat) (x : Ctx) : State :=
  if (tfind s.llc line).isSome then llcInsert s line key x.cclass.toNat x.rescls.toNat else s


/-! ## Watch matches at the place (R422-R425) -/

/-- Takes what a remote match does at its watching core (R424). -/
def watchAct (core wp : Nat) (ctl : Word) (base i agent : Nat) (acc : Access) (s : State) : State :=
  let k := s.core core
  match bits ctl.toNat 8 2 with
  | 0 =>
    if 8 ≤ k.reports.length then
      let c5 := k.dbg.counts.getD 5 0
      let low := bits c5.toNat 0 32
      let c5' := if low = 0xFFFFFFFF then c5 else c5 + 1
      s.setCore core { k with dbg := { k.dbg with counts := lset k.dbg.counts 5 c5' } }
    else s.setCore core { k with reports := k.reports ++ [⟨wp, acc, agent, BitVec.ofNat 64 (base + i), s.time.toNat⟩] }
  | 1 => s.setCore core (k.stop 4 0 wp)
  | _ => s.traceIf core 0 5 (wp * 16 + accessCode acc) [BitVec.ofNat 64 (base + i), BitVec.ofNat 64 agent]

/-- A match of a watchpoint of this device's. -/
def watchHit (core wp base i agent : Nat) (acc : Access) (s : State) : State :=
  watchAct core wp ((s.core core).wpCtl.getD wp 0) base i agent acc s

/-- The watch entries that a bank holds: its number is core × 32 + bank (R422). -/
def bankWatches (s : State) (bank : Nat) : Nat :=
  (s.watches.filter fun w => w.2.2.1 == 2 && w.2.2.2 / 65536 == bank).length + (s.farWatches.filter fun w => w.place / 65536 == bank).length

/-- A match of a watchpoint of another device's: it goes there. -/
def farHit (w : FarWatch) (i agent : Nat) (acc : Access) (s : State) : State :=
  s.toDevice (w.place / 2 ^ 21) w.dev (.requestAnswer w.core 15 (.matched w.wp w.base w.ctl i agent acc))

/-- The matches of a write in a bank at the entries of other devices: no write of the watching core's own control side (R423). -/
def farMatch (a n agent : Nat) (acc : Access) (s : State) : State :=
  if acc = .wideWrite then s
  else s.farWatches.foldl (fun t w =>
    if gidDev agent = w.dev ∧ gidCore agent = w.core ∧ gidCtx agent < 11 then t
    else match wpByte (bits w.ctl.toNat 16 16) w.place a n with
      | some hit => farHit w (hit - w.place) agent acc t
      | none => t) s

/-- The matches of a write of `n` bytes at a place: kind 1 the home slice of a physical address, kind 2 the bank of
local address `core × 2^21 + local` (R422). Writes of a core in `own` are not matched there, and wide writes only where the base lies in
the local window (R423). -/
def watchWrite (kind a n agent : Nat) (acc : Access) (own : Option Nat) : List (Nat × Nat × Nat × Nat) → State → State
  | [], s => s
  | (core, wp, k, addr) :: t, s =>
    let mask := bits ((s.core core).wpCtl.getD wp 0).toNat 16 16
    let s1 :=
      if k = kind ∧ own ≠ some core ∧ (acc ≠ .wideWrite ∨ inWindow ((s.core core).wpBase.getD wp 0).toNat) then
        match wpByte mask addr a n with
        | some hit => watchHit core wp ((s.core core).wpBase.getD wp 0).toNat (hit - addr) agent acc s
        | none => s
      else s
    watchWrite kind a n agent acc own t s1

/-- Matches of a write at a physical GDDR 7 address. -/
def watchHome (s : State) (a n agent : Nat) (acc : Access) (own : Option Nat) : State :=
  watchWrite 1 a n agent acc own s.watches s

/-- Matches of a write in a core's banks. -/
def watchBank (s : State) (core loc n agent : Nat) (acc : Access) (own : Option Nat) : State :=
  farMatch (core * 2 ^ 21 + loc) n agent acc (watchWrite 2 (core * 2 ^ 21 + loc) n agent acc own s.watches s)

/-! ## Local bytes -/

/-- Writes local bytes; sectors written whole lose their poison (R410). -/
def locWrite (s : State) (c a : Nat) (bs : List Byte) : State :=
  s.updCore c fun k => { k with loc := memWrite k.loc a bs,
                                locPoison := k.locPoison.filter fun q => !(wholeSectors a bs.length).contains q }

def locRead (s : State) (c a n : Nat) : List Byte := memRead (s.core c).loc a n

/-! ## The global scratchpad window of this device (R288) -/

/-- Bytes of a core's banks that the window reaches: a byte outside SCRATCH reads as zero (R288). -/
def windowBytes (s : State) (core loc n : Nat) : List Byte :=
  (List.range n).map fun i =>
    if (s.core core).role ((loc + i) / 65536) = .scratch then memByte (s.core core).loc (loc + i) else 0

/-- Adds to a counter of a core (R434). -/
def count (s : State) (c i n : Nat) : State :=
  s.updCore c fun k => { k with dbg := { k.dbg with counts := lset k.dbg.counts i (k.dbg.counts.getD i 0 + BitVec.ofNat 64 n) } }

/-- The refused byte ranges of an access to a core's banks: runs of banks that are not SCRATCH. -/
def refusedRanges (k : Core) : List Nat → Bool → Nat
  | [], _ => 0
  | b :: t, inRun =>
    if k.role b = .scratch then refusedRanges k t false
    else (if inRun then 0 else 1) + refusedRanges k t true

/-- Counts the refused ranges in COUNT5[63:32] of the target router (R288, R434). -/
def countRefused (s : State) (core loc n : Nat) : State :=
  count s core 5 (2 ^ 32 * refusedRanges (s.core core) (banksOf loc n) false)

/-! ## The L1 (R275, R276, R309) -/

/-- The banks in the CACHE role: the ways of the L1. -/
def Core.ways (k : Core) : List Nat := (List.range 16).filter fun b => k.role b == .cache

def Core.hasL1 (k : Core) : Bool := (List.range 16).any fun b => k.role b == .cache

/-- The runs of a sector's dirty bytes are written back one by one to the home, under the sector's key; a poisoned
copy poisons the home (R276, R305). -/
def writeDirty (key base : Nat) (bytes : List Byte) : List Nat → State → State
  | [], s => s
  | i :: is, s =>
    let s1 := settle (rekey s key (base / 256)) (base + i) 1
    writeDirty key base bytes is { s1 with mem := memSet s1.mem (base + i) (bytes.getD i 0) }

/-- Writes a sector of a core's L1 back; the copy stays, clean. -/
def writeBack (s : State) (c sec : Nat) : State :=
  match tfind (s.core c).l1 sec with
  | none => s
  | some t =>
    if t.dirty.isEmpty then s
    else
      let s1 := writeDirty t.key (sec * 256) t.bytes t.dirty (homeTouch s t.key (sec / 4) (s.ctx c t.by_))
      let pois := if t.pois then nadd s1.memPoison sec
        else if t.dirty.length = 256 then s1.memPoison.filter (· != sec) else s1.memPoison
      ({ s1 with memPoison := pois } : State).updCore c fun k =>
        { k with l1 := tput k.l1 sec { t with dirty := [] }, active := true }

/-- Sends a partial to the home: the router counts it as a store (R191, R305). -/
def sendUpd (s : State) (m : UpdMsg) : State :=
  (s.updCore m.core fun k => { k with sent := k.sent + 1 }).send (.updPartialCombine m)

/-- Sends a sector's update-only partial to the home; the sector leaves the state (R309). -/
def sendPartial (s : State) (c sec : Nat) : State :=
  match tfind (s.core c).l1 sec with
  | some t =>
    match t.upd with
    | some (op, n, es) =>
      sendUpd (s.updCore c fun k => { k with l1 := tdel k.l1 sec }) ⟨c, sec, t.key, op, n, es⟩
    | none => s
  | none => s

/-- Writes a sector back or sends its partial, then drops it. -/
def dropSector (s : State) (c sec : Nat) : State :=
  let s1 := sendPartial (writeBack s c sec) c sec
  s1.updCore c fun k => { k with l1 := tdel k.l1 sec }

/-- The sectors of a line that the L1 holds. -/
def lineSectors (k : Core) (line : Nat) : List Nat := (k.l1.map (·.1)).filter fun q => q / 4 == line

/-- Evicts a line. -/
def evictLine (s : State) (c line : Nat) : State := (lineSectors (s.core c) line).foldl (fun t q => dropSector t c q) s

/-- A partial of a core for a sector is on its way to the home: what the core does to the sector next comes after it (R98, R309). -/
def partialOut (s : State) (c sec : Nat) : Bool := s.agenda.any fun i => match i with
  | .updPartialCombine m => m.core == c && m.sector == sec
  | _ => false

/-- The L1 holds a sector in the update-only state. -/
def inUpd (k : Core) (sec : Nat) : Bool := match tfind k.l1 sec with
  | some t => t.upd.isSome
  | none => false

/-- An AMO of a core to a sector is on its way to the home. -/
def amoOut (s : State) (c sec : Nat) : Bool := s.agenda.any fun i => match i with
  | .amoAtHome core _ r => core == c && r.pa / 256 == sec
  | _ => false

/-- The buffered stores of a core to a sector, oldest first. -/
def sectorStores (k : Core) (sec : Nat) : List StEntry := k.stbuf.filter fun e => (sectorsOf e.pa e.data.length).contains sec

/-- The oldest buffered store of a core to a sector has gone straight to the home and is not acknowledged yet. -/
def directOut (k : Core) (sec : Nat) : Bool := (sectorStores k sec).head?.any (·.direct)

/-- A fill of a sector waits for the partials, AMOs and direct stores of its core that are on their way: it must not bring back bytes from
before them (R98, R303, R308, R309). -/
def fillWaits (s : State) (c sec : Nat) : Bool := partialOut s c sec || amoOut s c sec || directOut (s.core c) sec

/-- The L1 sector whose bytes lie at a local address of a CACHE bank: the bank is the way (R275, log 58). -/
def liesAt (lo : Nat) (e : Nat × Sector) : Bool :=
  e.2.way == lo / 65536 && e.1 / 4 % 64 == lo / 1024 % 64 && e.1 % 4 == lo / 256 % 4

def bankSector (k : Core) (lo : Nat) : Option (Nat × Sector) :=
  if k.role (lo / 65536) = .cache then k.l1.find? (liesAt lo) else none

/-- The way a new sector goes to: its line's way, else a free way, else a way whose line is evicted; the choice among
several is free (R275). -/
def allocWay (s : State) (c sec : Nat) : Nat × State :=
  let k := s.core c
  match k.l1.find? fun e => e.1 / 4 == sec / 4 with
  | some e => (e.2.way, s)
  | none =>
    let set := sec / 4 % 64
    let used := (k.l1.filter fun e => e.1 / 4 % 64 == set).map (·.2.way)
    let free := k.ways.filter fun w => !used.contains w
    let cands := if free.isEmpty then k.ways else free
    let way := cands.getD (s.pick % (max cands.length 1)) 0
    let s1 := s.used
    match k.l1.find? fun e => e.1 / 4 % 64 == set && e.2.way == way with
    | some e => (way, evictLine s1 c (e.1 / 4))
    | none => (way, s1)

/-- Puts a sector into the L1. -/
def putSector (s : State) (c sec : Nat) (t : Sector) : State := s.updCore c fun k => { k with l1 := tput k.l1 sec t }

/-- A store into a sector that the L1 holds: bytes and dirty set; writing all 256 bytes clears poison (R276). -/
def storeSector (t : Sector) (off x : Nat) (bs : List Byte) : Sector :=
  { t with bytes := (t.bytes.take off ++ bs ++ t.bytes.drop (off + bs.length)),
           dirty := (List.range bs.length).foldl (fun d i => nadd d (off + i)) t.dirty,
           pois := t.pois && bs.length != 256, hurt := t.hurt && bs.length != 256, by_ := x }

/-- Whether the L1 holds readable bytes of a sector under a key. -/
def hasSector (k : Core) (sec key : Nat) : Bool :=
  match tfind k.l1 sec with
  | some t => t.upd.isNone && t.key == key
  | none => false

/-- Asks for a sector fill, once; the home slice fills its line under the context's classes (R282, R284). A fill comes after what the
core has sent to the home for the sector (`fillWaits`). -/
def askFill (s : State) (c x sec key : Nat) : State :=
  let s1 := if (tfind s.llc (sec / 4)).any fun l => l.key == key then s
    else s.send (.llcFill (sec / 4) key (s.ctx c x).cclass.toNat (s.ctx c x).rescls.toNat)
  if s.agenda.contains (.l1SectorFill c sec key) then s else s1.send (.l1SectorFill c sec key)

/-- Runs of an access within sectors. -/
def sectorRuns : Nat → Addr → Nat → List (Addr × Nat)
  | 0, _, _ => []
  | f + 1, a, n => let m := 256 - a % 256; if n ≤ m then [(a, n)] else (a, m) :: sectorRuns f (a + m) (n - m)

/-- Whether a store-buffer entry holds any of these bytes. -/
def stHolds (e : StEntry) (a n : Nat) : Bool := e.pa < a + n && a < e.pa + e.data.length

/-- A refresh (R306): clean copies are dropped; a dirty sector's other bytes, and its poison, are read again from the home. A sector that the
core has stored whole keeps what it holds, also that its poison is cleared (R276, R321). -/
def refreshSector (s : State) (sec : Nat) (t : Sector) : Option Sector :=
  if t.upd.isSome then some t
  else if t.dirty.isEmpty then none
  else some { t with
    pois := t.hurt || t.dirty.length != 256 && s.memPoison.contains sec
    bytes := (List.range 256).map fun i => if t.dirty.contains i then t.bytes.getD i 0 else homeByte s t.key (sec * 256 + i) }

def refreshL1 (s : State) : Tbl Sector → Tbl Sector
  | [] => []
  | (sec, t) :: r =>
    match refreshSector s sec t with
    | some u => (sec, u) :: refreshL1 s r
    | none => refreshL1 s r

/-- The refresh of a core's L1. -/
def refresh (s : State) (c : Nat) : State :=
  let s1 := (s.core c).l1.foldl (fun t e =>
    if e.2.dirty.isEmpty || e.2.dirty.length == 256 then t
    else settle (homeTouch t e.2.key (e.1 / 4) (t.ctx c e.2.by_)) (e.1 * 256) 256) s
  s1.updCore c fun k => { k with l1 := refreshL1 s1 k.l1 }

/-! ## Release (R305) -/

/-- Writes back what a context stored since its last release, and sends its update-only partials. -/
def releaseSend (s : State) (c x : Nat) : State :=
  let s1 := (s.ctx c x).released.foldl (fun t q => sendPartial (writeBack t c q) c q) s
  s1.updCtx c x fun k => { k with released := [] }

/-- Whether an agenda item is a partial of the core. -/
def isPartialOf (c : Nat) : Instr → Bool
  | .updPartialCombine m => m.core == c
  | _ => false

/-- An entry of the wide queue comes before a context's accesses: the control context's own (R34), and those of a helper that was spawned
behind it (R222). -/
def comesBefore (x : Nat) (e : WEntry) : Bool := x == 0 || e.helpers.contains x

/-- An entry of the wide queue has bytes of memory still to read or write. -/
def touchesBytes (e : WEntry) : Bool := !e.runs.isEmpty || !e.pages.isEmpty

/-- The four conditions of a release hold, for a context that has sent everything. -/
def releaseOk (s : State) (c x : Nat) : Bool :=
  let k := s.core c
  (k.ctx x).owed == 0 && (k.ctx x).released.isEmpty && !(k.stbuf.any fun e => e.ctx == x) &&
    !(s.agenda.any (isPartialOf c)) && !(k.wide.queue.any fun e => comesBefore x e && touchesBytes e)

/-- The running context releases: go on, or wait with what was sent (R305). -/
def State.release (s : State) (go : State → State) : State :=
  if s.me.relDone then go (s.setMe { s.me with relDone := false })
  else
    let s1 := releaseSend s s.cur.1 s.cur.2
    if releaseOk s1 s.cur.1 s.cur.2 then go s1 else s1.hold .release

end Sys2Proof.Machine
end

