-- ==== Sys2Proof/Machine/Walk.lean ====
section
/-!
DEFINITION. Table walks (11_memory_hierarchy.md R291-R296): the levels, the checks of each entry, the TLB entry of a leaf.
-/

namespace Sys2Proof.Machine

open Sys2Proof

/-- What a walk ends with, and the walk cache it leaves. -/
inductive Walked where
  | leaf (e : TlbEntry)
  | fault (c : Cause)
  deriving DecidableEq, Repr

/-- Whether a table entry or leaf has a reserved bit or combination at its level (R292). -/
def entryReserved (level v : Nat) : Bool :=
  if nbit v 1 then
    level < 4 || bits v 60 4 != 0 || bits v 52 7 != 0 || (level == 4 && (nbit v 59 || bits v 12 9 != 0)) ||
      (nbit v 3 && !nbit v 2)
  else level == 5 || bits v 52 12 != 0 || bits v 2 7 != 0

/-- A table entry read at its home slice, under the key of its region (R291); one in a window or the host at its target (R267, R288), where
what another device or the host answers is free (log 9). -/
def tableRead (s : State) (c pa : Nat) : Nat :=
  natOfBytes (match target pa with
    | .gddr => homeBytes s ((regionCheck (s.cluster (clusterOf c)).regions pa .walker).getD 0) pa 8
    | .window dev core loc =>
      if dev = s.dev then windowBytes s core loc 8 else (List.range 8).map fun i => Config.imageByte s.dev s.draws (pa + i)
    | _ => (List.range 8).map fun i => Config.imageByte s.dev s.draws (pa + i))

/-- The 16 entries of a contiguous group form one 64 KiB entry (R294). -/
def groupOk (s : State) (c base : Nat) : Bool :=
  let v0 := tableRead s c base
  bits v0 12 4 == 0 && (List.range 16).all fun i =>
    let v := tableRead s c (base + 8 * i)
    nbit v 0 && nbit v 1 && nbit v 59 && !entryReserved 5 v && bits v 2 7 == bits v0 2 7 &&
      bits v 12 40 == bits v0 12 40 + i

/-- The TLB entry of a leaf. -/
def leafEntry (s : State) (c : Nat) (x : Ctx) (va addr level v : Nat) : TlbEntry :=
  let vp := va / 4096 % 2 ^ 45
  let ppn := bits v 12 40
  let mk (vpage npages ppage : Nat) : TlbEntry := ⟨x.asid.toNat, nbit v 8, vpage, npages, ppage, level, BitVec.ofNat 8 v⟩
  if level = 4 then mk (vp / 512 * 512) 512 ppn
  else if nbit v 59 && groupOk s c (addr / 128 * 128) then mk (vp / 16 * 16) 16 (ppn - vp % 16)
  else mk vp 1 ppn

/-- The levels from one on (R291, R293); `f` counts the levels left. -/
def walkFrom (s : State) (c : Nat) (x : Ctx) (va : Addr) (acc : Access) : Nat → Nat → Nat → Tbl Word → Walked × Tbl Word
  | 0, _, _, wc => (.fault (memFault acc 0x07 va 5 0), wc)
  | f + 1, level, ppn, wc =>
    let addr := ppn * 4096 + 8 * bits va (57 - 9 * level) 9
    if !hasTarget s c addr then (.fault (memFault acc 0x08 va level 3), wc)
    else if (regionCheck (s.cluster (clusterOf c)).regions addr .walker).isNone then (.fault (memFault acc 0x08 va level 2), wc)
    else
      let v := match tfind wc addr with
        | some w => w.toNat
        | none => tableRead s c addr
      if !nbit v 0 then (.fault (memFault acc 0x06 va level 1), wc)
      else if entryReserved level v then (.fault (memFault acc 0x07 va level 0), wc)
      else if nbit v 1 then
        match leafRefuses x.priv acc (BitVec.ofNat 8 v) with
        | some r => (.fault (memFault acc 0x06 va level r), wc)
        | none =>
          let e := leafEntry s c x va addr level v
          match finalCheck s c acc va ((e.ppage + (va / 4096 % 2 ^ 45 - e.vpage)) * 4096 + va % 4096) level with
          | .fault cz => (.fault cz, wc)
          | _ => (.leaf e, wc)
      else walkFrom s c x va acc f (level + 1) (bits v 12 40) (tput wc addr (BitVec.ofNat 64 v))

/-- A walk for a context: its answer, and the cluster with what the walk cache and, for a translation, the TLB took. -/
def walk (s : State) (c : Nat) (x : Ctx) (va : Addr) (acc : Access) : Walked × Cluster :=
  let cl := s.cluster (clusterOf c)
  match walkFrom s c x va acc 5 1 (bits x.ptroot.toNat 12 40) cl.walkCache with
  | (.leaf e, wc) => (.leaf e, { cl with walkCache := wc, tlb := e :: cl.tlb })
  | (r, wc) => (r, { cl with walkCache := wc })

/-- The table entries that a walk reads: those that the region check lets it read and the walk cache does not hold. -/
def walkReads (s : State) (c : Nat) (va : Addr) : Nat → Nat → Nat → Tbl Word → List Addr
  | 0, _, _, _ => []
  | f + 1, level, ppn, wc =>
    let addr := ppn * 4096 + 8 * bits va (57 - 9 * level) 9
    if !hasTarget s c addr || (regionCheck (s.cluster (clusterOf c)).regions addr .walker).isNone then []
    else match tfind wc addr with
      | some w => walkReads s c va f (level + 1) (bits w.toNat 12 40) wc
      | none =>
        let v := tableRead s c addr
        addr :: (if nbit v 0 && !nbit v 1 then walkReads s c va f (level + 1) (bits v 12 40) wc else [])

/-- What reading a table entry does where it is read: its line is the region's key's at the slice (R285); a bank of a window that is not
SCRATCH counts a refused range (R288); outside, the read is sent. -/
def entryTouch (s : State) (c : Nat) (x : Ctx) (a : Addr) : State := match target a with
  | .gddr => homeTouch s ((regionCheck (s.cluster (clusterOf c)).regions a .walker).getD 0) (a / 1024) x
  | .window dev core loc =>
    if dev = s.dev then countRefused s core loc 8 else s.used.toDevice c dev (.windowAccessAtTarget ⟨s.dev, c, 12, a, 8, .load⟩)
  | _ => s.used.emit (.hostLoad c 12 (a % 2 ^ 48) 8)

/-- A walk of a context performed: the entries are read where they lie, and the cluster takes what the walk found. -/
def walked (s : State) (c : Nat) (x : Ctx) (va : Addr) (acc : Access) : Walked × State :=
  let cl := s.cluster (clusterOf c)
  let r := walk s c x va acc
  let s1 := (walkReads s c va 5 1 (bits x.ptroot.toNat 12 40) cl.walkCache).foldl (fun t a => entryTouch t c x a) s
  (r.1, s1.setCluster (clusterOf c) r.2)

end Sys2Proof.Machine
end

