-- ==== Sys2Proof/Machine/LoadStore.lean ====
section
/-!
DEFINITION. Loads, stores and prefetch of the control side (04_control_instructions.md R96-R98, R111-R115): the checks of
R112, then the bytes from the local space, the L1, the home, a window or the host; stores through the store buffer.
-/

namespace Sys2Proof.Machine

open Sys2Proof

/-! ## Waiting for wide accesses (R34, R262) -/

/-- Whether two byte runs touch a common 64-byte unit. -/
def shareUnit (a n b m : Nat) : Bool := a / 64 ≤ (b + m - 1) / 64 && b / 64 ≤ (a + n - 1) / 64

/-- A queued wide access of local bytes that overlaps. -/
def wideOverlap (k : Core) (x lo n : Nat) : Bool :=
  k.wide.queue.any fun e => comesBefore x e && e.runs.any fun r => shareUnit r.1 r.2 lo n

/-- A queued MSPILL or MFILL whose image holds a page of these parts. -/
def imageOverlap (k : Core) (x : Nat) (ps : List Part) : Bool :=
  k.wide.queue.any fun e => comesBefore x e && e.pages.any fun q => ps.any fun p => p.pa / 4096 == q.2.1

/-- Whether an access of a context waits for the wide side. -/
def waitsWide (k : Core) (x : Nat) (isLocal : Bool) (ps : List Part) : Bool :=
  if isLocal then ps.any fun p => wideOverlap k x p.pa p.len else imageOverlap k x ps

/-! ## Reading -/

/-- What gathering the bytes of a load answers. -/
inductive Gather where
  | bytes (bs : List Byte) (s : State)
  /-- A sector must be filled first. -/
  | miss (sec key : Nat) (s : State)
  /-- A window or the host must send these bytes first. -/
  | ask (pa len : Nat)
  deriving DecidableEq, Repr

/-- Bytes of one sector run that the L1 serves, or the sector it misses. A run with a byte in the store buffer waits for
it, and one whose sector has a partial on its way waits for that (R98); a sector in the update-only state leaves it first (R309). -/
def readRun (s : State) (c : Nat) (key a n : Nat) : Gather :=
  let k := s.core c
  let sec := a / 256
  if (k.stbuf.any fun e => stHolds e a n) || partialOut s c sec then .miss sec key s
  else if !k.hasL1 then (let r := homeRead (homeTouch s key (a / 1024) s.me) key a n; .bytes r.1 r.2)
  else
    match tfind k.l1 sec with
    | some t =>
      if t.upd.isSome then .miss sec key (sendPartial s c sec)
      else if t.key = key then .bytes ((t.bytes.drop (a % 256)).take n) s
      else .miss sec key (dropSector s c sec)
    | none => .miss sec key s

def readRuns (c key : Nat) : List (Addr × Nat) → List Byte → State → Gather
  | [], acc, s => .bytes acc s
  | (a, n) :: t, acc, s =>
    match readRun s c key a n with
    | .bytes bs s1 => readRuns c key t (acc ++ bs) s1
    | r => r

/-- The bytes of the parts in order; `rd` are those that windows have sent for this load. -/
def gather (c : Nat) : List Part → List Byte → List Byte → State → Gather
  | [], _, acc, s => .bytes acc s
  | p :: t, rd, acc, s =>
    match target p.pa with
    | .gddr =>
      match readRuns c p.key (sectorRuns (p.len / 256 + 2) p.pa p.len) [] s with
      | .bytes bs s1 => gather c t rd (acc ++ bs) s1
      | r => r
    | _ =>
      if p.len ≤ rd.length then gather c t (rd.drop p.len) (acc ++ rd.take p.len) s
      else match (s.core c).stbuf.find? fun e => stHolds e p.pa p.len with
        | some e => .miss (e.pa / 256) 0 s
        | none => .ask p.pa p.len

/-- A part outside GDDR 7 in pieces that cross no 16-byte boundary, each a request of its own (R113, R458); `f` bounds them. -/
def cutOut : Nat → Part → List Part
  | 0, p => [p]
  | f + 1, p =>
    let n := 16 - p.pa % 16
    if isGddr p.pa || p.len ≤ n then [p] else { p with len := n } :: cutOut f { p with va := p.va + n, pa := p.pa + n, len := p.len - n }

/-- Sends the request of a load to a window or to the host (R288, R458). -/
def askWindow (s : State) (pa len : Nat) (op : WinOp) : State :=
  let x := s.asker s.cur.1 s.cur.2
  match target pa with
  | .window _ _ _ => s.send (.windowAccessAtTarget ⟨s.dev, s.cur.1, x, pa, len, op⟩)
  | _ => s.emit (.hostLoad s.cur.1 x (pa % 2 ^ 48) len)

/-- Asks a window or the host for data and waits for it. While the answer of an abandoned load is still to come, or of
the zero-length read of a release, the context waits for that first (R114, log 43). -/
def State.ask (s : State) (w : Wait) (pa len : Nat) (op : WinOp) : State :=
  if s.me.stale || s.me.flushing then s.hold .stale else askWindow (s.hold w) pa len op

/-- The first part of a load or store that crosses a 16-byte boundary without being aligned (R113): its length. -/
def splitAt (ea n : Nat) : Option Nat := if n ≤ 16 ∧ ea % n ≠ 0 ∧ 16 < ea % 16 + n then some (16 - ea % 16) else none

/-- A misaligned load takes its two parts in any order, with other steps between them where the pick says so: what was taken of the part
that went first stands, and the load goes on with the other (R113). In the local window no other context of the core issues between them
(`halfway`, R98): the context does not wait. `k` takes the bytes. -/
def State.halves (s : State) (isLocal : Bool) (ea n : Nat) (bs : List Byte) (k : List Byte → State → State) : State :=
  match splitAt ea n, s.me.half with
  | none, _ => k bs s
  | some m, some (upper, h) =>
    k (if upper then bs.take m ++ h else h ++ bs.drop m) (s.setMe { s.me with half := none })
  | some m, none =>
    let t := s.used
    if s.pick % 3 = 0 then k bs t
    else
      let upper := s.pick % 3 == 1
      t.setMe { t.me with half := some (upper, if upper then bs.drop m else bs.take m), wait := if isLocal then t.me.wait else .half }

/-- A load of the running context under R112: `k` takes the bytes; a watch match with ACTION 2 is traced. -/
def State.load (s : State) (acc : Access) (ea n : Nat) (k : List Byte → State → State) : State :=
  match checkAccess s s.cur.1 s.me acc true ea n with
  | .ok isLocal ps =>
    if waitsWide s.myCore s.cur.2 isLocal ps then s.hold (.overlap isLocal (ea % 2 ^ 21) n)
    else if isLocal then
      s.halves true ea n (locRead s s.cur.1 (ea % 2 ^ 21) n) fun bs t => k bs (traceWatch s.cur.1 s.cur.2 acc ea n t)
    else
      let cut := ps.flatMap (cutOut 6)
      match gather s.cur.1 cut (s.me.rdata.getD []) [] s with
      | .bytes bs s1 =>
        let go := fun bs t => k bs (traceWatch s.cur.1 s.cur.2 acc ea n t)
        let s2 := s1.setMe { s1.me with rdata := none }
        if ps.all fun p => isGddr p.pa then s2.halves false ea n bs go else go bs s2
      | .miss sec key s1 =>
        if s1.myCore.stbuf.any fun e => e.direct && e.pa / 256 == sec then s1.hold (.fill sec)
        else askFill (s1.hold (.fill sec)) s1.cur.1 s1.cur.2 sec key
      | .ask pa len => s.ask (.data ea len) pa len .load
  | r => s.refuse acc r

/-! ## Writing (R97, R275, R276, R309) -/

/-- Whether a run of a store can go straight into the L1: it waits behind the stores, partials and AMOs of its sector (R98, R303, R308,
R309). -/
def canStore (s : State) (c key a n : Nat) : Bool :=
  let k := s.core c
  k.hasL1 && (sectorStores k (a / 256)).isEmpty && !inUpd k (a / 256) && !partialOut s c (a / 256) && !amoOut s c (a / 256) &&
    (n == 256 || hasSector k (a / 256) key)

/-- A store run into the L1: the sector it holds, or a whole new one (R276). -/
def storeL1 (s : State) (c x key a : Nat) (bs : List Byte) : State :=
  let sec := a / 256
  let s1 := match tfind (s.core c).l1 sec with
    | some t =>
      if t.upd.isNone && t.key == key then putSector s c sec (storeSector t (a % 256) x bs)
      else
        let s2 := dropSector s c sec
        let r := allocWay s2 c sec
        putSector r.2 c sec (storeSector ⟨r.1, List.replicate 256 0, [], false, key, none, false, x⟩ (a % 256) x bs)
    | none =>
      let r := allocWay s c sec
      putSector r.2 c sec (storeSector ⟨r.1, List.replicate 256 0, [], false, key, none, false, x⟩ (a % 256) x bs)
  s1.updCtx c x fun k => { k with released := nadd k.released sec }

/-- How many buffer entries the runs of a store need. -/
def storeNeeds (s : State) (c : Nat) (p : Part) : Nat :=
  match target p.pa with
  | .gddr => ((sectorRuns (p.len / 256 + 2) p.pa p.len).filter fun r => !canStore s c p.key r.1 r.2).length
  | _ => 1

/-- One sector run of a store to GDDR 7. -/
def storeRun (c x key a : Nat) (bs : List Byte) (s : State) : State :=
  let k := s.core c
  if canStore s c key a bs.length then storeL1 s c x key a bs
  else if k.hasL1 then
    let s1 := if (match tfind k.l1 (a / 256) with | some t => t.upd.isSome || t.key != key | none => false)
      then dropSector s c (a / 256) else s
    askFill (s1.updCore c fun q => { q with stbuf := q.stbuf ++ [⟨x, a, key, bs, false⟩] }) c x (a / 256) key
  else
    let s1 := s.updCore c fun q => { q with stbuf := q.stbuf ++ [⟨x, a, key, bs, true⟩], sent := q.sent + 1 }
    s1.updCtx c x fun q => { q with owed := q.owed + 1 }

def storeRuns (c x key : Nat) : List (Addr × Nat) → List Byte → State → State
  | [], _, s => s
  | (a, n) :: t, bs, s => storeRuns c x key t (bs.drop n) (storeRun c x key a (bs.take n) s)

/-- A store to a window or the host: sent to its target, and owed an acknowledgement (R305, R458). -/
def storeOut (c x pa : Nat) (bs : List Byte) (s : State) : State :=
  let s1 := (s.updCore c fun q => { q with stbuf := q.stbuf ++ [⟨x, pa, 0, bs, true⟩], sent := q.sent + 1 }).updCtx c x
    fun q => { q with owed := q.owed + 1 }
  let w : WinAcc := ⟨s.dev, c, x, pa, bs.length, .store bs⟩
  match target pa with
  | .window _ _ _ => s1.send (.windowAccessAtTarget w)
  | _ => s1.emit (.hostStore (pa % 2 ^ 48) bs)

/-- One part of a store. -/
def storePart (c x : Nat) (p : Part) (bs : List Byte) (s : State) : State := match target p.pa with
  | .gddr => storeRuns c x p.key (sectorRuns (p.len / 256 + 2) p.pa p.len) bs s
  | _ => storeOut c x p.pa bs s

/-- The parts of a store, in order. -/
def storeParts (c x : Nat) : List Part → List Byte → State → State
  | [], _, s => s
  | p :: t, bs, s => storeParts c x t (bs.drop p.len) (storePart c x p (bs.take p.len) s)

/-- Parts cut at a place in them. -/
def cutParts : Nat → List Part → List Part
  | _, [] => []
  | m, p :: t =>
    if m = 0 ∨ p.len ≤ m then p :: cutParts (m - p.len) t
    else ⟨p.va, p.pa, p.key, m⟩ :: ⟨p.va + m, p.pa + m, p.key, p.len - m⟩ :: t

/-- A part that stays in the store buffer although the L1 could take it: it is performed in a later step. -/
def storeLate (c x : Nat) (p : Part) (bs : List Byte) (s : State) : State :=
  if isGddr p.pa && canStore s c p.key p.pa p.len && (s.core c).stbuf.length < 8 && s.pick % 4 < 2 then
    askFill (s.used.updCore c fun q => { q with stbuf := q.stbuf ++ [⟨x, p.pa, p.key, bs, false⟩] }) c x (p.pa / 256) p.key
  else storePart c x p bs s

/-- The two parts of a misaligned store outside the window, in either order (R113). -/
def storeSplit (c x m : Nat) (ps : List Part) (bs : List Byte) (s : State) : State :=
  match cutParts m ps with
  | [p, q] =>
    if s.pick % 2 = 0 then storeLate c x q (bs.drop m) (storePart c x p (bs.take m) s.used)
    else storeLate c x p (bs.take m) (storePart c x q (bs.drop m) s.used)
  | _ => storeParts c x ps bs s

/-- A store to the local window. A part of a misaligned one may be left for later (R113): it is performed before any context of the
core issues again, so that only other agents see the parts apart (R98). -/
def storeLocal (c a : Nat) (split : Option Nat) (bs : List Byte) (s : State) : State :=
  match split with
  | none => locWrite s c a bs
  | some m =>
    let t := s.used
    let leave (b : Addr × List Byte) (u : State) : State := u.updCore c fun k => { k with late := k.late ++ [b] }
    if s.pick % 3 = 0 then locWrite t c a bs
    else if s.pick % 3 = 1 then leave (a, bs.take m) (locWrite t c (a + m) (bs.drop m))
    else leave (a + m, bs.drop m) (locWrite t c a (bs.take m))

/-- Performs what is left of a core's misaligned local stores. -/
def performLate (c : Nat) (s : State) : State :=
  ((s.core c).late.foldl (fun t e => locWrite t c e.1 e.2) s).updCore c fun k => { k with late := [] }

/-- A store of the running context under R112: `k` goes on after it. -/
def State.store (s : State) (acc : Access) (ea : Nat) (bs : List Byte) (k : State → State) : State :=
  match checkAccess s s.cur.1 s.me acc false ea bs.length with
  | .ok isLocal ps =>
    if waitsWide s.myCore s.cur.2 isLocal ps then s.hold (.overlap isLocal (ea % 2 ^ 21) bs.length)
    else if isLocal then
      k (traceWatch s.cur.1 s.cur.2 acc ea bs.length (storeLocal s.cur.1 (ea % 2 ^ 21) (splitAt ea bs.length) bs s))
    else
      let split := splitAt ea bs.length
      let need := (((split.elim ps fun m => cutParts m ps)).map (storeNeeds s s.cur.1)).foldl (· + ·) 0
      if need ≠ 0 ∧ 8 < s.myCore.stbuf.length + need then s.hold .stbuf
      else
        let t := match split with
          | none => storeParts s.cur.1 s.cur.2 ps bs s
          | some m => storeSplit s.cur.1 s.cur.2 m ps bs s
        k (traceWatch s.cur.1 s.cur.2 acc ea bs.length t)
  | r => s.refuse acc r

/-! ## The instructions (R111, R114, R115) -/

/-- The effective address (R111). -/
def ea10 (s : State) (rb : Reg) (disp : BitVec 10) : Addr := (xread s.me rb + disp.signExtend 64).toNat
def eaLit (s : State) (rb : Reg) (lit : Word) : Addr := (xread s.me rb + lit).toNat

/-- Bytes of an access by SZ (R75); BU, HU and WU are 4 to 6. -/
def szBytes (sz : BitVec 3) : Nat := 2 ^ (sz.toNat % 4)

/-- What LD writes of the bytes it reads (R114). -/
def loadValue (sz : BitVec 3) (bs : List Byte) : Word :=
  let v := natOfBytes bs
  if sz.toNat ≤ 2 then BitVec.ofInt 64 (signed v (8 * szBytes sz)) else BitVec.ofNat 64 v

def loadAt (i : Instr) (sz : BitVec 3) (rt : Reg) (ea : Addr) (s : State) : Ans :=
  .next (s.load .load ea (szBytes sz) fun bs t => t.ret i rt (loadValue sz bs))

def storeAt (i : Instr) (sz : BitVec 3) (rt : Reg) (ea : Addr) (s : State) : Ans :=
  .next (s.store .store ea (bytesOfNat (szBytes sz) (xread s.me rt).toNat) fun t => t.pass i)

/-- A pair: the low doubleword goes to rt (discarded for X0), the high one to rt + 1 (R114). -/
def loadPairAt (i : Instr) (rt : Reg) (ea : Addr) (s : State) : Ans :=
  .next (s.load .load ea 16 fun bs t =>
    t.setMe (advance (xwrite (xwrite t.me rt (wordOf (bs.take 8))) (nextReg rt) (wordOf (bs.drop 8))) (byteLen i)))

def storePairAt (i : Instr) (rt : Reg) (ea : Addr) (s : State) : Ans :=
  .next (s.store .store ea (bytesOfNat 8 (xread s.me rt).toNat ++ bytesOfNat 8 (xread s.me (nextReg rt)).toNat)
    fun t => t.pass i)

/-- What a prefetch asks for once its address is checked: the sectors of the line that the L1 does not hold, or the line at the home
slice. -/
def prefGo (hint : Reg) (s : State) : Chk → State
  | .ok false [p] =>
    if !isGddr p.pa then s
    else if hint = 2 then s.send (.llcFill (p.pa / 1024) p.key s.me.cclass.toNat s.me.rescls.toNat)
    else if s.myCore.hasL1 then
      (List.range 4).foldl (fun t i =>
        if (tfind s.myCore.l1 (p.pa / 1024 * 4 + i)).isSome then t
        else askFill t s.cur.1 s.cur.2 (p.pa / 1024 * 4 + i) p.key) s
    else s
  | _ => s

/-- A prefetch: dropped where a check would fail or in the local window; else a fill of the line in the L1 or in the home slice is
asked for (R115). It changes no register and no byte. A walk that it needs is made without the context waiting for it; its fault is
not raised. DESIGN CHOICE (log 49): the checks are those of a store that also meets poison for hint 1, and of a load for the others. -/
def prefAt (i : Instr) (hint : Reg) (ea : Addr) (s : State) : Ans :=
  .next (
    let acc : Access := if hint = 1 then .store else .load
    if inWindow ea then s.pass i
    else match checkAccess s s.cur.1 s.me acc true ea 1 with
      | .walk va =>
        let t := (walked s s.cur.1 s.me va acc).2
        (prefGo hint t (checkAccess t t.cur.1 t.me acc true ea 1)).pass i
      | k => (prefGo hint s k).pass i)

def execLd (sz : BitVec 3) (rt rb : Reg) (disp : BitVec 10) (s : State) : Ans :=
  loadAt (.ld sz rt rb disp) sz rt (ea10 s rb disp) s
def execLdLit (sz : BitVec 3) (rt rb : Reg) (lit : BitVec 64) (s : State) : Ans :=
  loadAt (.ldLit sz rt rb lit) sz rt (eaLit s rb lit) s
def execSt (sz : BitVec 3) (rt rb : Reg) (disp : BitVec 10) (s : State) : Ans :=
  storeAt (.st sz rt rb disp) sz rt (ea10 s rb disp) s
def execStLit (sz : BitVec 3) (rt rb : Reg) (lit : BitVec 64) (s : State) : Ans :=
  storeAt (.stLit sz rt rb lit) sz rt (eaLit s rb lit) s
def execLdp (rt rb : Reg) (disp : BitVec 10) (s : State) : Ans := loadPairAt (.ldp rt rb disp) rt (ea10 s rb disp) s
def execLdpLit (rt rb : Reg) (lit : BitVec 64) (s : State) : Ans := loadPairAt (.ldpLit rt rb lit) rt (eaLit s rb lit) s
def execStp (rt rb : Reg) (disp : BitVec 10) (s : State) : Ans := storePairAt (.stp rt rb disp) rt (ea10 s rb disp) s
def execStpLit (rt rb : Reg) (lit : BitVec 64) (s : State) : Ans := storePairAt (.stpLit rt rb lit) rt (eaLit s rb lit) s
def execPref (hint rb : Reg) (disp : BitVec 10) (s : State) : Ans := prefAt (.pref hint rb disp) hint (ea10 s rb disp) s
def execPrefLit (hint rb : Reg) (lit : BitVec 64) (s : State) : Ans := prefAt (.prefLit hint rb lit) hint (eaLit s rb lit) s

end Sys2Proof.Machine
end

