-- ==== Sys2Proof/Machine/Memory.lean ====
section
/-!
DEFINITION. AMO and UPD (12_memory_model.md R308, R309, R314-R316), the memory-control instructions (R317-R325) and
bank role changes (11_memory_hierarchy.md R270-R274, R277-R280).
-/

namespace Sys2Proof.Machine

open Sys2Proof

/-! ## The operation of an AMO or UPD (R314, R315) -/

/-- Bytes by SZ; 7 is Q. -/
def amoBytes (sz : BitVec 3) : Nat := if sz = 7 then 16 else 2 ^ sz.toNat

/-- The integer operations on n bytes, by AOP: ADD, MIN, MAX, AND, OR, XOR, SWAP, CAS (given its swap value), MINU,
MAXU. -/
def amoFn (op n old v : Nat) : Nat :=
  match op with
  | 0 => (old + v) % 2 ^ (8 * n)
  | 1 => if signed old (8 * n) ≤ signed v (8 * n) then old else v
  | 2 => if signed old (8 * n) ≤ signed v (8 * n) then v else old
  | 3 => old &&& v
  | 4 => old ||| v
  | 5 => old ^^^ v
  | 8 => min old v
  | 9 => max old v
  | _ => v

/-- What an AMO leaves at its bytes; none when a CAS fails. -/
def amoResult (op n old v c : Nat) : Option Nat := if op = 7 then (if old = c then some v else none) else some (amoFn op n old v)

/-- An operand of n bytes: a register, or a pair for Q. -/
def amoOperand (k : Ctx) (r : Reg) (n : Nat) : Nat :=
  if n = 16 then (xread k r).toNat + 2 ^ 64 * (xread k (nextReg r)).toNat else (xread k r).toNat % 2 ^ (8 * n)

/-- The old value in rt, or the pair (R315). -/
def amoWrite (k : Ctx) (rt : Reg) (n old : Nat) : Ctx :=
  if n = 16 then xwrite (xwrite k rt (BitVec.ofNat 64 old)) (nextReg rt) (BitVec.ofNat 64 (old / 2 ^ 64))
  else xwrite k rt (BitVec.ofNat 64 old)

/-! ## UPD elements (R309) -/

/-- The floating format of UPD.FADD. -/
def faddFmt (n : Nat) : Fmt := if n = 4 then fp32 else fp64

/-- An FADD term as an exact fraction with the special values; for a kept sum `bits` is its element size. -/
def faddElem (n v : Nat) (a : Addr) : UpdElem :=
  match decodeCode (faddFmt n) v with
  | .nan _ => ⟨a, n, 0, 0, true, false, false⟩
  | .inf neg => ⟨a, n, 0, 0, false, !neg, neg⟩
  | .fin neg num _ e =>
    let m : Int := (num * 2 ^ e.toNat : Nat)
    ⟨a, n, if neg then -m else m, (-e).toNat, false, false, false⟩

/-- The exact sum of two. -/
def addElem (x y : UpdElem) : UpdElem :=
  let d := max x.den y.den
  ⟨x.addr, x.bits, x.num * (2 ^ (d - x.den) : Nat) + y.num * (2 ^ (d - y.den) : Nat), d, x.nan || y.nan,
    x.posInf || y.posInf, x.negInf || y.negInf⟩

/-- The value of a sum: NaN for a NaN term or for infinities of both signs. DESIGN CHOICE (log 48): an exact sum of zero has no sign for R52 to
take; it is +0, of negative zeros too. -/
def elemVal (x : UpdElem) : Val :=
  if x.nan || (x.posInf && x.negInf) then .nan false
  else if x.posInf then .inf false
  else if x.negInf then .inf true
  else .fin (decide (x.num < 0)) x.num.natAbs 1 (-(x.den : Int))

/-- The code of a sum, rounded once under RNE. -/
def elemCode (n : Nat) (x : UpdElem) : Nat := (roundCode (faddFmt n) 0 false (elemVal x)).1

/-- A term of a UPD. -/
def updElem (op n v : Nat) (a : Addr) : UpdElem := if op = 10 then faddElem n v a else ⟨a, v, 0, 0, false, false, false⟩

/-- Two terms of one operation combined. -/
def joinElem (op n : Nat) (x y : UpdElem) : UpdElem :=
  if op = 10 then addElem x y else { x with bits := amoFn op n x.bits y.bits }

/-- A term put into a partial, in rising order of addresses. -/
def putElem (op n : Nat) (e : UpdElem) : List UpdElem → List UpdElem
  | [] => [e]
  | f :: t => if f.addr = e.addr then joinElem op n f e :: t else if e.addr < f.addr then e :: f :: t else f :: putElem op n e t

/-- What a UPD at once leaves of an old value (R316): FADD rounds once under RNE. -/
def updFn (op n old v : Nat) : Nat :=
  if op = 10 then
    (finish (faddFmt n) 0 false (addVal 0 (decodeCode (faddFmt n) old) (decodeCode (faddFmt n) v))).1
  else amoFn op n old v

/-! ## AMO and UPD -/

/-- The walk level that a fault at a translated address names: that of its TLB entry, 0 under an identity map. -/
def levelOf (s : State) (x : Ctx) (va : Addr) : Nat :=
  if x.priv = .h || !x.ptroot.getLsbD 63 then 0
  else match tlbFind (s.cluster (clusterOf s.cur.1)).tlb x.asid.toNat (va / 4096 % 2 ^ 45) with
    | some e => e.level
    | none => 0

/-- REGION with reason 1 where an access that the host window cannot take goes there (R315, R316, R321). -/
def hostRefuses (s : State) (acc : Access) (ea n : Nat) : Option Cause :=
  match checkPlace s s.cur.1 s.me acc ea n with
  | .ok false ps => if ps.any fun p => target p.pa == .host then some (memFault acc 0x08 ea (levelOf s s.me ea) 1) else none
  | _ => none

/-- An earlier store of the core to a sector still waits in the store buffer. -/
def storeWaits (k : Core) (sec : Nat) : Bool := k.stbuf.any fun e => sectorsOf e.pa e.data.length |>.contains sec

/-- Writes a local element. -/
def locPut (s : State) (c a n v : Nat) : State := locWrite s c a (bytesOfNat n v)

def execAmo (rt rb : Reg) (sz : BitVec 3) (rv aop : Reg) (s : State) : Ans :=
  .next (
    let n := amoBytes sz
    let ea := (xread s.me rb).toNat
    let op := aop.toNat
    if ea % n ≠ 0 then s.trap { cause 0x0A (BitVec.ofNat 64 ea) with access := .amo }
    else match hostRefuses s .amo ea n with
    | some cz => s.trap cz
    | none =>
      match checkAccess s s.cur.1 s.me .amo true ea n with
      | .ok isLocal ps =>
        let v := amoOperand s.me rv n
        let c := amoOperand s.me rt n
        let p := ps.headD ⟨0, 0, 0, 0⟩
        if waitsWide s.myCore s.cur.2 isLocal ps then s.hold (.overlap isLocal (ea % 2 ^ 21) n)
        else if isLocal then
          let old := natOfBytes (locRead s s.cur.1 p.pa n)
          let s1 := match amoResult op n old v c with
            | some new => locPut s s.cur.1 p.pa n new
            | none => s
          let s2 := traceWatch s.cur.1 s.cur.2 .amo ea n s1
          s2.setMe (advance (amoWrite s2.me rt n old) 4)
        else
          let r : AmoReq := ⟨rt, p.pa, p.key, n, op, v, c⟩
          match target p.pa with
          | .gddr =>
            if storeWaits s.myCore (p.pa / 256) then s.hold (.fill (p.pa / 256))
            else
              let s1 := traceWatch s.cur.1 s.cur.2 .amo ea n (dropSector s s.cur.1 (p.pa / 256))
              (s1.hold (.amo rt n ea)).send (.amoAtHome s.cur.1 (s.asker s.cur.1 s.cur.2) r)
          | _ =>
            if s.me.stale then s.hold .stale
            else (traceWatch s.cur.1 s.cur.2 .amo ea n s).ask (.amo rt n ea) p.pa n (.amo r)
      | k => s.refuse .amo k)

/-- A UPD to a sector in the L1's update-only state, which it enters first where it must (R309). -/
def updL1 (s : State) (c x op n v : Nat) (key pa : Addr) : State :=
  let sec := pa / 256
  let e := updElem op n v pa
  let s1 := match tfind (s.core c).l1 sec with
    | some t =>
      match t.upd with
      | some (op', n', es) =>
        if op' = op ∧ n' = n ∧ t.key = key then putSector s c sec { t with upd := some (op, n, putElem op n e es) }
        else
          let r := allocWay (dropSector s c sec) c sec
          putSector r.2 c sec ⟨r.1, [], [], false, key, some (op, n, [e]), false, x⟩
      | none =>
        let r := allocWay (dropSector s c sec) c sec
        putSector r.2 c sec ⟨r.1, [], [], false, key, some (op, n, [e]), false, x⟩
    | none =>
      let r := allocWay s c sec
      putSector r.2 c sec ⟨r.1, [], [], false, key, some (op, n, [e]), false, x⟩
  s1.updCtx c x fun k => { k with released := nadd k.released sec }

/-- A UPD sent to a window target: owed an acknowledgement (R305). -/
def updOut (s : State) (c x op n v : Nat) (pa : Addr) : State :=
  let s1 := (s.updCore c fun q => { q with stbuf := q.stbuf ++ [⟨x, pa, 0, List.replicate n 0, true⟩], sent := q.sent + 1 }).updCtx
    c x fun q => { q with owed := q.owed + 1 }
  askWindow s1 pa n (.upd op n v)

def execUpd (rb : Reg) (sz : BitVec 3) (rv aop : Reg) (s : State) : Ans :=
  .next (
    let n := amoBytes sz
    let ea := (xread s.me rb).toNat
    let op := aop.toNat
    if ea % n ≠ 0 then s.trap { cause 0x0A (BitVec.ofNat 64 ea) with access := .upd }
    else match hostRefuses s .upd ea n with
    | some cz => s.trap cz
    | none =>
      match checkAccess s s.cur.1 s.me .upd false ea n with
      | .ok isLocal ps =>
        let v := amoOperand s.me rv n
        let p := ps.headD ⟨0, 0, 0, 0⟩
        if waitsWide s.myCore s.cur.2 isLocal ps then s.hold (.overlap isLocal (ea % 2 ^ 21) n)
        else
          let t := traceWatch s.cur.1 s.cur.2 .upd ea n s
          if isLocal then
            (locPut t s.cur.1 p.pa n (updFn op n (natOfBytes (locRead s s.cur.1 p.pa n)) v)).pass (.upd rb sz rv aop)
          else match target p.pa with
            | .gddr =>
              if storeWaits s.myCore (p.pa / 256) then s.hold (.fill (p.pa / 256))
              else if s.myCore.hasL1 then (updL1 t s.cur.1 s.cur.2 op n v p.key p.pa).pass (.upd rb sz rv aop)
              else (sendUpd t ⟨s.cur.1, p.pa / 256, p.key, op, n, [updElem op n v p.pa]⟩).pass (.upd rb sz rv aop)
            | _ =>
              if 8 ≤ s.myCore.stbuf.length then s.hold .stbuf
              else (updOut t s.cur.1 s.cur.2 op n v p.pa).pass (.upd rb sz rv aop)
      | k => s.refuse .upd k)

/-! ## Fences and cache control (R318-R321) -/

/-- FENCE.L: the release, then the refresh (R318). -/
def execFenceL (s : State) : Ans := .next (s.release fun t => (refresh t t.cur.1).pass .fenceL)

/-- Steps 1 and 2 of R112 alone; `none` in the local window. -/
def checkOut (s : State) (acc : Access) (ea n : Nat) : Option Chk :=
  if !canonical ea then some (.trap { cause 0x04 (BitVec.ofNat 64 ea) with access := acc })
  else if inWindow ea then none
  else some (checkPages s s.cur.1 s.me acc (pagesOf 2 ea n) [])

/-- Writes back and sends what the core's L1 holds of a line; drops it where told. -/
def flushLine (s : State) (c line : Nat) (drop : Bool) : State :=
  (lineSectors (s.core c) line).foldl (fun t q => if drop then dropSector t c q else sendPartial (writeBack t c q) c q) s

/-- The sectors of a line on which something of the core is still on its way to the home: a buffered store or a
partial. -/
def lineBusy (s : State) (c line : Nat) : Option Nat :=
  ((List.range 4).map (line * 4 + ·)).find? fun q =>
    storeWaits (s.core c) q || partialOut s c q

/-- CFLUSH and CINV (R319): the write-backs, then, at depth .LLC, the home's line is dropped. -/
def flush (i : Instr) (depth rs1 : Reg) (drop : Bool) (s : State) : State :=
  let ea := (xread s.me rs1).toNat
  match checkOut s .load ea 1 with
  | none => s.pass i
  | some (.ok _ ps) =>
    let pa := (ps.headD ⟨0, 0, 0, 0⟩).pa
    if !isGddr pa then s.pass i
    else
      let s1 := flushLine s s.cur.1 (pa / 1024) drop
      match lineBusy s1 s.cur.1 (pa / 1024) with
      | some q => s1.hold (.fill q)
      | none =>
        let s2 := s1.pass i
        if depth = 1 then settle { s2 with llc := tdel s2.llc (pa / 1024) } (pa / 1024 * 1024) 1024 else s2
  | some k => s.refuse .load k

def execCflush (depth rs1 : Reg) (s : State) : Ans := .next (flush (.cflush depth rs1) depth rs1 false s)
def execCinv (depth rs1 : Reg) (s : State) : Ans := .next (flush (.cinv depth rs1) depth rs1 true s)

/-- CINV.I (R320). -/
def execCinvI (rs1 : Reg) (s : State) : Ans :=
  .next (
    let ea := (xread s.me rs1).toNat
    let place : Tr :=
      if !canonical ea then .fault { cause 0x01 (BitVec.ofNat 64 ea) with access := .fetch, reason := 12 }
      else if inWindow ea then .fault { cause 0x01 (BitVec.ofNat 64 ea) with access := .fetch, reason := 13 }
      else translate s s.cur.1 s.me ea .fetch
    match place with
    | .fault cz => s.trap cz
    | .walk => (s.hold (.walk ea .fetch)).send (.pageWalk s.cur.1 s.cur.2 ea .fetch)
    | .ok pa _ =>
      let s1 := if isGddr pa then flushLine s s.cur.1 (pa / 1024) false else s
      match if isGddr pa then lineBusy s1 s.cur.1 (pa / 1024) else none with
      | some q => s1.hold (.fill q)
      | none =>
        (s1.updCore s.cur.1 fun k => { k with icache := k.icache.filter fun e => e.1 / 256 != pa / 1024 }).pass (.cinvI rs1))

/-- CZERO: a 256-byte store of zeros (R321). -/
def execCzero (rs1 : Reg) (s : State) : Ans :=
  .next (
    let ea := (xread s.me rs1).toNat / 256 * 256
    match hostRefuses s .store ea 256 with
    | some cz => s.trap cz
    | none => s.store .store ea (List.replicate 256 0) fun t => t.pass (.czero rs1))

/-! ## Bank roles (R270-R274, R322) -/

/-- Whether a bank may take a role (R270). -/
def roleFits (b : Nat) : Role → Bool
  | .cache => b < 16
  | .operand => 24 ≤ b && b < 32
  | _ => b < 32

/-- Whether a SCRATCH region touches a bank. -/
def regionBank (b : Nat) (r : Option Region) : Bool :=
  match r with
  | some g => g.kind == .scratch && g.len != 0 && (banksOf g.place g.len).contains b
  | none => false

/-- A staged or armed offer of a context of the core holds a region in the bank (R273 code 2). -/
def offerHolds (s : State) (c b : Nat) : Bool :=
  (s.core c).ctxs.any (fun e => e.2.live && e.2.staged.any fun o => regionBank b o.2.give || regionBank b o.2.take) ||
  s.latches.any fun l => gidDev l.1.gid == s.dev && gidCore l.1.gid == c && gidCtx l.1.gid < 11 && l.2.st != .idle &&
    l.1.sub / 16 == (match (s.core c).wg with | some n => n + 1 | none => 0) && l.2.offers.any fun o => regionBank b o.2.give || regionBank b o.2.take

/-- An entry of an exchange plan (R200): name, direction, give and take regions. -/
structure PlanEntry where
  name : Nat
  dir : Nat
  give : Option Region
  take : Option Region
  ok : Bool
  deriving DecidableEq, Repr

/-- Entry i of step k of a core's plan, read at the home. -/
def planEntry (s : State) (x : Exchange) (k i : Nat) : PlanEntry :=
  let bs := homeBytes s x.key (x.plan + 16 + 144 * k + 16 + 16 * i) 16
  let g := field bs 4 4
  let t := field bs 8 4
  let w := field bs 12 4
  let dir := bits w 30 2
  let gv := nbit g 31
  let tv := nbit t 31
  let gl := bits w 0 13
  let tl := bits w 16 13
  { name := field bs 0 4, dir := dir, give := if gv then some ⟨.scratch, gl, bits g 0 21⟩ else none,
    take := if tv then some ⟨.scratch, tl, bits t 0 21⟩ else none,
    ok := gv == (dir == 1 || dir == 3) && tv == (dir == 2 || dir == 3) && (gv || gl == 0) && (tv || tl == 0) }

/-- The entries of step k. DESIGN CHOICE (log 24): a COUNT of 9 to 15, which R200 does not give, is taken as 8, and an NSTEP of 0 as 1. -/
def planStep (s : State) (x : Exchange) (k : Nat) : List PlanEntry :=
  (List.range (min (bits (field (homeBytes s x.key (x.plan + 16 + 144 * k) 4) 0 4) 0 4) 8)).map fun i => planEntry s x k i

/-- A region of the exchange step now running lies in the bank (R273 code 2). -/
def planHolds (s : State) (c b : Nat) : Bool :=
  match (s.core c).exch with
  | some x => x.running && (planStep s x x.step).any fun e => regionBank b e.give || regionBank b e.take
  | none => false

/-- SPLIT and HALF of the running context's matrix configuration (R239, R240): the first bank of the other half. -/
def otherHalf (k : Core) : Option Nat :=
  if k.wide.mcfg.getLsbD 7 then some (if k.wide.mcfg.getLsbD 6 then 24 else 28) else none

/-- The image of a bank (R259): data, sidecar, tag, zeros. -/
def bankImage (k : Core) (b : Nat) : List Byte :=
  memRead k.loc (b * 65536) 65536 ++ memRead k.sidecar (b * 2048) 2048 ++ bytesOfNat 4 (tget 0 k.tags b).toNat ++ List.replicate 12 0

/-- The CADDY banks, lowest first. -/
def Core.caddies (k : Core) : List Nat := (List.range 32).filter fun b => k.role b == .caddy

/-- A pipeline subscription lands in the bank (R273 code 5): LAND and SM1 of its descriptor (R342). -/
def pipeHolds (s : State) (c b : Nat) : Bool :=
  (s.die (coreDie c)).subs.any fun e =>
    let d := e.2.desc
    let land := field d 20 4
    let n := 4096 * (bits (field d 24 4) 6 4 + 1)
    bits (field d 16 4) 24 5 == clusterOf c && ((clusterCores (clusterOf c)).zipIdx.any fun q => q.1 == c && nbit (field d 16 4) q.2) &&
      (banksOf land n).contains b

/-- The code of R273 that refuses a change of a bank's role; 0 for none. -/
def roleRefusal (s : State) (c b : Nat) : Nat :=
  let k := s.core c
  if k.role b == .fifo && (tget FifoBank.reset k.fifo b).bound.isSome then 1
  else if offerHolds s c b || planHolds s c b then 2
  else if k.role b == .operand && ((match otherHalf k with | some h => h ≤ b && b < h + 4 | none => false) || (tfind k.pins b).isSome) then 3
  else if (k.image.isSome && k.caddies.head? == some b) || (k.parked.isSome && k.caddies.getLast? == some b) then 4
  else if pipeHolds s c b then 5
  else 0

def execBankrole (rd rs1 rs2 : Reg) (s : State) : Ans :=
  .next (
    let i : Instr := .bankrole rd rs1 rs2
    let b := (xread s.me rs1).toNat
    let r := (xread s.me rs2).toNat
    let old := s.myCore.role b
    if s.cur.2 ≠ 0 then s.ill i 6
    else if 31 < b ∨ 4 < r ∨ !roleFits b (roleOf r) ∨ (s.me.priv ≠ .h ∧ (roleOf r = .caddy ∨ old = .caddy) ∧ roleOf r ≠ old)
    then s.ill i 6
    else if roleOf r = old then s.ret i rd 0
    else if roleRefusal s s.cur.1 b ≠ 0 then s.ret i rd (BitVec.ofNat 64 (roleRefusal s s.cur.1 b))
    else (s.updCore s.cur.1 fun k => { k with roleChange := some ⟨b, roleOf r, s.cur.2, rd⟩ }).hold .roleChange)


/-- The leaving action of a bank's role (R272). -/
def leaveRole (s : State) (c b : Nat) : State :=
  match (s.core c).role b with
  | .cache =>
    let s1 := ((s.core c).l1.filter fun e => e.2.way == b).foldl (fun t e => dropSector t c e.1) s
    s1.updCore c fun k => { k with loc := k.loc.filter fun e => e.1 / 65536 != b,
                                   locPoison := k.locPoison.filter fun q => q / 256 != b }
  | .operand => s.updCore c fun k => { k with tags := tdel k.tags b, sidecar := k.sidecar.filter fun e => e.1 / 2048 != b }
  | .fifo => s.updCore c fun k => { k with fifo := tdel k.fifo b }
  | _ => s

/-- The entering action, with the new role (R272). -/
def enterRole (s : State) (c b : Nat) (r : Role) : State :=
  s.updCore c fun k =>
    let k1 := k.setRole b r
    match r with
    | .operand => { k1 with tags := tdel k1.tags b }
    | .fifo => { k1 with fifo := tput k1.fifo b FifoBank.reset }
    | _ => k1

/-! ## FIFO banks (R277-R280, R325) -/

def fifoOcc (f : FifoBank) : Nat := (f.tail - f.head).toNat
def fifoFree (f : FifoBank) : Nat := 65536 - fifoOcc f

/-- The bank in a cycle: with the counters as they stood at its start (R280). -/
def FifoBank.since (f : FifoBank) (now : Word) : FifoBank :=
  if f.cyc = now then f else { f with cyc := now, head0 := f.head, tail0 := f.tail }

/-- Bytes that a read may take in a cycle: those appended before it, less those that others have taken in it (R280). -/
def fifoReads (f : FifoBank) (now : Word) : Nat := ((f.since now).tail0 - f.head).toNat

/-- Bytes that an append may fill in a cycle: the space freed before it, less what others have filled in it (R280). -/
def fifoSpace (f : FifoBank) (now : Word) : Nat := 65536 - (f.tail - (f.since now).head0).toNat

/-- The bank after an advance of TAIL or HEAD in a cycle. -/
def FifoBank.moveTail (f : FifoBank) (now : Word) (n : Nat) : FifoBank := { f.since now with tail := f.tail + BitVec.ofNat 24 n }
def FifoBank.moveHead (f : FifoBank) (now : Word) (n : Nat) : FifoBank := { f.since now with head := f.head + BitVec.ofNat 24 n }

/-- The latches of a bank's agent (CTX 14): one for its channel N, one for its ready event D (R189); they belong to the workgroup whose
bank it is. -/
def fifoLatch (s : State) (c b : Nat) (ready : Bool) : LatchId :=
  ⟨gidOf s.dev c 14, 64 * wgTag (s.core c) + 2 * b + (if ready then 1 else 0)⟩

/-- Bytes reserved for the bound channel while the agent's latch is claimed or committed (R278). -/
def fifoRsv (s : State) (c b : Nat) : Nat :=
  match (tget FifoBank.reset (s.core c).fifo b).bound with
  | some (_, size, _) =>
    match (s.latch (fifoLatch s c b false)).st with
    | .claimed _ _ => size
    | .committed _ => size
    | _ => 0
  | none => 0

/-- The state word (R277). -/
def fifoWord (refused : Bool) (f : FifoBank) : Word :=
  BitVec.ofNat 64 ((if refused then 2 ^ 63 else 0) + f.tail.toNat * 2 ^ 24 + f.head.toNat)

/-- One advance in a cycle (R279, R280): the bank after it and the state word. -/
def fifoAdvance (f : FifoBank) (now : Word) (rsv : Nat) (isTail : Bool) (n : Nat) : FifoBank × Word :=
  let lim := if isTail then fifoSpace f now - rsv else fifoReads f now
  if lim < n then (f, fifoWord true f)
  else
    let g := if isTail then f.moveTail now n else f.moveHead now n
    (g, fifoWord false g)

def execFifoadv (rd rs1 rs2 : Reg) (s : State) : Ans :=
  .next (
    let i : Instr := .fifoadv rd rs1 rs2
    let b := (xread s.me rs1).toNat
    let v := (xread s.me rs2).toNat
    if v / 2 ^ 25 ≠ 0 then s.ill i 6
    else if 31 < b ∨ s.myCore.role b ≠ .fifo then
      s.trap { cause 0x05 (BitVec.ofNat 64 (b * 65536)) with reason := if 31 < b then 0 else (s.myCore.role b).code }
    else if s.myCore.wide.queue.any fun e => e.runs.any fun q => (banksOf q.1 q.2).contains b then s.hold (.fifoAcc b)
    else if s.replayFull s.cur.1 then s.hold .replay
    else
      let r := fifoAdvance (tget FifoBank.reset s.myCore.fifo b) s.cycle (fifoRsv s s.cur.1 b) (nbit v 24) (v % 2 ^ 24)
      let s1 := s.updCore s.cur.1 fun k => { k with fifo := tput k.fifo b r.1 }
      let w := s1.input s.cur.1 s.cur.2 4 r.2
      w.2.ret i rd w.1)

/-! ## TLBI and WPSET (R323, R324) -/

/-- The clusters of a TLBI's scope: the issuing one, or those of its partition. -/
def tlbiScope (s : State) (part : BitVec 1) : List Nat :=
  let own := clusterOf s.cur.1
  if part = 1 then
    match s.myCore.part with
    | some p => match tfind s.parts p with
      | some q => if q.clusters.contains own then q.clusters else own :: q.clusters
      | none => [own]
    | none => [own]
  else [own]

/-- A context waits for a table walk. -/
def inWalk (s : State) (e : Nat × Nat) : Bool := match (s.ctx e.1 e.2).wait with
  | .walk _ _ => true
  | _ => false

/-- The walks in flight in some clusters, merged ones included: core and context. -/
def walksIn (s : State) (ks : List Nat) : List (Nat × Nat) :=
  ks.flatMap fun k => (clusterCores k).flatMap fun c => ((s.core c).ctxs.map fun e => (c, e.1)).filter (inWalk s)

/-- The walks a TLBI waits for have ended. -/
def walksOver (c x : Nat) (s : State) : State := s.updCtx c x fun k => { k with wait := .none, relDone := true }

/-- Drops translations, and empties the walk cache, in the clusters of the scope, once the walks in flight there have ended. -/
def tlbi (i : Instr) (part : BitVec 1) (drop : TlbEntry → Bool) (s : State) : State :=
  if s.me.priv = .u then s.ill i 6
  else
    let ws := walksIn s (tlbiScope s part)
    if !s.me.relDone && !ws.isEmpty then s.hold (.walks ws)
    else
      let t := s.setMe { s.me with relDone := false }
      ((tlbiScope s part).foldl (fun t q =>
        t.setCluster q { t.cluster q with tlb := (t.cluster q).tlb.filter fun e => !drop e, walkCache := [] }) t).pass i

def covers (e : TlbEntry) (va : Word) : Bool :=
  let vp := va.toNat / 4096 % 2 ^ 45
  e.vpage ≤ vp && vp < e.vpage + e.npages

def execTlbiAll (part : BitVec 1) (s : State) : Ans := .next (tlbi (.tlbiAll part) part (fun _ => true) s)
def execTlbiAsid (part : BitVec 1) (rs2 : Reg) (s : State) : Ans :=
  .next (tlbi (.tlbiAsid part rs2) part (fun e => !e.glob && e.asid == (xread s.me rs2).toNat % 65536) s)
def execTlbiPage (part : BitVec 1) (rs1 rs2 : Reg) (s : State) : Ans :=
  .next (tlbi (.tlbiPage part rs1 rs2) part
    (fun e => covers e (xread s.me rs1) && (e.glob || e.asid == (xread s.me rs2).toNat % 65536)) s)
def execTlbiVa (part : BitVec 1) (rs1 : Reg) (s : State) : Ans :=
  .next (tlbi (.tlbiVa part rs1) part (fun e => covers e (xread s.me rs1)) s)

/-- A watchpoint control value as a write leaves it (R24, R419): reserved bits zero, ACTION 3 keeps the old ACTION. -/
def wpCtlWrite (old v : Word) : Word :=
  let act := if bits v.toNat 8 2 = 3 then bits old.toNat 8 2 else bits v.toNat 8 2
  (v &&& 0xFFFF000B) ||| BitVec.ofNat 64 (act * 256)

/-- Where another device's bank holds the registration of a watchpoint (R422). -/
def farPlace (s : State) (c n : Nat) : Option Addr :=
  (s.watches.find? fun w => w.1 == c && w.2.1 == n && w.2.2.1 == 3).map (·.2.2.2)

/-- Removes the registration of a watchpoint: one at another device's bank for whom `x` names (R425). -/
def unwatchFor (s : State) (c n x : Nat) : State :=
  let s1 := { s with watches := s.watches.filter fun w => !(w.1 == c && w.2.1 == n) }
  match farPlace s c n with
  | some pa => s1.toDevice c (windowDev pa) (.windowAccessAtTarget ⟨s.dev, c, x, pa, 16, .unwatch n⟩)
  | none => s1

/-- Removes the registration of a watchpoint; nothing waits for the end of one at another device. -/
def unwatch (s : State) (c n : Nat) : State := unwatchFor s c n 15

/-- A watchpoint asks another device's bank for a registration (R422). -/
def watchFar (s : State) (c n x : Nat) (pa : Addr) (base ctl : Word) : State :=
  s.toDevice c (windowDev pa) (.windowAccessAtTarget ⟨s.dev, c, x, pa, 16, .watch n base ctl⟩)

/-- Writes both registers of a watchpoint. -/
def setWp (s : State) (c n : Nat) (base ctl : Word) : State :=
  s.updCore c fun k => { k with wpBase := lset k.wpBase n base, wpCtl := lset k.wpCtl n ctl }

/-- The place of a watched range, and how many entries the place already holds (R422): a home slice or a bank. -/
def watchPlace (s : State) (c : Nat) (base pa : Addr) (isLocal : Bool) : Option (Nat × Nat) :=
  let bank (core loc : Nat) : Option (Nat × Nat) :=
    let a := core * 2 ^ 21 + loc
    if bankWatches s (a / 65536) < 256 then some (2, a) else none
  if isLocal then bank c (base % 2 ^ 21)
  else match target pa with
    | .gddr =>
      if (s.watches.filter fun w => w.2.2.1 == 1 && homeSlice w.2.2.2 == homeSlice pa).length < 256 then some (1, pa) else none
    | .window dev core loc => if dev = s.dev then bank core loc else some (3, pa)
    | _ => none

def execWpset (n : BitVec 2) (rs1 rs2 : Reg) (s : State) : Ans :=
  .next (
    let i : Instr := .wpset n rs1 rs2
    let base := xread s.me rs1
    let ctl := wpCtlWrite (s.myCore.wpCtl.getD n.toNat 0) (xread s.me rs2)
    if s.me.priv = .u ∨ base.extractLsb' 0 4 ≠ 0 then s.ill i 6
    else
      let x := s.asker s.cur.1 s.cur.2
      let gone := unwatchFor s s.cur.1 n.toNat x
      let ended (t : State) : State := (t.pass i).holdFor (farPlace s s.cur.1 n.toNat).isSome (.request 0)
      let arm (isLocal : Bool) (pa : Addr) : State :=
        match watchPlace (unwatch s s.cur.1 n.toNat) s.cur.1 base.toNat pa isLocal with
        | some (kind, a) =>
          let s1 := if kind = 3 then unwatch s s.cur.1 n.toNat else gone
          let s2 := setWp { s1 with watches := s1.watches ++ [(s.cur.1, n.toNat, kind, a)] } s.cur.1 n.toNat base ctl
          if kind = 3 then (watchFar s2 s.cur.1 n.toNat x a base ctl).hold (.request 4) else ended s2
        | none => ended (setWp gone s.cur.1 n.toNat base (ctl &&& ~~~8))
      if ctl.getLsbD 3 = false then ended (setWp gone s.cur.1 n.toNat base ctl)
      else match checkOut s .load base.toNat 16 with
        | none => arm true 0
        | some (.ok _ ps) => arm false (ps.headD ⟨0, 0, 0, 0⟩).pa
        | some k => s.refuse .load k)

end Sys2Proof.Machine
end

