-- ==== Sys2Proof/Machine/Operands.lean ====
section
/-!
DEFINITION. The operand forms that several instructions share: event names and the domains and homes they stand for
(R11, R167, R168, R170), payload descriptors (R214), and the control and status registers (R22-R25).
-/

namespace Sys2Proof.Machine

open Sys2Proof

/-! ## Event names (R11, R167, R168) -/

def nameScope (n : Nat) : Nat := bits n 29 3
def nameDom (n : Nat) : Nat := bits n 16 13
def nameIndex (n : Nat) : Nat := bits n 0 16

/-- ENAME(scope, domain, index). -/
def ename (scope dom index : Nat) : Nat := scope * 2 ^ 29 + dom * 2 ^ 16 + index

/-- The clusters of a partition; none where no partition is recorded. -/
def partClusters (s : State) (p : Option Nat) : List Nat :=
  match p with
  | some p => match tfind s.parts p with
    | some q => q.clusters
    | none => []
  | none => []

/-- The partition set of a partition (R473). -/
def partSet (s : State) (p : Option Nat) : Option (Nat × Nat × Nat) :=
  match p with
  | some p => match tfind s.parts p with
    | some q => q.set
    | none => none
  | none => none

/-- Whether a scope and domain number exist for a partition and lie within it (R167, R168). -/
def domainValid (s : State) (p : Option Nat) (scope dom : Nat) : Bool :=
  let own := partClusters s p
  if 4096 ≤ dom then
    match tfind s.ldoms dom with
    | some l => l.running && l.scope == scope && 2 ≤ scope && (some l.part == p || (scope == 6 && (match partSet s p with
        | some q => q.2.1 ≤ dom && dom < q.2.1 + q.2.2
        | none => false)))
    | none => scope == 6 && (match partSet s p with
        | some q => q.1 == dom
        | none => false)
  else match scope with
    | 0 => dom == 0
    | 1 => dom == 0
    | 2 => dom < 96 && own.contains (dom / 4)
    | 3 => dom < 24 && own.contains dom
    | 4 => dom < 2 && (List.range 12).all fun k => own.contains (12 * dom + k)
    | 5 => dom == 0 && (List.range 24).all fun k => own.contains k
    | _ => false

/-- Whether a 32-bit name is valid for a partition (R168). -/
def nameValid (s : State) (p : Option Nat) (n : Nat) : Bool := domainValid s p (nameScope n) (nameDom n)

/-- The name a register holds, if it is valid for the running core (R168). -/
def regName (s : State) (v : Word) : Option Nat :=
  if v.toNat < 2 ^ 32 ∧ nameValid s s.myCore.part v.toNat then some v.toNat else none

/-- EVENT_NAME with the register's whole value (R168, R204). -/
def badName (v : Word) : Cause := cause 0x0E v

/-- The members of a partition set's system domain, in ascending order (R167, R473): the cores of its partitions here and those that the
create request gives of the others. -/
def systemMembers (s : State) (dom : Nat) : List Gid :=
  let ps := s.parts.filter fun p => match p.2.set with
    | some q => q.1 == dom
    | none => false
  (ps.flatMap fun p => ((p.2.clusters.flatMap clusterCores).map fun k => gidOf s.dev k 0) ++ p.2.peers).foldl nadd []

/-- The member cores of a domain in ascending order (R167), for a name used on core c. -/
def domMembers (s : State) (c : Nat) (scope dom : Nat) : List Gid :=
  let here (cs : List Nat) : List Gid := cs.map fun k => gidOf s.dev k 0
  if 4096 ≤ dom then
    match tfind s.ldoms dom with
    | some l => l.members
    | none => systemMembers s dom
  else match scope with
    | 2 => here ((List.range 6).map fun p => gangCore dom p)
    | 3 => here (clusterCores dom)
    | 4 => here ((List.range 288).map (288 * dom + ·))
    | 5 => here (List.range 576)
    | _ => here [c]

/-- The smallest scope that encloses cores of one device; 0, which no name of a launch domain has, where there are none. -/
def enclosing (cs : List Nat) : Nat :=
  let c := cs.headD 0
  if cs.isEmpty then 0 else if cs.all fun d => gangOf d == gangOf c then 2 else if cs.all fun d => clusterOf d == clusterOf c then 3
  else if cs.all fun d => coreDie d == coreDie c then 4 else 5

/-- Home number of a core of a device. -/
def homeNum (dev core : Nat) : Nat := dev * 2 ^ 16 + core
def homeDev (h : Nat) : Nat := h / 2 ^ 16
def homeCore (h : Nat) : Nat := h % 2 ^ 16

/-- The gang fast-path event's name, and whether a name is one (R190). -/
def gangName (g : Nat) : Nat := ename 2 g 0xFFFF
def isGangName (n : Nat) : Bool := nameScope n == 2 && nameDom n < 96 && nameIndex n == 0xFFFF

/-- Whether a name is a pool take event (R225), of the cluster its domain gives. -/
def isTakeName (n : Nat) : Bool := nameScope n == 3 && nameDom n < 24 && 0xFF00 ≤ nameIndex n && nameIndex n ≤ 0xFF0F

/-- The home of a name used on core c (R170, R190, R225). -/
def nameHome (s : State) (c : Nat) (n : Nat) : Nat :=
  if isGangName n then homeNum s.dev (576 + nameDom n)
  else if isTakeName n then homeNum s.dev (firstCore (nameDom n))
  else if nameScope n ≤ 1 then homeNum s.dev c
  else
    let ms := domMembers s c (nameScope n) (nameDom n)
    let h := n * 0x9E3779B1 % 2 ^ 32
    let g := ms.getD (bits h 16 16 * ms.length / 2 ^ 16) (gidOf s.dev c 0)
    homeNum (gidDev g) (gidCore g)

/-- The entry of a name used on core c. -/
def evKey (s : State) (c : Nat) (n : Nat) : EvKey := ⟨nameHome s c n, n⟩

/-! ## Payload descriptors (R214, R215 step 2) -/

/-- A descriptor with its fields in range: `rows` is the ACCCFG.ROWS that bounds ACC rows, `give` and `helper` say which
kinds may stand. -/
def parseRegion (v : Word) (give helper : Bool) (rows : Nat) : Option Region :=
  let n := v.toNat
  let kind := bits n 62 2
  let len := bits n 32 13
  let place := bits n 0 21
  if bits n 45 17 ≠ 0 ∨ bits n 21 11 ≠ 0 ∨ kind = 3 ∨ 4096 < len then none
  else match kind with
    | 0 => if place + len ≤ 2 ^ 21 then some ⟨.scratch, len, place⟩ else none
    | 1 => if place < 16 ∧ !helper ∧ place + (len + 255) / 256 ≤ rows then some ⟨.acc, len, place⟩ else none
    | _ => if !give ∧ place < 8 ∧ len ≤ 8 then some ⟨.mailbox, len, place⟩ else none

/-- The first byte of a SCRATCH region that lies in another bank (R215 step 3). -/
def regionRefused (k : Core) (r : Option Region) : Option Nat :=
  match r with
  | some g =>
    if g.kind = .scratch ∧ g.len ≠ 0 then
      (banksOf g.place g.len).findSome? fun b => if k.role b = .scratch then none else some (max g.place (b * 65536))
    else none
  | none => none

/-- BANK_ROLE for a local address of a payload region. -/
def regionFault (k : Core) (a : Nat) : Cause := { cause 0x05 (BitVec.ofNat 64 a) with reason := (k.role (a / 65536)).code }

/-- The lowest free slot of a context, 0-7 (R215). -/
def freeSlot (t : Tbl Staged) : Option Nat := (List.range 8).find? fun i => (tfind t i).isNone

/-- Whether a name is already staged. -/
def stagedName (t : Tbl Staged) (n : Nat) : Bool := t.any fun e => e.2.name == n

/-- ILLEGAL_INSTRUCTION raised by an entry's own check, item 6 of R79 (R80). -/
def barred (i : Instr) : Cause := illegal i 6

/-! ## Control and status registers (R22-R25, R28, R29, R37, R169, R284, R289, R409, R419) -/

/-- The addresses assigned in R23. -/
def csrAssigned (a : Nat) : Bool :=
  a == 0x001 || a == 0x002 || a == 0x010 || a == 0x200 || a == 0x201 || (0x210 ≤ a && a ≤ 0x212) || a == 0x220 ||
  a == 0x230 || (0x240 ≤ a && a ≤ 0x24F) || a == 0x250 || a == 0x251 || a == 0x400 || a == 0x405 ||
  (0x441 ≤ a && a ≤ 0x443) || a == 0x480 || a == 0x481 || a == 0x490 || a == 0x491 || (0x4A0 ≤ a && a ≤ 0x4A3) ||
  (0x4A8 ≤ a && a ≤ 0x4AB) || a == 0x640 || a == 0x6C0 || a == 0x800 || a == 0x802 || a == 0x805 ||
  (0x841 ≤ a && a ≤ 0x843) || a == 0xA40

/-- Whether a context at a level may access a CSR, and write it (R22). -/
def csrAllowed (p : Priv) (a : Nat) (write : Bool) : Bool :=
  csrAssigned a && bits a 10 2 ≤ p.code && !(write && nbit a 9)

/-- The roles of 16 banks, four bits each (R37). -/
def roleWord (k : Core) (first : Nat) : Word :=
  BitVec.ofNat 64 (((List.range 16).map fun i => (k.role (first + i)).code * 16 ^ i).foldl (· + ·) 0)

/-- DOM (R169). -/
def domWord (k : Core) (c : Nat) : Word :=
  BitVec.ofNat 64 (k.lmem.toNat * 2 ^ 48 + k.lbase.toNat * 2 ^ 35 + k.sysdom.toNat * 2 ^ 22 + (if k.sysv then 2 ^ 21 else 0) +
    coreDie c * 2 ^ 13 + clusterOf c * 2 ^ 8 + gangOf c)

/-- ACCCFG (R28). -/
def accCfgWord (a : Acc) : Word := BitVec.ofNat 64 (64 * 2 ^ 16 + (if a.int then 256 else 0) + a.rows)

/-- The FFLAGS that stand in the contexts now; the flags of a context that is no longer live stay until its number is created
again, and a saved context is not live (R64, R402). -/
def flagsNow (s : State) : List ((Nat × Nat) × BitVec 5) :=
  s.cores.flatMap fun e =>
    let of (x : Nat) : BitVec 5 :=
      let k := e.2.ctx x
      (if e.2.image.isNone || !k.live then k.fflags else 0) ||| tget 0 e.2.endFlags x
    (List.range 11).filterMap fun x => if of x = 0 then none else some ((e.1, x), of x)

/-- The entries of the flag log of the last 16 cycles, and the one that stood before them. -/
def recentFlags (now : Nat) : List (Nat × List ((Nat × Nat) × BitVec 5)) → List (Nat × List ((Nat × Nat) × BitVec 5))
  | [] => []
  | e :: t => if now < e.1 + 16 then e :: recentFlags now t else [e]

/-- The flag log with the flags as they stand after a step. -/
def flagNote (s : State) : List (Nat × List ((Nat × Nat) × BitVec 5)) :=
  let now := flagsNow s
  let same := match s.flagLog with
    | e :: _ => e.2 == now
    | [] => false
  recentFlags s.cycle.toNat (if same then s.flagLog else (s.cycle.toNat, now) :: s.flagLog)

/-- FLAGOR (R64): the union over the cluster's contexts of the flags that have stood for 16 cycles. Of the flags set or cleared since,
any may be included: which are is free (log 6). -/
def flagOr (s : State) (c : Nat) : BitVec 5 :=
  let log := recentFlags s.cycle.toNat s.flagLog
  let mine (m : List ((Nat × Nat) × BitVec 5)) := m.filter fun e => clusterOf e.1.1 == clusterOf c
  let old := log.any fun e => decide (e.1 + 16 ≤ s.cycle.toNat)
  let sure := if old then (mine (flagsNow s)).foldl (fun f e => f ||| log.foldl (fun g m => g &&& (kfind m.2 e.1).getD 0) e.2) 0 else 0
  let seen := (flagsNow s :: log.map (·.2)).foldl (fun f m => (mine m).foldl (fun g e => g ||| e.2) f) 0
  sure ||| (seen &&& Config.lateFlags s.draws)

/-- The value of a CSR of a context of a core. -/
def csrRead (s : State) (c x : Nat) (a : Nat) : Word :=
  let k := s.core c
  let v := k.ctx x
  if a = 0x001 then v.frm.setWidth 64
  else if a = 0x002 then v.fflags.setWidth 64
  else if a = 0x010 then v.evlim.setWidth 64
  else if a = 0x200 then s.cycle + k.cycleAdd
  else if a = 0x201 then s.time + k.timeAdd
  else if a = 0x210 then BitVec.ofNat 64 (gidOf s.dev c x)
  else if a = 0x211 then domWord k c
  else if a = 0x212 then v.evsel.setWidth 64
  else if a = 0x220 then k.mbFull.setWidth 64
  else if a = 0x230 then accCfgWord k.wide.acc
  else if 0x240 ≤ a ∧ a ≤ 0x24F then (if a - 0x240 < k.wide.acc.rows then (k.wide.acc.st.getD (a - 0x240) 0).setWidth 64 else 0)
  else if a = 0x250 then roleWord k 0
  else if a = 0x251 then roleWord k 16
  else if a = 0x400 then v.status ||| BitVec.ofNat 64 (16 * v.priv.code)
  else if a = 0x405 then k.tvec
  else if a = 0x441 then v.epc
  else if a = 0x442 then v.cause
  else if a = 0x443 then v.tval
  else if a = 0x480 then v.asid.setWidth 64
  else if a = 0x481 then v.ptroot
  else if a = 0x490 then v.cclass.setWidth 64
  else if a = 0x491 then v.rescls.setWidth 64
  else if 0x4A0 ≤ a ∧ a ≤ 0x4A3 then k.wpBase.getD (a - 0x4A0) 0
  else if 0x4A8 ≤ a ∧ a ≤ 0x4AB then k.wpCtl.getD (a - 0x4A8) 0
  else if a = 0x640 then v.faultcap
  else if a = 0x6C0 then (flagOr s c).setWidth 64
  else if a = 0x800 then v.hstatus ||| BitVec.ofNat 64 (16 * v.priv.code)
  else if a = 0x802 then k.hdeleg
  else if a = 0x805 then k.htvec
  else if a = 0x841 then v.hepc
  else if a = 0x842 then v.hcause
  else if a = 0x843 then v.htval
  else if a = 0xA40 then v.hfaultcap
  else 0

/-- STATUS or HSTATUS after a write (R24, R25): a reserved PP keeps the old one. -/
def statusWrite (old v : Word) (top : Nat) : Word :=
  let pp := if bits v.toNat 2 2 ≤ top then bits v.toNat 2 2 else bits old.toNat 2 2
  BitVec.ofNat 64 (4 * pp + bits v.toNat 0 2)

/-- TVEC or HTVEC after a write: a reserved MODE keeps the old one. -/
def tvecWrite (old v : Word) : Word :=
  (v &&& ~~~3) ||| (if v.extractLsb' 0 2 ≤ 1 then v &&& 3 else old &&& 3)

/-- CAUSE or HCAUSE after a write. -/
def causeWrite (v : Word) : Word := v &&& 0x80000000000000FF

/-- The partition that holds a cluster. -/
def clusterPart (s : State) (k : Nat) : Option Nat := (s.parts.find? fun p => p.2.clusters.contains k).map (·.1)

/-- A cache class that the partition of a core holds (R284). -/
def classHeld (s : State) (p : Option Nat) (cls : Nat) : Bool :=
  match p with
  | some p => match tfind s.parts p with
    | some q => q.classes.contains cls
    | none => false
  | none => false

/-- A write to a CSR under R24. A flag set of the same cycle ORs into what FFLAGS is written with (R65). -/
def csrWrite (s : State) (c x : Nat) (a : Nat) (v : Word) : State :=
  let k := s.core c
  let w := k.ctx x
  if a = 0x001 then s.setCtx c x { w with frm := if bits v.toNat 0 3 ≤ 4 then BitVec.ofNat 3 v.toNat else w.frm }
  else if a = 0x002 then s.setCtx c x { w with fflags := v.setWidth 5 ||| w.setIn s.cycle }
  else if a = 0x010 then s.setCtx c x { w with evlim := v.setWidth 32 }
  else if a = 0x400 then s.setCtx c x { w with status := statusWrite w.status v 1 }
  else if a = 0x405 then s.setCore c { k with tvec := tvecWrite k.tvec v }
  else if a = 0x441 then s.setCtx c x { w with epc := v }
  else if a = 0x442 then s.setCtx c x { w with cause := causeWrite v }
  else if a = 0x443 then s.setCtx c x { w with tval := v }
  else if a = 0x480 then s.setCtx c x { w with asid := v.setWidth 16 }
  else if a = 0x481 then s.setCtx c x { w with ptroot := v &&& 0x800FFFFFFFFFF000 }
  else if a = 0x490 then s.setCtx c x { w with cclass := if classHeld s k.part (bits v.toNat 0 4) then v.setWidth 4 else w.cclass }
  else if a = 0x491 then s.setCtx c x { w with rescls := if bits v.toNat 0 2 ≤ 2 then v.setWidth 2 else w.rescls }
  else if 0x4A0 ≤ a ∧ a ≤ 0x4A3 then
    setWp (unwatchFor s c (a - 0x4A0) (s.asker c x)) c (a - 0x4A0) (v &&& ~~~15) (k.wpCtl.getD (a - 0x4A0) 0)
  else if 0x4A8 ≤ a ∧ a ≤ 0x4AB then
    setWp (unwatchFor s c (a - 0x4A8) (s.asker c x)) c (a - 0x4A8) (k.wpBase.getD (a - 0x4A8) 0) (wpCtlWrite (k.wpCtl.getD (a - 0x4A8) 0) v)
  else if a = 0x800 then s.setCtx c x { w with hstatus := statusWrite w.hstatus v 2 }
  else if a = 0x802 then s.setCore c { k with hdeleg := v }
  else if a = 0x805 then s.setCore c { k with htvec := tvecWrite k.htvec v }
  else if a = 0x841 then s.setCtx c x { w with hepc := v }
  else if a = 0x842 then s.setCtx c x { w with hcause := causeWrite v }
  else if a = 0x843 then s.setCtx c x { w with htval := v }
  else s

end Sys2Proof.Machine
end

