-- ==== Sys2Proof/Machine/Stages.lean ====
section
/-!
DEFINITION. The pipeline table of a die as a graph of stage entries (13_engines_and_pipelines.md R348-R351, R390): which
production an entry takes next and from which source, which entries may produce, and which productions are kept.
-/

namespace Sys2Proof.Machine

open Sys2Proof

/-- The productions that an entry makes altogether, none for a CYCLIC source; `f` bounds the depth of the chain. -/
def prodTotal (t : Tbl Entry) : Nat → Nat → Option Nat
  | 0, _ => none
  | f + 1, i => match tfind t i with
    | none => some 0
    | some e =>
      if e.cyc then none
      else match e.pred with
        | none => some (e.made + e.todo.length)
        | some p =>
          let rest (q : Option Nat) : Nat := q.getD 0
          some (e.made + (rest (prodTotal t f p) - e.next) + (match e.alt with
            | some q => rest (prodTotal t f q) - e.nextAlt
            | none => 0))

/-- A source has no production from this number on. -/
def exhausted (t : Tbl Entry) (src pos : Nat) : Bool := match prodTotal t 5 src with
  | some n => n ≤ pos
  | none => false

/-- A kept production of an entry. -/
def prodAt (t : Tbl Entry) (src pos : Nat) : Option Prod := match tfind t src with
  | some e => e.held.find? fun p => p.num == pos
  | none => none

/-- The entry takes from its catch-up entry next (R351). -/
def takesAlt (t : Tbl Entry) (e : Entry) : Bool := match e.pred, e.alt with
  | some p, some q => if e.turn then !exhausted t q e.nextAlt else exhausted t p e.next
  | _, _ => false

/-- The production that an entry takes next, where its source has made it. -/
def nextProd (t : Tbl Entry) (e : Entry) : Option Prod :=
  if takesAlt t e then e.alt.bind fun q => prodAt t q e.nextAlt else e.pred.bind fun p => prodAt t p e.next

/-- The entry has taken it. -/
def tookNext (t : Tbl Entry) (e : Entry) : Entry :=
  let a := takesAlt t e
  { e with next := if a then e.next else e.next + 1, nextAlt := if a then e.nextAlt + 1 else e.nextAlt,
           turn := e.alt.isSome && !a }

/-- The branches attached to an entry: each with the next production it takes. -/
def branches (t : Tbl Entry) (i : Nat) : List (Nat × Nat) :=
  t.flatMap fun e => (if e.2.pred = some i then [(e.1, e.2.next)] else []) ++ (if e.2.alt = some i then [(e.1, e.2.nextAlt)] else [])

/-- A subscriber of a branch is in a state. -/
def branchIs (d : Die) (st : SubSt) (b : Nat) : Bool := match tfind d.entries b with
  | some e => e.refs.any fun u => match tfind d.subs u with
    | some v => v.st == st
    | none => false
  | none => false

/-- The window of R350: every RUNNING branch has consumed production p − 8; without one, a JOINING branch needs p. -/
def mayProduce (d : Die) (i : Nat) (e : Entry) : Bool :=
  let bs := branches d.entries i
  let run := bs.filter fun b => branchIs d .running b.1
  if run.isEmpty then bs.any fun b => branchIs d .joining b.1 && b.2 == e.made else run.all fun b => decide (e.made < b.2 + 8)

/-- An entry can make a production: its window is open and its input is there. -/
def canProduce (d : Die) (i : Nat) : Bool := match tfind d.entries i with
  | none => false
  | some e =>
    e.kind != 4 && mayProduce d i e && (if e.kind = 1 then e.cyc || !e.todo.isEmpty else (nextProd d.entries e).isSome)

/-- The private branch of a subscriber that is not served: it keeps no production of the shared entry (R350). -/
def idleBranch (d : Die) (b : Nat) : Bool := match tfind d.entries b with
  | some e => e.kind == 4 && !branchIs d .running b && !branchIs d .joining b
  | none => true

/-- Drops the productions that every branch has consumed; `keep` lists branches whose delivery is being decided. -/
def pruneEntry (d : Die) (keep : List Nat) (i : Nat) (e : Entry) : Entry :=
  let bs := (branches d.entries i).filter fun b => !idleBranch d b.1 || keep.contains b.1
  { e with held := e.held.filter fun p => bs.any fun b => b.2 ≤ p.num }

def prune (d : Die) (keep : List Nat) : Die :=
  { d with entries := d.entries.map fun e => (e.1, pruneEntry d keep e.1 e.2) }

/-- The tile that a subscription's agent holds for its next delivery (R344, R390). -/
def heldTile (d : Die) (u : Nat) : Option Prod := match tfind d.entries u with
  | some e => nextProd d.entries e
  | none => none

/-- The entries whose productions reach an entry, and the entry itself. -/
def chainOf (t : Tbl Entry) : Nat → Nat → List Nat
  | 0, _ => []
  | f + 1, i => match tfind t i with
    | none => []
    | some e =>
      let up (q : Option Nat) : List Nat := match q with
        | some p => chainOf t f p
        | none => []
      i :: up e.pred ++ up e.alt

/-- The subscribers of an entry, oldest first by acceptance; the owner is the first (R348, R352). -/
def oldest (d : Die) (us : List Nat) : Nat :=
  (us.foldl (fun (b : Option (Nat × Nat)) u =>
    let a := match tfind d.subs u with
      | some v => v.age
      | none => 0
    match b with
    | none => some (u, a)
    | some w => if a < w.2 then some (u, a) else some w) none).elim 0 (·.1)

/-- The cores of a workgroup. -/
def Wg.cores (w : Wg) : List Nat := w.map.map (·.2)

/-! ## Subscriptions -/

/-- A descriptor's CYC and S (R342). -/
def subCyclic (u : Sub) : Bool := nbit (field u.desc 24 4) 0
def subSlots (u : Sub) : Nat := bits (field u.desc 24 4) 6 4 + 1

/-- The delivery that a subscription makes next ends a pass (R351). -/
def passEnds (u : Sub) : Bool := if subCyclic u then u.passCount + 1 == u.total else u.seq + 1 == u.total

/-- The latch of a subscription's permits, at the tile-walk agent. -/
def permitLatch (s : State) (core i : Nat) : LatchId := ⟨gidOf s.dev core 12, 2 * i⟩

/-- The cores that a subscription's tiles land in, and the local address of the next one (R342, R344). -/
def tileCores (u : Sub) : List Nat :=
  let w := field u.desc 16 4
  ((clusterCores (bits w 24 5)).zipIdx.filter fun e => nbit w e.2).map (·.1)
def tileLand (u : Sub) : Nat := field u.desc 20 4 + 4096 * (u.seq % subSlots u)

/-- Subscriptions of a die whose delivery is being decided. -/
def busySubs (s : State) (die : Nat) : List Nat :=
  (s.die die).subs.filterMap fun u => match (s.latch (permitLatch s u.2.core u.1)).st with
    | .claimed _ _ => if u.2.tile.isNone then some u.1 else none
    | _ => none

/-- MCAST takes the tile of a permit that commits (R390), once: its bytes, and whether its delivery ends a pass. -/
def takeTile (s : State) (l : LatchId) : State :=
  let die := coreDie (gidCore l.gid)
  let d := s.die die
  let i := l.sub / 2
  if gidDev l.gid ≠ s.dev ∨ gidCtx l.gid ≠ 12 ∨ l.sub % 2 ≠ 0 then s
  else match tfind d.subs i, tfind d.entries i, heldTile d i with
    | some u, some e, some p =>
      if u.tile.isSome then s
      else
        let v := { u with tile := some p.tile, ends := passEnds u, lands := some p.bytes }
        s.setDie die (prune { d with entries := tput d.entries i (tookNext d.entries e), subs := tput d.subs i v }
          ((busySubs s die).filter (· != i)))
    | _, _, _ => s

end Sys2Proof.Machine
end

