-- ==== Sys2Proof/Machine/EventOps.lean ====
section
/-!
DEFINITION. What latches and homes do (06_events_and_execution.md): descriptors (R171, R172), stamps (R180), arming and
ending an offer set (R177, R178), the checks of a home on an offer (R216), enabling, backing off, and the commit with
its deliveries (R173, R181).
-/

namespace Sys2Proof.Machine

open Sys2Proof

/-! ## The event descriptor (R171, R172) -/

def modeOf (n : Nat) : Option Mode :=
  match n with
  | 0 => some .sync
  | 1 => some .channel
  | 2 => some .bcast
  | 3 => some .gather
  | 4 => some .reduce
  | 5 => some .exchange
  | _ => none

/-- The words PART0 to PART15. -/
def partWords (bs : List Byte) : List Nat := (List.range 16).map fun i => field bs (16 + 4 * i) 4

/-- Reads a descriptor: its fields, where those that R171 marks zero are zero. `members` are the domain's (R167). -/
def parseDesc (members : List Gid) (bs : List Byte) : Option EventDesc :=
  let w := field bs 4 4
  let count := bits w 4 5
  let all := nbit w 3
  let ps := partWords bs
  match modeOf (bits w 0 3) with
  | none => none
  | some m =>
    if bits w 29 3 ≠ 0 ∨ bits w 12 4 ≠ 0 ∨ (ps.drop count).any (· != 0) ∨ ps.any (2 ^ 26 ≤ ·) ∨ 2 ^ 26 ≤ field bs 12 4 ∨
        16 < count ∨ (if all then count ≠ 0 else count = 0) then none
    else some
      { name := field bs 0 4, mode := m, size := bits w 16 13, op := bits w 9 3, all := all,
        format := BitVec.ofNat 32 (field bs 8 4), root := field bs 12 4, parts := if all then members else ps.take count }

/-- The core of a global ID, as its control context's. -/
def gidHub (g : Gid) : Gid := g / 16 * 16

/-- The rules of R172 on a descriptor of an event defined on core `c` by `me`; a participant on a device that cannot be reached breaks them
(R446). -/
def descValid (s : State) (c : Nat) (me : Gid) (d : EventDesc) : Bool :=
  let members := domMembers s c (nameScope d.name) (nameDom d.name)
  let n := d.parts.length
  let own := if nameScope d.name = 0 then d.parts.all fun p => p == me || 11 ≤ gidCtx p else true
  let plain := d.size ≤ 4096 && (d.mode == .reduce || (d.op == 0 && d.format == 0)) && (d.mode == .bcast || d.root == 0)
  let rule := match d.mode with
    | .sync => d.size == 0
    | .channel => 1 ≤ d.size && n == 2 && !d.all
    | .bcast => 1 ≤ d.size && d.parts.contains d.root
    | .gather => n * d.size ≤ 4096 && !d.all
    | .reduce =>
      d.op ≤ 4 && fmtValid d.format && 1 ≤ fmtKind d.format && fmtKind d.format ≤ 4 && !fmtScaled d.format &&
        d.size % fmtBytes d.format == 0
    | .exchange => d.size % (max n 1) == 0 && !d.all
  d.parts.Nodup && d.parts.all (fun p => gidValid p && members.contains (gidHub p) && reachable s (coreDie c) (gidDev p)) && own && plain && rule &&
    (!d.all || n ≤ 65536)

/-- The names EVDEF refuses (R210 step 2). -/
def reservedName (n : Nat) : Bool :=
  (nameScope n == 2 && nameIndex n == 0xFFFF) || (nameScope n == 3 && 0xFF00 ≤ nameIndex n && nameIndex n ≤ 0xFF0F)

/-- The code of a mode (R171). -/
def modeCode : Mode → Nat
  | .sync => 0
  | .channel => 1
  | .bcast => 2
  | .gather => 3
  | .reduce => 4
  | .exchange => 5

/-- The 80-byte record of a descriptor (R171). -/
def descBytes (d : EventDesc) : List Byte :=
  let ps := if d.all then [] else d.parts
  bytesOfNat 4 d.name ++
    bytesOfNat 4 (d.size * 2 ^ 16 + d.op * 2 ^ 9 + ps.length * 2 ^ 4 + (if d.all then 8 else 0) + modeCode d.mode) ++
    bytesOfNat 4 d.format.toNat ++ bytesOfNat 4 d.root ++ (ps ++ List.replicate (16 - ps.length) 0).flatMap (bytesOfNat 4)

/-- A new entry of a home (R210). -/
def newHome (d : EventDesc) (spilled : Bool) : Home :=
  { desc := d, st := .waiting, offers := [], granted := [], late := [], stamp := none, starve := 0, occ := 0, lasten := 0,
    retryAt := 0, spilled := spilled, spillPa := none, front := false, due := [], reduce := [], imbal := [], step := 0, drained := false }

/-- The pool of a take event's name and the core that holds its agent (R225). -/
def takePool (n : Nat) : Nat × Nat := (nameDom n, nameIndex n - 0xFF00)

/-- The agent that gives a take event's records. -/
def poolAgent (s : State) (k : Nat) : Gid := gidOf s.dev (firstCore k) 13

/-- The entry of an event: a defined one, or the one that the hardware fixes for a gang's wired logic (R190) and for a
pool's take event (R225). -/
def State.entry (s : State) (ev : EvKey) : Option Home :=
  match s.home ev with
  | some h => some h
  | none =>
    if homeDev ev.home ≠ s.dev then none
    else if 576 ≤ homeCore ev.home then
      let g := homeCore ev.home - 576
      if ev.name = gangName g then
        some (newHome ⟨ev.name, .sync, 0, 0, false, 0, 0, (List.range 6).map fun p => gidOf s.dev (gangCore g p) 0⟩ false)
      else none
    else if isTakeName ev.name ∧ homeCore ev.home = firstCore (nameDom ev.name) then
      some (newHome ⟨ev.name, .channel, 48, 0, false, 0, 0, [poolAgent s (nameDom ev.name)]⟩ false)
    else none

/-- Resident entries of a core's resolver (R170). -/
def residents (s : State) (home : Nat) : Nat :=
  (s.homes.filter fun e => e.1.home == home && !e.2.spilled && !isTakeName e.1.name).length

/-! ## Stamps (R180) -/

/-- s ranks above t. -/
def stampAbove (s t : Stamp) : Bool :=
  t.count < s.count || (s.count == t.count && (s.time < t.time || (s.time == t.time && s.name < t.name)))

/-! ## Offer sets at a latch (R177, R178) -/

/-- An offer to be armed: its slot, event, direction and payload. -/
structure Want where
  slot : Nat
  ev : EvKey
  dir : Dir
  give : Option Region
  take : Option Region
  copy : Option CopyCmd
  bytes : List Byte
  deriving DecidableEq, Repr

/-- Adds an event to a list once. -/
def addOnce (hs : List Nat) (h : Nat) : List Nat := if hs.contains h then hs else hs ++ [h]

/-- The offers of a set as they are sent, each with the TIME of its arming (R202). DESIGN CHOICE (log 45): both dies read one TIME. -/
def offerMsgs (s : State) (l : LatchId) (arm : Nat) (seq : Bool) (ws : List Want) : List (EvKey × OfferMsg) :=
  ws.map fun w => (w.ev, { latch := l, arm := arm, slot := w.slot, name := w.ev.name, dir := w.dir, give := w.give,
                           take := w.take, copy := w.copy, bytes := w.bytes, got := [], seq := seq, armed := s.time.toNat })

/-- Whether an event is spilled at its home (R187); at one on another device that is free (log 26). -/
def isSpilled (s : State) (ev : EvKey) : Bool :=
  if homeDev ev.home ≠ s.dev then Config.farSpilled s.draws (ev.home, ev.name)
  else match s.home ev with
    | some h => h.spilled
    | none => false

/-- Whether an offered event is spilled (R187). -/
def anySpilled (s : State) (os : List (EvKey × OfferMsg)) : Bool := os.any fun o => isSpilled s o.1

/-- Cycles to the next poll at a back-off level (R187). -/
def pollTime (s : State) (n : Nat) : Nat := s.cycle.toNat + 64 * 2 ^ n

/-- Arms a set: the arm number rises, and each offer goes to its home, in slot order (R177, R233). -/
def armLatch (s : State) (l : LatchId) (seq : Bool) (limit n : Nat) (ws : List Want) : State :=
  let arm := ((s.latch l).arm + 1) % 256
  let os := offerMsgs s l arm seq ws
  let homes := os.foldl (fun hs o => addOnce hs o.1.home) []
  let m := { Latch.reset with st := .armed, arm := arm, offers := os, armedAt := s.cycle.toNat, limit := limit, inAt := some s.cycle,
                              pollAt := if anySpilled s os then some (pollTime s n) else none }
  (s.setLatch l m).sendAll (homes.map fun h => .homeOfferArrives h ((os.filter fun o => o.1.home == h).map (·.2)))

/-- Withdraws the offers of a set in slot order, but for one event (R233). -/
def withdrawOffers (s : State) (l : LatchId) (keep : Option EvKey) (commit : Bool) : State :=
  let m := s.latch l
  s.sendAll ((m.offers.filter fun o => some o.1 != keep).map fun o => .homeWithdrawal o.1 l m.arm commit)

/-- The latch goes IDLE; its offers are withdrawn. -/
def idleLatch (s : State) (l : LatchId) : State :=
  (withdrawOffers s l none false).setLatch l { Latch.reset with arm := (s.latch l).arm, gave := (s.latch l).gave }

/-- The latch of a context, and of exchange offer i of its core's sequencer (R201). -/
def ctxLatch (s : State) (c x : Nat) : LatchId := ⟨gidOf s.dev c x, 16 * wgTag (s.core c)⟩
def exchLatch (s : State) (c i : Nat) : LatchId := ⟨gidOf s.dev c 0, 16 * wgTag (s.core c) + i + 1⟩

/-- Whether a latch is a context's, or its core's sequencer's; and whether it belongs to what the core now runs. -/
def isCtxLatch (l : LatchId) : Bool := gidCtx l.gid < 11
def latchNow (s : State) (l : LatchId) : Bool := !isCtxLatch l || l.sub / 16 == wgTag (s.core (gidCore l.gid))

/-- What a latch takes lies in its core: that of a context or of a FIFO bank (R185). -/
def isCoreLatch (l : LatchId) : Bool := isCtxLatch l || gidCtx l.gid == 14

/-- The core holds what a latch takes into: the mailboxes and records of the workgroup it runs; a resident pair's banks stay in place (R406). -/
def landsNow (s : State) (l : LatchId) : Bool :=
  let k := s.core (gidCore l.gid)
  if isCtxLatch l then latchNow s l
  else if gidCtx l.gid = 14 then l.sub / 64 == wgTag k || k.parked.any fun m => l.sub / 64 == m.wg + 1
  else true

/-- Other devices, as a router's peer (R192). -/
def outside : Nat := 2 ^ 16

/-! ## The home's checks on an offer (R216) -/

/-- Whether an offer's agent is the participant a descriptor lists: the copy engine's is reached through any core of its
cluster (R333). -/
def samePart (p g : Gid) : Bool :=
  p == g || (gidCtx p == 11 && gidCtx g == 11 && gidDev p == gidDev g && clusterOf (gidCore p) == clusterOf (gidCore g))

def regionLen (r : Option Region) : Nat := match r with
  | some g => g.len
  | none => 0

/-- A kick event: a channel of 32 bytes that a copy engine agent takes (R333). -/
def isKick (d : EventDesc) : Bool := d.mode == .channel && d.size == 32 && d.parts.any fun p => gidCtx p == 11

/-- Bytes that each participant takes under GATHER. -/
def gatherLen (d : EventDesc) : Nat := d.parts.length * d.size

/-- The WHY of R205 that refuses an offer, 0 for none. -/
def offerWhy (h : Home) (o : OfferMsg) : Nat :=
  let d := h.desc
  let fits (dir : Dir) (give take : Nat) : Nat := if o.dir = dir ∧ regionLen o.give = give ∧ regionLen o.take = take then 0 else 3
  if !(d.parts.any fun p => samePart p o.latch.gid) then 2
  else if isKick d && o.dir == .give && gidCtx o.latch.gid != 11 && o.copy.isNone then 5
  else if h.offers.any fun q => samePart q.latch.gid o.latch.gid then 3
  else match d.mode with
    | .sync => if o.dir = .sync then 0 else 3
    | .channel =>
      if h.offers.any fun q => q.dir == o.dir then 3
      else if o.copy.isSome && !isKick d then 3
      else if o.dir = .give then fits .give d.size 0
      else fits .take 0 d.size
    | .bcast => if samePart d.root o.latch.gid then fits .give d.size 0 else fits .take 0 d.size
    | .gather => fits .both d.size (gatherLen d)
    | .reduce => fits .both d.size d.size
    | .exchange => fits .both d.size d.size

/-! ## Claims, back-off and withdrawals at a home (R181) -/

/-- Offers in the ascending order of their latches. -/
def insertOffer (o : OfferMsg) : List OfferMsg → List OfferMsg
  | [] => [o]
  | p :: t =>
    if o.latch.gid < p.latch.gid ∨ (o.latch.gid = p.latch.gid ∧ o.latch.sub < p.latch.sub) then o :: p :: t
    else p :: insertOffer o t

def claimOrder (os : List OfferMsg) : List OfferMsg := os.foldl (fun t o => insertOffer o t) []

/-- All of an event's offers are present. -/
def allPresent (h : Home) : Bool :=
  if isTakeName h.desc.name then h.offers.length == 2
  else h.desc.parts.all fun p => h.offers.any fun o => samePart p o.latch.gid

/-- The offer whose latch is being claimed. -/
def claimed (h : Home) : Option OfferMsg := match h.st with
  | .claiming i => (claimOrder h.offers)[i]?
  | _ => none

def isEnabled (h : Home) : Bool := h.st != .waiting

/-- Claims the first latch under the event's stamp. -/
def startClaims (s : State) (ev : EvKey) (h : Home) (st : Stamp) : State :=
  let s1 := s.setHome ev { h with st := .claiming 0, stamp := some st, granted := [] }
  match claimOrder h.offers with
  | o :: _ => s1.send (.latchClaim o.latch ev o.arm st)
  | [] => s1

/-- EVENT_ENABLED (R180): the stamp, the notices and the first claim. -/
def enableEvent (s : State) (ev : EvKey) (h : Home) (time : Nat) : State :=
  let st : Stamp := ⟨h.starve, time, ev.name⟩
  startClaims (s.sendAll ((claimOrder h.offers).map fun o => .latchEnableNotice o.latch ev o.arm st)) ev
    { h with drained := false } st

/-- The pool of a take event. -/
def State.pool (s : State) (k p : Nat) : Pool := tget Pool.reset (s.cluster k).pools p
def State.setPool (s : State) (k p : Nat) (v : Pool) : State :=
  s.setCluster k { s.cluster k with pools := tput (s.cluster k).pools p v }

/-- The take offer that arrived first joins the agent's, where none is joined yet (R196). -/
def joinTake (s : State) (ev : EvKey) (h : Home) : State × Home :=
  let kp := takePool ev.name
  match (s.pool kp.1 kp.2).takes with
  | [] => (s, h)
  | o :: t =>
    if h.offers.length = 1 ∧ h.offers.all (fun q => gidCtx q.latch.gid == 13) then
      (s.setPool kp.1 kp.2 { s.pool kp.1 kp.2 with takes := t },
        { h with offers := h.offers ++ [o], desc := { h.desc with parts := h.desc.parts.take 1 ++ [o.latch.gid] } })
    else (s, h)

/-- After a change of a waiting event's offers: it is enabled when all are present; a spilled event is not, until a
participant polls (R186). -/
def tryEnable (s : State) (ev : EvKey) (h : Home) (time : Nat) : State :=
  if h.st ≠ .waiting then s.setHome ev h
  else
    let r := if isTakeName ev.name then joinTake s ev h else (s, h)
    if allPresent r.2 && !r.2.spilled then enableEvent r.1 ev r.2 time else r.1.setHome ev r.2

/-- Releases the held claims in reverse order. -/
def releaseClaims (s : State) (ev : EvKey) (h : Home) : State :=
  s.sendAll (h.granted.reverse.filterMap fun l =>
    (h.offers.find? fun o => o.latch == l).map fun o => .latchRelease l ev o.arm)

/-- The claim in flight, if one is given up before its answer. -/
def lateClaim (h : Home) : List (LatchId × Nat) := match claimed h with
  | some o => [(o.latch, o.arm)]
  | none => []

/-- BACKOFF: the held claims are released; the retry time is 32 cycles away. -/
def backOff (s : State) (ev : EvKey) (h : Home) (late : List (LatchId × Nat)) : State :=
  (releaseClaims s ev h).setHome ev
    { h with st := .backoff, granted := [], late := h.late ++ late, retryAt := s.cycle.toNat + 32 }

/-- The descriptor between occurrences: a take event lists its agent alone (R225), a phase event the front end no longer (R199). -/
def restDesc (h : Home) : EventDesc :=
  if isTakeName h.desc.name then { h.desc with parts := h.desc.parts.take 1 }
  else if h.front then { h.desc with parts := h.desc.parts.dropLast }
  else h.desc

/-- A withdrawal, or "offer missing", of an offer that the home holds (R181). -/
def withdrawAt (s : State) (ev : EvKey) (h : Home) (o : OfferMsg) (commit : Bool) : State :=
  let left := h.offers.filter (· != o)
  let answered := match claimed h with
    | some q => q.latch == o.latch
    | none => true
  let late := (h.late.filter fun q => q != (o.latch, o.arm)) ++ (if answered then [] else lateClaim h)
  let h1 := { h with offers := left, granted := h.granted.filter (· != o.latch), late := late }
  let s1 := releaseClaims s ev h1
  let s2 := if isEnabled h then s1.sendAll (left.map fun q => .latchCancel q.latch ev q.arm) else s1
  let h2 := { h1 with st := .waiting, granted := [], desc := if isTakeName ev.name then restDesc h else h.desc,
                      starve := if commit && isEnabled h then min 65535 (h.starve + 1) else h.starve }
  let back := left.filter fun q => isTakeName ev.name && gidCtx q.latch.gid != 13
  if back.isEmpty then tryEnable s2 ev h2 s.time.toNat
  else
    let kp := takePool ev.name
    (s2.setPool kp.1 kp.2 { s2.pool kp.1 kp.2 with takes := back ++ (s2.pool kp.1 kp.2).takes }).setHome ev
      { h2 with offers := left.filter fun q => gidCtx q.latch.gid == 13 }

/-! ## The commit (R173, R181) -/

/-- The phase event of a running bulk-synchronous launch (R199). -/
def isPhaseName (s : State) (n : Nat) : Bool := s.wgs.any fun w => w.2.bsp && field w.2.pkt 40 4 == n

/-- The place of an offer's participant in the descriptor's order. -/
def partIndex (d : EventDesc) (o : OfferMsg) : Nat := d.parts.findIdx fun p => samePart p o.latch.gid

/-- The latch that stands for the home itself as the taker of a REDUCE's gives. -/
def homeLatch (ev : EvKey) : LatchId := ⟨homeDev ev.home * 2 ^ 14 + gidOf 0 (homeCore ev.home) 0, 0xFFFF⟩

/-- The deliveries of an occurrence (R173). -/
def deliveries (ev : EvKey) (h : Home) : List Delivery :=
  let d := h.desc
  let os := claimOrder h.offers
  if d.size = 0 then []
  else match d.mode with
    | .sync => []
    | .channel =>
      (os.filter fun g => g.dir == .give).flatMap fun g =>
        (os.filter fun t => t.dir == .take).map fun t => ⟨t.latch, t.arm, g.latch, 0, d.size, 0⟩
    | .bcast =>
      (os.filter fun g => g.dir == .give).flatMap fun g =>
        (os.filter fun t => t.dir == .take).map fun t => ⟨t.latch, t.arm, g.latch, 0, d.size, 0⟩
    | .gather => os.flatMap fun g => os.map fun t => ⟨t.latch, t.arm, g.latch, 0, d.size, partIndex d g * d.size⟩
    | .reduce => os.map fun g => ⟨homeLatch ev, 0, g.latch, 0, d.size, 0⟩
    | .exchange =>
      let w := d.size / max d.parts.length 1
      os.flatMap fun g => os.map fun t => ⟨t.latch, t.arm, g.latch, partIndex d t * w, w, partIndex d g * w⟩

/-- Counts the messages to each taker. -/
def dueOf (ds : List Delivery) : List (LatchId × Nat) :=
  ds.foldl (fun t d => kput t d.taker ((kfind t d.taker).getD 0 + 1)) []

/-- The workgroups whose contexts take part, on this device. -/
def wgsOf (s : State) (os : List OfferMsg) : List Nat :=
  os.foldl (fun ns o =>
    if gidDev o.latch.gid = s.dev ∧ isCtxLatch o.latch ∧ 16 ≤ o.latch.sub then addOnce ns (o.latch.sub / 16 - 1) else ns) []

/-- The first commit a replay log lists that a test holds of. -/
def nextCommit (p : EvKey → Bool) : List LogItem → Option EvKey
  | [] => none
  | .commit e :: t => if p e then some e else nextCommit p t
  | .input _ _ _ :: t => nextCommit p t
  | .trap _ _ _ :: t => nextCommit p t

/-- Takes the first commit of an event off a log. -/
def dropCommit (ev : EvKey) : List LogItem → List LogItem
  | [] => []
  | .commit e :: t => if e = ev then t else .commit e :: dropCommit ev t
  | it :: t => it :: dropCommit ev t

/-- The next item of a replayed context's log at a wait: a commit in which it takes part, or its own next input or trap
(R439); `n` counts the items of its own that are past. -/
def nextItem (s : State) (g : Gid) : Nat → List LogItem → Option LogItem
  | _, [] => none
  | n, .commit e :: t =>
    if (match s.entry e with | some h => h.desc.parts.contains g | none => false) then some (.commit e) else nextItem s g n t
  | n, .input h k v :: t => if h = g then (if n = 0 then some (.input h k v) else nextItem s g (n - 1) t) else nextItem s g n t
  | n, .trap h c pc :: t => if h = g then (if n = 0 then some (.trap h c pc) else nextItem s g (n - 1) t) else nextItem s g n t

/-- What the log of a replayed context holds for the wait that begins; none where its workgroup is not replayed. -/
def waitItem (s : State) (c x : Nat) : Option LogItem :=
  match s.wgOf c with
  | none => none
  | some (_, w) =>
    if w.mode = .replay then nextItem s (gidOf s.dev c x) (s.ctx c x).logPos w.log else none

/-- A context in SELECT returns NONE because its log holds that next (R436). -/
def logNone (s : State) (l : LatchId) : Bool :=
  isCtxLatch l && l.sub % 16 == 0 && latchNow s l && (match waitItem s (gidCore l.gid) (gidCtx l.gid) with
    | some (.input _ 4 _) => true
    | _ => false)

/-- A commit would write a record of a log whose ring has no free slot (R440). -/
def commitFull (s : State) (os : List OfferMsg) : Bool :=
  os.any fun o => gidDev o.latch.gid == s.dev && isCtxLatch o.latch && latchNow s o.latch && s.replayFull (gidCore o.latch.gid)

/-- A replayed workgroup's log lets the home commit this event: it is the next one that the log lists for the home
(R436). -/
def logAllows (s : State) (ev : EvKey) (os : List OfferMsg) : Bool :=
  (wgsOf s os).all fun n => match tfind s.wgs n with
    | some w => decide (w.mode ≠ .replay) || nextCommit (fun e => e.home == ev.home) w.log == some ev
    | none => true

/-- The commit in the logs: recorded, or taken off the replayed log (R435, R436). -/
def logCommit (s : State) (ev : EvKey) (h : Home) : State :=
  (wgsOf s h.offers).foldl (fun t n => match tfind t.wgs n with
    | none => t
    | some w => match w.mode with
      | .off => t
      | .record =>
        (t.record n w (.commit ev)).trace (homeCore ev.home % 576)
          ⟨s.time.toNat, 12, gidOf s.dev (homeCore ev.home % 576) 0, h.offers.length,
            [BitVec.ofNat 64 (ev.name + 2 ^ 32 * h.starve), BitVec.ofNat 64 h.occ]⟩
      | .replay => { t with wgs := tput t.wgs n { w with log := dropCommit ev w.log } }) s

/-- A phase event may commit: every exchange offer of the members has occurred, and a circuit has drained (R193, R201). Of a member on another
device that is free (log 26). -/
def phaseReady (s : State) (h : Home) : Bool :=
  h.drained && h.offers.all fun o =>
    if gidDev o.latch.gid ≠ s.dev then Config.farReady s.draws o.latch.gid
    else gidCtx o.latch.gid != 0 ||
      (match (s.core (gidCore o.latch.gid)).exch with
        | some x => x.left.isEmpty
        | none => true)

def mayCommit (s : State) (ev : EvKey) (h : Home) : Bool :=
  logAllows s ev h.offers && (!isPhaseName s ev.name || phaseReady s h)

/-- The largest outstanding interval of a pool; ties to the oldest task, then the lower lo (R197). -/
def largest (ts : Tbl Task) : Option (Nat × Nat × Nat) :=
  let all := ts.flatMap fun t => t.2.intervals.map fun v => (t.1, t.2.age, v.1, v.2)
  let best := all.foldl (fun (b : Option (Nat × Nat × Nat × Nat)) v => match b with
    | none => some v
    | some w =>
      let lv := v.2.2.2 - v.2.2.1
      let lw := w.2.2.2 - w.2.2.1
      if lw < lv ∨ (lw = lv ∧ (v.2.1 < w.2.1 ∨ (v.2.1 = w.2.1 ∧ v.2.2.1 < w.2.2.1))) then some v else some w) none
  best.map fun v => (v.1, v.2.2.1, v.2.2.2)

/-- The handle of a task (R226). -/
def taskHandle (p slot : Nat) (t : Task) : Nat := 2 ^ 31 + t.gen % 4096 * 2 ^ 10 + slot * 16 + p

/-- POOL_TAKE_SERVE (R197): the interval given and the pool that is left; the 48 bytes of the work record (R224). -/
def serveTake (q : Pool) (p : Nat) : Pool × List Byte :=
  match largest q.tasks with
  | none => (q, List.replicate 48 0)
  | some (slot, lo, hi) =>
    match tfind q.tasks slot with
    | none => (q, List.replicate 48 0)
    | some t =>
      let m := if 2 * t.grain ≤ hi - lo then lo + (hi - lo) / 2 else lo
      let rest := t.intervals.filter (· != (lo, hi))
      let t1 := { t with intervals := if m = lo then rest else rest ++ [(lo, m)] }
      ({ q with tasks := tput q.tasks slot t1 },
        bytesOfNat 8 t.code.toNat ++ bytesOfNat 8 t.frame.toNat ++ bytesOfNat 8 m ++ bytesOfNat 8 hi ++
          bytesOfNat 4 (taskHandle p slot t) ++ List.replicate 12 0)

/-- Puts the bytes that an agent gives into its latch's offer of an event. -/
def giveBytes (s : State) (l : LatchId) (ev : EvKey) (bs : List Byte) : State :=
  let m := s.latch l
  s.setLatch l { m with offers := m.offers.map fun o => if o.1 = ev then (o.1, { o.2 with bytes := bs }) else o }

/-- The agent of a take event gives the record of the interval it serves. -/
def serveAt (s : State) (ev : EvKey) (h : Home) : State :=
  if !isTakeName ev.name then s
  else
    let kp := takePool ev.name
    let r := serveTake (s.pool kp.1 kp.2) kp.2
    let s1 := s.setPool kp.1 kp.2 { r.1 with served := r.1.served + 1 }
    match h.offers.find? fun o => gidCtx o.latch.gid == 13 with
    | some o => giveBytes s1 o.latch ev r.2
    | none => s1

/-- The record of R202 over the offers of an occurrence: EARLIEST, LATEST, SUMOFF, and STEP with LAST. -/
def imbalance (step : Nat) (os : List OfferMsg) : List Word :=
  let ts := os.map (·.armed)
  let lo := ts.foldl min (ts.headD 0)
  let hi := ts.foldl max 0
  let last := ((claimOrder os).find? fun o => o.armed == hi).map (·.latch.gid)
  [BitVec.ofNat 64 lo, BitVec.ofNat 64 hi, BitVec.ofNat 64 ((ts.map (· - lo)).foldl (· + ·) 0),
    BitVec.ofNat 64 (step * 2 ^ 32 + last.getD 0)]

/-- The superstep that a phase occurrence ends: that of its first participant here (R201), when the event commits and no participant has
gone on. DESIGN CHOICE (log 45): at the first occurrence, at which
no superstep has ended, it is the step of the plan at the launch, 0; the spec gives STEP no value there (R202). -/
def stepOf (s : State) (os : List OfferMsg) : Nat :=
  ((claimOrder os).findSome? fun o =>
    if gidDev o.latch.gid = s.dev ∧ gidCtx o.latch.gid = 0 then (s.core (gidCore o.latch.gid)).exch.map (·.step) else none).getD 0

/-- An occurrence of an event ends the stalled episode of its domain (R194). -/
def unstall (s : State) (n : Nat) : State :=
  { s with probes := s.probes.map fun p =>
      if p.2.scope = nameScope n ∧ p.2.domain = nameDom n then (p.1, { p.2 with stalled := false }) else p }

/-- An offer without a byte to give or to take: its latch's result needs no landing (R173, R182). -/
def bare (o : OfferMsg) : Bool := regionLen o.give == 0 && regionLen o.take == 0

/-- Every delivery is confirmed (R181): the count goes to 0, the occurrence record is written, and the participants that wait for the last
payload resume (R176). -/
def finishOccurrence (s : State) (ev : EvKey) (h : Home) : State :=
  let c := homeCore ev.home % 576
  let phase := isPhaseName s ev.name
  let im := if phase then imbalance h.step h.offers else []
  let time := match h.stamp with
    | some t => t.time
    | none => 0
  let s1 := s.traceIf c 0 3 h.offers.length [BitVec.ofNat 64 (ev.name + 2 ^ 32 * h.starve), BitVec.ofNat 64 time]
  let s2 := if phase then s1.traceIf c 0 4 0 ([BitVec.ofNat 64 ev.name, BitVec.ofNat 64 (h.occ + 1)] ++ im) else s1
  let s3 := (unstall s2 ev.name).sendAll
    (((claimOrder h.offers).filter (!bare ·)).map fun o => .latchLastPayloadDelivered o.latch ev o.arm)
  s3.setHome ev { h with st := .waiting, offers := [], granted := [], starve := 0, occ := h.occ + 1, lasten := time, due := [],
                         reduce := [], desc := restDesc h, front := false, imbal := if phase then im else h.imbal }

/-- What an occurrence without a delivery waits for: that every latch has committed. -/
def dueCommits (h : Home) : List (LatchId × Nat) := (claimOrder h.offers).map fun o => (o.latch, 1)

/-- COMMIT entered: irrevocable; every latch is told what it gives, and whether it takes the only delivery. MCAST takes the tile of a
permit (R390). -/
def enterCommit (s : State) (ev : EvKey) (h : Home) : State :=
  let s1 := h.offers.foldl (fun t o => takeTile t o.latch) (serveAt (logCommit s ev h) ev h)
  let ds := deliveries ev h
  let sole (l : LatchId) : Bool := match ds with
    | [d] => d.taker == l
    | _ => false
  (s1.sendAll ((claimOrder h.offers).map fun o =>
    .latchCommit o.latch ev o.arm ⟨ds.filter fun d => d.giver == o.latch, sole o.latch, ds.isEmpty, h.desc.mode == .bcast || h.desc.mode == .gather⟩)).setHome ev
      { h with st := .commit, due := if ds.isEmpty then dueCommits h else dueOf ds,
               step := if isPhaseName s ev.name then stepOf s h.offers else h.step }

/-- The last latch has granted: COMMIT, or BACKOFF while the event may not commit yet. -/
def tryCommit (s : State) (ev : EvKey) (h : Home) : State :=
  if mayCommit s ev h then enterCommit s ev h else backOff s ev h []

/-! ## REDUCE (R174) -/

/-- The combination of two codes. -/
def reduce2 (op : Nat) (f : Half) (x y : Nat) : Nat × FFlags :=
  match op with
  | 1 => selectCode (fmtOf f) 5 x y
  | 2 => selectCode (fmtOf f) 6 x y
  | 3 => (x &&& y, 0)
  | _ => (x ||| y, 0)

/-- One element combined over the participants. -/
def reduceElem (op : Nat) (f : Half) (cs : List Nat) : Nat × FFlags :=
  match cs with
  | [] => (0, 0)
  | c :: t =>
    if op = 0 then
      let F := fmtOf f
      finish F 0 false (sumVals 0 (decodeCode F c) (t.map (decodeCode F)))
    else t.foldl (fun a d => let r := reduce2 op f a.1 d; (r.1, a.2 ||| r.2)) (c, 0)

/-- The bytes that every participant takes, and the flags raised. -/
def reduceBytes (d : EventDesc) (gs : List (List Byte)) : List Byte × FFlags :=
  let n := fmtBytes d.format
  let rs := (List.range (d.size / n)).map fun i => reduceElem d.op d.format (gs.map fun g => field g (n * i) n)
  (rs.flatMap fun r => bytesOfNat n r.1, rs.foldl (fun a r => a ||| r.2) 0)

end Sys2Proof.Machine
end

