-- ==== Sys2Proof/Machine/Agents.lean ====
section
/-!
DEFINITION. The standing agents (R188): which offers each has armed, and what an occurrence or a refusal of one does:
FIFO banks (R189), pools (R196, R198, R229), copy engines (R333, R334), Cantle (R372), tile-walk engines (R344, R345) and
the front end's queue threads (R471).
-/

namespace Sys2Proof.Machine

open Sys2Proof

/-! ## Names of the agents' latches -/

def agentGid (s : State) (k : Nat) : Gid := gidOf s.dev (firstCore k) 11
def kickLatch (s : State) (k : Nat) : LatchId := ⟨agentGid s k, 0⟩
def complLatch (s : State) (k : Nat) (ev : EvKey) : LatchId := ⟨agentGid s k, ev.name + 1 + ev.home * 2 ^ 34⟩
def batchLatch (s : State) (k t : Nat) : LatchId := ⟨agentGid s k, 2 ^ 33 + t⟩
/-- The agent's latch is a batch event's, not a completion's. -/
def isBatchSub (sub : Nat) : Bool := nbit sub 33
def poolLatch (s : State) (k p : Nat) : LatchId := ⟨poolAgent s k, p⟩
def taskLatch (s : State) (k p slot : Nat) : LatchId := ⟨poolAgent s k, 16 + 64 * p + slot⟩
def passLatch (s : State) (core i : Nat) : LatchId := ⟨gidOf s.dev core 12, 2 * i + 1⟩

/-- The core that the agent of a queue's thread is reached through, and its global ID (R471). -/
def queueCore (q : Nat) : Nat := coreAt (q / 32) (q % 32 / 18) (q % 32 % 18)
def queueLatch (s : State) (q sub : Nat) : LatchId := ⟨gidOf s.dev (queueCore q) 15, sub⟩
/-- The queue of an agent's core. -/
def queueOf (core : Nat) : Nat := 32 * coreDie core + 18 * coreRow core + coreCol core

/-! ## Commands and records as bytes -/

/-- The 32 bytes of a command (R333: not visible to programs). -/
def cmdBytes (c : CopyCmd) : List Byte :=
  bytesOfNat 4 c.kick ++ bytesOfNat 4 c.src ++ bytesOfNat 4 c.dst ++ bytesOfNat 4 c.compl ++ bytesOfNat 5 c.first ++
    bytesOfNat 1 c.rm ++ bytesOfNat 1 (if c.sat then 1 else 0) ++ bytesOfNat 4 c.kicker ++ List.replicate 5 0

def cmdOf (bs : List Byte) : CopyCmd :=
  ⟨field bs 0 4, field bs 4 4, field bs 8 4, field bs 12 4, field bs 16 5, field bs 21 1, field bs 22 1 == 1, field bs 23 4⟩

/-- The events of a command: its kick and its completion, at the homes that its kicker's names have. -/
def kickKey (s : State) (c : CopyCmd) : EvKey := evKey s (gidCore c.kicker) c.kick
def complKey (s : State) (c : CopyCmd) : EvKey := evKey s (gidCore c.kicker) c.compl

/-! ## Records and summaries that a kick meets -/

def partNum (k : Core) : Nat := k.part.getD 0

/-- The handle of a record (R326). -/
def layHandle (slot gen : Nat) : Nat := 2 ^ 31 + gen % 4096 * 2 ^ 12 + slot

/-- The record that a handle names in a partition, on a die. -/
def layoutOf (s : State) (die part : Nat) (h : Nat) : Option (Nat × Layout) :=
  match tfind (s.die die).layouts (h % 4096) with
  | some l => if h = layHandle (h % 4096) l.gen ∧ l.part = part then some (h % 4096, l) else none
  | none => none

/-- The summary of a command (R335). -/
def summary (status : Nat) (flags : BitVec 5) (pcnt done : Nat) : Word :=
  BitVec.ofNat 64 (status * 2 ^ 61 + flags.toNat * 2 ^ 56 + min 65535 pcnt * 2 ^ 40 + done % 2 ^ 40)

/-- A command has ended: its summary is kept, and its completion is to be offered (R334, R335). -/
def endCommand (s : State) (g : CopyEngine) (m : CopyCmd) (w : Word) : CopyEngine :=
  { g with summaries := tput g.summaries m.kick w, ended := g.ended ++ [(complKey s m, w)] }

/-- The record of a closed batch (R372). -/
def batchBytes (tree : Nat) (b : Half × List Nat) : List Byte :=
  bytesOfNat 4 b.1.toNat ++ bytesOfNat 4 (tree * 256 + b.2.length) ++ List.replicate 8 0 ++
    (List.range 64).flatMap fun i => bytesOfNat 4 (b.2.getD i 0)

/-- The tile record (R344). -/
def tileBytes (u : Sub) (p : Prod) : List Byte :=
  bytesOfNat 8 (u.seq % 2 ^ 32 + p.tile % 2 ^ 20 * 2 ^ 32 + (if passEnds u then 2 ^ 62 else 0) + (if p.pois then 2 ^ 63 else 0))

/-! ## What each agent offers -/

def giveWant (slot : Nat) (ev : EvKey) (bs : List Byte) : Want := ⟨slot, ev, .give, some ⟨.none, bs.length, 0⟩, none, none, bs⟩
def takeWant (slot : Nat) (ev : EvKey) (r : Region) : Want := ⟨slot, ev, .take, none, some r, none, []⟩
def syncWant (slot : Nat) (ev : EvKey) : Want := ⟨slot, ev, .sync, none, none, none, []⟩

/-- The FIFO bank agents of a core (R189). -/
def fifoWants (s : State) (c : Nat) : List (LatchId × List Want) :=
  (s.core c).fifo.flatMap fun e => match e.2.bound with
    | none => []
    | some (n, size, d) =>
      [(fifoLatch s c e.1 false, if size ≤ fifoFree e.2 then [takeWant 0 (evKey s c n) ⟨.fifo, size, e.1⟩] else []),
       (fifoLatch s c e.1 true, if d ≠ 0 ∧ size ≤ fifoOcc e.2 then [syncWant 0 (evKey s c d)] else [])]

/-- The pool agents of a cluster (R196, R198). -/
def poolWants (s : State) (k : Nat) : List (LatchId × List Want) :=
  (s.cluster k).pools.flatMap fun e =>
    (poolLatch s k e.1,
      if e.2.en && e.2.tasks.any fun t => !t.2.intervals.isEmpty then
        [giveWant 0 ⟨homeNum s.dev (firstCore k), ename 3 k (0xFF00 + e.1)⟩ (List.replicate 48 0)] else []) ::
    e.2.tasks.map fun t =>
      (taskLatch s k e.1 t.1,
        if t.2.retired = t.2.hi.toNat - t.2.lo.toNat ∧ !t.2.refused then [syncWant 0 t.2.cevent] else [])

/-- A configured tree names the event as its batch event (R372). -/
def isBatchEvent (s : State) (k : Nat) (ev : EvKey) : Bool := (s.cluster k).trees.any fun t => t.2.bev == ev

/-- The kick events that a copy engine offers to take (R333). -/
def kickEvents (s : State) (k : Nat) : List EvKey :=
  let g := (s.cluster k).copy
  let busy := (g.queue ++ (match g.run with | some r => [r.cmd] | none => [])).map (kickKey s)
  (s.homes.filter fun h => isKick h.2.desc && (h.2.desc.parts.any fun p => samePart p (agentGid s k)) &&
    (h.2.desc.parts.any fun p => gidCtx p < 11) && !isBatchEvent s k h.1 && !g.refused.contains h.1 &&
    !busy.contains h.1).map (·.1)

/-- The copy engine's set of kicks, and its completions (R333, R334). -/
def copyWants (s : State) (k : Nat) : List (LatchId × List Want) :=
  let g := (s.cluster k).copy
  let held := g.queue.length + (if g.run.isSome then 1 else 0)
  let kicks := if held < 16 then (kickEvents s k).zipIdx.map fun e => takeWant e.2 e.1 ⟨.none, 32, 0⟩ else []
  let firsts := g.ended.foldl (fun t e => if t.any fun (f : EvKey × Word) => f.1 == e.1 then t else t ++ [e]) []
  (kickLatch s k, kicks) :: firsts.map fun e =>
    (complLatch s k e.1,
      if g.refused.contains e.1 then []
      else match s.home e.1 with
        | some h => if h.desc.mode = .channel then [giveWant 0 e.1 (bytesOfNat 8 e.2.toNat)] else [syncWant 0 e.1]
        | none => [syncWant 0 e.1])

/-- Cantle's batch offers (R372). -/
def batchWants (s : State) (k : Nat) : List (LatchId × List Want) :=
  (s.cluster k).trees.map fun t =>
    (batchLatch s k t.1, match t.2.closed with
      | b :: _ => if t.2.refused then [] else [giveWant 0 t.2.bev (batchBytes t.1 b)]
      | [] => [])

/-- The tile-walk agent of a subscription of a die (R344, R345). -/
def subWants (s : State) (d : Die) (e : Nat × Sub) : List (LatchId × List Want) :=
  let u := e.2
  let ev (i : Nat) : EvKey := ⟨homeNum s.dev u.core, u.pbase + i⟩
  [(permitLatch s u.core e.1, match heldTile d e.1 with
      | some p => if u.st = .running ∧ u.tile.isNone then [giveWant 0 (ev (u.seq % subSlots u)) (tileBytes u p)] else []
      | none => []),
   (passLatch s u.core e.1, if u.passPend then [syncWant 0 (ev 15)] else [])]

/-- The offers of a queue's thread (R471). -/
def queueWants (s : State) (e : Nat × Queue) : List (LatchId × List Want) :=
  e.2.offers.map fun o => (queueLatch s e.1 o.1, [syncWant 0 (evKey s (queueCore e.1) o.2.1)])

/-- Every agent's latch with what it should have armed. -/
def allWants (s : State) : List (LatchId × List Want) :=
  (s.cores.flatMap fun c => fifoWants s c.1) ++
    (s.clusters.flatMap fun k => poolWants s k.1 ++ copyWants s k.1 ++ batchWants s k.1) ++
    (s.dies.flatMap fun d => d.2.subs.flatMap (subWants s d.2)) ++ s.queues.flatMap (queueWants s)

/-- The kick set of every cluster in which an event lists the copy engine, though the cluster holds no other state. -/
def kickClusters (s : State) : List Nat :=
  s.homes.foldl (fun ks h =>
    if isKick h.2.desc then
      h.2.desc.parts.foldl (fun ks p => if gidCtx p = 11 ∧ gidDev p = s.dev then addOnce ks (clusterOf (gidCore p)) else ks) ks
    else ks) []

/-- What the agent with a latch should have armed. -/
def wantsOf (s : State) (l : LatchId) : List Want :=
  match (allWants s ++ ((kickClusters s).flatMap fun k => copyWants s k)).find? fun w => w.1 == l with
  | some w => w.2
  | none => []

/-- What a latch has armed is what is wanted. -/
def sameWants (m : Latch) (ws : List Want) : Bool :=
  m.offers.map (fun o => (o.1, o.2.dir, o.2.bytes)) == ws.map fun w => (w.ev, w.dir, w.bytes)

/-- Agents' latches whose armed set differs from what is wanted. A take service keeps the record it was given. -/
def staleAgents (s : State) : List LatchId :=
  let all := allWants s ++ ((kickClusters s).flatMap fun k => copyWants s k)
  let odd := s.latches.filterMap fun e =>
    if 11 ≤ gidCtx e.1.gid ∧ e.2.st = .armed ∧ !(all.any fun w => w.1 == e.1) then some e.1 else none
  (all.filterMap fun w =>
    let m := s.latch w.1
    if (m.st = .idle ∧ !w.2.isEmpty) ∨ (m.st = .armed ∧ !sameWants m w.2) then some w.1 else none) ++ odd

/-- Arms, re-arms or withdraws an agent's offers (R188). -/
def armAgent (s : State) (l : LatchId) : State :=
  let ws := wantsOf s l
  let m := s.latch l
  let s1 := if m.st = .armed ∧ !sameWants m ws then idleLatch s l else s
  if (s1.latch l).st = .idle ∧ !ws.isEmpty then armLatch s1 l false 0 0 ws else s1

/-! ## Occurrences and refusals -/

/-- Replaces an item of a table by a function of it. -/
def tupd {α : Type} (t : Tbl α) (k : Nat) (f : α → α) : Tbl α := match tfind t k with
  | some v => tput t k (f v)
  | none => t

/-- Drops the first item that has a key. -/
def dropKey (ev : EvKey) : List (EvKey × Word) → List (EvKey × Word)
  | [] => []
  | e :: t => if e.1 = ev then t else e :: dropKey ev t

/-- A delivery has been made (R344, R345, R351, R353). -/
def delivered (u : Sub) : Sub :=
  let ends := u.ends
  { u with
      seq := u.seq + 1, tile := none, ends := false, fresh := false, got := if subCyclic u then [] else u.tile.elim u.got (nadd u.got),
      passCount := if ends || u.fresh then 0 else u.passCount + 1,
      passPend := u.passPend || ends,
      passes := if ends && u.passPend then min 255 (u.passes + 1) else u.passes,
      st := if ends && !subCyclic u then .ended else u.st }

/-- The bytes that a latch gathered for an event. -/
def gathered (m : Latch) (ev : EvKey) : List Byte := match kfind m.offers ev with
  | some o => o.bytes
  | none => []

/-- What an occurrence of an agent's offer does; `bs` are the bytes it took. A command whose records are not both live at its kick
ends at once (R336). -/
def agentOccurred (s : State) (l : LatchId) (ev : EvKey) (bs : List Byte) : State :=
  let core := gidCore l.gid
  let k := clusterOf core
  let g := s.cluster k
  match gidCtx l.gid with
  | 11 =>
    if l.sub = 0 then
      let cmd := cmdOf bs
      let part := partNum (s.core (gidCore cmd.kicker))
      let kicked := { g.copy with summaries := tdel g.copy.summaries cmd.kick }
      let live := (layoutOf s (k / 12) part cmd.src).isSome && (layoutOf s (k / 12) part cmd.dst).isSome
      let copy := if live then { kicked with queue := kicked.queue ++ [cmd] }
        else endCommand s kicked cmd (summary 1 0 0 cmd.first)
      s.setCluster k { g with copy := copy }
    else if isBatchSub l.sub then
      s.setCluster k { g with trees := tupd g.trees (l.sub - 2 ^ 33) fun t => { t with closed := t.closed.drop 1 } }
    else s.setCluster k { g with copy := { g.copy with ended := dropKey ev g.copy.ended } }
  | 12 =>
    let d := s.die (coreDie core)
    s.setDie (coreDie core) { d with subs := tupd d.subs (l.sub / 2) fun u =>
      if l.sub % 2 = 0 then delivered u else { u with passPend := false } }
  | 13 =>
    if l.sub < 16 then s
    else
      let p := (l.sub - 16) / 64
      let q := s.pool k p
      s.setPool k p { q with tasks := tdel q.tasks ((l.sub - 16) % 64) }
  | 15 =>
    let q := s.queue (queueOf core)
    match q.offers.find? fun o => o.1 == l.sub with
    | none => s
    | some o =>
      s.setQueue (queueOf core)
        { q with offers := q.offers.filter (·.1 != l.sub),
                 recs := q.recs ++ (match o.2.2 with | some r => [r] | none => []) }
  | _ => s

/-- What a home's refusal of an agent's offer does (R229, R333, R334, R372, R471). -/
def agentRefused (s : State) (l : LatchId) (ev : EvKey) : State :=
  let core := gidCore l.gid
  let k := clusterOf core
  let g := s.cluster k
  match gidCtx l.gid with
  | 11 =>
    if isBatchSub l.sub then
      s.setCluster k { g with trees := tupd g.trees (l.sub - 2 ^ 33) fun t => { t with refused := true, berr := true } }
    else s.setCluster k { g with copy := { g.copy with refused := g.copy.refused ++ [ev] } }
  | 13 =>
    if l.sub < 16 then s
    else
      let p := (l.sub - 16) / 64
      let q := s.pool k p
      s.setPool k p { q with cerr := true, tasks := tupd q.tasks ((l.sub - 16) % 64) fun t => { t with refused := true } }
  | 15 =>
    let q := s.queue (queueOf core)
    match q.offers.find? fun o => o.1 == l.sub with
    | none => s
    | some o =>
      s.setQueue (queueOf core)
        { q with offers := q.offers.filter (·.1 != l.sub),
                 recs := q.recs ++ (match o.2.2 with | some r => [{ r with status := 8 }] | none => []) }
  | _ => s

/-- After an EVDEF the agents that were refused offer the event again. -/
def reoffer (s : State) (ev : EvKey) : State :=
  { s with clusters := s.clusters.map fun e =>
      (e.1, { e.2 with
        copy := { e.2.copy with refused := e.2.copy.refused.filter (· != ev) },
        trees := e.2.trees.map fun t => (t.1, if t.2.bev = ev then { t.2 with refused := false } else t.2),
        pools := e.2.pools.map fun p => (p.1, { p.2 with tasks := p.2.tasks.map fun t =>
          (t.1, if t.2.cevent = ev then { t.2 with refused := false } else t.2) }) }) }

end Sys2Proof.Machine
end

