-- ==== Sys2Proof/Machine/Mailbox.lean ====
section
/-!
DEFINITION. The mailboxes (01_one_core.md R35, R36; 04_control_instructions.md R123, R124).
-/

namespace Sys2Proof.Machine

open Sys2Proof

def mbFullAt (k : Core) (n : Nat) : Bool := k.mbFull.getLsbD n

/-- Fills a mailbox. -/
def mbFill (k : Core) (n : Nat) (v : Word) : Core :=
  { k with mb := if h : n < 8 then k.mb.set n v else k.mb, mbFull := k.mbFull ||| ((1 : BitVec 8) <<< n) }

/-- Empties a mailbox; its value stays. -/
def mbEmpty (k : Core) (n : Nat) : Core :=
  { k with mbFull := k.mbFull &&& ~~~((1 : BitVec 8) <<< n), peeked := k.peeked &&& ~~~((1 : BitVec 8) <<< n) }

def mbValue (k : Core) (n : Nat) : Word := if h : n < 8 then k.mb[n] else 0

/-- MBW: writes an empty mailbox, or waits for it to be empty. -/
def execMbw (n : BitVec 3) (rs1 : Reg) (s : State) : Ans :=
  .next (
    if mbFullAt s.myCore n.toNat then s.hold (.mbw n.toNat (xread s.me rs1))
    else (s.setMyCore (mbFill s.myCore n.toNat (xread s.me rs1))).pass (.mbw n rs1))

/-- MBR: reads a full mailbox and empties it, or waits for it to be full. -/
def execMbr (rd : Reg) (n : BitVec 3) (s : State) : Ans :=
  .next (
    if mbFullAt s.myCore n.toNat then
      (s.setMyCore (mbEmpty s.myCore n.toNat)).ret (.mbr rd n) rd (mbValue s.myCore n.toNat)
    else s.hold (.mbr n.toNat rd))

/-- MBQ: the full bit, an input of the replay log (R435). -/
def execMbq (rd : Reg) (n : BitVec 3) (s : State) : Ans :=
  .next (
    if s.replayFull s.cur.1 then s.hold .replay
    else
      let r := s.input s.cur.1 s.cur.2 4 (if mbFullAt s.myCore n.toNat then 1 else 0)
      r.2.ret (.mbq rd n) rd r.1)

/-- MBW_COMPLETE: a waiting MBW finds its mailbox empty. -/
def execMbwComplete (core ctx : Nat) (s : State) : Ans :=
  .next (
    match (s.ctx core ctx).wait with
    | .mbw n v =>
      if mbFullAt (s.core core) n then s
      else (s.setCore core (mbFill (s.core core) n v)).updCtx core ctx fun k => { advance k 4 with wait := .none }
    | _ => s)

/-- MBR_COMPLETE: a waiting MBR finds its mailbox full. -/
def execMbrComplete (core ctx : Nat) (s : State) : Ans :=
  .next (
    match (s.ctx core ctx).wait with
    | .mbr n rd =>
      if mbFullAt (s.core core) n then
        (s.setCore core (mbEmpty (s.core core) n)).updCtx core ctx fun k =>
          { advance (xwrite k rd (mbValue (s.core core) n)) 4 with wait := .none }
      else s
    | _ => s)

end Sys2Proof.Machine
end

