-- ==== Sys2Proof/Machine/Events.lean ====
section
/-!
DEFINITION. The events of homes and latches: what each message of the event protocol does where it arrives (R178,
R181), the landing of payloads (R175, R176, R185, R189), and how a wait ends (R206, R208, R209, R218, R219).
-/

namespace Sys2Proof.Machine

open Sys2Proof

/-! ## Homes (R181) -/

/-- One offer arrives; `time` is the cycle of its arrival (R234). -/
def offerArrives (s : State) (home : Nat) (o : OfferMsg) (time : Nat) : State :=
  let ev : EvKey := ⟨home, o.name⟩
  let refuse (why : Nat) : State := s.send (.latchRefusal o.latch ev o.arm why)
  match s.entry ev with
  | none => refuse 1
  | some h =>
    if isTakeName o.name ∧ gidCtx o.latch.gid ≠ 13 then
      let kp := takePool o.name
      let q := s.pool kp.1 kp.2
      if !(isCtxLatch o.latch && gidDev o.latch.gid == s.dev && clusterOf (gidCore o.latch.gid) == kp.1) then refuse 2
      else if !(o.dir == .take && regionLen o.take == 48) ||
          (q.takes ++ h.offers).any (fun p => p.latch == o.latch) then refuse 3
      else
        let s1 := s.setPool kp.1 kp.2 { q with takes := q.takes ++ [o] }
        tryEnable s1 ev h time
    else
      let why := offerWhy h o
      if why ≠ 0 then refuse why else tryEnable s ev { h with offers := h.offers ++ [o] } time

/-- The offers of one arming arrive in consecutive cycles (R233). -/
def offersArrive (home : Nat) : List OfferMsg → Nat → State → State
  | [], _, s => s
  | o :: os, t, s => offersArrive home os (t + 1) (offerArrives s home o t)

/-- A participant of an occurrence that is still in COMMIT offers the event anew. DESIGN CHOICE (log 25): the table of R181 has no row for such an
offer; what arrived with it is handled when the event has left COMMIT, and an offer of it is not counted before (R235). -/
def offersWait (s : State) (home : Nat) (os : List OfferMsg) : Bool :=
  os.any fun o => match s.entry ⟨home, o.name⟩ with
    | some h => h.st == .commit && h.offers.any fun q => samePart q.latch.gid o.latch.gid
    | none => false

def execHomeOfferArrives (home : Nat) (offers : List OfferMsg) (s : State) : Ans :=
  .next (if offersWait s home offers then s.send (.homeOfferArrives home offers) else offersArrive home offers s.time.toNat s)

/-- Takes one late claim off the list. -/
def dropLate (q : LatchId × Nat) : List (LatchId × Nat) → List (LatchId × Nat)
  | [] => []
  | p :: t => if p = q then t else p :: dropLate q t

/-- The claim in flight is this one. -/
def isClaimed (h : Home) (l : LatchId) (arm : Nat) : Bool := match claimed h with
  | some o => o.latch == l && o.arm == arm
  | none => false

/-- HOME_GRANT: the next claim, or the end of the claims; a grant of a claim given up is released. -/
def execHomeGrant (ev : EvKey) (l : LatchId) (arm : Nat) (s : State) : Ans :=
  .next (
    match s.entry ev with
    | none => s.send (.latchRelease l ev arm)
    | some h =>
      if h.late.contains (l, arm) then
        (s.setHome ev { h with late := dropLate (l, arm) h.late }).send (.latchRelease l ev arm)
      else if !isClaimed h l arm then s.send (.latchRelease l ev arm)
      else
        let os := claimOrder h.offers
        let i := h.granted.length + 1
        let h1 := { h with granted := h.granted ++ [l], st := .claiming i }
        match os[i]?, h.stamp with
        | some o, some st => (s.setHome ev h1).send (.latchClaim o.latch ev o.arm st)
        | _, _ => tryCommit s ev h1)

/-- HOME_REFUSAL: BACKOFF. -/
def execHomeRefusal (ev : EvKey) (l : LatchId) (arm : Nat) (s : State) : Ans :=
  .next (
    match s.entry ev with
    | none => s
    | some h =>
      if h.late.contains (l, arm) then s.setHome ev { h with late := dropLate (l, arm) h.late }
      else if isClaimed h l arm then backOff s ev h []
      else s)

/-- HOME_WOUND_REQUEST: a home that is still claiming gives its claims up; one in COMMIT does not. -/
def execHomeWoundRequest (ev : EvKey) (l : LatchId) (arm : Nat) (s : State) : Ans :=
  .next (
    match s.entry ev with
    | none => s
    | some h =>
      match h.st with
      | .claiming _ =>
        if h.granted.contains l && h.offers.any fun o => o.latch == l && o.arm == arm then backOff s ev h (lateClaim h) else s
      | _ => s)

/-- HOME_WITHDRAWAL, or "offer missing". -/
def withdrawOne (ev : EvKey) (l : LatchId) (arm : Nat) (commit : Bool) (s : State) : State :=
  match s.entry ev with
  | none => s
  | some h =>
    match h.offers.find? fun o => o.latch == l && o.arm == arm with
    | some o => if h.st = .commit then s else withdrawAt s ev h o commit
    | none =>
      let s1 := s.setHome ev { h with late := dropLate (l, arm) h.late }
      if isTakeName ev.name then
        let kp := takePool ev.name
        let q := s1.pool kp.1 kp.2
        if q.takes.any fun o => o.latch == l && o.arm == arm then
          s1.setPool kp.1 kp.2 { q with takes := q.takes.filter fun o => !(o.latch == l && o.arm == arm) }
        else s1
      else s1

def execHomeWithdrawal (ev : EvKey) (l : LatchId) (arm : Nat) (commit : Bool) (s : State) : Ans := .next (withdrawOne ev l arm commit s)

/-- HOME_RETRY_TIME: CLAIMING again with the same stamp, all offers being present; a spilled event waits for a poll (R186). -/
def execHomeRetryTime (ev : EvKey) (s : State) : Ans :=
  .next (
    match s.entry ev with
    | none => s
    | some h =>
      match h.st, h.stamp with
      | .backoff, some st => if allPresent h && !h.spilled then startClaims s ev h st else s
      | _, _ => s)

/-! ## The routers' counts (R191, R192) -/

/-- Completed traffic with another router leaves something in a router's count. -/
def edgeAdd (s : State) (c peer : Nat) (n : Int) : State :=
  s.updCore c fun k => { k with edge := tput k.edge peer (tget 0 k.edge peer + n) }

/-- A router receives a payload or a kick: its count falls, and its activity bit is set. -/
def receive (s : State) (c : Nat) (giver : Gid) : State :=
  let s1 := s.updCore c fun k => { k with sent := k.sent - 1, active := true }
  if gidDev giver = s.dev then edgeAdd (edgeAdd s1 c (gidCore giver) (-1)) (gidCore giver) c 1 else edgeAdd s1 c outside (-1)

/-- HOME_DELIVERY_CONFIRMED: the last one ends the occurrence. -/
def execHomeDeliveryConfirmed (ev : EvKey) (l : LatchId) (_arm : Nat) (s : State) : Ans :=
  .next (
    match s.entry ev with
    | none => s
    | some h =>
      if h.st ≠ .commit then s
      else
        let s1 := if h.desc.mode = .reduce ∧ h.desc.size ≠ 0 ∧ gidDev l.gid ≠ s.dev then edgeAdd s (homeCore ev.home) outside 1 else s
        let n := (kfind h.due l).getD 0
        let due := if n ≤ 1 then kdel h.due l else kput h.due l (n - 1)
        if due.isEmpty then finishOccurrence s1 ev { h with due := due } else s1.setHome ev { h with due := due })

/-! ## How a wait ends (R206, R208, R209, R218) -/

/-- How the wait on a latch ends without an occurrence. -/
inductive WaitEnd where
  /-- The limit, with WAIT_LIMIT's value as read at the expiry. -/
  | expiry (v : Word)
  | spill
  | refusal (name hi : Nat)
  /-- An asynchronous cause is taken in place of the return (R208). -/
  | cause
  deriving DecidableEq, Repr

/-- A set of slots as bits. -/
def slotBits (ns : List Nat) : Nat := (ns.map (2 ^ ·)).foldl (· + ·) 0

/-- The FIFO fields of WAIT_LIMIT's value, from the lowest slot whose event a FIFO bank agent takes part in (R206). Whether an event that is
homed on another device lists such an agent is free, slot by slot, and so are the bank and the registers of one that it lists, and of an agent
that has no bank bound (log 26). -/
def waitFifo (s : State) (os : List (EvKey × OfferMsg)) : Nat :=
  let free := (Config.remoteFifo s.draws).toNat
  (os.findSome? fun o =>
    match s.home o.1 with
    | none =>
      if homeDev o.1.home = s.dev ∨ nbit (Config.remoteFifo (s.draws + 1 + o.2.slot)).toNat 0 = false then none
      else some (2 ^ 16 + o.2.slot * 2 ^ 17 + free / 16 * 2 ^ 20)
    | some h =>
      (h.desc.parts.find? fun p => gidCtx p == 14).map fun p =>
        let bank := if gidDev p = s.dev then (s.core (gidCore p)).fifo.find? fun f => f.2.bound.isSome else none
        2 ^ 16 + o.2.slot * 2 ^ 17 + (match bank with
          | some f => f.1 * 2 ^ 20 + bits f.2.head.toNat 0 16 * 2 ^ 25 + bits f.2.tail.toNat 0 16 * 2 ^ 41
          | none => free / 16 * 2 ^ 20)).getD 0

/-- WAIT_LIMIT's value (R206). -/
def waitValue (s : State) (m : Latch) : Word :=
  BitVec.ofNat 64 (slotBits (m.offers.map (·.2.slot)) +
    256 * slotBits (m.offers.filterMap fun o => if (kfind m.notices o.1).isSome then some o.2.slot else none) +
    waitFifo s m.offers)

/-- A SELECT returns: the index, an input of the replay log where it is NONE (R218, R435). -/
def selectReturns (s : State) (c x : Nat) (rd : Reg) (len i : Nat) : State :=
  let r := if i = 15 then s.input c x 4 15 else (BitVec.ofNat 64 i, s)
  r.2.updCtx c x fun k =>
    { advance (xwrite k rd r.1) len with evsel := r.1.setWidth 4, wait := .none, relDone := false,
                                         staged := if i = 15 then k.staged else [] }

/-- The wait of a context ends without an occurrence. -/
def contextEnds (s : State) (c x : Nat) (e : WaitEnd) : State :=
  match e with
  | .cause => s.wake c x
  | .refusal name hi => s.trapAt c x (cause 0x10 (BitVec.ofNat 64 (hi * 2 ^ 32 + name)))
  | .spill => match (s.ctx c x).wait with
    | .select _ rd len => selectReturns s c x rd len 15
    | _ => s
  | .expiry v => match (s.ctx c x).wait with
    | .select t rd len => if t then s.trapAt c x (cause 0x11 v) else selectReturns s c x rd len 15
    | _ => s

/-- The exchange sequencer withdraws the offers of its step that have not occurred (R220). -/
def withdrawExchange (s : State) (c : Nat) : State :=
  match (s.core c).exch with
  | none => s
  | some x => x.left.foldl (fun t i =>
      let l := exchLatch s c i
      match (t.latch l).st with
      | .armed => idleLatch t l
      | .claimed _ _ => t.setLatch l { t.latch l with expPend := true }
      | _ => t) s

/-- The latch goes IDLE and the wait it served ends. -/
def endLatch (s : State) (l : LatchId) (e : WaitEnd) : State :=
  let s1 := idleLatch s l
  if !isCtxLatch l then s1
  else if l.sub % 16 ≠ 0 then s1
  else
    let s2 := match e with
      | .refusal _ hi => if 256 ≤ hi then withdrawExchange s1 (gidCore l.gid) else s1
      | _ => s1
    contextEnds s2 (gidCore l.gid) (gidCtx l.gid) e

/-- What waits behind a claim or a stop: a refusal, an expiry, or an asynchronous cause. -/
def pendingEnd (m : Latch) : Option WaitEnd :=
  match m.refusal with
  | some (n, hi) => some (.refusal n hi)
  | none => if m.expPend then some (.expiry m.expVal) else if m.causePend then some .cause else none

/-! ## Latches (R178) -/

/-- The message concerns the latch's present arming and one of its offers. -/
def latchHas (m : Latch) (ev : EvKey) (arm : Nat) : Bool := m.arm == arm && (kfind m.offers ev).isSome

def execLatchEnableNotice (l : LatchId) (ev : EvKey) (arm : Nat) (st : Stamp) (s : State) : Ans :=
  .next (
    let m := s.latch l
    if latchHas m ev arm && m.st != .idle then s.setLatch l { m with notices := kput m.notices ev st } else s)

def execLatchCancel (l : LatchId) (ev : EvKey) (arm : Nat) (s : State) : Ans :=
  .next (
    let m := s.latch l
    if latchHas m ev arm then s.setLatch l { m with notices := kdel m.notices ev } else s)

/-- The latch of a replayed context grants only the next commit its log lists, and none while the log holds an input or a trap of the waiting
context before it (R436). -/
def logGrants (s : State) (l : LatchId) (m : Latch) (ev : EvKey) : Bool :=
  if !isCtxLatch l || l.sub < 16 then true
  else match tfind s.wgs (l.sub / 16 - 1) with
    | some w => decide (w.mode ≠ .replay) || (nextCommit (fun e => (kfind m.offers e).isSome) w.log == some ev &&
        (l.sub % 16 != 0 || !latchNow s l || waitItem s (gidCore l.gid) (gidCtx l.gid) == some (.commit ev)))
    | none => true

/-- A recorded notice for another offer ranks above a stamp. -/
def outranked (m : Latch) (ev : EvKey) (st : Stamp) : Bool := m.notices.any fun n => n.1 != ev && stampAbove n.2 st

def execLatchClaim (l : LatchId) (ev : EvKey) (arm : Nat) (st : Stamp) (s : State) : Ans :=
  .next (
    let m := s.latch l
    let missing := s.send (.homeWithdrawal ev l arm false)
    let refuse := s.send (.homeRefusal ev l arm)
    if !latchHas m ev arm then missing
    else match m.st with
      | .idle => missing
      | .committed _ => missing
      | .dormant => refuse
      | .armed =>
        if outranked m ev st || !logGrants s l m ev then refuse
        else (s.setLatch l { m with st := .claimed ev st }).send (.homeGrant ev l arm)
      | .claimed e t =>
        if !logGrants s l m ev || e == ev then refuse
        else match m.wound with
          | none =>
            if stampAbove st t then (s.setLatch l { m with wound := some (ev, st) }).send (.homeWoundRequest e l m.arm) else refuse
          | some (f, u) =>
            if stampAbove st u then (s.setLatch l { m with wound := some (ev, st) }).send (.homeRefusal f l m.arm) else refuse)

def execLatchRelease (l : LatchId) (ev : EvKey) (arm : Nat) (s : State) : Ans :=
  .next (
    let m := s.latch l
    match m.st with
    | .claimed e _ =>
      if e ≠ ev ∨ m.arm ≠ arm then s
      else match m.wound with
        | some (f, t) => (s.setLatch l { m with st := .claimed f t, wound := none }).send (.homeGrant f l m.arm)
        | none =>
          if m.stopPend then s.setLatch l { m with st := .dormant, stopPend := false }
          else match pendingEnd m with
            | some e => endLatch (s.setLatch l { m with st := .armed }) l e
            | none => s.setLatch l { m with st := .armed }
    | _ => s)

/-! ## Payloads (R173, R175, R176) -/

/-- ACC as 4,096 bytes, and back. -/
def accBytes (a : Acc) : List Byte := a.lanes.flatMap fun v => bytesOfNat 4 v.toNat
def accOf (a : Acc) (bs : List Byte) : Acc :=
  { a with lanes := (List.range 1024).map fun i => BitVec.ofNat 32 (field bs (4 * i) 4) }

/-- Bytes written into ACC; the status words of the rows written are set to zero (R175). -/
def accLand (a : Acc) (off : Nat) (bs : List Byte) : Acc :=
  let old := accBytes a
  let b := accOf a (old.take off ++ bs ++ old.drop (off + bs.length))
  { b with st := (List.range 16).map fun r =>
      if off / 256 ≤ r ∧ r ≤ (off + bs.length - 1) / 256 then 0 else a.st.getD r 0 }

/-- The bytes of one delivery, read from the giver's region (R175). -/
def givenBytes (s : State) (l : LatchId) (ev : EvKey) (src n : Nat) : List Byte :=
  let c := gidCore l.gid
  match kfind (s.latch l).offers ev with
  | none => []
  | some o =>
    match o.copy with
    | some cmd => ((cmdBytes cmd).drop src).take n
    | none =>
      match o.give with
      | some ⟨.scratch, _, place⟩ => locRead s c (place + src) n
      | some ⟨.acc, _, place⟩ => ((accBytes (s.core c).wide.acc).drop (256 * place + src)).take n
      | _ => (o.bytes.drop src).take n

/-- What a tile does where it lands: OPERAND banks take its format as their tag (R341). -/
def placeTile (s : State) (c : Nat) (h : HeldTile) : State :=
  let t := watchBank (locWrite s c h.place h.data) c h.place h.data.length (gidOf s.dev h.binder 12) .engine none
  match h.tag with
  | some f => t.updCore c fun k => { k with tags := (banksOf h.place h.data.length).foldl (fun g b => tput g b f) k.tags }
  | none => t

/-- The core runs what a held tile is for; a resident pair's banks stay in place (R406). -/
def tileNow (k : Core) (h : HeldTile) : Bool := h.wg == 0 || h.wg == wgTag k || k.parked.any fun m => m.wg + 1 == h.wg

/-- Whether the router of a core holds a tile (R185, R330). -/
def routerHoldsTile (k : Core) (h : HeldTile) : Bool := k.run == .halted || k.run == .stopped || !tileNow k h

/-- A tile as it goes to a core of a subscription: for the binder's workgroup where the core is one of its own. -/
def tileFor (s : State) (u : Sub) (c : Nat) (bs : List Byte) : HeldTile :=
  let own : Bool := match u.wg with
    | 0 => false
    | n + 1 => (tfind s.wgs n).any fun w => w.cores.contains c
  ⟨if own then u.wg else 0, u.core, tileLand u, bs, if nbit (field u.desc 24 4) 5 then some u.fmt else none⟩

/-- A tile lands in its slot of every core of the set (R340, R344, R346), or at the router of one that stands still. -/
def landTile (s : State) (u : Sub) (bs : List Byte) : State :=
  (tileCores u).foldl (fun t c =>
    let h := tileFor t u c bs
    if routerHoldsTile (t.core c) h then t.updCore c fun k => { k with tiles := k.tiles ++ [h] } else placeTile t c h) s

/-- What the tile-walk agent does at its LATCH_COMMIT: the tile that MCAST has taken at the home's commit goes to its landings. Where the
home is on another device, MCAST takes it now (log 26). -/
def commitTile (s : State) (l : LatchId) : State :=
  if gidCtx l.gid ≠ 12 ∨ l.sub % 2 ≠ 0 then s
  else
    let t := takeTile s l
    let die := coreDie (gidCore l.gid)
    let d := t.die die
    match tfind d.subs (l.sub / 2) with
    | some u => (match u.lands with
      | some bs => (landTile t u bs).setDie die { d with subs := tput d.subs (l.sub / 2) { u with lands := none } }
      | none => t)
    | none => t

/-- The device a payload goes to. -/
def payloadDev (s : State) : Instr → Nat
  | .payloadLanding _ l _ _ _ _ => gidDev l.gid
  | _ => s.dev

/-- The same bytes for several takers of one other device: one message, which that device's routers copy on (R451). It is addressed to
the first taker's core, under the number 0xFFFE. -/
def oncePerDevice (s : State) : List Instr → List Instr
  | .payloadLanding ev l arm dst data who :: t =>
    let rest := oncePerDevice s t
    let same := rest.filter fun i => payloadDev s i == gidDev l.gid
    if gidDev l.gid = s.dev ∨ same.isEmpty then .payloadLanding ev l arm dst data who :: rest
    else .payloadLanding ev { l with sub := 0xFFFE } 0 dst data who :: rest.filter fun i => payloadDev s i != gidDev l.gid
  | i :: t => i :: oncePerDevice s t
  | [] => []

/-- The takers of a committed occurrence on this device. -/
def takersHere (s : State) (ev : EvKey) : List (LatchId × Nat) :=
  s.latches.filterMap fun e =>
    let on := match e.2.st with
      | .claimed v _ => v == ev
      | .committed v => v == ev
      | _ => false
    if gidDev e.1.gid == s.dev && on && (e.2.offers.any fun o => o.1 == ev && o.2.take.isSome) then some (e.1, e.2.arm) else none

/-- A payload for several takers has come from another device: the router it has come to copies it on to each (R451). -/
def copyOn (ev : EvKey) (l : LatchId) (dst : Nat) (data : List Byte) (who : Gid) (s : State) : State :=
  let ts := takersHere s ev
  let s1 := edgeAdd (s.updCore (gidCore l.gid) fun k => { k with sent := k.sent - 1 + ts.length, active := true }) (gidCore l.gid) outside
    ((ts.length : Int) - 1)
  s1.sendAll (ts.map fun t => .payloadLanding ev t.1 t.2 dst data who)

/-- LATCH_COMMIT: the other offers are withdrawn, a pending wound is answered "offer missing", and what the participant
gives is read once and sent. Where it neither gives nor takes a byte, its result is there at once (R182); where nobody takes what it gives
(a BCAST to its ROOT alone), the commit is all that the home waits for. -/
def execLatchCommit (l : LatchId) (ev : EvKey) (arm : Nat) (told : CommitMsg) (s : State) : Ans :=
  .next (
    let m := s.latch l
    match m.st with
    | .claimed e _ =>
      if e ≠ ev ∨ m.arm ≠ arm then s
      else
        let s1 := commitTile (withdrawOffers s l (some ev) true) l
        let all := told.gives.map fun g => Instr.payloadLanding ev g.taker g.arm g.dst (givenBytes s l ev g.src g.len) l.gid
        let sent := if told.copied then oncePerDevice s all else all
        let s2 := if sent.isEmpty then s1 else s1.updCore (gidCore l.gid) fun k => { k with sent := k.sent + sent.length }
        let done : List Instr := if (kfind m.offers ev).any bare then
            [.homeDeliveryConfirmed ev l arm, .latchLastPayloadDelivered l ev arm]
          else if told.void then [.homeDeliveryConfirmed ev l arm] else []
        (s2.setLatch l { m with st := .committed ev, offers := m.offers.filter (·.1 == ev), notices := [], wound := none,
                                expPend := false, stopPend := false, refusal := none, pollAt := none, sole := told.sole,
                                gave := (sent.filter fun i => payloadDev s i != s.dev).length }).sendAll (sent ++ done)
    | _ => s)

/-- The whole of the pieces of a payload, in order of their offsets, once they are `n` bytes. -/
def assemble (n : Nat) (ps : List (Nat × List Byte)) : Option (List Byte) :=
  if (ps.map (·.2.length)).foldl (· + ·) 0 < n then none
  else some ((ps.foldl (fun t p => tput t p.1 p.2) ([] : Tbl (List Byte))).flatMap (·.2))

/-- Appends bytes at the tail of a FIFO bank, round its ring (R189, R278). -/
def fifoAppend (s : State) (c b : Nat) (bs : List Byte) (who : Gid) : State :=
  let f := tget FifoBank.reset (s.core c).fifo b
  let pos := f.tail.toNat % 65536
  let first := bs.take (65536 - pos)
  let rest := bs.drop (65536 - pos)
  let put (t : State) (a : Nat) (d : List Byte) : State :=
    if d.isEmpty then t else watchBank (locWrite t c a d) c a d.length who .landing none
  let s1 := put (put s (b * 65536 + pos) first) (b * 65536) rest
  s1.updCore c fun k => { k with fifo := tput k.fifo b (f.moveTail s.cycle bs.length) }

/-- A payload has landed at a participant: its home is told, and the participant itself where it was the only one (R176). -/
def confirmLanding (s : State) (ev : EvKey) (l : LatchId) (arm : Nat) : State :=
  let m := s.latch l
  let own := m.sole && m.st == .committed ev && m.arm == arm
  s.sendAll (.homeDeliveryConfirmed ev l arm :: if own then [.latchLastPayloadDelivered l ev arm] else [])

/-- Bytes land at a participant: in its region, in a mailbox through a deposit, or with its agent. What a router has held back fills an
empty mailbox at once (R185): `now`. -/
def landBytes (s : State) (now : Bool) (ev : EvKey) (l : LatchId) (arm off : Nat) (data : List Byte) (who : Gid) : State :=
  let c := gidCore l.gid
  let m := s.latch l
  let done (t : State) : State := confirmLanding t ev l arm
  match kfind m.offers ev with
  | none => done s
  | some o =>
    let gather (k : State → List Byte → State) : State :=
      let ps := o.got ++ [(off, data)]
      let put (q : OfferMsg) : State := s.setLatch l { m with offers := kput m.offers ev q }
      match assemble (regionLen o.take) ps with
      | none => done (put { o with got := ps })
      | some bs => k (put { o with got := ps, bytes := bs }) bs
    match o.take with
    | some ⟨.scratch, _, place⟩ =>
      done (watchBank (locWrite s c (place + off) data) c (place + off) data.length who .landing none)
    | some ⟨.acc, _, place⟩ =>
      done (s.updCore c fun k => { k with wide := { k.wide with acc := accLand k.wide.acc (256 * place + off) data } })
    | some ⟨.fifo, _, b⟩ => done (fifoAppend s c b data who)
    | some ⟨.mailbox, _, n⟩ => gather fun t bs =>
      if now && !mbFullAt (t.core c) n then done (t.setCore c (mbFill (t.core c) n (wordOf bs)))
      else t.send (.mailboxDeposit c n (wordOf bs) ev l arm)
    | some ⟨.none, _, _⟩ => gather fun t _ => done t
    | none => done s

/-- Whether the core of a participant is stopped, so that its router queues payloads (R185). -/
def routerHolds (s : State) (l : LatchId) : Bool :=
  let k := s.core (gidCore l.gid)
  isCoreLatch l && (k.run == .halted || k.run == .stopped || !landsNow s l)

/-- Bytes that a router holds. -/
def heldBytes (k : Core) : Nat := (k.held.map (·.data.length) ++ k.tiles.map (·.data.length)).foldl (· + ·) 0

/-- The flags of a REDUCE go to the context that takes its result (R174). -/
def landFlags (s : State) (l : LatchId) (f : Nat) : State :=
  if f = 0 ∨ !isCtxLatch l then s
  else s.updCtx (gidCore l.gid) (gidCtx l.gid) fun k => k.orFlags s.cycle (BitVec.ofNat 5 f)

/-- Who gave the bytes of a landing: of a REDUCE, its participants at their home here. -/
def giversOf (s : State) (h : Held) : List Gid := match s.entry h.ev with
  | some e => if e.desc.mode = .reduce then e.desc.parts else [h.giver]
  | none => [h.giver]

/-- A landing at a context or in a FIFO bank comes from a context of another workgroup or device (R435 kind 6). -/
def fromOutside (s : State) (h : Held) : Bool :=
  (isCtxLatch h.l || gidCtx h.l.gid == 14) && (giversOf s h).any fun g => gidDev g != s.dev || (gidCtx g < 11 &&
    (s.core (gidCore g)).wg != (s.core (gidCore h.l.gid)).wg)

/-- A landing at its place: the offset and flags as REDUCE sends them. Data from outside a replayed workgroup is logged, in a FIFO bank as
its agent's. -/
def landPayload (now : Bool) (s : State) (h : Held) : State :=
  let r := if fromOutside s h then dataInput s (gidCore h.l.gid) (gidCtx h.l.gid) (h.dst % 65536) h.data else (h.data, s)
  landBytes (landFlags r.2 h.l (h.dst / 65536)) now h.ev h.l h.arm (h.dst % 65536) r.1 h.giver

/-- The gives of a REDUCE come together at the home (R173, R174). -/
def reduceArrives (s : State) (ev : EvKey) (data : List Byte) (giver : Gid) : State :=
  match s.entry ev with
  | none => s
  | some h =>
    let gs := h.reduce ++ [(⟨giver, 0⟩, data)]
    if gs.length < h.offers.length then s.setHome ev { h with reduce := gs }
    else
      let order := h.desc.parts.filterMap fun p => (gs.find? fun g => samePart p g.1.gid).map (·.2)
      let r := reduceBytes h.desc order
      let os := claimOrder h.offers
      let s1 := s.updCore (homeCore ev.home) fun k => { k with sent := k.sent + os.length }
      (s1.setHome ev { h with reduce := gs, due := os.map fun o => (o.latch, 1) }).sendAll
        (os.map fun o => .payloadLanding ev o.latch o.arm (65536 * r.2.toNat) r.1 (homeLatch ev).gid)

/-- PAYLOAD_LANDING: at the home of a REDUCE, or at a taker; the router of a stopped core queues up to 16 KiB and holds
the rest back. -/
def execPayloadLanding (ev : EvKey) (l : LatchId) (arm dst : Nat) (data : List Byte) (giver : Gid) (s : State) : Ans :=
  .next (
    let c := gidCore l.gid
    let got := receive s c giver
    if l.sub = 0xFFFF then reduceArrives got ev data giver
    else if l.sub = 0xFFFE then copyOn ev l dst data giver s
    else if routerHolds s l then
      if heldBytes (s.core c) + data.length ≤ 16384 then
        got.updCore c fun k => { k with held := k.held ++ [⟨ev, l, arm, dst, data, giver⟩] }
      else s.send (.payloadLanding ev l arm dst data giver)
    else landPayload false got ⟨ev, l, arm, dst, data, giver⟩)

/-- The queued payloads and tiles of what the core now runs land (R185, R330, R405). -/
def landHeld (s : State) (c : Nat) : State :=
  let k := s.core c
  let now := k.held.filter fun h => landsNow s h.l
  let s1 := (k.tiles.filter (tileNow k)).foldl (fun t h => placeTile t c h) s
  now.foldl (landPayload true) (s1.updCore c fun k =>
    { k with held := k.held.filter fun h => !landsNow s h.l, tiles := k.tiles.filter fun h => !tileNow k h })

/-- The routers of a subscription's stopped cores have room for its tile: past 16 KiB the sender waits (R185). -/
def tileRoom (s : State) (l : LatchId) : Bool :=
  gidCtx l.gid != 12 || l.sub % 2 != 0 || match tfind (s.die (coreDie (gidCore l.gid))).subs (l.sub / 2) with
    | some u => (tileCores u).all fun c =>
        let n := (u.lands.getD []).length
        !routerHoldsTile (s.core c) (tileFor s u c []) || heldBytes (s.core c) + n ≤ 16384
    | none => true

/-- MAILBOX_DEPOSIT: it fills an empty mailbox, and its payload has landed (R35, R176); else it tries again. -/
def execMailboxDeposit (core mb : Nat) (v : Word) (ev : EvKey) (l : LatchId) (arm : Nat) (s : State) : Ans :=
  .next (
    if mbFullAt (s.core core) mb || routerHolds s l then s.send (.mailboxDeposit core mb v ev l arm)
    else confirmLanding (s.setCore core (mbFill (s.core core) mb v)) ev l arm)

/-! ## The occurrence returns (R178, R218-R221) -/

/-- The gang's fast-path event occurs at its control context: MMUL's gang issue is counted from here (R221, R242). -/
def gangCounts (s : State) (c x : Nat) (ev : EvKey) : State :=
  if x = 0 ∧ isGangName ev.name then
    s.updCore c fun k => { k with wide := { k.wide with gangE := k.wide.gangE + 1, gangJ := 0 } }
  else s

/-- Bytes that a waiting context moves past when its event occurs; before its first phase occurrence a control context stays at its entry
(R199). -/
def waitBytes (ex : Option Exchange) : Wait → Nat
  | .select _ _ len => len
  | .gang => 4
  | .phase _ => if ex.any (·.past) then 4 else 0
  | _ => 0

/-- The instruction that waited has its result: of the core's plan and the context. `past` where the saved PC lies after it already
(R178). -/
def returned (past : Bool) (slot : Nat) (ex : Option Exchange) (k : Ctx) : Option Exchange × Ctx :=
  let v : Ctx := { advance k (if past then 0 else waitBytes ex k.wait) with wait := .none, relDone := false, backoff := 0 }
  match k.wait with
  | .select _ rd _ => (ex, { xwrite v rd (BitVec.ofNat 64 slot) with evsel := BitVec.ofNat 4 slot, staged := [] })
  | .gang => (ex, v)
  | .phase rd => match ex with
    | none => (ex, { k with backoff := 0 })
    | some e =>
      if !e.past then (some { e with past := true }, v)
      else (some { e with step := (e.step + 1) % max e.nstep 1, running := false, left := [] },
        xwrite v rd (BitVec.ofNat 64 e.step))
  | _ => (ex, { k with backoff := 0 })

/-- The instruction that waited returns. -/
def contextReturns (s : State) (past : Bool) (c x slot : Nat) : State :=
  let r := returned past slot (s.core c).exch (s.ctx c x)
  (s.updCore c fun k => { k with exch := r.1 }).setCtx c x r.2

/-- A committed latch goes IDLE and the occurrence returns: to its context, whose L1 is refreshed (R306), to the exchange
sequencer, or to an agent. -/
def returnOccurrence (s : State) (l : LatchId) (ev : EvKey) : State :=
  let m := s.latch l
  let c := gidCore l.gid
  let s1 := s.setLatch l { Latch.reset with arm := m.arm }
  if !isCtxLatch l then agentOccurred s1 l ev (gathered m ev)
  else if l.sub % 16 ≠ 0 then
    s1.updCore c fun k => { k with exch := k.exch.map fun e => { e with left := e.left.filter (· != l.sub % 16 - 1) } }
  else
    let x := gidCtx l.gid
    let slot := (kfind m.offers ev).elim 0 (·.slot)
    refresh (contextReturns (gangCounts s1 c x ev) m.past c x slot) c

/-- Whether results reach a latch now: a stopped core's wait for the resumption (R178). -/
def resultsReach (s : State) (l : LatchId) : Bool :=
  !isCtxLatch l || (latchNow s l && (match (s.core (gidCore l.gid)).run with
    | .halted => false
    | .stopped => false
    | .stepping y _ => y == gidCtx l.gid
    | _ => true))

/-- LATCH_LAST_PAYLOAD_DELIVERED. -/
def execLatchLastPayloadDelivered (l : LatchId) (ev : EvKey) (arm : Nat) (s : State) : Ans :=
  .next (
    let m := s.latch l
    if m.st ≠ .committed ev ∨ m.arm ≠ arm then s
    else
      let s1 := if m.gave = 0 then s else edgeAdd s (gidCore l.gid) outside m.gave
      if resultsReach s l then returnOccurrence s1 l ev
      else s1.setLatch l { m with doneStopped := true, gave := 0 })

/-- LATCH_LIMIT_EXPIRY. -/
def execLatchLimitExpiry (l : LatchId) (s : State) : Ans :=
  .next (
    let m := s.latch l
    match m.st with
    | .armed => endLatch s l (if logNone s l then .spill else .expiry (waitValue s m))
    | .claimed _ _ => s.setLatch l { m with expPend := true, expVal := waitValue s m }
    | .dormant => s.setLatch l { m with expPend := true, expVal := waitValue s m }
    | _ => s)

/-- LATCH_STOP (R178, R184). -/
def execLatchStop (l : LatchId) (s : State) : Ans :=
  .next (
    let m := s.latch l
    match m.st with
    | .armed => s.setLatch l { m with st := .dormant }
    | .claimed _ _ => s.setLatch l { m with stopPend := true }
    | _ => s)

/-- LATCH_RESUME: DORMANT becomes ARMED, or ends as what was held pending says; an occurrence that ended while the core
was stopped returns. -/
def execLatchResume (l : LatchId) (s : State) : Ans :=
  .next (
    let m := s.latch l
    match m.st with
    | .dormant => match pendingEnd m with
      | some e => endLatch (s.setLatch l { m with st := .armed }) l e
      | none => s.setLatch l { m with st := .armed }
    | .committed ev => if m.doneStopped then returnOccurrence s l ev else s
    | _ => s)

/-- A refusal of an armed offer at a latch (R209). -/
def refuseLatch (s : State) (l : LatchId) (name hi : Nat) : State :=
  let m := s.latch l
  let pend := if m.refusal.isSome then s else s.setLatch l { m with refusal := some (name, hi) }
  match m.st with
  | .armed => endLatch s l (.refusal name hi)
  | .claimed _ _ => pend
  | .dormant => pend
  | _ => s

/-- A refusal of an exchange offer ends its context's PHASE (R220); one that finds the context elsewhere is raised when PHASE executes
again. -/
def refuseExchange (s : State) (c name hi : Nat) : State :=
  match (s.ctx c 0).wait with
  | .phase _ => refuseLatch s (ctxLatch s c 0) name hi
  | _ => (withdrawExchange s c).updCore c fun k => { k with exch := k.exch.map fun e => { e with refused := some (name, hi) } }

/-- LATCH_REFUSAL: at a context's latch, at an exchange offer, or at an agent's. -/
def execLatchRefusal (l : LatchId) (ev : EvKey) (arm why : Nat) (s : State) : Ans :=
  .next (
    let m := s.latch l
    match kfind m.offers ev with
    | none => s
    | some o =>
      if m.arm ≠ arm then s
      else if !isCtxLatch l then refuseLatch (agentRefused s l ev) l ev.name (16 * why)
      else if l.sub % 16 = 0 then refuseLatch s l ev.name (16 * why + o.slot)
      else refuseExchange (idleLatch s l) (gidCore l.gid) ev.name (256 + 16 * why + o.slot))

/-- A poll serves a spilled event whose offers are present (R186): it is enabled, or its claims begin again at its retry time. -/
def pollServes (s : State) (ev : EvKey) (h : Home) : State :=
  match h.st, h.stamp with
  | .waiting, _ => enableEvent s ev h s.time.toNat
  | .backoff, some st => if h.retryAt ≤ s.cycle.toNat then startClaims s ev h st else s
  | _, _ => s

/-- A poll that reaches the home of an event. -/
def servePoll (s : State) (ev : EvKey) : State := match s.home ev with
  | some h => if h.spilled && allPresent h then pollServes s ev h else s
  | none => s

/-- SPILL_POLL (R186, R187): a participant polls the spilled events of its set; one whose offers are all present is
enabled. An unsuccessful poll raises the back-off level, and at level 7 a SELECT returns NONE. -/
def execSpillPoll (l : LatchId) (s : State) : Ans :=
  .next (
    let m := s.latch l
    let c := gidCore l.gid
    let hit := m.offers.any fun o =>
      if homeDev o.1.home ≠ s.dev then isSpilled s o.1 && Config.farServed s.draws (o.1.home, o.1.name)
      else match s.home o.1 with
        | some h => h.spilled && allPresent h
        | none => false
    let s1 := m.offers.foldl (fun t o =>
      if homeDev o.1.home ≠ s.dev then
        (if isSpilled s o.1 then t.toDevice c (homeDev o.1.home) (.requestAnswer ((s.dev + 1) * 2 ^ 16 + c) 15 (.poll o.1)) else t)
      else servePoll t o.1) s
    let x := gidCtx l.gid
    let n := (s.ctx c x).backoff
    let again (t : State) (k : Nat) : State := t.setLatch l { t.latch l with pollAt := some (pollTime s k) }
    let sel := isCtxLatch l && l.sub % 16 == 0 && (match (s.ctx c x).wait with | .select _ _ _ => true | _ => false)
    if hit || m.st != .armed || !sel then again s1 (if sel then n else 0)
    else if 7 ≤ n then (if (waitItem s c x).isSome && !logNone s l || s.replayFull c then again s1 n else endLatch s1 l .spill)
    else again (s1.updCtx c x fun k => { k with backoff := n + 1 }) (n + 1))

def execStandingAgentOffer (l : LatchId) (s : State) : Ans := .next (armAgent s l)

/-! ## Asynchronous causes (R18, R208, R424) -/

/-- The causes that wait for a context: pending ones, and at the control context the oldest watch report. -/
def waitingCauses (s : State) (c x : Nat) : List Cause :=
  (s.ctx c x).pend ++
    (if x = 0 then
      match (s.core c).reports with
      | r :: _ =>
        [{ cause 0x21 r.addr with
            isAsync := true, agent := r.agent, wp := r.wp, access := r.access, skid := min 4095 (s.time.toNat - r.time) }]
      | [] => []
    else [])

/-- Whether a context takes a cause at its next boundary (R18). -/
def takes (k : Core) (x : Ctx) (cz : Cause) : Bool :=
  let t := trapTarget k.hdeleg x.priv cz.code
  if x.priv.code < t.code then true
  else if t = .s then x.status.getLsbD 0 else x.hstatus.getLsbD 0

/-- The cause taken next: the lowest code (R18). DESIGN CHOICE (log 18): of two pending causes with one code, the one that has been pending
longer; the spec gives no order between them. -/
def nextCause (s : State) (c x : Nat) : Option Cause :=
  ((waitingCauses s c x).filter (takes (s.core c) (s.ctx c x))).foldl (fun (b : Option Cause) q => match b with
    | none => some q
    | some p => if q.code < p.code then some q else some p) none

/-- Takes one occurrence of a cause off a list. -/
def dropCause (cz : Cause) : List Cause → List Cause
  | [] => []
  | p :: t => if p = cz then t else p :: dropCause cz t

/-- What is on its way for a load or a fetch of an asker outside the caches: its request, or its answer. -/
def isAnswerOf (s : State) (c y : Nat) : Instr → Bool
  | .loadDataReturn core z _ => core == c && z == y
  | .hostWindowCompletion core z _ => core == c && z == y
  | .hostLoadTimeout core z => core == c && z == y
  | .windowAccessAtTarget w => w.dev == s.dev && w.core == c && w.ctx == y && w.op == .load
  | .instructionFetchFill core z pa => core == c && z == y && !isGddr pa
  | _ => false

/-- A context gives up a load or fetch that waits for a window or the host (R114): what is on its way is taken off, and an answer that
is still to come from outside will be dropped. -/
def abandonData (s : State) (c x : Nat) : State :=
  let give : State :=
    let rest := s.agenda.filter fun i => !isAnswerOf s c (s.asker c x) i
    ({ s with agenda := rest } : State).updCtx c x fun k => { k with stale := rest.length == s.agenda.length }
  match (s.ctx c x).wait with
  | .data _ _ => give
  | .fetch pa _ => if isGddr pa then s else give
  | _ => s

/-- The context takes the cause: it is no longer pending, and any wait of it is abandoned; contexts that waited for its change of a
bank's role go on (R274, R322). -/
def takeCause (s0 : State) (c x : Nat) (cz : Cause) : State :=
  let s := abandonData s0 c x
  let s1 := s.updCtx c x fun k => { k with pend := dropCause cz k.pend }
  let s2 := if cz.code = 0x21 then s1.updCore c fun k => { k with reports := k.reports.drop 1 } else s1
  let s3 := s2.updCore c fun k => match k.roleChange with
    | some r => if r.ctx = x then ({ k with roleChange := none } : Core).wakeIf fun w => decide (w = .role r.bank) else k
    | none => k
  s3.trapAt c x cz

/-- Waits that an asynchronous cause abandons; the others end with their answer first (R18, R207, R271). -/
def abandonable : Wait → Bool
  | .none => true
  | .select _ _ _ => true
  | .phase _ => true
  | .gang => true
  | .mbw _ _ => true
  | .mbr _ _ => true
  | .rand _ => true
  | .halt => true
  | .roleChange => true
  | .wideFull => true
  | .overlap _ _ _ => true
  | .release => true
  | .storeAcks _ _ => true
  | .stbuf => true
  | .role _ => true
  | .fifoAcc _ => true
  | .replay => true
  | .fill _ => true
  | .fetch _ _ => true
  | .walk _ _ => true
  | .data _ _ => true
  | .half => true
  | .stale => true
  | .walks _ => true
  | _ => false

/-- ASYNC_TRAP_ENTRY: at a boundary, or in place of a wait's return; a claimed latch decides first (R208). A control
context of a bulk-synchronous launch issues nothing before its first phase occurrence (R199). -/
def execAsyncTrapEntry (core ctx : Nat) (s : State) : Ans :=
  .next (
    match nextCause s core ctx with
    | none => s
    | some cz =>
      let l := ctxLatch s core ctx
      let m := s.latch l
      let w := (s.ctx core ctx).wait
      let waits := match w with
        | .select _ _ _ => true
        | .phase _ => true
        | .gang => true
        | _ => false
      let early := match (s.core core).exch with
        | some e => !e.past && (match w with | .phase _ => true | _ => false)
        | none => false
      if !abandonable w || early then s
      else if !waits then takeCause s core ctx cz
      else match m.st with
        | .armed => takeCause (endLatch s l .cause) core ctx cz
        | .claimed _ _ => s.setLatch l { m with causePend := true }
        | _ => s)

end Sys2Proof.Machine
end

