-- ==== Sys2Proof/Machine/WidePtr.lean ====
section
/-!
DEFINITION. Pointer registers and what a wide instruction touches (01_one_core.md R30-R32, R40; 05_wide_instructions.md
R131-R134): extents, scales, block status words, the wide state as the queue will leave it, and the queue-entry checks.
-/

namespace Sys2Proof.Machine

open Sys2Proof

/-! ## Pointer fields (R30) -/

def pMode (w : Word) : Nat := bits w.toNat 62 2
def pScl (w : Word) : Int := signed (bits w.toNat 54 8) 8
def pFtag (w : Word) : Nat := bits w.toNat 50 4
def pWrap (w : Word) : Nat := bits w.toNat 34 16 * 64
def pStride (w : Word) : Int := signed (bits w.toNat 21 13) 13
def pAddr (w : Word) : Nat := bits w.toNat 0 21

/-- ADDR moved by a step (R31). -/
def addrStep (w : Word) (org : BitVec 21) (step : Int) : Nat :=
  if pWrap w = 0 then wrap ((pAddr w : Int) + step) 21
  else (org.toNat + (((pAddr w : Int) - org.toNat + step) % (pWrap w : Int)).toNat) % 2 ^ 21

/-- A pointer with another ADDR. -/
def setAddr (w : Word) (a : Nat) : Word := (w &&& ~~~0x1FFFFF) ||| BitVec.ofNat 64 (a % 2 ^ 21)

/-- A pointer after a use (R31); in MODE 10 it stays (R132). -/
def stepPtr (w : Word) (org : BitVec 21) : Word := if pMode w = 2 then w else setAddr w (addrStep w org (pStride w))

/-- The bank of a MODE 10 pointer (R132). -/
def pBank (w : Word) : Nat := bits w.toNat 16 5

/-- Byte i of an extent (R132): Addr(P, i). -/
def extAddr (w : Word) (org : BitVec 21) (i : Nat) : Nat :=
  if pWrap w = 0 then (pAddr w + i) % 2 ^ 21
  else (org.toNat + (((pAddr w : Int) - org.toNat + i) % (pWrap w : Int)).toNat) % 2 ^ 21

/-- Bytes from byte i of an extent on that lie one after another. -/
def extRun (w : Word) (org : BitVec 21) (i n : Nat) : Nat :=
  let a := extAddr w org i
  let m := min n (2 ^ 21 - a)
  if pWrap w = 0 then m else min m (pWrap w - (((pAddr w : Int) - org.toNat + i) % (pWrap w : Int)).toNat)

/-- The runs of an extent of n bytes: address and length. -/
def extRuns (w : Word) (org : BitVec 21) : Nat → Nat → Nat → List (Nat × Nat)
  | 0, _, _ => []
  | f + 1, i, n =>
    if n ≤ i then []
    else let m := max 1 (extRun w org i (n - i)); (extAddr w org i, m) :: extRuns w org f (i + m) n

def extent (w : Word) (org : BitVec 21) (n : Nat) : List (Nat × Nat) := extRuns w org n 0 n

/-- The block number of element k of a SCALED stream (R132). -/
def blockOf (w : Word) (org : BitVec 21) (f : Half) (k : Nat) : Nat :=
  wrap ((extAddr w org (k * fmtBytes f) : Int) - org.toNat) 21 / (fmtBytes f * fmtBlen f)

/-- Where the scale of a block lies (R31). -/
def scaleAddr (w : Word) (org : BitVec 21) (b : Nat) : Nat :=
  wrap ((org.toNat / 256 * 256 : Nat) + pScl w * 256 + (2 * b : Nat)) 21

/-- Where the status word of a block lies (R56). -/
def statAddr (w : Word) (org : BitVec 21) (b : Nat) : Nat := (scaleAddr w org b + 0x8000) % 2 ^ 21

/-! ## The wide state as the queue will leave it (R131) -/

/-- What queue-entry checks see of the wide state. `popped` are the bytes that queued reads take of a FIFO bank. -/
structure WView where
  ptr : List Word
  origin : List (BitVec 21)
  fmt : List Half
  rows : Nat
  int : Bool
  sRows : Nat
  sInt : Bool
  mcfg : Word
  tags : Tbl Half
  popped : Tbl Nat
  deriving DecidableEq, Repr

/-- The wide state of a core now. -/
def Core.view (k : Core) : WView :=
  { ptr := k.wide.ptr, origin := k.wide.origin, fmt := k.wide.fmt, rows := k.wide.acc.rows, int := k.wide.acc.int,
    sRows := k.wide.shadow.rows, sInt := k.wide.shadow.int, mcfg := k.wide.mcfg, tags := k.tags, popped := [] }

def WView.p (v : WView) (n : Nat) : Word := v.ptr.getD n 0
def WView.org (v : WView) (n : Nat) : BitVec 21 := v.origin.getD n 0
/-- The format of a pointer. -/
def WView.pf (v : WView) (n : Nat) : Half := v.fmt.getD (pFtag (v.p n)) 0

/-- A use of a pointer: n elements, read or written (R132). -/
structure PUse where
  p : Nat
  n : Nat
  write : Bool
  deriving DecidableEq, Repr

/-- A use with the pointer, its ORIGIN and its format as they stand at the use; `skip` counts the bytes that earlier
reads take of the FIFO bank. -/
structure RUse where
  w : Word
  org : BitVec 21
  fmt : Half
  n : Nat
  write : Bool
  skip : Nat
  deriving DecidableEq, Repr

/-- The bytes of a use. -/
def RUse.size (u : RUse) : Nat := u.n * fmtBytes u.fmt

/-- The view after a use. -/
def WView.use (v : WView) (u : PUse) : WView :=
  let w := v.p u.p
  let v1 := { v with ptr := lset v.ptr u.p (stepPtr w (v.org u.p)) }
  if pMode w = 2 ∧ !u.write then
    { v1 with popped := tput v1.popped (pBank w) (tget 0 v1.popped (pBank w) + u.n * fmtBytes (v.pf u.p)) }
  else v1

/-- Uses, one after another. -/
def WView.uses : WView → List PUse → List RUse × WView
  | v, [] => ([], v)
  | v, u :: t =>
    let r : RUse := ⟨v.p u.p, v.org u.p, v.pf u.p, u.n, u.write, tget 0 v.popped (pBank (v.p u.p))⟩
    let (rs, v2) := (v.use u).uses t
    (r :: rs, v2)

/-! ## The fields of the W-form instructions (R139, R151) -/

/-- Rows that VCVT converts (R151). -/
def cvtRows (f : Half) : Nat := if fmtScaled f then max 1 (fmtBlen f / 64) else 1

/-- The row a W-form instruction writes. -/
def wDst : Instr → Option Nat
  | .vlda d _ _ _ => some d.toNat
  | .vadd d _ _ _ _ => some d.toNat
  | .vsub d _ _ _ _ => some d.toNat
  | .vmul d _ _ _ _ => some d.toNat
  | .vfma d _ _ _ _ _ => some d.toNat
  | .vfms d _ _ _ _ _ => some d.toNat
  | .vmax d _ _ => some d.toNat
  | .vmin d _ _ => some d.toNat
  | .vabs d _ => some d.toNat
  | .vneg d _ => some d.toNat
  | .vclamp d _ _ _ => some d.toNat
  | .vscale d _ _ _ _ => some d.toNat
  | .vdot d _ _ _ _ _ => some d.toNat
  | .vand d _ _ => some d.toNat
  | .vor d _ _ => some d.toNat
  | .vxor d _ _ => some d.toNat
  | .vshl d _ _ => some d.toNat
  | .vshr d _ _ _ => some d.toNat
  | .vsel d _ _ _ _ => some d.toNat
  | .vperm d _ _ => some d.toNat
  | .vshuf d _ _ => some d.toNat
  | .viota d => some d.toNat
  | .vbcast d _ _ => some d.toNat
  | .vexp2 d _ => some d.toNat
  | .vlog2 d _ => some d.toNat
  | .vrcp d _ => some d.toNat
  | .vrsq d _ => some d.toNat
  | .vtanh d _ => some d.toNat
  | .vsig d _ => some d.toNat
  | _ => none

/-- The (first) row it reads. -/
def wSrc : Instr → Option Nat
  | .vsta s _ _ _ => some s.toNat
  | .vadd _ s _ _ _ => some s.toNat
  | .vsub _ s _ _ _ => some s.toNat
  | .vmul _ s _ _ _ => some s.toNat
  | .vfma _ s _ _ _ _ => some s.toNat
  | .vfms _ s _ _ _ _ => some s.toNat
  | .vmax _ s _ => some s.toNat
  | .vmin _ s _ => some s.toNat
  | .vabs _ s => some s.toNat
  | .vneg _ s => some s.toNat
  | .vclamp _ s _ _ => some s.toNat
  | .vscale _ s _ _ _ => some s.toNat
  | .vdot _ s _ _ _ _ => some s.toNat
  | .vand _ s _ => some s.toNat
  | .vor _ s _ => some s.toNat
  | .vxor _ s _ => some s.toNat
  | .vshl _ s _ => some s.toNat
  | .vshr _ s _ _ => some s.toNat
  | .vsel _ s _ _ _ => some s.toNat
  | .vcmp _ s _ _ => some s.toNat
  | .vperm _ s _ => some s.toNat
  | .vshuf _ s _ => some s.toNat
  | .vred _ s _ => some s.toNat
  | .vcvt s _ _ _ => some s.toNat
  | .vcvtAuto s _ _ _ => some s.toNat
  | .vexp2 _ s => some s.toNat
  | .vlog2 _ s => some s.toNat
  | .vrcp _ s => some s.toNat
  | .vrsq _ s => some s.toNat
  | .vtanh _ s => some s.toNat
  | .vsig _ s => some s.toNat
  | _ => none

/-- The pointers it uses, in the order of their advances. -/
def wUses (v : WView) : Instr → List PUse
  | .vlda _ a _ _ => [⟨a.toNat, 64, false⟩]
  | .vsta _ a _ _ => [⟨a.toNat, 64, true⟩]
  | .vadd _ _ b _ _ => [⟨b.toNat, 64, false⟩]
  | .vsub _ _ b _ _ => [⟨b.toNat, 64, false⟩]
  | .vmul _ _ b _ _ => [⟨b.toNat, 64, false⟩]
  | .vfma _ _ a b _ _ => [⟨a.toNat, 64, false⟩, ⟨b.toNat, 64, false⟩]
  | .vfms _ _ a b _ _ => [⟨a.toNat, 64, false⟩, ⟨b.toNat, 64, false⟩]
  | .vmax _ _ b => [⟨b.toNat, 64, false⟩]
  | .vmin _ _ b => [⟨b.toNat, 64, false⟩]
  | .vclamp _ _ a b => [⟨a.toNat, 64, false⟩, ⟨b.toNat, 64, false⟩]
  | .vscale _ _ b _ _ => [⟨b.toNat, 64, false⟩]
  | .vdot _ _ a b _ _ => [⟨a.toNat, 64, false⟩, ⟨b.toNat, 64, false⟩]
  | .vand _ _ b => [⟨b.toNat, 64, false⟩]
  | .vor _ _ b => [⟨b.toNat, 64, false⟩]
  | .vxor _ _ b => [⟨b.toNat, 64, false⟩]
  | .vshl _ _ b => [⟨b.toNat, 64, false⟩]
  | .vshr _ _ b _ => [⟨b.toNat, 64, false⟩]
  | .vsel _ _ b _ _ => [⟨b.toNat, 64, false⟩]
  | .vcmp _ _ b _ => [⟨b.toNat, 64, false⟩]
  | .vperm _ _ b => [⟨b.toNat, 64, false⟩]
  | .vcvt _ b _ _ => [⟨b.toNat, 64 * cvtRows (v.pf b.toNat), true⟩]
  | .vcvtAuto _ b _ _ => [⟨b.toNat, 64 * cvtRows (v.pf b.toNat), true⟩]
  | _ => []

/-- Whether it is an instruction of opcodes 0x30-0x35 (R156). -/
def isWForm (i : Instr) : Bool := (wDst i).isSome || (wSrc i).isSome

/-- The staggered form for pass p of a REP (R158). -/
def stagger (p rowstep ptrstep : Nat) : Instr → Instr :=
  let r (x : BitVec 4) : BitVec 4 := x + BitVec.ofNat 4 (p * rowstep)
  let q (x : BitVec 3) : BitVec 3 := x + BitVec.ofNat 3 (p * ptrstep)
  fun i => match i with
  | .vlda d a rm sat => .vlda (r d) (q a) rm sat
  | .vsta s a rm sat => .vsta (r s) (q a) rm sat
  | .vadd d s b rm sat => .vadd (r d) (r s) (q b) rm sat
  | .vsub d s b rm sat => .vsub (r d) (r s) (q b) rm sat
  | .vmul d s b rm sat => .vmul (r d) (r s) (q b) rm sat
  | .vfma d s a b rm sat => .vfma (r d) (r s) (q a) (q b) rm sat
  | .vfms d s a b rm sat => .vfms (r d) (r s) (q a) (q b) rm sat
  | .vmax d s b => .vmax (r d) (r s) (q b)
  | .vmin d s b => .vmin (r d) (r s) (q b)
  | .vabs d s => .vabs (r d) (r s)
  | .vneg d s => .vneg (r d) (r s)
  | .vclamp d s a b => .vclamp (r d) (r s) (q a) (q b)
  | .vscale d s b rm sat => .vscale (r d) (r s) (q b) rm sat
  | .vdot d s a b rm sat => .vdot (r d) (r s) (q a) (q b) rm sat
  | .vand d s b => .vand (r d) (r s) (q b)
  | .vor d s b => .vor (r d) (r s) (q b)
  | .vxor d s b => .vxor (r d) (r s) (q b)
  | .vshl d s b => .vshl (r d) (r s) (q b)
  | .vshr d s b ar => .vshr (r d) (r s) (q b) ar
  | .vsel d s b n pk => .vsel (r d) (r s) (q b) n pk
  | .vcmp n s b c => .vcmp n (r s) (q b) c
  | .vperm d s b => .vperm (r d) (r s) (q b)
  | .vshuf d s pat => .vshuf (r d) (r s) pat
  | .viota d => .viota (r d)
  | .vred n s op => .vred n (r s) op
  | .vbcast d n pk => .vbcast (r d) n pk
  | .vcvt s b rm sat => .vcvt (r s) (q b) rm sat
  | .vcvtAuto s b rm sat => .vcvtAuto (r s) (q b) rm sat
  | .vexp2 d s => .vexp2 (r d) (r s)
  | .vlog2 d s => .vlog2 (r d) (r s)
  | .vrcp d s => .vrcp (r d) (r s)
  | .vrsq d s => .vrsq (r d) (r s)
  | .vtanh d s => .vtanh (r d) (r s)
  | .vsig d s => .vsig (r d) (r s)
  | j => j

/-! ## The view after an instruction -/

/-- The view after n uses of one pointer. -/
def WView.useN (v : WView) (u : PUse) : Nat → WView
  | 0 => v
  | n + 1 => (v.use u).useN u n

/-- MMUL's rows, chain length and K (R254, R255). -/
def mmulK (km1 : BitVec 8) : Nat := 32 * (km1.toNat + 1)
def mmulBanks (km1 : BitVec 8) : Nat := (mmulK km1 + 1023) / 1024

/-- ACCCFG values (R28, R154): ROWS 1-16, LANES 0 or 64, KIND; every other bit zero. -/
def accCfgValid (v : Word) : Bool :=
  let n := v.toNat
  1 ≤ bits n 0 5 && bits n 0 5 ≤ 16 && (bits n 16 7 == 0 || bits n 16 7 == 64) && bits n 5 3 == 0 && bits n 9 7 == 0 &&
    bits n 23 41 == 0

/-- The view after a wide or matrix instruction other than REP, with the values it took at issue; `pos0` says that the
core is its gang's position 0, `row` how many rows an MMUL has broadcast. -/
def viewAfter (pos0 : Bool) (v : WView) (i : Instr) (v1 : Word) (row : Nat) : WView :=
  match i with
  | .pset n _ => { v with ptr := lset v.ptr n.toNat v1, origin := lset v.origin n.toNat (v1.setWidth 21) }
  | .padd n _ =>
    { v with ptr := lset v.ptr n.toNat (setAddr (v.p n.toNat) (addrStep (v.p n.toNat) (v.org n.toNat) v1.toInt)) }
  | .fset n _ => { v with fmt := lset v.fmt n.toNat (v1.setWidth 32) }
  | .acccfg _ => { v with rows := bits v1.toNat 0 5, int := nbit v1.toNat 8 }
  | .acccfgKeep _ => { v with rows := bits v1.toNat 0 5, int := nbit v1.toNat 8 }
  | .accsw => { v with rows := v.sRows, int := v.sInt, sRows := v.rows, sInt := v.int }
  | .mcfg _ => { v with mcfg := v1 }
  | .mldb _ _ ft bank _ _ _ => { v with tags := tput v.tags (24 + bank.toNat) (v.fmt.getD ft.toNat 0) }
  | .mmul _ nrm1 pa _ _ km1 => if pos0 then v.useN ⟨pa.toNat, mmulK km1, false⟩ (nrm1.toNat + 1 - row) else v
  | i => (v.uses (wUses v i)).2

/-- Body instructions from one on in a pass. -/
def viewBody (pos0 : Bool) (p rowstep ptrstep : Nat) : List Instr → WView → WView
  | [], v => v
  | i :: t, v => viewBody pos0 p rowstep ptrstep t (viewAfter pos0 v (stagger p rowstep ptrstep i) 0 0)

/-- Whole passes from `p` on. -/
def viewPasses (pos0 : Bool) (rowstep ptrstep : Nat) (body : List Instr) : Nat → Nat → WView → WView
  | 0, _, v => v
  | n + 1, p, v => viewPasses pos0 rowstep ptrstep body n (p + 1) (viewBody pos0 p rowstep ptrstep body v)

/-- The view after a queue entry. -/
def viewEntry (pos0 : Bool) (v : WView) (e : WEntry) : WView :=
  match e.i with
  | .rep cnt _ rs ps =>
    let v1 := viewBody pos0 e.pass rs.toNat ps.toNat (e.body.drop e.row) v
    viewPasses pos0 rs.toNat ps.toNat e.body (cnt.toNat - e.pass) (e.pass + 1) v1
  | i => viewAfter pos0 v i e.v1 e.row

/-- The wide state of core c as its queue will leave it (R131). -/
def queueView (s : State) (c : Nat) : WView :=
  (s.core c).wide.queue.foldl (viewEntry (posOf c == 0)) (s.core c).view

/-! ## Formats (R133, R141 and entries) -/

/-- The pointer's mode matches its format: SCALED in MODE 01 only. -/
def modeFits (w : Word) (f : Half) : Bool := if pMode w = 1 then fmtScaled f else !fmtScaled f

/-- The formats that a reading instruction takes (R133). -/
def readFits (int vlda : Bool) (f : Half) : Bool :=
  let kind := fmtKind f
  if int then kind == 4 || (kind == 1 && !fmtScaled f)
  else kind == 4 || (kind == 2 || kind == 3) || vlda

/-- The formats that VSTA stores in (R141). -/
def storeFits (int : Bool) (f : Half) : Bool :=
  let kind := fmtKind f
  kind == 4 || (!fmtScaled f && (!int || kind == 1))

/-- The format rules of an instruction for its uses. -/
def fmtFits (int : Bool) (i : Instr) (us : List RUse) : Bool :=
  us.all (fun u => modeFits u.w u.fmt) &&
  match i with
  | .vlda _ _ _ _ => us.all fun u => readFits int true u.fmt
  | .vsta _ _ _ _ => us.all fun u => storeFits int u.fmt
  | .vscale _ _ _ _ _ => !int && us.all fun u => fmtKind u.fmt == 1 && !fmtScaled u.fmt
  | .vperm _ _ _ => us.all fun u => fmtKind u.fmt == 1 && !fmtScaled u.fmt
  | .vand _ _ _ => us.all fun u => fmtKind u.fmt == 4
  | .vor _ _ _ => us.all fun u => fmtKind u.fmt == 4
  | .vxor _ _ _ => us.all fun u => fmtKind u.fmt == 4
  | .vshl _ _ _ => us.all fun u => fmtKind u.fmt == 4
  | .vshr _ _ _ _ => us.all fun u => fmtKind u.fmt == 4
  | .vcvt _ _ _ _ => us.all fun u => pMode u.w == 1 && fmtScaled u.fmt
  | .vcvtAuto _ _ _ _ => us.all fun u => pMode u.w == 1 && fmtScaled u.fmt
  | .vexp2 _ _ => !int
  | .vlog2 _ _ => !int
  | .vrcp _ _ => !int
  | .vrsq _ _ => !int
  | .vtanh _ _ => !int
  | .vsig _ _ => !int
  | _ => us.all fun u => readFits int false u.fmt

/-! ## What an instruction reads and writes of the local space (R40, R134) -/

/-- Blocks of a use, in ascending order. -/
def useBlocks (u : RUse) : List Nat := (List.range u.n).foldl (fun t k => nadd t (blockOf u.w u.org u.fmt k)) []

/-- Local bytes of a use's extent: its run in a FIFO bank is the ring positions it takes. -/
def useRuns (k : Core) (u : RUse) : List (Nat × Nat) :=
  if pMode u.w = 2 then
    let f := tget FifoBank.reset k.fifo (pBank u.w)
    let pos := (f.head.toNat + u.skip) % 65536
    let m := min u.size (65536 - pos)
    (pBank u.w * 65536 + pos, m) :: (if m < u.size then [(pBank u.w * 65536, u.size - m)] else [])
  else extent u.w u.org u.size

/-- What an instruction reads: the extents it reads with their scales; VCVT its scales, VCVT.AUTO its status words. -/
def readRuns' (k : Core) (i : Instr) (us : List RUse) : List (Nat × Nat) :=
  us.flatMap fun u =>
    let sc := if pMode u.w = 1 then (useBlocks u).map fun b => (scaleAddr u.w u.org b, 2) else []
    match i with
    | .vcvt _ _ _ _ => sc
    | .vcvtAuto _ _ _ _ => (useBlocks u).map fun b => (statAddr u.w u.org b, 2)
    | _ => if u.write then [] else useRuns k u ++ sc

/-- What it writes: VCVT also its status words, VCVT.AUTO also its scales. -/
def writeRuns (k : Core) (i : Instr) (us : List RUse) : List (Nat × Nat) :=
  us.flatMap fun u =>
    if !u.write then []
    else useRuns k u ++ match i with
      | .vcvt _ _ _ _ => (useBlocks u).map fun b => (statAddr u.w u.org b, 2)
      | .vcvtAuto _ _ _ _ => (useBlocks u).flatMap fun b => [(scaleAddr u.w u.org b, 2), (statAddr u.w u.org b, 2)]
      | _ => []

/-- The lowest byte of runs in a bank that has not the role. -/
def refusedByte (k : Core) (r : Role) (runs : List (Nat × Nat)) : Option Nat :=
  (runs.flatMap fun q => (banksOf q.1 q.2).filterMap fun b => if k.role b = r then none else some (max q.1 (b * 65536))).min?

/-- The lowest poisoned byte of runs. -/
def poisonedByte (k : Core) (runs : List (Nat × Nat)) : Option Nat :=
  (runs.filterMap fun q => (poisonIn k.locPoison q.1 q.2).map (q.1 + ·)).min?

/-- BANK_ROLE and DATA_POISON of a wide access (R408, R409). -/
def wideRole (k : Core) (a : Nat) (acc : Access) : Cause :=
  { cause 0x05 (BitVec.ofNat 64 a) with access := acc, reason := (k.role (a / 65536)).code }
def widePoison (a : Nat) (acc : Access) : Cause := { cause 0x09 (BitVec.ofNat 64 a) with access := acc }
/-- FORMAT_MISMATCH. -/
def formatMismatch (i : Instr) : Cause := cause 0x0C (firstWord i)

/-- The bank-role check of step 4: FIFO uses name their bank, the others lie in SCRATCH. DESIGN CHOICE (log 40): a use in MODE 10 has no address
before its FIFO gives it one, so TVAL for a bank that is no FIFO is the bank's first byte. -/
def roleCheck (k : Core) (i : Instr) (us : List RUse) : Option Cause :=
  let plain := us.filter fun u => pMode u.w != 2
  let fifo (wr : Bool) := (us.filter fun u => pMode u.w == 2 && u.write == wr && k.role (pBank u.w) != .fifo).map
    fun u => pBank u.w * 65536
  let rd := (fifo false ++ (refusedByte k .scratch (readRuns' k i plain)).toList).min?
  let wr := (fifo true ++ (refusedByte k .scratch (writeRuns k i plain)).toList).min?
  match rd, wr with
  | some a, some b => if a ≤ b then some (wideRole k a .wideRead) else some (wideRole k b .wideWrite)
  | some a, none => some (wideRole k a .wideRead)
  | none, some b => some (wideRole k b .wideWrite)
  | none, none => none

/-- Rows an instruction names, and VCVT's alignment: step 2 of R134, R151. -/
def rowCheck (v : WView) (i : Instr) (us : List RUse) : Bool :=
  let low := match wDst i with
    | some d => d < v.rows
    | none => true
  let src (n : Nat) := match wSrc i with
    | some q => q + n ≤ v.rows
    | none => true
  let cvt := us.all fun u => src (cvtRows u.fmt) &&
    (!fmtScaled u.fmt || wrap ((extAddr u.w u.org 0 : Int) - u.org.toNat) 21 % (fmtBytes u.fmt * fmtBlen u.fmt) == 0)
  match i with
  | .vcvt _ _ _ _ => cvt
  | .vcvtAuto _ _ _ _ => cvt
  | _ => low && src 1

/-- The local runs that a W-form instruction touches: a FIFO access holds its whole bank. -/
def wformRuns (k : Core) (i : Instr) (us : List RUse) : List (Nat × Nat) :=
  let plain := us.filter fun u => pMode u.w != 2
  readRuns' k i plain ++ writeRuns k i plain ++ (us.filter fun u => pMode u.w == 2).map fun u => (pBank u.w * 65536, 65536)

/-- The checks of R134, steps 2 to 5, of a W-form instruction: the cause, or the view after it and the local runs it
touches. -/
def wformCheck (k : Core) (v : WView) (i : Instr) : Except Cause (WView × List (Nat × Nat)) :=
  let (us, v1) := v.uses (wUses v i)
  if !rowCheck v i us then .error (illegal i 6)
  else if !fmtFits v.int i us then .error (formatMismatch i)
  else match roleCheck k i us with
  | some cz => .error cz
  | none =>
    match poisonedByte k (readRuns' k i us) with
    | some a => .error (widePoison a .wideRead)
    | none => .ok (v1, wformRuns k i us)

/-! ## Entering the queue (R33) -/

/-- The MOD field of an instruction that rounds by it; VRED rounds by FRM (R136, R149). -/
def wRmCode : Instr → BitVec 3
  | .vlda _ _ rm _ => rm
  | .vsta _ _ rm _ => rm
  | .vadd _ _ _ rm _ => rm
  | .vsub _ _ _ rm _ => rm
  | .vmul _ _ _ rm _ => rm
  | .vfma _ _ _ _ rm _ => rm
  | .vfms _ _ _ _ rm _ => rm
  | .vscale _ _ _ rm _ => rm
  | .vdot _ _ _ _ rm _ => rm
  | .vcvt _ _ rm _ => rm
  | .vcvtAuto _ _ rm _ => rm
  | _ => 7

/-- The rounding mode of an instruction, given FRM at its issue (R51, R136). -/
def wideRm (i : Instr) (frm : Nat) : Nat := if wRmCode i = 7 then frm else (wRmCode i).toNat

/-- A fresh entry of the running context: X values and FRM as they stand at issue. -/
def State.wentry (s : State) (i : Instr) (v1 v2 : Word) (runs : List (Nat × Nat)) : WEntry :=
  ⟨i, v1, v2, s.me.frm.toNat, 0, 0, 0, 0, false, [], 0, [], runs, []⟩

/-- The running context's wide instruction under R27 and R33: a helper is refused; a full queue holds it back; else the
queue entry goes on with the predicted state. -/
def State.wideEnter (s : State) (i : Instr) (k : WView → State) : Ans :=
  .next (
    if s.cur.2 ≠ 0 then s.ill i 6
    else if 8 ≤ s.myCore.wide.queue.length then s.hold .wideFull
    else k (queueView s s.cur.1))

/-- Queues an entry. -/
def State.queueUp (s : State) (e : WEntry) : State :=
  s.setMyCore { s.myCore with wide := { s.myCore.wide with queue := s.myCore.wide.queue ++ [e] } }

/-- Queues an entry and moves past its instruction. -/
def State.enqueue (s : State) (e : WEntry) : State := (s.queueUp e).pass e.i

/-- A W-form instruction enters the queue (R134). -/
def enterW (i : Instr) (s : State) : Ans :=
  s.wideEnter i fun v =>
    match wformCheck s.myCore v i with
    | .error cz => s.trap cz
    | .ok (_, runs) => s.enqueue (s.wentry i 0 0 runs)

end Sys2Proof.Machine
end

