-- ==== Sys2Proof/Machine/EventExec.lean ====
section
/-!
DEFINITION. The event and execution instructions (07_event_instructions.md): what each does at issue, and what the home,
the pool or the bank answers to the requests among them (R207).
-/

namespace Sys2Proof.Machine

open Sys2Proof

/-! ## Requests (R207) -/

/-- Sends a request of the running context to a home: inside the package, or on its way to the device that has it. A core
of another device is written (device + 1) × 2^16 + core. -/
def State.request (s : State) (len home : Nat) (r : Request) : State :=
  let s1 := s.hold (.request len)
  let x := s.asker s.cur.1 s.cur.2
  if homeDev home = s.dev then s1.send (.requestAnswer s.cur.1 x r)
  else s1.toDevice s.cur.1 (homeDev home) (.requestAnswer ((s.dev + 1) * 2 ^ 16 + s.cur.1) x r)

def noAnswer : Answer := ⟨[], 0, none, false⟩
def answerReg (rd : Reg) (v : Word) : Answer := { noAnswer with regs := [(rd, v)] }
def answerTrap (cz : Cause) : Answer := { noAnswer with trap := some cz }
def eventDesc (v : Word) : Cause := cause 0x0F v

/-! ## EVDEF, EVDEL, EVSTAT (R210-R213) -/

/-- The descriptor that bytes hold, where R172 and the reserved names allow it. -/
def readDesc (s : State) (c : Nat) (me : Gid) (bs : List Byte) : Option EventDesc :=
  let n := field bs 0 4
  match parseDesc (domMembers s c (nameScope n) (nameDom n)) bs with
  | some d => if !reservedName n && descValid s c me d then some d else none
  | none => none

def execEvdef (rd rs1 : Reg) (s : State) : Ans :=
  let a := xread s.me rs1
  .next (s.load .load a.toNat 80 fun bs t =>
    let n := field bs 0 4
    if !nameValid t t.myCore.part n then t.trap (badName (BitVec.ofNat 64 n))
    else if (readDesc t t.cur.1 t.myGid bs).isNone then t.trap (eventDesc a)
    else t.request 4 (nameHome t t.cur.1 n) (.evdef rd bs a))

/-- The 80-byte slots of a partition's event spill area, but for its last 64 KiB (R411), that hold no descriptor. -/
def freeSpill (s : State) (q : Partition) : List Addr :=
  ((List.range ((q.spill.2 - 65536) / 80)).map (q.spill.1 + 80 * ·)).filter fun a => s.homes.all fun h => h.2.spillPa != some a

/-- A spilled descriptor is written to the event spill area of the home's partition: in which of the free places is open (log 27). -/
def spillDesc (s : State) (ev : EvKey) (d : EventDesc) : Option Addr × State :=
  match (clusterPart s (clusterOf (homeCore ev.home % 576))).bind (tfind s.parts) with
  | none => (none, s)
  | some q =>
    let free := freeSpill s q
    match free[Config.spillSlot s.draws % max free.length 1]? with
    | none => (none, s)
    | some a => (some a, homeWrite s.used q.key a (descBytes d))

/-- Writes an entry at its home, or spills it where the 256 entries are in use (R186, R210): whether it spilled. -/
def defineEvent (s : State) (ev : EvKey) (d : EventDesc) : Bool × State :=
  let spilled := decide (256 ≤ residents s ev.home)
  let r := if spilled then spillDesc s ev d else (none, s)
  (spilled, reoffer (r.2.setHome ev { newHome d spilled with spillPa := r.1 }) ev)

/-- The home's answer to an EVDEF from core c. -/
def serveEvdef (s : State) (c x : Nat) (rd : Reg) (bs : List Byte) (addr : Word) : Answer × State :=
  let ev := evKey s c (field bs 0 4)
  match readDesc s c (gidOf s.dev c x) bs with
  | none => (answerTrap (eventDesc addr), s)
  | some d =>
    if (s.home ev).isSome then (answerTrap (eventDesc addr), s)
    else
      let r := defineEvent s ev d
      (answerReg rd (if r.1 then 1 else 0), r.2)

def execEvdel (rd rs1 : Reg) (s : State) : Ans :=
  .next (
    match regName s (xread s.me rs1) with
    | none => s.trap (badName (xread s.me rs1))
    | some n =>
      if isPhaseName s n || isTakeName n then s.trap (eventDesc (xread s.me rs1))
      else s.request 4 (nameHome s s.cur.1 n) (.evdel rd n))

/-- Frees an entry: claims are released in reverse order and every stored offer is refused with WHY 4 (R212). -/
def deleteEvent (s : State) (ev : EvKey) : State :=
  match s.home ev with
  | none => s
  | some h =>
    let s1 := (releaseClaims s ev h).sendAll ((claimOrder h.offers).map fun o => .latchRefusal o.latch ev o.arm 4)
    { s1 with homes := kdel s1.homes ev }

def serveEvdel (s : State) (c : Nat) (rd : Reg) (n : Nat) : Answer × State :=
  let ev := evKey s c n
  match s.home ev with
  | some _ => if isGangName n then (answerReg rd 0, s) else (answerReg rd 1, deleteEvent s ev)
  | none => (answerReg rd 0, s)

/-- The STATE of an occurrence record. -/
def homeCode (h : Home) : Nat := match h.st with
  | .waiting => 1
  | .claiming _ => 2
  | .backoff => 3
  | .commit => 4

/-- The occurrence record (R213); a take event's as R225 says. -/
def occurrenceRecord (s : State) (ev : EvKey) : List Byte :=
  match s.entry ev with
  | none => bytesOfNat 4 ev.name ++ List.replicate 60 0
  | some h =>
    let phase := isPhaseName s ev.name
    let kp := takePool ev.name
    let q := s.pool kp.1 kp.2
    let isTake := isTakeName ev.name
    let present := if isTake then q.takes.length + (h.offers.filter fun o => gidCtx o.latch.gid != 13).length
      else h.offers.length
    let word := homeCode h + (if h.spilled then 8 else 0) + (if phase then 16 else 0) + h.starve * 2 ^ 16
    bytesOfNat 4 ev.name ++ bytesOfNat 4 word ++ bytesOfNat 8 (if isTake then q.served else h.occ) ++ bytesOfNat 8 h.lasten ++
      bytesOfNat 4 present ++ bytesOfNat 4 0 ++
      (if phase then (List.range 4).flatMap fun i => bytesOfNat 8 (h.imbal.getD i 0).toNat else List.replicate 32 0)

/-- A record that came back is stored, and `rd` takes a value of it that the replay log holds (R213, R359, R435). -/
def storeRecord (i : Instr) (rd : Reg) (ea : Addr) (bs : List Byte) (v : Word) (s : State) : State :=
  s.store .store ea bs fun t =>
    let r := t.input t.cur.1 t.cur.2 4 v
    (r.2.setMe { r.2.me with recd := none }).ret i rd r.1

/-- An instruction that asks for a 64-byte record and stores it: the checks of the store, then the request, then the
store. -/
def recordAt (ea : Addr) (ask : State → State) (got : List Byte → State) (s : State) : State :=
  match s.me.recd with
  | some bs => got bs
  | none =>
    if s.replayFull s.cur.1 then s.hold .replay
    else if s.me.stale then s.hold .stale
    else match checkAccess s s.cur.1 s.me .store false ea 64 with
      | .ok _ _ => ask s
      | r => s.refuse .store r

def execEvstat (rd rs1 rs2 : Reg) (s : State) : Ans :=
  let i : Instr := .evstat rd rs1 rs2
  let ea := (xread s.me rs2).toNat
  .next (
    match regName s (xread s.me rs1) with
    | none => s.trap (badName (xread s.me rs1))
    | some n =>
      recordAt ea (fun t => t.request (byteLen i) (nameHome t t.cur.1 n) (.evstat rd n (xread t.me rs2)))
        (fun bs => storeRecord i rd ea bs (BitVec.ofNat 64 (field bs 4 4)) s) s)

/-! ## OFFER and WDRAW (R215-R217) -/

/-- The lower of two refused addresses. -/
def lowest (a b : Option Addr) : Option Addr := match a, b with
  | some x, some y => some (min x y)
  | some x, none => some x
  | none, b => b

/-- Stages an offer in the lowest free slot. -/
def stage (s : State) (o : Staged) : State :=
  match freeSlot s.me.staged with
  | some i => s.setMe { s.me with staged := tput s.me.staged i o }
  | none => s

/-- OFFER (R215): the name, the descriptors, the banks, and the staging. -/
def offer (i : Instr) (dir : Dir) (nv : Word) (gv tv : Option Word) (s : State) : State :=
  match regName s nv with
  | none => s.trap (badName nv)
  | some n =>
    let helper := decide (s.cur.2 ≠ 0)
    let rows := (queueView s s.cur.1).rows
    let g := gv.map fun v => parseRegion v true helper rows
    let t := tv.map fun v => parseRegion v false helper rows
    if g == some none || t == some none || stagedName s.me.staged n || (freeSlot s.me.staged).isNone then s.ill i 6
    else match lowest (regionRefused s.myCore (g.getD none)) (regionRefused s.myCore (t.getD none)) with
      | some a => s.trap (regionFault s.myCore a)
      | none => (stage s ⟨n, dir, g.getD none, t.getD none, none⟩).pass i

def execOfferSync (rn : Reg) (s : State) : Ans := .next (offer (.offerSync rn) .sync (xread s.me rn) none none s)
def execOfferGive (rn rg : Reg) (s : State) : Ans :=
  .next (offer (.offerGive rn rg) .give (xread s.me rn) (some (xread s.me rg)) none s)
def execOfferTake (rt rn : Reg) (s : State) : Ans :=
  .next (offer (.offerTake rt rn) .take (xread s.me rn) none (some (xread s.me rt)) s)
def execOfferBoth (rt rn rg : Reg) (s : State) : Ans :=
  .next (offer (.offerBoth rt rn rg) .both (xread s.me rn) (some (xread s.me rg)) (some (xread s.me rt)) s)

def execWdraw (slot : BitVec 3) (s : State) : Ans :=
  .next ((s.setMe { s.me with staged := tdel s.me.staged slot.toNat }).pass (.wdraw slot))
def execWdrawAll (s : State) : Ans := .next ((s.setMe { s.me with staged := [] }).pass .wdrawAll)

/-! ## SELECT (R218) -/

/-- The staged set as offers. -/
def stagedWants (s : State) : List Want :=
  s.me.staged.map fun e =>
    ⟨e.1, evKey s s.cur.1 e.2.name, e.2.dir, e.2.give, e.2.take, e.2.copy, []⟩

/-- DIVERGE reason 1: the set does not contain the next logged event (R439). -/
def checkArming (s : State) (evs : List EvKey) : State :=
  match waitItem s s.cur.1 s.cur.2, s.wgOf s.cur.1 with
  | some (.commit e), some (n, w) =>
    if evs.contains e then s
    else s.diverge n w s.cur.1 1 s.me.logPos (BitVec.ofNat 64 e.name) (BitVec.ofNat 64 (evs.head?.elim 0 (·.name)))
  | _, _ => s

/-- SELECT: the release (R305), then the arming, and the wait. -/
def select (i : Instr) (t : Bool) (rd : Reg) (limit : Nat) (s : State) : State :=
  if s.me.staged.isEmpty then s.ill i 6
  else if s.replayFull s.cur.1 then s.hold .replay
  else s.release fun u =>
    let ws := stagedWants u
    armLatch ((checkArming u (ws.map (·.ev))).hold (.select t rd (byteLen i))) (ctxLatch u u.cur.1 u.cur.2) false limit
      u.me.backoff ws

/-- SELECT with LEN 10: the limit is LIT, whose upper half is zero. -/
def selectLit (i : Instr) (t : Bool) (rd : Reg) (lit : Word) (s : State) : State :=
  if 2 ^ 32 ≤ lit.toNat then s.ill i 6 else select i t rd lit.toNat s

def execSelectNb (rd : Reg) (s : State) : Ans := .next (select (.selectNb rd) false rd s.me.evlim.toNat s)
def execSelectT (rd : Reg) (s : State) : Ans := .next (select (.selectT rd) true rd s.me.evlim.toNat s)
def execSelectNbLimit (rd : Reg) (lit : BitVec 64) (s : State) : Ans :=
  .next (selectLit (.selectNbLimit rd lit) false rd lit s)
def execSelectTLimit (rd : Reg) (lit : BitVec 64) (s : State) : Ans :=
  .next (selectLit (.selectTLimit rd lit) true rd lit s)

/-! ## PHASE and GANG (R220, R221) -/

/-- A plan entry whose fields are in range as OFFER's would be. -/
def entryFits (e : PlanEntry) : Bool :=
  let ok (r : Option Region) : Bool := match r with
    | some g => g.len ≤ 4096 && g.place + g.len ≤ 2 ^ 21
    | none => true
  e.ok && ok e.give && ok e.take

/-- What stops a step before anything is armed (R200, R201): an ill-formed entry, a name, a bank. -/
def planFault (s : State) (es : List PlanEntry) : Option Cause :=
  let refused (r : Option Region) : Option Addr := regionRefused s.myCore r
  match es.zipIdx.find? fun e => !entryFits e.1 with
  | some e => some (cause 0x10 (BitVec.ofNat 64 ((256 + 16 * 3 + e.2) * 2 ^ 32 + e.1.name)))
  | none => match es.find? fun e => !nameValid s s.myCore.part e.name with
    | some e => some (badName (BitVec.ofNat 64 e.name))
    | none => match es.findSome? fun e => lowest (refused e.give) (refused e.take) with
      | some a => some (regionFault s.myCore a)
      | none => none

/-- The direction of a plan entry. -/
def planDir (n : Nat) : Dir := if n = 0 then .sync else if n = 1 then .give else if n = 2 then .take else .both

/-- EXCHANGE_SEQUENCER_OFFER (R201): each offer of the step that has not occurred is armed on its own latch; one that a
refusal was withdrawing stays offered. -/
def armExchange (s : State) (es : List PlanEntry) (left : List Nat) : State :=
  left.foldl (fun t i =>
    let l := exchLatch s s.cur.1 i
    match (t.latch l).st, es[i]? with
    | .idle, some e => armLatch t l true 0 0 [⟨i, evKey s s.cur.1 e.name, planDir e.dir, e.give, e.take, none, []⟩]
    | .claimed _ _, _ => t.setLatch l { t.latch l with expPend := false }
    | _, _ => t) s

/-- What PHASE raises in place of waiting: a refusal of an exchange offer that came while the context was elsewhere (R220), or what stops
the step before it begins. -/
def phaseFault (s : State) (x : Exchange) (es : List PlanEntry) : Option Cause :=
  match x.refused with
  | some (name, hi) => some (cause 0x10 (BitVec.ofNat 64 (hi * 2 ^ 32 + name)))
  | none => if x.running then none else planFault s es

def execPhase (rd : Reg) (s : State) : Ans :=
  .next (
    if s.cur.2 ≠ 0 then s.ill (.phase rd) 6
    else match s.myCore.exch with
      | none => s.trap (badName 0)
      | some x =>
        if !x.past then s.trap (badName 0)
        else
          let es := planStep s x x.step
          match phaseFault s x es with
          | some cz => ((s.updCore s.cur.1 fun k => { k with exch := some { x with refused := none } }) : State).trap cz
          | none =>
            if s.replayFull s.cur.1 then s.hold .replay
            else s.release fun u =>
              let left := if x.running then x.left else List.range es.length
              let ev := evKey u u.cur.1 x.phase
              let u1 := (checkArming u [ev]).updCore u.cur.1 fun k => { k with exch := some { x with running := true, left := left } }
              armLatch (armExchange (u1.hold (.phase rd)) es left) (ctxLatch u u.cur.1 0) false 0 0 [syncWant 0 ev])

/-- The six cores of a core's gang are placed in its launch. -/
def gangPlaced (s : State) (c : Nat) : Bool :=
  match (s.core c).wg with
  | none => false
  | some n => (List.range 6).all fun p => (s.core (gangCore (gangOf c) p)).wg == some n

def execGang (s : State) : Ans :=
  .next (
    if s.cur.2 ≠ 0 then s.ill .gang 6
    else if !gangPlaced s s.cur.1 then s.trap (badName 0)
    else if s.replayFull s.cur.1 then s.hold .replay
    else s.release fun u =>
      let ev := evKey u u.cur.1 (gangName (gangOf u.cur.1))
      armLatch ((checkArming u [ev]).hold .gang) (ctxLatch u u.cur.1 0) false 0 0 [syncWant 0 ev])

/-! ## SPAWN and HEND (R222, R223) -/

/-- The lowest helper that is not live. -/
def freeHelper (k : Core) : Option Nat := ((List.range 10).map (· + 1)).find? fun h => !(k.ctx h).live

/-- A helper as SPAWN makes it: the state of R13, the spawner's level, classes and address space (R284, R289). What the
helper's number still owes its homes stays owed. -/
def newHelper (old parent : Ctx) (entry frame : Word) : Ctx :=
  let k := { Ctx.reset with live := true, pc := entry, priv := parent.priv, cclass := parent.cclass, rescls := parent.rescls,
                            asid := parent.asid, ptroot := parent.ptroot, owed := old.owed, released := old.released,
                            logPos := old.logPos }
  xwrite k 2 frame

/-- What is in the wide queue happens before a helper's accesses (R222). -/
def queueBefore (h : Nat) (k : Core) : Core :=
  { k with wide := { k.wide with queue := k.wide.queue.map fun e => { e with helpers := nadd e.helpers h } } }

def execSpawn (rd rs1 rs2 : Reg) (s : State) : Ans :=
  .next (
    let i : Instr := .spawn rd rs1 rs2
    let entry := xread s.me rs1
    if s.cur.2 ≠ 0 ∨ entry.extractLsb' 0 2 ≠ 0 then s.ill i 6
    else match freeHelper s.myCore with
      | none => s.ret i rd 0
      | some h =>
        let new := newHelper (s.ctx s.cur.1 h) s.me entry (xread s.me rs2)
        ((s.updCore s.cur.1 fun k => { queueBefore h k with endFlags := tdel k.endFlags h }).setCtx s.cur.1 h new).ret i rd (BitVec.ofNat 64 h))

/-- HEND: the helper is FREE; its flags stay (R64). -/
def execHend (s : State) : Ans :=
  .next (if s.cur.2 = 0 then s.ill .hend 6 else s.setMe { s.me with live := false, staged := [], pend := [] })

/-! ## Work pools (R224-R230) -/

def execTake (rs1 rs2 : Reg) (s : State) : Ans :=
  .next (
    let i : Instr := .take rs1 rs2
    let p := (xread s.me rs1).toNat
    let w := (xread s.me rs2).toNat
    if 15 < p ∨ 2 ^ 21 ≤ w ∨ (freeSlot s.me.staged).isNone then s.ill i 6
    else match regionRefused s.myCore (some ⟨.scratch, min 48 (2 ^ 21 - w), w⟩) with
      | some a => s.trap (regionFault s.myCore a)
      | none =>
        if 2 ^ 21 < w + 48 then s.trap (cause 0x05 (BitVec.ofNat 64 (2 ^ 21)))
        else (stage s ⟨ename 3 (clusterOf s.cur.1) (0xFF00 + p), .take, none, some ⟨.scratch, 48, w⟩, none⟩).pass i)

/-- DONE: the acknowledgements of the context's stores, then its request (R227). -/
def execDone (rs1 rs2 : Reg) (s : State) : Ans :=
  .next (
    let h := xread s.me rs1
    let n := xread s.me rs2
    let s1 := releaseSend s s.cur.1 s.cur.2
    if releaseOk s1 s.cur.1 s.cur.2 then s1.request 4 (homeNum s.dev s.cur.1) (.done h n) else s1.hold (.storeAcks h n))

/-- The task a handle names in the pools of a cluster. -/
def taskOf (s : State) (k : Nat) (h : Word) : Option (Nat × Nat × Task) :=
  let p := bits h.toNat 0 4
  let slot := bits h.toNat 4 6
  match tfind (s.pool k p).tasks slot with
  | some t => if h.toNat = taskHandle p slot t then some (p, slot, t) else none
  | none => none

def poolTask (v : Word) : Cause := cause 0x12 v

/-- The pool's answer to a DONE (R198, R227). -/
def serveDone (s : State) (c : Nat) (h n : Word) : Answer × State :=
  let k := clusterOf c
  match taskOf s k h with
  | none => (answerTrap (poolTask h), s)
  | some (p, slot, t) =>
    if t.hi.toNat - t.lo.toNat < t.retired + n.toNat then (answerTrap (poolTask h), s)
    else
      let q := s.pool k p
      (noAnswer, s.setPool k p { q with tasks := tput q.tasks slot { t with retired := t.retired + n.toNat } })

def execPoolcfg (rd rs1 rs2 : Reg) (s : State) : Ans :=
  .next (
    if 15 < (xread s.me rs1).toNat ∨ 7 < (xread s.me rs2).toNat then s.ill (.poolcfg rd rs1 rs2) 6
    else s.request 4 (homeNum s.dev s.cur.1) (.poolcfg rd (xread s.me rs1).toNat (xread s.me rs2)))

/-- The intervals a pool holds. -/
def intervalCount (q : Pool) : Nat := (q.tasks.map fun t => t.2.intervals.length).foldl (· + ·) 0

/-- The status word of a pool (R230). -/
def poolStatus (q : Pool) : Word :=
  BitVec.ofNat 64 ((if q.en then 2 ^ 31 else 0) + (if q.cerr then 2 ^ 30 else 0) + q.tasks.length * 2 ^ 16 + intervalCount q)

def servePoolcfg (s : State) (c : Nat) (rd : Reg) (p : Nat) (cfg : Word) : Answer × State :=
  let k := clusterOf c
  let q := s.pool k p
  let q1 := if cfg.getLsbD 2 then q else { q with en := cfg.getLsbD 0 }
  let q2 := if cfg.getLsbD 1 then
      { q1 with tasks := [], gens := (List.range 64).map fun i => (i, (tget 0 q1.gens i + 1) % 4096) } else q1
  (answerReg rd (poolStatus q2), s.setPool k p { q2 with cerr := false })

/-- The rules of R228 on a range task descriptor. -/
def taskDescOk (bs : List Byte) : Bool :=
  field bs 0 8 % 4 == 0 && field bs 16 8 < field bs 24 8 && 1 ≤ field bs 32 4 && field bs 40 8 == 0

def execPoolput (rd rs1 rs2 : Reg) (s : State) : Ans :=
  let i : Instr := .poolput rd rs1 rs2
  let a := xread s.me rs2
  .next (
    s.load .load a.toNat 48 fun bs t =>
      if !taskDescOk bs || !nameValid t t.myCore.part (field bs 36 4) then t.trap (poolTask a)
      else if 15 < (xread t.me rs1).toNat then t.ill i 6
      else t.request 4 (homeNum t.dev t.cur.1) (.poolput rd (xread t.me rs1).toNat bs a))

/-- The lowest free task slot. -/
def freeTask (q : Pool) : Option Nat := (List.range 64).find? fun i => (tfind q.tasks i).isNone

/-- Places a task in a pool (R229): its handle, or none where the pool is full. `ev` is its completion event. -/
def placeTask (q : Pool) (p : Nat) (bs : List Byte) (ev : EvKey) : Option (Nat × Pool) :=
  match freeTask q with
  | none => none
  | some slot =>
    if 256 ≤ intervalCount q then none
    else
      let w (off : Nat) : Word := BitVec.ofNat 64 (field bs off 8)
      let t : Task := ⟨w 0, w 8, w 16, w 24, field bs 32 4, ev, tget 0 q.gens slot, q.nextAge, 0,
        [(field bs 16 8, field bs 24 8)], false⟩
      some (taskHandle p slot t,
        { q with tasks := tput q.tasks slot t, gens := tput q.gens slot ((t.gen + 1) % 4096), nextAge := q.nextAge + 1 })

def servePoolput (s : State) (c : Nat) (rd : Reg) (p : Nat) (bs : List Byte) (addr : Word) : Answer × State :=
  let k := clusterOf c
  let q := s.pool k p
  if !q.en then (answerTrap (poolTask addr), s)
  else match placeTask q p bs (evKey s c (field bs 36 4)) with
    | none => (answerReg rd 0, s)
    | some (h, q1) => (answerReg rd (BitVec.ofNat 64 h), s.setPool k p q1)

/-- An agent's latch is claimed or committed: a change of what it offers waits for the end of the claim. -/
def latchBusy (s : State) (l : LatchId) : Bool := match (s.latch l).st with
  | .claimed _ _ => true
  | .committed _ => true
  | _ => false

/-- A POOLCFG waits while an occurrence of one of the pool's agents is decided. -/
def poolBusy (s : State) (k p : Nat) : Bool :=
  latchBusy s (poolLatch s k p) || (s.pool k p).tasks.any fun t => latchBusy s (taskLatch s k p t.1)

/-! ## DOMSET (R231) -/

/-- The launch domains that a core's LMEM and LBASE name. -/
def memberships (lmem lbase : Nat) : List Nat := ((List.range 16).filter fun k => nbit lmem k).map (lbase + ·)

/-- LBASE names the 16 launch domains of one running launch of the core's partition. -/
def baseValid (s : State) (part : Option Nat) (base : Nat) : Bool :=
  match tfind s.ldoms base with
  | none => false
  | some d0 => (List.range 16).all fun k => match tfind s.ldoms (base + k) with
    | some d => d.running && some d.part == part && d.wg == d0.wg
    | none => false

/-- A launch domain has a defined event. -/
def domainUsed (s : State) (d : Nat) : Bool := s.homes.any fun h => nameDom h.1.name == d && 2 ≤ nameScope h.1.name

/-- The member list with a core added or removed, in ascending order; the recorded scope is the one that encloses the members
the domain has now (R167). -/
def setMember (s : State) (c d : Nat) (here : Bool) : State :=
  match tfind s.ldoms d with
  | none => s
  | some l =>
    let g := gidOf s.dev c 0
    let ms := if here then nadd l.members g else l.members.filter (· != g)
    let scope := if l.scope = 6 then 6 else enclosing (ms.map gidCore)
    { s with ldoms := tput s.ldoms d { l with members := ms, scope := scope } }

def execDomset (rs1 : Reg) (s : State) : Ans :=
  .next (
    let i : Instr := .domset rs1
    let v := xread s.me rs1
    let c := s.cur.1
    if s.me.priv = .u ∨ v.toNat % 2 ^ 35 ≠ 0 then s.ill i 6
    else
      let lmem := bits v.toNat 48 16
      let lbase := bits v.toNat 35 13
      let old := memberships s.myCore.lmem.toNat s.myCore.lbase.toNat
      let new := memberships lmem lbase
      let gone := old.filter fun d => !new.contains d
      let came := new.filter fun d => !old.contains d
      if !baseValid s s.myCore.part lbase || (gone ++ came).any (domainUsed s) then s.trap (eventDesc v)
      else
        let s1 := came.foldl (fun t d => setMember t c d true) (gone.foldl (fun t d => setMember t c d false) s)
        (s1.updCore c fun k => { k with lmem := BitVec.ofNat 16 lmem, lbase := BitVec.ofNat 13 lbase }).pass i)

/-! ## FIFOBIND (R232) -/

def execFifobind (rs3 rs1 rs2 : Reg) (s : State) : Ans :=
  .next (
    let b := xread s.me rs1
    let n := xread s.me rs2
    let d := xread s.me rs3
    let req := s.request 4 (homeNum s.dev s.cur.1) (.fifobind b.toNat n d)
    if 31 < b.toNat ∨ s.myCore.role b.toNat ≠ .fifo then
      s.trap { cause 0x05 (b <<< 16) with reason := if 31 < b.toNat then 0 else (s.myCore.role b.toNat).code }
    else if n = 0 then req
    else if s.myCore.fifo.any fun f => f.2.bound.isSome then s.trap (eventDesc n)
    else if (regName s n).isNone then s.trap (badName n)
    else if d ≠ 0 ∧ (regName s d).isNone then s.trap (badName d)
    else req)

/-- The SIZE of a channel that a core's FIFO agent takes part in. -/
def fifoChannel (s : State) (agent : Gid) (n : EvKey) : Option Nat :=
  match s.home n with
  | some h => if h.desc.mode = .channel ∧ h.desc.parts.contains agent then some h.desc.size else none
  | none => none

/-- A SYNC event of two participants, one a core's FIFO agent. -/
def fifoReady (s : State) (agent : Gid) (d : EvKey) : Bool :=
  match s.home d with
  | some h => h.desc.mode == .sync && h.desc.parts.length == 2 && h.desc.parts.contains agent
  | none => false

/-- Changes a bank's binding. -/
def bindFifo (s : State) (c b : Nat) (v : Option (Nat × Nat × Nat)) : State :=
  s.updCore c fun k => { k with fifo := tput k.fifo b { tget FifoBank.reset k.fifo b with bound := v } }

/-- What a stage of FIFOBIND leads to: its answer, or the home it goes to next. -/
inductive BindStage where
  | done (a : Answer) (s : State)
  | goes (home : Nat) (r : Request)
  deriving DecidableEq, Repr

/-- FIFOBIND at its own router: an unbind is done; a bind goes to the homes of N and D. -/
def serveFifobind (s : State) (c b : Nat) (n d : Word) : BindStage :=
  if n = 0 then
    let s1 := bindFifo s c b none
    let drop (t : State) (l : LatchId) : State := if (t.latch l).st = .armed then idleLatch t l else t
    .done noAnswer (drop (drop s1 (fifoLatch s c b false)) (fifoLatch s c b true))
  else
    let name := evKey s c n.toNat
    .goes name.home (.fifoname (gidOf s.dev c 14) b name (if d = 0 then none else some (evKey s c d.toNat)) none)

/-- FIFOBIND at the home of N, which checks the channel, and at that of D, which checks the ready event. -/
def serveFifoname (s : State) (agent : Gid) (b : Nat) (n : EvKey) (d : Option EvKey) (size : Option Nat) : BindStage :=
  let back (v : Nat) : BindStage := .goes (homeNum (gidDev agent) (gidCore agent)) (.fifobound b n.name v (d.elim 0 (·.name)))
  let bad (e : EvKey) : BindStage := .done (answerTrap (eventDesc (BitVec.ofNat 64 e.name))) s
  match size, d with
  | none, _ => match fifoChannel s agent n, d with
    | none, _ => bad n
    | some v, none => back v
    | some v, some e => .goes e.home (.fifoname agent b n d (some v))
  | some v, some e => if fifoReady s agent e then back v else bad e
  | some v, none => back v

/-- FIFOBIND back at its router: bound, unless a bank of the core has been bound meanwhile. -/
def serveFifobound (s : State) (c b n size d : Nat) : Answer × State :=
  if (s.core c).fifo.any fun f => f.2.bound.isSome then (answerTrap (eventDesc (BitVec.ofNat 64 n)), s)
  else (noAnswer, bindFifo s c b (some (n, size, d)))

/-- An unbind waits while the bank's agent is claimed or committed. -/
def fifoBusy (s : State) (c b : Nat) : Bool := latchBusy s (fifoLatch s c b false) || latchBusy s (fifoLatch s c b true)

end Sys2Proof.Machine
end

