-- ==== Sys2Proof/Machine/Holder.lean ====
section
/-!
DEFINITION. Where an answer is written (17_launch_preemption_traps.md R401, R403, R404): at its context on the core, or in the image
that holds the context's records while its workgroup is off the core.
-/

namespace Sys2Proof.Machine

open Sys2Proof

/-- An answer is still owed to a context. -/
def owesAnswer (x : Ctx) : Bool := match x.wait with
  | .request _ => true
  | .amo _ _ _ => true
  | _ => false

/-- The control-side records of an image come back to a core. -/
def restoreControl (k : Core) (m : Image) : Core :=
  { k with ctxs := m.ctxs, rr := m.rr, tvec := m.tvec, htvec := m.htvec, hdeleg := m.hdeleg, mb := m.mb, mbFull := m.mbFull,
           wpBase := m.wpBase, wpCtl := m.wpCtl, reports := m.reports, lmem := m.lmem, lbase := m.lbase, sysdom := m.sysdom,
           sysv := m.sysv, exch := m.exch, part := some m.part, lastPart := some m.part, wg := some m.wg }

/-- A core with the records of an image in the place of its own, for the writing of one answer. -/
def lendCore (k : Core) (m : Image) : Core := { restoreControl k m with wide := m.wide, run := .halted, image := none }

/-- The core's own records again. -/
def takeCore (k t : Core) : Core :=
  { t with ctxs := k.ctxs, rr := k.rr, tvec := k.tvec, htvec := k.htvec, hdeleg := k.hdeleg, mb := k.mb, mbFull := k.mbFull,
           wpBase := k.wpBase, wpCtl := k.wpCtl, reports := k.reports, lmem := k.lmem, lbase := k.lbase, sysdom := k.sysdom,
           sysv := k.sysv, exch := k.exch, part := k.part, lastPart := k.lastPart, wg := k.wg, wide := k.wide, run := k.run,
           image := k.image }

/-- Where the records of a context lie whose workgroup does not run: parked on its core (R406), or saved, by workgroup and image core
(R404). -/
inductive Holder where
  | parked
  | saved (n i : Nat)
  deriving DecidableEq, Repr

/-- The image in which a context's records lie. -/
def imageAt (s : State) (c x : Nat) : Option (Holder × Image) :=
  let saved : Option (Holder × Image) := match tfind s.wgs (x / 16 - 1) with
    | some w => (w.map.find? fun e => e.2 == c).bind fun e => (tfind w.images e.1).map fun m => (.saved (x / 16 - 1) e.1, m)
    | none => none
  match (s.core c).parked with
  | some m => if m.wg + 1 = x / 16 then some (.parked, m) else saved
  | none => saved

/-- The ANS bit in the byte of a header that holds it (R403). -/
def ansByte (b : Byte) (owed : Bool) : Byte := (b &&& ~~~0x10) ||| (if owed then 0x10 else 0)

/-- The ANS bit of the image in a CADDY bank of a core. -/
def markBank (s : State) (c : Nat) (bank : Option Nat) (owed : Bool) : State := match bank with
  | some b => s.updCore c fun k => { k with loc := memSet k.loc (b * 65536 + 17) (ansByte (memByte k.loc (b * 65536 + 17)) owed) }
  | none => s

/-- An image with an answer written into it: its records, and the ANS bit of its header, in the CADDY bank or in its copy in the save
area (R404). -/
def putImage (s : State) (c : Nat) (p : Holder) (m : Image) : State :=
  let owed := m.ctxs.any fun e => owesAnswer e.2
  match p with
  | .parked => markBank (s.updCore c fun k => { k with parked := some m }) c (s.core c).caddies.getLast? owed
  | .saved n i =>
    let s1 := match tfind m.places 32, tfind s.parts m.part with
      | some a, some q => homeWrite s q.key (a + 17) [ansByte ((homeBytes s q.key (a + 17) 1).headD 0) owed]
      | _, _ => s
    match tfind s1.wgs n with
    | some w => { s1 with wgs := tput s1.wgs n { w with images := tput w.images i m } }
    | none => s1

/-- The ANS bit of the image of a core that stands halted on its own core. -/
def markHere (c : Nat) (s : State) : State :=
  if (s.core c).image.isSome then markBank s c (s.core c).caddies.head? ((s.core c).ctxs.any fun e => owesAnswer e.2) else s

/-- The records of a context are on its core: it is named without a workgroup, or as one of what the core runs. -/
def isHere (s : State) (c x : Nat) : Bool := decide (2 ^ 16 ≤ c) || decide (x < 16) || x / 16 == wgTag (s.core c)

/-- The state in which a context's records stand on its core. -/
def lent (s : State) (c x : Nat) : State :=
  if isHere s c x then s
  else match imageAt s c x with
    | some h => s.setCore c (lendCore (s.core c) h.2)
    | none => s

/-- Does what an answer does where the records of its context are; a workgroup that is gone is owed nothing. -/
def onHolder (c x : Nat) (f : State → State) (s : State) : State :=
  if isHere s c x then markHere c (f s)
  else match imageAt s c x with
    | none => s
    | some h =>
      let k := s.core c
      let t := f (s.setCore c (lendCore k h.2))
      let q := t.core c
      putImage (t.setCore c (takeCore k q)) c h.1
        { h.2 with ctxs := q.ctxs, wide := q.wide, exch := q.exch, reports := q.reports }

end Sys2Proof.Machine
end

