-- ==== Sys2Proof/Machine/MemEvents.lean ====
section
/-!
DEFINITION. The machine's own steps in the memory system: fills and answers (R42, R96, R276, R282), acknowledgements and
releases (R191, R305), AMOs and partials at the home (R308, R309), table walks (R291-R296), the global scratchpad and
host windows (R288, R455, R458-R460) and the end of a bank role change (R271, R272).
-/

namespace Sys2Proof.Machine

open Sys2Proof

/-! ## Answers -/

/-- The answer of an abandoned load arrives and is dropped (R114). -/
def dropStale (s : State) (c x : Nat) : State :=
  s.updCtx c x fun k => { k with stale := false, wait := if k.wait = .stale then .none else k.wait }

/-- Bytes come back for a context: a load that gathers them, an AMO that retires, a fetch. -/
def dataReturn (s : State) (c x : Nat) (data : List Byte) : State :=
  if (s.ctx c x).stale then dropStale s c x
  else match (s.ctx c x).wait with
  | .data _ _ => s.updCtx c x fun k => { k with rdata := some (k.rdata.getD [] ++ data), wait := .none }
  | .request _ => s.updCtx c x fun k => { k with recd := some data, wait := .none }
  | .amo rt n _ => s.updCtx c x fun k => { advance (amoWrite k rt n (natOfBytes data)) 4 with wait := .none }
  | .fetch pa _ => s.updCtx c x fun k => { k with fetched := tput k.fetched pa (wordOfBytes (data.take 4)), wait := .none }
  | _ => s

/-- LOAD_DATA_RETURN: at the context, wherever its records are. -/
def execLoadDataReturn (core ctx : Nat) (data : List Byte) (s : State) : Ans :=
  .next (onHolder core ctx (fun t => dataReturn t core (ctx % 16) data) s)

/-- The words of the 1,024-byte block of an address, where the cache does not hold them under the key yet. -/
def fillBlock (s : State) (key base : Nat) : Nat → Tbl (Nat × Half) → Tbl (Nat × Half)
  | 0, t => t
  | n + 1, t =>
    let t1 := fillBlock s key base n t
    if (tfind t1 (base / 4 + n)).any fun e => e.1 == key then t1
    else tput t1 (base / 4 + n) (key, wordOfBytes (homeBytes s key (base + 4 * n) 4))

/-- The words of a fetch arrive, under the key of its issue (R269), and the contexts that wait for them are ready. A fetch that was
abandoned brings nothing. -/
def wordsFill (core ctx : Nat) (pa : Addr) (s : State) : State :=
  match target pa with
  | .gddr =>
    match (s.ctx core (ctx % 16)).wait with
    | .fetch p key =>
      if p ≠ pa then s
      else
        let s1 := settle (homeTouch s key (pa / 1024) (s.ctx core (ctx % 16))) (pa / 1024 * 1024) 1024
        s1.updCore core fun k =>
          ({ k with icache := fillBlock s1 key (pa / 1024 * 1024) 256 k.icache } : Core).wakeIf fun w => match w with
            | .fetch p q => p / 1024 == pa / 1024 && isGddr p && q == key
            | _ => false
    | _ => s
  | .window dev c loc =>
    if dev = s.dev then dataReturn (countRefused s c loc 4) core (ctx % 16) (windowBytes s c loc 4)
    else s.toDevice core dev (.windowAccessAtTarget ⟨s.dev, core, ctx, pa, 4, .load⟩)
  | .host => s.emit (.hostLoad core ctx (pa % 2 ^ 48) 4)
  | .none => s

/-- INSTRUCTION_FETCH_FILL (R42). -/
def execInstructionFetchFill (core ctx : Nat) (pa : Addr) (s : State) : Ans :=
  .next (onHolder core ctx (wordsFill core ctx pa) s)

/-! ## Store buffer, acknowledgements, releases -/

/-- Wakes the contexts that waited for a buffered store of these sectors. -/
def wakeStores (s : State) (c : Nat) (secs : List Nat) : State :=
  s.updCore c fun k => k.wakeIf fun w => match w with
    | .stbuf => true
    | .fill q => secs.contains q
    | _ => false

/-- Takes an entry off a list once. -/
def dropOnce (e : StEntry) : List StEntry → List StEntry
  | [] => []
  | f :: t => if f = e then t else f :: dropOnce e t

/-- An acknowledgement of a direct store reaches its context's core (R191, R305). -/
def acked (s : State) (c x : Nat) (e : Option StEntry) : State :=
  let s1 := s.updCore c fun k =>
    { k with stbuf := (match e with | some e => dropOnce e k.stbuf | none => k.stbuf), sent := k.sent - 1, active := true }
  let s2 := s1.updCtx c x fun k => { k with owed := k.owed - 1 }
  match e with
  | some e => wakeStores s2 c (sectorsOf e.pa e.data.length)
  | none => s2

/-- A store of the core to the same sector is older than this one and still buffered (R303). -/
def olderStore (k : Core) (e : StEntry) : Bool :=
  (sectorsOf e.pa e.data.length).any fun q => (sectorStores k q).head? != some e

/-- The oldest direct store of a context to a home. It waits for a partial and for an older store of its sector (R98, R303). -/
def oldestDirect (s : State) (c x : Nat) : Option StEntry :=
  ((s.core c).stbuf.find? fun e => e.ctx == x && e.direct && isGddr e.pa).filter fun e =>
    !((sectorsOf e.pa e.data.length).any (partialOut s c) || olderStore (s.core c) e)

/-- The oldest store of a context to a bank of another device. -/
def oldestRemote (s : State) (c x dev : Nat) : Option StEntry :=
  (s.core c).stbuf.find? fun e => e.ctx == x && e.direct && (match target e.pa with
    | .window d _ _ => d == dev
    | _ => false)

/-- The number under which a device acknowledges what a context of another one has stored in its banks: with the device. -/
def ackFrom (dev ctx : Nat) : Nat := ctx + 2 ^ 40 * (dev + 1)

/-- STORE_ACK (R191, R310, R455): the context's oldest unacknowledged store to a home is performed there and acknowledged; one to a bank of
another device, which its number names, has been performed there; under number 11, a write of the cluster's copy engine. -/
def execStoreAck (core ctx : Nat) (s : State) : Ans :=
  .next (
    let x := ctx % 16
    if x = 11 then
      let g := s.cluster (clusterOf core)
      s.setCluster (clusterOf core) { g with copy := { g.copy with owed := g.copy.owed - 1 } }
    else if 2 ^ 40 ≤ ctx then
      (match oldestRemote s core x (ctx / 2 ^ 40 - 1) with
        | some e => acked s core x (some e)
        | none => s)
    else match oldestDirect s core x with
    | none => s
    | some e =>
      let s1 := homeWrite (homeTouch s e.key (e.pa / 1024) (s.ctx core x)) e.key e.pa e.data
      let s2 := watchHome s1 e.pa e.data.length (gidOf s.dev core x) .remoteStore (some core)
      acked s2 core x (some e))

/-- A context has stored to the host and waits for the acknowledgement, in a release, or where its core is to stand still (R401, R458). -/
def wantsFlush (s : State) (c x : Nat) : Bool :=
  let k := s.core c
  let v := k.ctx x
  !v.flushing && !v.stale && !(match v.wait with
      | .data _ _ => true
      | .fetch _ _ => true
      | _ => false) && (k.stbuf.any fun e => e.ctx == x && e.direct && target e.pa == .host) &&
    (k.run == .halting || k.haltPend || (match v.wait with
      | .release => true
      | .storeAcks _ _ => true
      | _ => false))

/-- The port sends a zero-length read after the context's stores (R458). -/
def sendFlush (s : State) (c x : Nat) : State :=
  (s.updCtx c x fun k => { k with flushing := true }).emit (.hostLoad c (s.asker c x) 0 0)

/-- RELEASE_COMPLETE (R305): the four conditions hold, and the context goes on; a DONE sends its request (R227). -/
def execReleaseComplete (core ctx : Nat) (s : State) : Ans :=
  .next (
    let s1 := releaseSend s core ctx
    if !releaseOk s1 core ctx then s1
    else match (s1.ctx core ctx).wait with
      | .release => s1.updCtx core ctx fun k => { k with wait := .none, relDone := true }
      | .storeAcks h n => (s1.updCtx core ctx fun k => { k with wait := .request 4 }).send (.requestAnswer core (s1.asker core ctx) (.done h n))
      | _ => s1)

/-! ## Fills -/

/-- Takes a buffered store off and performs it: in the L1 that holds its sector, or else at the home. -/
def applyStore (c : Nat) (inL1 : Bool) (e : StEntry) (s : State) : State :=
  let s1 := s.updCore c fun k => { k with stbuf := dropOnce e k.stbuf }
  if inL1 then storeL1 s1 c e.ctx e.key e.pa e.data
  else watchHome (homeWrite (homeTouch s1 e.key (e.pa / 1024) (s1.ctx c e.ctx)) e.key e.pa e.data) e.pa e.data.length
    (gidOf s.dev c e.ctx) .remoteStore (some c)

/-- The stores of a sector that a fill under a key lets be performed: those before the first that goes straight to the home or that is
under another key (R97, R285, R303). -/
def fillStores (hasL1 : Bool) (key : Nat) (es : List StEntry) : List StEntry :=
  es.takeWhile fun e => !e.direct && (!hasL1 || e.key == key)

/-- Performs the buffered stores of a sector that a fill allows, in order; where a direct one comes behind them, at the home. What is left
asks for a fill of its own. -/
def applyStores (c sec key : Nat) (s : State) : State :=
  let k := s.core c
  let es := sectorStores k sec
  let now := fillStores k.hasL1 key es
  let rest := es.drop now.length
  let s1 := now.foldl (fun t e => applyStore c (k.hasL1 && hasSector (t.core c) sec key) e t) s
  match rest.find? fun e => !e.direct with
  | some e => if s1.agenda.contains (.l1SectorFill c sec e.key) then s1 else s1.send (.l1SectorFill c sec e.key)
  | none => s1

/-- L1_SECTOR_FILL (R276): the sector comes in whole, clean, with its poison; then the stores that waited for it. Where a direct store to
the sector is still on its way the L1 takes no copy. -/
def execL1SectorFill (core sector key : Nat) (s : State) : Ans :=
  .next (
    let k := s.core core
    let held := match tfind k.l1 sector with
      | some t => if t.upd.isSome then 2 else if t.key = key then 1 else 3
      | none => 0
    if held = 2 then (sendPartial s core sector).send (.l1SectorFill core sector key)
    else
      let s1 := if held = 3 then dropSector s core sector else s
      let s2 :=
        if held = 1 || !k.hasL1 || (sectorStores k sector).any (·.direct) then s1
        else
          let r := allocWay s1 core sector
          let h := homeRead r.2 key (sector * 256) 256
          count (putSector h.2 core sector ⟨r.1, h.1, [], h.2.memPoison.contains sector, key, none, false, 0⟩) core 4 1
      wakeStores (applyStores core sector key s2) core [sector])

def execLlcFill (line key cls rcls : Nat) (s : State) : Ans := .next (llcInsert s line key cls rcls)

/-! ## AMOs and partials at the home -/

/-- An AMO at its home (R308): one step; a poisoned sector raises DATA_POISON and nothing is written (R315). -/
def amoHome (core ctx : Nat) (r : AmoReq) (s : State) : State :=
  let x := s.ctx core (ctx % 16)
  if s.memPoison.contains (r.pa / 256) then
    match x.wait with
    | .amo _ _ ea => s.trapAt core (ctx % 16) { cause 0x09 (BitVec.ofNat 64 ea) with access := .amo }
    | _ => s
  else
    let h := homeRead (homeTouch s r.key (r.pa / 1024) x) r.key r.pa r.n
    let old := natOfBytes h.1
    let s1 := match amoResult r.op r.n old r.v r.c with
      | some new => homeWrite h.2 r.key r.pa (bytesOfNat r.n new)
      | none => h.2
    let s2 := watchHome s1 r.pa r.n (gidOf s.dev core (ctx % 16)) .remoteAmo (some core)
    s2.send (.loadDataReturn core ctx (bytesOfNat r.n old))

/-- AMO_AT_HOME. -/
def execAmoAtHome (core ctx : Nat) (r : AmoReq) (s : State) : Ans := .next (onHolder core ctx (amoHome core ctx r) s)

/-- Combines one touched element into its stored value; for FADD into the exact sum kept with the line (R309). -/
def combineElem (key op n : Nat) (s : State) (e : UpdElem) : State :=
  if op = 10 then
    let kept := match tfind s.fsums e.addr with
      | some f => if f.bits = n then some f else none
      | none => none
    let base := kept.getD (faddElem n (natOfBytes (homeBytes s key e.addr n)) e.addr)
    let t := addElem base e
    { s with mem := memWrite s.mem e.addr (bytesOfNat n (elemCode n t)), fsums := tput s.fsums e.addr t }
  else
    let old := natOfBytes (homeBytes s key e.addr n)
    { s with mem := memWrite s.mem e.addr (bytesOfNat n (amoFn op n old e.bits)) }

/-- Whether a kept sum of the line has another element size. -/
def mixedSums (s : State) (sec n : Nat) : Bool := s.fsums.any fun e => e.1 / 1024 == sec / 4 && e.2.bits != n

/-- UPD_PARTIAL_COMBINE (R309): the elements in order; a poisoned sector discards the partial. A FADD sum stays with its line until the
home reads, writes back or evicts that line; partials of another element size begin anew from the line's value (log 11). -/
def combinePartial (m : UpdMsg) (s : State) : State :=
  let s0 := homeTouch (s.updCore m.core fun k => { k with sent := k.sent - 1, active := true }) m.key (m.sector / 4) (s.ctx m.core 0)
  let s1 :=
    if s.memPoison.contains m.sector then s0
    else
      let a := m.sector * 256
      let s2 := rekey (if m.op ≠ 10 || mixedSums s m.sector m.n then settle s0 a 256 else s0) m.key m.sector
      m.elems.foldl (fun t e =>
        watchHome (combineElem m.key m.op m.n t e) e.addr m.n (gidOf s.dev m.core 0) .upd (some m.core)) s2
  wakeStores s1 m.core [m.sector]

def execUpdPartialCombine (m : UpdMsg) (s : State) : Ans := .next (combinePartial m s)

/-! ## Table walks (R296) -/

/-- The contexts of a cluster that wait for the same walk (R296): core, context, address and access kind. -/
def walkers (s : State) (k : Nat) (x : Ctx) (va : Addr) : List (Nat × Nat × Addr × Access) :=
  (clusterCores k).flatMap fun c =>
    (s.core c).ctxs.filterMap fun e =>
      match e.2.wait with
      | .walk v acc =>
        if e.2.asid = x.asid ∧ e.2.ptroot = x.ptroot ∧ v / 4096 % 2 ^ 45 = va / 4096 % 2 ^ 45 then some (c, e.1, v, acc) else none
      | _ => none

/-- The fault of a merged walk as another requester raises it (R296): its own address and kind. -/
def mergedFault (cz : Cause) (va : Addr) (acc : Access) : Cause :=
  let base := if cz.code = 0x01 then
      (if cz.reason ≤ 5 then (0x06, cz.reason) else if cz.reason = 8 then (0x07, 0) else (0x08, cz.reason - 8))
    else (cz.code, cz.reason)
  memFault acc base.1 va cz.level base.2

/-- PAGE_WALK (R291): every requester of the walk takes its result; a fault is raised in each as its own. -/
def execPageWalk (core ctx : Nat) (va : Addr) (access : Access) (s : State) : Ans :=
  .next (
    let x := s.ctx core ctx
    if x.wait ≠ .walk va access then s
    else
      let who := walkers s (clusterOf core) x va
      let r := walked s core x va access
      match r.1 with
      | .leaf _ => who.foldl (fun t w => t.wake w.1 w.2.1) r.2
      | .fault cz => who.foldl (fun t w => t.trapAt w.1 w.2.1 (mergedFault cz w.2.2.1 w.2.2.2)) r.2)

/-! ## Windows (R288, R455, R458-R460) -/

/-- Writes bytes in the SCRATCH banks of a core; others are dropped. `f` matches what is written. -/
def scratchRuns (c : Nat) (f : State → Nat → Nat → State) : Nat → Nat → List Byte → State → State
  | 0, _, _, s => s
  | fuel + 1, a, bs, s =>
    let m := 65536 - a % 65536
    let s1 := if bs.isEmpty then s
      else if (s.core c).role (a / 65536) = .scratch then f (locWrite s c a (bs.take m)) a (min m bs.length) else s
    if bs.length ≤ m then s1 else scratchRuns c f fuel (a + m) (bs.drop m) s1

/-- A write of another agent to a core's banks, with its watch matches (R423) and refused ranges. -/
def remoteWrite (s : State) (core loc : Nat) (bs : List Byte) (agent : Gid) (acc : Access) (own : Option Nat) : State :=
  scratchRuns core (fun t a n => watchBank t core a n agent acc own) (bs.length / 65536 + 2) loc bs
    (countRefused s core loc bs.length)

/-- The sectors of a core's SCRATCH banks in which bytes lie become poisoned. -/
def stainBank (c loc n : Nat) (s : State) : State :=
  s.updCore c fun k => { k with locPoison := ((sectorsOf loc n).filter fun q => k.role (q / 256) == .scratch).foldl nadd k.locPoison }

/-- Maximal runs of consecutive addresses. -/
def runsOf : List (Addr × Byte) → List (Addr × List Byte)
  | [] => []
  | (a, v) :: t => match runsOf t with
    | (b, vs) :: r => if b = a + 1 then (a, v :: vs) :: r else (a, [v]) :: (b, vs) :: r
    | [] => [(a, [v])]

/-- One write of some bytes of a part is matched once by each watchpoint, in the lowest watched byte that it carries (R423, R441). -/
def matchPart (s : State) (kind : Nat) (who : Gid) (bs : List (Addr × Byte)) : State :=
  let hit (ctl : Word) (a : Addr) : Option Nat :=
    (bs.find? fun b => a ≤ b.1 && b.1 < a + 16 && nbit (bits ctl.toNat 16 16) (b.1 - a)).map fun b => b.1 - a
  let s1 := s.watches.foldl (fun t w =>
    if w.2.2.1 = kind then match hit ((t.core w.1).wpCtl.getD w.2.1 0) w.2.2.2 with
      | some i => watchHit w.1 w.2.1 ((t.core w.1).wpBase.getD w.2.1 0).toNat i who .engine t
      | none => t
    else t) s
  if kind = 2 then s1.farWatches.foldl (fun t w => match hit w.ctl w.place with
    | some i => farHit w i who .engine t
    | none => t) s1
  else s1

/-- A part in a core's bank: written and matched where the bank is SCRATCH, else one refused range (R288). -/
def writeBankPart (s : State) (who : Gid) (core loc a : Nat) (bs : List (Addr × Byte)) : State :=
  if (s.core core).role (loc / 65536) = .scratch then
    matchPart ((runsOf bs).foldl (fun t r => locWrite t core (loc + (r.1 - a)) r.2) s) 2 who
      (bs.map fun b => (core * 2 ^ 21 + loc + (b.1 - a), b.2))
  else countRefused s core loc 1

/-- The core whose bank a window access reaches. -/
def winCore (w : WinAcc) : Nat := match target w.pa with
  | .window _ core _ => core
  | _ => 0

/-- Answers a window access with bytes or an acknowledgement: inside the package, or on its way to another device. -/
def answerWindow (s : State) (w : WinAcc) (data : Option (List Byte)) : State :=
  match data with
  | some bs =>
    if w.dev = s.dev then s.send (.loadDataReturn w.core w.ctx bs) else s.toDevice (winCore w) w.dev (.loadDataReturn w.core w.ctx bs)
  | none =>
    if w.dev = s.dev then
      acked s w.core (w.ctx % 16) ((s.core w.core).stbuf.find? fun e => e.ctx == w.ctx % 16 && e.direct && e.pa == w.pa)
    else s.toDevice (winCore w) w.dev (.storeAck w.core (ackFrom s.dev w.ctx))

/-- DATA_POISON at a context whose load or AMO met poison at its target (R112, R287, R315). `off` is the poisoned byte's place in its
page, which translation keeps; the host names none. A fetch takes no such cause: its word is free (log 9). -/
def poisonAt (s : State) (c x : Nat) (off : Option Nat) : State :=
  if (s.ctx c x).stale then dropStale s c x
  else match (s.ctx c x).wait with
    | .data ea _ =>
      s.trapAt c x { cause 0x09 (BitVec.ofNat 64 (off.elim ea fun o => ea + (o + 4096 - ea % 4096) % 4096)) with access := .load }
    | .amo _ _ ea => s.trapAt c x { cause 0x09 (BitVec.ofNat 64 ea) with access := .amo }
    | .fetch pa _ => dataReturn s.used c x ((List.range 4).map fun i => Config.imageByte s.dev s.draws (pa + i))
    | _ => s

/-- The poisoned byte of a window read goes back to its requester: to one on another device as the cause of an answer. -/
def windowPoison (s : State) (w : WinAcc) (i : Nat) : State :=
  if w.dev ≠ s.dev then
    s.toDevice (winCore w) w.dev (.requestAnswer w.core w.ctx (.answer ⟨[], 0, some (cause 0x09 (BitVec.ofNat 64 ((w.pa + i) % 4096))), false⟩))
  else onHolder w.core w.ctx (fun t => poisonAt t w.core (w.ctx % 16) (some ((w.pa + i) % 4096))) s

/-- A watchpoint of another device registers a range in a bank, unless the bank's 256 entries are in use (R422). -/
def watchFrom (s : State) (w : WinAcc) (place wp : Nat) (base ctl : Word) : State :=
  let room := bankWatches s (place / 65536) < 256
  let s1 := if room then { s with farWatches := s.farWatches ++ [⟨w.dev, w.core, wp, place, base, ctl⟩] } else s
  s1.toDevice (place / 2 ^ 21) w.dev (.requestAnswer w.core w.ctx (.watched wp room))

/-- WINDOW_ACCESS_AT_TARGET (R288, R455): the access is performed at the target bank. -/
def execWindowAccessAtTarget (w : WinAcc) (s : State) : Ans :=
  .next (
    match target w.pa with
    | .window dev core loc =>
      if dev ≠ s.dev then s.toDevice w.core dev (.windowAccessAtTarget w)
      else
        let own := if w.dev = s.dev then some w.core else none
        let who := gidOf w.dev w.core (w.ctx % 16)
        let scratch := (s.core core).role (loc / 65536) == .scratch
        match w.op with
        | .load =>
          match poisonIn ((s.core core).locPoison.filter fun q => (s.core core).role (q / 256) == .scratch) loc w.len with
          | some i => windowPoison (countRefused s core loc w.len) w i
          | none => answerWindow (countRefused s core loc w.len) w (some (windowBytes s core loc w.len))
        | .store bs => answerWindow (remoteWrite s core loc bs who .remoteStore own) w none
        | .stain => stainBank core loc w.len s
        | .watch wp base ctl => watchFrom s w (core * 2 ^ 21 + loc) wp base ctl
        | .unwatch wp =>
          ({ s with farWatches := s.farWatches.filter fun e => !(e.dev == w.dev && e.core == w.core && e.wp == wp) } : State).toDevice core w.dev
            (.requestAnswer w.core w.ctx (.answer ⟨[], 0, none, false⟩))
        | .part bs => answerWindow (writeBankPart s who core loc w.pa (bs.map fun b => (w.pa + b.1, b.2))) w none
        | .zero => answerWindow (remoteWrite s core loc (List.replicate 256 0) who .remoteStore own) w none
        | .upd op n v =>
          let old := natOfBytes (windowBytes s core loc n)
          answerWindow (remoteWrite s core loc (bytesOfNat n (updFn op n old v)) who .remoteStore own) w none
        | .amo r =>
          if scratch && (s.core core).locPoison.contains (loc / 256) then windowPoison s w 0
          else
            let old := natOfBytes (windowBytes s core loc r.n)
            let s1 := match amoResult r.op r.n old r.v r.c with
              | some new => remoteWrite s core loc (bytesOfNat r.n new) who .remoteAmo own
              | none => if scratch then watchBank s core loc r.n who .remoteAmo own else countRefused s core loc r.n
            answerWindow s1 w (some (bytesOfNat r.n old))
    | _ => s)

/-- Counts an error of the host port (R459, R464): POISON, UR, CA, TIMEOUT, POSTERR by number. -/
def countHost (s : State) (i : Nat) : State :=
  { s with hostRegs := { s.hostRegs with counts := lset s.hostRegs.counts i (s.hostRegs.counts.getD i 0 + 1) } }

/-- Bytes a waiting load has asked for. -/
def askedBytes (k : Ctx) : Nat := match k.wait with
  | .data _ n => n
  | .fetch _ _ => 4
  | _ => 0

/-- The address a waiting load or fetch asks. -/
def askedAt (k : Ctx) : Addr := match k.wait with
  | .data ea _ => ea
  | .fetch pa _ => pa
  | _ => 0

/-- A value comes from the host for a load or fetch: an input of the log (R435, R460), unless the load has been abandoned. -/
def hostValue (s : State) (core x : Nat) (bs : List Byte) : State :=
  if (s.ctx core x).stale then dropStale s core x
  else let r := dataInput s core x (askedAt (s.ctx core x)) bs; dataReturn r.2 core x r.1

/-- The zero-length read of a release has completed: the context's host-window stores before it count as acknowledged (R458). -/
def hostFlushed (s : State) (core x : Nat) : State :=
  let es := (s.core core).stbuf.filter fun e => e.ctx == x && e.direct && target e.pa == .host
  (es.foldl (fun t e => acked t core x (some e)) s).updCtx core x fun k =>
    { k with flushing := false, wait := if k.wait = .stale then .none else k.wait }

/-- A completion of the host port that brings all ones (R459), or ends the zero-length read of a release. -/
def hostOnes (s : State) (core x : Nat) : State :=
  if (s.ctx core x).flushing then hostFlushed s core x
  else hostValue s core x (List.replicate (askedBytes (s.ctx core x)) 0xFF)

/-- What a completion of the host port does at the context that loads (R459), and what it counts. -/
def hostAnswer (core x : Nat) (st : HostStatus) (s : State) : State :=
  match st with
  | .ok data => if (s.ctx core x).flushing then hostFlushed s core x else hostValue s core x data
  | .poisoned => if (s.ctx core x).flushing then hostFlushed (countHost s 0) core x else poisonAt (countHost s 0) core x none
  | .unsupported => hostOnes (countHost s 1) core x
  | .aborted => hostOnes (countHost s 2) core x
  | .timeout => hostOnes (countHost s 3) core x
  | .cut _ why => hostOnes (countHost s (min why 3)) core x

/-- HOST_WINDOW_COMPLETION. -/
def execHostWindowCompletion (core ctx : Nat) (st : HostStatus) (s : State) : Ans :=
  .next (onHolder core ctx (hostAnswer core (ctx % 16) st) s)

/-- HOST_LOAD_TIMEOUT (R459): all-ones bytes. -/
def execHostLoadTimeout (core ctx : Nat) (s : State) : Ans :=
  .next (onHolder core ctx (hostAnswer core (ctx % 16) .timeout) s)

/-- POSTED_WRITE_ERROR_MESSAGE (R459): counted; the store is lost without a report. -/
def execPostedWriteErrorMessage (s : State) : Ans := .next (countHost s 4)

/-! ## Role changes -/

/-- The event of a latch that has committed and has not ended, from the commit at its home on, where that home is of this device. -/
def underway (s : State) (l : LatchId) (m : Latch) : Option EvKey := match m.st with
  | .committed ev => some ev
  | .claimed ev _ =>
    if (match s.home ev with | some h => h.st == .commit | none => false) || (s.agenda.any fun i => match i with
        | .latchCommit l' ev' _ _ => l' == l && ev' == ev
        | _ => false) then some ev else none
  | _ => none

/-- What an offer takes lands in a bank of its core. -/
def landsIn (b : Nat) (o : OfferMsg) : Bool := match o.take with
  | some ⟨.scratch, len, place⟩ => (banksOf place len).contains b
  | some ⟨.fifo, _, place⟩ => place == b
  | _ => false

/-- A committed occurrence still brings bytes to a bank of a core: a payload, or an accepted tile of a pipeline (R271). -/
def landingDue (s : State) (c b : Nat) : Bool :=
  s.latches.any fun e => match underway s e.1 e.2 with
    | none => false
    | some ev =>
      (gidDev e.1.gid == s.dev && gidCore e.1.gid == c && landsNow s e.1 &&
        (match kfind e.2.offers ev with | some o => landsIn b o | none => false)) ||
      (gidCtx e.1.gid == 12 && e.1.sub % 2 == 0 && (match tfind (s.die (coreDie (gidCore e.1.gid))).subs (e.1.sub / 2) with
        | some u => (tileCores u).contains c && tileLand u / 65536 == b
        | none => false))

/-- Whether the drain step of a core's role change is over (R271 step 1). -/
def roleDrained (s : State) (c : Nat) : Bool :=
  match (s.core c).roleChange with
  | none => false
  | some r =>
    !((s.core c).wide.queue.any fun e => e.runs.any fun q => (banksOf q.1 q.2).contains r.bank) &&
    !landingDue s c r.bank &&
    !((s.core c).held.any fun h => landsNow s h.l && (match kfind (s.latch h.l).offers h.ev with
      | some o => landsIn r.bank o
      | none => false))

/-- BANK_ROLE_CHANGE_COMPLETE (R271 steps 2 to 4). -/
def execBankRoleChangeComplete (core : Nat) (s : State) : Ans :=
  .next (
    match (s.core core).roleChange with
    | none => s
    | some r =>
      if !roleDrained s core then s
      else
        let s1 := enterRole (leaveRole s core r.bank) core r.bank r.role
        let s2 := s1.updCore core fun k => ({ k with roleChange := none } : Core).wakeIf fun w => decide (w = .role r.bank)
        s2.updCtx core r.ctx fun k =>
          if k.wait = .roleChange then { advance (xwrite k r.rd 0) 4 with wait := .none } else k)

end Sys2Proof.Machine
end

