-- ==== Sys2Proof/Machine/Layout.lean ====
section
/-!
DEFINITION. Layout records (13_engines_and_pipelines.md R331, R332): LAYREG, LAYREL and RESCLS, and the accesses of an
engine thread through a record's pinned translations (R297, R310, R441, R456).
-/

namespace Sys2Proof.Machine

open Sys2Proof

/-! ## The record -/

/-- Elements of a record. -/
def Layout.count (l : Layout) : Nat := l.dims.foldl (· * ·) 1

def layDim (l : Layout) (i : Nat) : Nat := l.dims.getD i 1

/-- The element size. -/
def layEs (l : Layout) : Nat := fmtBytes l.format

/-- A record's fields (R331), without its translations. -/
def parseLayout (part gen kinds : Nat) (bs : List Byte) : Layout :=
  { part := part, gen := gen, kinds := kinds, base := BitVec.ofNat 64 (field bs 0 8),
    format := BitVec.ofNat 32 (field bs 8 4), ccls := bits (field bs 12 4) 2 4, rcls := bits (field bs 12 4) 0 2,
    dims := [field bs 16 4, field bs 20 4, field bs 24 4, field bs 28 4],
    strs := [BitVec.ofNat 64 (field bs 32 8), BitVec.ofNat 64 (field bs 40 8), BitVec.ofNat 64 (field bs 48 8)],
    sbase := BitVec.ofNat 64 (field bs 56 8), pages := [] }

/-- The rules of R332. -/
def layoutValid (s : State) (p : Option Nat) (bs : List Byte) (l : Layout) : Bool :=
  fmtValid l.format && l.dims.all (1 ≤ ·) && l.count ≤ 2 ^ 40 && l.rcls != 3 && classHeld s p l.ccls &&
    (if fmtScaled l.format then layDim l 0 % fmtBlen l.format == 0 else l.sbase == 0) && field bs 12 4 < 64

/-- Index of the dimension-0 row of element i, and its place in it. -/
def layRow (l : Layout) (i : Nat) : Nat × Nat := (i / max (layDim l 0) 1, i % max (layDim l 0) 1)

/-- The virtual address of a row's first element. -/
def rowVa (l : Layout) (r : Nat) : Addr :=
  let d1 := max (layDim l 1) 1
  let d2 := max (layDim l 2) 1
  let str (k : Nat) : Word := l.strs.getD k 0
  (l.base + BitVec.ofNat 64 (r % d1) * str 0 + BitVec.ofNat 64 (r / d1 % d2) * str 1 +
    BitVec.ofNat 64 (r / d1 / d2) * str 2).toNat

/-- The virtual address of element i (R331). -/
def elemVa (l : Layout) (i : Nat) : Addr :=
  let r := layRow l i
  (BitVec.ofNat 64 (rowVa l r.1) + BitVec.ofNat 64 (r.2 * layEs l)).toNat

/-- The virtual address of the scale of element i's block (R331). -/
def scaleVa (l : Layout) (i : Nat) : Addr :=
  let r := layRow l i
  (l.sbase + BitVec.ofNat 64 (2 * (r.1 * layDim l 0 / fmtBlen l.format + r.2 / fmtBlen l.format))).toNat

/-- The extents: the bytes of each row and of each row's scales, as address and length. -/
def extents (l : Layout) : List (Addr × Nat) :=
  let rows := l.count / max (layDim l 0) 1
  (List.range rows).flatMap fun r =>
    (rowVa l r, layDim l 0 * layEs l) ::
      (if fmtScaled l.format then [(scaleVa l (r * layDim l 0), 2 * (layDim l 0 / fmtBlen l.format))] else [])

/-- Keeps the lowest address of each page. -/
def addPage (t : Tbl Addr) (va : Addr) : Tbl Addr :=
  match tfind t (va / 4096) with
  | some w => if va < w then tput t (va / 4096) va else t
  | none => tput t (va / 4096) va

/-- The pages that the extents cover, in ascending order, each with the lowest byte in it; addresses wrap at 2^64. -/
def extentPages (l : Layout) : List (Nat × Addr) :=
  (extents l).foldl (fun t e => (pagesOf (e.2 / 4096 + 2) e.1 e.2).foldl (fun t p => addPage t (p.1 % 2 ^ 64)) t) []

/-! ## LAYREG (R326) -/

/-- Translation as LAYREG walks it: the tables themselves, at the context's level. -/
def walkPage (s : State) (c : Nat) (x : Ctx) (va : Addr) (acc : Access) : Tr :=
  if x.priv = .h || !x.ptroot.getLsbD 63 then translate s c x va acc
  else match walkFrom s c x va acc 5 1 (bits x.ptroot.toNat 12 40) [] with
    | (.leaf e, _) => finalCheck s c acc va ((e.ppage + (va / 4096 % 2 ^ 45 - e.vpage)) * 4096 + va % 4096) e.level
    | (.fault cz, _) => .fault cz

/-- The access kinds a registration asks for: bit 0 read, bit 1 write. -/
def kindsOf (k : Nat) : List Access := (if nbit k 0 then [.load] else []) ++ (if nbit k 1 then [.engine] else [])

/-- One page under every kind asked for: its physical page and key, or the fault. -/
def pinPage (s : State) (c : Nat) (x : Ctx) (va : Addr) : List Access → Nat × Nat → Except Cause (Nat × Nat)
  | [], r => .ok r
  | a :: t, _ => match walkPage s c x va a with
    | .ok pa key => pinPage s c x va t (pa / 4096, key)
    | .fault cz => .error cz
    | .walk => .error (memFault a 0x06 va 0 1)

/-- All pages, in ascending order. -/
def pinPages (s : State) (c : Nat) (x : Ctx) (ks : List Access) :
    List (Nat × Addr) → List (Nat × Nat × Nat) → Except Cause (List (Nat × Nat × Nat))
  | [], ps => .ok ps
  | (page, va) :: t, ps => match pinPage s c x va ks (0, 0) with
    | .ok r => pinPages s c x ks t (ps ++ [(page, r)])
    | .error cz => .error cz

/-- The lowest address that engines cannot reach: in the local window or not canonical. -/
def unreachable (ps : List (Nat × Addr)) : Option Addr :=
  (ps.find? fun p => !canonical p.2 || inWindow p.2).map (·.2)

/-- The translations of a record's extents, or the cause that refuses them. -/
def pinLayout (s : State) (c : Nat) (x : Ctx) (l : Layout) : Except Cause (List (Nat × Nat × Nat)) :=
  let ps := extentPages l
  match unreachable ps with
  | some a => .error { cause 0x04 (BitVec.ofNat 64 a) with access := (kindsOf l.kinds).headD .load }
  | none => pinPages s c x (kindsOf l.kinds) ps []

/-- The lowest free slot of a die's table of 4,096 records (R391). -/
def freeLayout (d : Die) : Option Nat := (List.range 4096).find? fun i => (tfind d.layouts i).isNone

/-- Registers a record of a partition on a die, for an agent with a core's regions and a context's level and tables: the handle, 0 where the record is invalid
or the table is full, or the cause that refuses its extents. -/
def registerLayout (s : State) (die c : Nat) (p : Option Nat) (x : Ctx) (bs : List Byte) (kinds : Nat) : Except Cause (Nat × State) :=
  let d := s.die die
  let l := parseLayout (p.getD 0) 0 kinds bs
  if !layoutValid s p bs l then .ok (0, s)
  else match pinLayout s c x l, freeLayout d with
    | .error cz, _ => .error cz
    | .ok _, none => .ok (0, s)
    | .ok ps, some slot =>
      let gen := tget 0 d.layGens slot
      .ok (layHandle slot gen, s.setDie die { d with layouts := tput d.layouts slot { l with gen := gen, pages := ps } })

def serveLayreg (s : State) (c x : Nat) (rd : Reg) (bs : List Byte) (kinds : Nat) : Answer × State :=
  match registerLayout s (coreDie c) c (s.core c).part (s.ctx c x) bs kinds with
  | .error cz => (answerTrap cz, s)
  | .ok r => (answerReg rd (BitVec.ofNat 64 r.1), r.2)

/-- LAYREG: the record is read, then registered on the die. -/
def layregAt (i : Instr) (acc : BitVec 2) (rd : Reg) (addr : Word) (s : State) : Ans :=
  .next (s.load .load addr.toNat 64 fun bs t => t.request (byteLen i) (homeNum t.dev t.cur.1) (.layreg rd bs acc.toNat))

def execLayreg (acc : BitVec 2) (rd rs1 : Reg) (s : State) : Ans := layregAt (.layreg acc rd rs1) acc rd (xread s.me rs1) s
def execLayregLit (acc : BitVec 2) (rd : Reg) (lit : BitVec 64) (s : State) : Ans :=
  layregAt (.layregLit acc rd lit) acc rd lit s

/-! ## LAYREL and RESCLS (R327, R360) -/

def execLayrel (rd rs1 : Reg) (s : State) : Ans :=
  .next (s.request (byteLen (.layrel rd rs1)) (homeNum s.dev s.cur.1) (.layrel rd (xread s.me rs1)))

/-- The commands whose kicks have occurred and that are on their way to their engine: given at an event that is at COMMIT, by a latch that
has committed, or gathered by an engine's latch (R176, R327). -/
def kickedCmds (s : State) : List CopyCmd :=
  (s.homes.flatMap fun e => if e.2.st == .commit then e.2.offers.filterMap (·.copy) else []) ++
    s.latches.flatMap fun e => match e.2.st with
      | .committed ev =>
        ((kfind e.2.offers ev).bind (·.copy)).toList ++
          (if gidCtx e.1.gid = 11 ∧ e.1.sub = 0 ∧ (gathered e.2 ev).length = 32 then [cmdOf (gathered e.2 ev)] else [])
      | _ => []

/-- A bound subscription names the record, or a command that a copy engine holds or is to hold: by its handle, generation and all (R327). -/
def layoutBusy (s : State) (die slot : Nat) : Bool := match tfind (s.die die).layouts slot with
  | none => false
  | some l =>
    let h := layHandle slot l.gen
    let names (m : CopyCmd) : Bool := m.src == h || m.dst == h
    (s.die die).subs.any (fun u => u.2.src == slot) ||
      ((kickedCmds s).filter fun m => gidDev m.kicker == s.dev && coreDie (gidCore m.kicker) == die).any names ||
      s.clusters.any fun k => k.1 / 12 == die &&
        (k.2.copy.queue ++ (match k.2.copy.run with | some r => if r.ended.isNone then [r.cmd] else [] | none => [])).any names

/-- Releases a record of a partition on a die: 0 done, 1 busy, 2 not live. -/
def releaseLayout (s : State) (die part h : Nat) : Nat × State :=
  match layoutOf s die part h with
  | none => (2, s)
  | some (slot, l) =>
    if layoutBusy s die slot then (1, s)
    else
      let d := s.die die
      (0, s.setDie die { d with layouts := tdel d.layouts slot, layGens := tput d.layGens slot ((l.gen + 1) % 4096) })

def serveLayrel (s : State) (c : Nat) (rd : Reg) (h : Word) : Answer × State :=
  let r := releaseLayout s (coreDie c) (partNum (s.core c)) h.toNat
  (answerReg rd (BitVec.ofNat 64 r.1), r.2)

def execRescls (cls : BitVec 2) (rd rs1 : Reg) (s : State) : Ans :=
  let i : Instr := .rescls cls rd rs1
  .next (
    if cls = 1 ∧ s.me.priv = .u then s.ill i 6
    else s.request (byteLen i) (homeNum s.dev s.cur.1) (.rescls rd (xread s.me rs1) cls.toNat))

/-- The physical place and key of a virtual address under a record's translations. -/
def layPa (l : Layout) (va : Addr) : Option (Addr × Nat) :=
  (kfind l.pages (va / 4096)).map fun p => (p.1 * 4096 + va % 4096, p.2)

/-- The physical runs of a record's extents, with their keys. -/
def physRuns (l : Layout) : List (Addr × Nat × Nat) :=
  (extents l).flatMap fun e => (pagesOf (e.2 / 4096 + 2) e.1 e.2).filterMap fun p =>
    (layPa l (p.1 % 2 ^ 64)).map fun q => (q.1, p.2, q.2)

/-- One line takes a residency class under the rule of R283 for PINNED. -/
def reclass (s : State) (line cls : Nat) : State :=
  match tfind s.llc line with
  | none => s
  | some e =>
    let pinned := (s.llc.filter fun f => llcSet f.1 == llcSet line && f.1 != line && f.2.cls == e.cls && f.2.rcls == 1).length
    let r := if cls = 1 ∧ tget 0 s.quotas e.cls ≤ pinned + 1 then 0 else cls
    { s with llc := tput s.llc line { e with rcls := r } }

/-- The lines that hold a byte of the extents under the record's keys. -/
def layLines (s : State) (l : Layout) : List Nat :=
  let rs := physRuns l
  (s.llc.filter fun e => rs.any fun r => r.2.2 == e.2.key && r.1 < e.1 * 1024 + 1024 && e.1 * 1024 < r.1 + r.2.1).map (·.1)

def serveRescls (s : State) (c : Nat) (rd : Reg) (h : Word) (cls : Nat) : Answer × State :=
  let die := coreDie c
  match layoutOf s die (partNum (s.core c)) h.toNat with
  | none => (answerTrap (eventDesc h), s)
  | some (slot, l) =>
    let d := s.die die
    let s1 := s.setDie die { d with layouts := tput d.layouts slot { l with rcls := cls } }
    let r := (layLines s l).foldl (fun (t : Nat × State) line =>
      let u := reclass t.2 line cls
      (if tfind u.llc line = tfind t.2.llc line then t.1 else t.1 + 1, u)) (0, s1)
    (answerReg rd (BitVec.ofNat 64 r.1), r.2)

/-! ## Accesses of engine threads (R310, R441, R456) -/

/-- A byte that an engine reads at its point of coherence. What another device or the host holds is free (log 9). -/
def engineByte (s : State) (pa key : Nat) : Byte :=
  match target pa with
  | .gddr => homeByte s key pa
  | .window dev core loc =>
    if dev = s.dev then (if (s.core core).role (loc / 65536) = .scratch then memByte (s.core core).loc loc else 0)
    else Config.imageByte dev s.draws pa
  | _ => Config.imageByte s.dev s.draws pa

/-- The poisoned sector that a byte lies in, as its PA sector. -/
def enginePoison (s : State) (pa : Addr) : Option Nat :=
  match target pa with
  | .gddr => if s.memPoison.contains (pa / 256) then some (pa / 256) else none
  | .window dev core loc =>
    if dev = s.dev ∧ (s.core core).locPoison.contains (loc / 256) ∧ (s.core core).role (loc / 65536) = .scratch then some (pa / 256)
    else none
  | _ => none

/-- Bytes from a virtual address on, through a record. -/
def layBytes (s : State) (l : Layout) (va n : Nat) : List Byte :=
  (List.range n).map fun j => match layPa l ((va + j) % 2 ^ 64) with
    | some (pa, key) => engineByte s pa key
    | none => 0

/-- The physical bytes from a virtual address on, with their keys. -/
def layPlaces (l : Layout) (va n : Nat) : List (Addr × Nat) :=
  (List.range n).filterMap fun j => layPa l ((va + j) % 2 ^ 64)

/-- The sectors of this device's window that bytes lie in outside SCRATCH: the target reads them as zero and counts them (R288). -/
def deniedOf (s : State) (ps : List (Addr × Nat)) : List Nat :=
  ps.foldl (fun t p => match target p.1 with
    | .window dev core loc =>
      if dev = s.dev ∧ (s.core core).role (loc / 65536) ≠ .scratch then nadd t (p.1 / 256) else t
    | _ => t) []

/-- Counts refused ranges at their target routers (R288, R434). -/
def countDenied (s : State) (qs : List Nat) : State :=
  qs.foldl (fun t q => match target (q * 256) with
    | .window _ core _ => count t core 5 (2 ^ 32)
    | _ => t) s

/-- The poisoned sectors that bytes lie in. -/
def poisonOf (s : State) (ps : List (Addr × Nat)) : List Nat :=
  ps.foldl (fun t p => match enginePoison s p.1 with
    | some q => nadd t q
    | none => t) []

/-- An engine marks a physical sector poisoned. -/
def poisonSector (who : Gid) (s : State) (sec : Nat) : State :=
  match target (sec * 256) with
  | .gddr => { s with memPoison := nadd s.memPoison sec }
  | .window dev core loc =>
    if dev = s.dev then stainBank core loc 256 s
    else s.toDevice (gidCore who) dev (.windowAccessAtTarget ⟨s.dev, 0, 0, sec * 256, 256, .stain⟩)
  | _ => s

/-- COPY_WRITE (R441): one write of the bytes that a command writes in one aligned 16-byte part. It is matched once. -/
def writePart (s : State) (who : Gid) (key : Nat) (bs : List (Addr × Byte)) : State :=
  match bs with
  | [] => s
  | (a, _) :: _ =>
    match target a with
    | .gddr =>
      matchPart ((runsOf bs).foldl (fun t r => homeWrite t key r.1 r.2) s) 1 who bs
    | .window dev core loc =>
      if dev = s.dev then writeBankPart s who core loc a bs
      else s.toDevice (gidCore who) dev
        (.windowAccessAtTarget ⟨s.dev, gidCore who, gidCtx who, a / 16 * 16, 16, .part (bs.map fun b => (b.1 % 16, b.2))⟩)
    | _ => s.emit (.hostPart (bs.map fun b => (b.1 % 2 ^ 48, b.2)))

/-- Bytes by aligned 16-byte part, in ascending order; a later byte of an address replaces an earlier one. -/
def putByte (t : Tbl (Nat × Tbl Byte)) (b : Addr × Nat × Byte) : Tbl (Nat × Tbl Byte) :=
  let old := (tget (b.2.1, []) t (b.1 / 16)).2
  tput t (b.1 / 16) (b.2.1, tput old b.1 b.2.2)

/-- The lines that engine accesses touch are filled under the record's classes (R336). -/
def engineFill (s : State) (l : Layout) (pa key : Nat) : State :=
  if isGddr pa then llcInsert s (pa / 1024) key l.ccls l.rcls else s

end Sys2Proof.Machine
end

