-- ==== Sys2Proof/Machine/CopyEngine.lean ====
section
/-!
DEFINITION. The copy engine (13_engines_and_pipelines.md R333-R336): COPY and CSTAT (R338, R339), the execution of a
command, and the offer of its completion.
-/

namespace Sys2Proof.Machine

open Sys2Proof

/-! ## COPY (R338) -/

/-- A record that a handle register names with one of the access kinds: bit 0 read, bit 1 write. -/
def layoutWith (s : State) (h : Word) (kind : Nat) : Option Layout :=
  match layoutOf s (coreDie s.cur.1) (partNum s.myCore) h.toNat with
  | some (_, l) => if nbit l.kinds kind then some l else none
  | none => none

/-- COPY: the checks in their order, then the staged give of the kick. -/
def copyAt (i : Instr) (rm : BitVec 3) (sat : BitVec 1) (k src dst c : Word) (first : Nat) (s : State) : State :=
  match regName s k, regName s c with
  | none, _ => s.trap (badName k)
  | _, none => s.trap (badName c)
  | some kn, some cn =>
    match layoutWith s src 0, layoutWith s dst 1 with
    | none, _ => s.trap (eventDesc src)
    | _, none => s.trap (eventDesc dst)
    | some ls, some ld =>
      if ls.count ≠ ld.count then s.trap (eventDesc dst)
      else if ls.format ≠ ld.format ∧ (fmtScaled ls.format ∨ fmtScaled ld.format) then s.trap (cause 0x0C (firstWord i |>.setWidth 64))
      else if ls.count ≤ first ∨ stagedName s.me.staged kn ∨ (freeSlot s.me.staged).isNone then s.ill i 6
      else
        let cmd : CopyCmd := ⟨kn, src.toNat, dst.toNat, cn, first, rmOf rm s.me.frm, sat == 1, s.myGid⟩
        (stage s ⟨kn, .give, some ⟨.none, 32, 0⟩, none, some cmd⟩).pass i

def execCopy (rm : BitVec 3) (sat : BitVec 1) (rd rs1 rs2 rs3 : Reg) (s : State) : Ans :=
  .next (copyAt (.copy rm sat rd rs1 rs2 rs3) rm sat (xread s.me rd) (xread s.me rs1) (xread s.me rs2) (xread s.me rs3) 0 s)
def execCopyFirst (rm : BitVec 3) (sat : BitVec 1) (rd rs1 rs2 rs3 : Reg) (lit : BitVec 64) (s : State) : Ans :=
  .next (copyAt (.copyFirst rm sat rd rs1 rs2 rs3 lit) rm sat (xread s.me rd) (xread s.me rs1) (xread s.me rs2)
    (xread s.me rs3) lit.toNat s)

/-! ## The summary (R335) and CSTAT (R339) -/

/-- The status word of a kick name of a cluster. -/
def copyStatus (g : CopyEngine) (n : Nat) : Word :=
  match g.run with
  | some r =>
    if r.cmd.kick = n then r.ended.getD (summary 5 r.flags r.pcnt r.next)
    else match g.queue.find? fun q => q.kick == n with
      | some q => summary 4 0 0 q.first
      | none => tget (summary 6 0 0 0) g.summaries n
  | none => match g.queue.find? fun q => q.kick == n with
    | some q => summary 4 0 0 q.first
    | none => tget (summary 6 0 0 0) g.summaries n

/-- An abort: a queued command is removed and completes; a running one stops at its next stop point. -/
def abortCopy (s : State) (g : CopyEngine) (n : Nat) : CopyEngine :=
  match g.queue.find? fun q => q.kick == n with
  | some q => endCommand s { g with queue := g.queue.filter (· != q) } q (summary 1 0 0 q.first)
  | none => match g.run with
    | some r => if r.cmd.kick = n then { g with run := some { r with abort := true } } else g
    | none => g

def cstatAt (i : Instr) (rd rs1 : Reg) (abort : Bool) (s : State) : State :=
  match regName s (xread s.me rs1) with
  | none => s.trap (badName (xread s.me rs1))
  | some n =>
    if s.replayFull s.cur.1 then s.hold .replay
    else s.request (byteLen i) (homeNum s.dev s.cur.1) (.cstat rd n abort)

def execCstat (rd rs1 : Reg) (s : State) : Ans := .next (cstatAt (.cstat rd rs1) rd rs1 false s)
def execCstatAbort (rd rs1 : Reg) (s : State) : Ans := .next (cstatAt (.cstatAbort rd rs1) rd rs1 true s)

/-- The engine's answer, an input of the replay log (R435). -/
def serveCstat (s : State) (c x : Nat) (rd : Reg) (n : Nat) (abort : Bool) : Answer × State :=
  let k := clusterOf c
  let g := (s.cluster k).copy
  let r := s.input c x 4 (copyStatus g n)
  (answerReg rd r.1, if abort then r.2.setCluster k { r.2.cluster k with copy := abortCopy s g n } else r.2)

/-! ## A command (R336) -/

/-- A physical byte of one record's extents is also one of the other's. -/
def recordsOverlap (a b : Layout) : Bool :=
  let qs := physRuns b
  (physRuns a).any fun p => qs.any fun q => p.1 < q.1 + q.2.1 && q.1 < p.1 + p.2.1

/-- A code of one format rounded to another. -/
def roundTo (f t : Half) (rm : Nat) (sat : Bool) (bs : List Byte) : List Byte × BitVec 5 :=
  let r := roundCode (fmtOf t) rm sat (decodeCode (fmtOf f) (natOfBytes bs))
  (bytesOfNat (fmtBytes t) r.1, r.2)

/-- A copied element (R336): as it is where the formats are equal, else rounded. -/
def convert (f t : Half) (rm : Nat) (sat : Bool) (bs : List Byte) : List Byte × BitVec 5 := if f = t then (bs, 0) else roundTo f t rm sat bs

/-- The progress of a command inside one step: what it has read, and the bytes and marks it will write. -/
structure CopyAcc where
  next : Nat
  flags : BitVec 5
  pcnt : Nat
  met : List Nat
  buf : Tbl (Nat × Tbl Byte)
  marks : List Nat
  srcLines : Tbl Nat
  /-- Source sectors that their target refuses (R288). -/
  denied : List Nat
  dstLines : Tbl Nat
  deriving DecidableEq, Repr

/-- The bytes that element i takes to the destination: with the block's scale where it opens a block. A scale in a poisoned sector is
reported as an element is (R329). -/
def copyElem (s : State) (src dst : Layout) (m : CopyCmd) (a : CopyAcc) : CopyAcc :=
  let i := a.next
  let ps := layPlaces src (elemVa src i) (layEs src)
  let bad := poisonOf s ps
  let x := if bad.isEmpty then layBytes s src (elemVa src i) (layEs src) else List.replicate (layEs src) 0
  let y := convert src.format dst.format m.rm m.sat x
  let qs := layPlaces dst (elemVa dst i) (layEs dst)
  let scaled := fmtScaled src.format && i % fmtBlen src.format == 0
  let scs := if scaled then layPlaces src (scaleVa src i) 2 else []
  let sbad := poisonOf s scs
  let sx := if sbad.isEmpty then layBytes s src (scaleVa src i) 2 else List.replicate 2 0
  let sqs := if scaled then layPlaces dst (scaleVa dst i) 2 else []
  let out := qs.zip y.1 ++ sqs.zip sx
  let mark (ms : List Nat) (b : List Nat) (t : List (Addr × Nat)) : List Nat :=
    if b.isEmpty then ms else t.foldl (fun t q => nadd t (q.1 / 256)) ms
  let all := bad ++ sbad.filter fun q => !bad.contains q
  { next := i + 1, flags := a.flags ||| y.2,
    pcnt := min 65535 (a.pcnt + (all.filter fun q => !a.met.contains q).length),
    met := all.foldl nadd a.met,
    buf := out.foldl (fun t o => putByte t (o.1.1, o.1.2, o.2)) a.buf,
    marks := mark (mark a.marks bad qs) sbad sqs,
    denied := (deniedOf s (ps ++ scs)).filter (fun q => !a.denied.contains q) ++ a.denied,
    srcLines := (ps ++ scs).foldl (fun t p => tput t (p.1 / 1024) p.2) a.srcLines,
    dstLines := (qs ++ sqs).foldl (fun t p => tput t (p.1 / 1024) p.2) a.dstLines }

/-- The last byte of element i's destination ends a sector; or it ends a row. -/
def endsSector (dst : Layout) (i : Nat) : Bool :=
  match (layPlaces dst (elemVa dst i) (layEs dst)).getLast? with
  | some p => (p.1 + 1) % 256 == 0
  | none => false
def endsRow (dst : Layout) (i : Nat) : Bool := (i + 1) % max (layDim dst 0) 1 == 0

/-- How the loop is left. -/
inductive CopyEnd where
  | done | aborted | paused
  deriving DecidableEq, Repr

/-- Elements one after another, to the end, to the stop point of an abort, or past a free number of sector ends. -/
def copyLoop (s : State) (src dst : Layout) (m : CopyCmd) (abort : Bool) : Nat → Nat → CopyAcc → CopyAcc × CopyEnd
  | 0, _, a => (a, .done)
  | f + 1, budget, a =>
    let b := copyElem s src dst m a
    if abort && (endsSector dst a.next || endsRow dst a.next) then (b, .aborted)
    else if endsSector dst a.next && budget == 0 && f != 0 then (b, .paused)
    else copyLoop s src dst m abort f (if endsSector dst a.next then budget - 1 else budget) b

/-- The agent that a copy engine's writes name (R423). -/
def copyAgent (s : State) (k : Nat) : Gid := gidOf s.dev (firstCore k) 11

/-- The write of a part that leaves the package has to be acknowledged before the completion is offered (R310). -/
def oweWrites (s : State) (k : Nat) (bs : List (Addr × Byte)) : State := match bs with
  | [] => s
  | (a, _) :: _ =>
    let out := match target a with
      | .gddr => false
      | .window dev _ _ => dev != s.dev
      | _ => true
    let g := s.cluster k
    if out then s.setCluster k { g with copy := { g.copy with owed := g.copy.owed + 1 } } else s

/-- The aligned 16-byte parts that the elements of a command from `i` on reach. -/
def partsFrom (dst : Layout) (i : Nat) : List Nat :=
  (List.range (dst.count - i)).foldl (fun t j =>
    let e := i + j
    let sc := if fmtScaled dst.format && e % fmtBlen dst.format == 0 then layPlaces dst (scaleVa dst e) 2 else []
    (layPlaces dst (elemVa dst e) (layEs dst) ++ sc).foldl (fun t q => addOnce t (q.1 / 16)) t) []

/-- The buffered parts that a paused command is still to write to. -/
def keptParts (dst : Layout) (i : Nat) (buf : Tbl (Nat × Tbl Byte)) : Tbl (Nat × Tbl Byte) :=
  let later := partsFrom dst i
  buf.filter fun e => later.contains e.1

/-- Writes what a step of a command gathered, part by part, with its poison marks and its fills. -/
def copyWrites (s : State) (k : Nat) (src dst : Layout) (a : CopyAcc) : State :=
  let s1 := a.srcLines.foldl (fun t e => settle (engineFill t src (e.1 * 1024) e.2) (e.1 * 1024) 1024) s
  let s2 := a.dstLines.foldl (fun t e => engineFill t dst (e.1 * 1024) e.2) s1
  let s3 := a.buf.foldl (fun t e => writePart t (copyAgent s k) e.2.1 e.2.2) s2
  let s4 := countDenied (a.buf.foldl (fun t e => oweWrites t k e.2.2) s3) a.denied
  a.marks.foldl (poisonSector (copyAgent s k)) s4

/-- COPY_COMMAND_RUN: the next accepted command starts, or the running one goes on. -/
def execCopyCommandRun (cluster : Nat) (s : State) : Ans :=
  .next (
    let g := (s.cluster cluster).copy
    let start := match g.run, g.queue with
      | some r, q => some (r, q)
      | none, m :: q => some (⟨m, m.first, 0, 0, [], [], false, none⟩, q)
      | none, [] => none
    match start with
    | none => s
    | some (r, q) =>
      let put (t : State) (v : CopyRun) : State :=
        t.setCluster cluster { t.cluster cluster with copy := { (t.cluster cluster).copy with run := some v, queue := q } }
      let die := cluster / 12
      let part := partNum (s.core (gidCore r.cmd.kicker))
      if r.ended.isSome then s
      else match layoutOf s die part r.cmd.src, layoutOf s die part r.cmd.dst with
        | some (_, src), some (_, dst) =>
          if r.next = r.cmd.first ∧ recordsOverlap src dst then
            put s { r with ended := some (summary 2 0 0 r.cmd.first) }
          else
            let e := copyLoop s src dst r.cmd r.abort (src.count - r.next) s.pick
              ⟨r.next, r.flags, r.pcnt, r.met, r.buf, [], [], [], []⟩
            let kept := if e.2 = .paused then keptParts dst e.1.next e.1.buf else []
            let now := e.1.buf.filter fun b => !kept.contains b
            let s1 := copyWrites s.used cluster src dst { e.1 with buf := now }
            let v : CopyRun := { r with next := e.1.next, flags := e.1.flags, pcnt := e.1.pcnt, met := e.1.met, buf := kept }
            put s1 (match e.2 with
              | .paused => v
              | .aborted => { v with ended := some (summary 1 v.flags v.pcnt v.next) }
              | .done => { v with ended := some (summary (if v.pcnt = 0 then 0 else 3) v.flags v.pcnt v.next) })
        | _, _ => put s { r with ended := some (summary 1 0 0 r.cmd.first) })

/-- Completions of a cluster's engine whose offer differs from what is wanted. -/
def staleCompletions (s : State) (k : Nat) : List LatchId :=
  (copyWants s k).filterMap fun w =>
    let m := s.latch w.1
    if w.1.sub ≠ 0 ∧ ((m.st = .idle ∧ !w.2.isEmpty) ∨ (m.st = .armed ∧ !sameWants m w.2)) then some w.1 else none

/-- COPY_COMPLETION_OFFER: the ended command's summary is kept and its completion offered, once every write of it has been
acknowledged, and again after a refusal when the event has been defined (R310, R334). -/
def execCopyCompletionOffer (cluster : Nat) (s : State) : Ans :=
  .next (
    let g := (s.cluster cluster).copy
    let s1 := match g.run with
      | some r => match r.ended with
        | some w => if g.owed ≠ 0 then s else s.setCluster cluster { s.cluster cluster with copy := endCommand s { g with run := none } r.cmd w }
        | none => s
      | none => s
    (staleCompletions s1 cluster).foldl armAgent s1)

end Sys2Proof.Machine
end

