-- ==== Sys2Proof/Machine/Csr.lean ====
section
/-!
DEFINITION. The CSR instructions (04_control_instructions.md R121, R122) after the checks of R22. Reads of TIME, CYCLE
and FLAGOR are inputs of the replay log (R435).
-/

namespace Sys2Proof.Machine

open Sys2Proof

/-- The input kind of a CSR read (R435), 0 for none. -/
def csrInput (a : Nat) : Nat := if a = 0x201 then 1 else if a = 0x200 then 2 else if a = 0x6C0 then 4 else 0

/-- The value a CSR instruction reads, and the state after the read. -/
def csrTake (s : State) (a : Nat) : Word × State :=
  let v := csrRead s s.cur.1 s.cur.2 a
  if csrInput a = 0 then (v, s) else s.input s.cur.1 s.cur.2 (csrInput a) v

def execCsrr (rd : Reg) (csr : BitVec 12) (s : State) : Ans :=
  .next (
    if !csrAllowed s.me.priv csr.toNat false then s.ill (.csrr rd csr) 6
    else if csrInput csr.toNat ≠ 0 ∧ s.replayFull s.cur.1 then s.hold .replay
    else let r := csrTake s csr.toNat; r.2.ret (.csrr rd csr) rd r.1)

/-- A CSR is one of the registers of a watchpoint that another device's bank has registered: a write completes when that is gone (R425). -/
def wpFar (s : State) (a : Nat) : Bool :=
  ((0x4A0 ≤ a && a ≤ 0x4A3) || (0x4A8 ≤ a && a ≤ 0x4AB)) && (farPlace s s.cur.1 (a % 4)).isSome

/-- CSRW, CSRS and CSRC: `f` gives the new value of the old one; nothing is written where `wr` is false (R121). -/
def csrModify (i : Instr) (rd : Reg) (csr : BitVec 12) (wr : Bool) (f : Word → Word) (s : State) : Ans :=
  .next (
    if !csrAllowed s.me.priv csr.toNat true then s.ill i 6
    else
      let old := csrRead s s.cur.1 s.cur.2 csr.toNat
      let s1 := if wr then csrWrite s s.cur.1 s.cur.2 csr.toNat (f old) else s
      (s1.ret i rd old).holdFor (wr && wpFar s csr.toNat) (.request 0))

def execCsrw (rd : Reg) (csr : BitVec 12) (rs1 : Reg) (s : State) : Ans :=
  csrModify (.csrw rd csr rs1) rd csr true (fun _ => xread s.me rs1) s
def execCsrs (rd : Reg) (csr : BitVec 12) (rs1 : Reg) (s : State) : Ans :=
  csrModify (.csrs rd csr rs1) rd csr (rs1 != 0) (fun old => old ||| xread s.me rs1) s
def execCsrc (rd : Reg) (csr : BitVec 12) (rs1 : Reg) (s : State) : Ans :=
  csrModify (.csrc rd csr rs1) rd csr (rs1 != 0) (fun old => old &&& ~~~(xread s.me rs1)) s

end Sys2Proof.Machine
end

