-- ==== Sys2Proof/Machine/Shake.lean ====
section
/-!
DEFINITION. SHAKE256 over bytes, which the spec names for stage handles (R347), segment digests (R430) and image
verification (R480): the Keccak sponge of rate 136 bytes. PRESUMED (log 10): the function is the public standard's.
-/

namespace Sys2Proof.Machine

open Sys2Proof

/-- A step of the register of 8 bits that the round constants come from. -/
def rcStep (r : Nat) : Nat := if r < 128 then 2 * r else (2 * r - 256) ^^^ 0x71

/-- The register after a number of steps from 1. -/
def rcReg : Nat → Nat
  | 0 => 1
  | t + 1 => rcStep (rcReg t)

/-- The constant of a round: each of seven steps of the register gives the bit at one less than a power of two. -/
def roundConst (n : Nat) : Word :=
  BitVec.ofNat 64 (((List.range 7).map fun j => if nbit (rcReg (7 * n + j)) 0 then 2 ^ (2 ^ j - 1) else 0).foldl (· + ·) 0)

/-- The walk of 24 places over the lanes other than lane 0, from lane 1 on. Lane x + 5y goes to lane y + 5(2x + 3y). -/
def lanePath : Nat → Nat → List Nat
  | 0, p => [p]
  | f + 1, p => p :: lanePath f (p / 5 + 5 * ((2 * (p % 5) + 3 * (p / 5)) % 5))

/-- The moves of a round: from a lane to the next of the walk, turned left by the triangular number of the step. -/
def laneMoves : List (Nat × Nat × Nat) :=
  ((lanePath 23 1).zip ((lanePath 24 1).tail)).zipIdx.map fun e => (e.1.2, e.1.1, (e.2 + 1) * (e.2 + 2) / 2 % 64)

/-- The parity of each column of lanes. -/
def laneSums (a : List Word) : List Word :=
  (List.range 5).map fun x => ((List.range 5).map fun y => a.getD (x + 5 * y) 0).foldl (· ^^^ ·) 0

/-- The columns' parities spread: each lane takes that of the column before it, and that of the one after it turned by one. -/
def spread (a : List Word) : List Word :=
  let p := laneSums a
  a.zipIdx.map fun e => e.1 ^^^ p.getD ((e.2 + 4) % 5) 0 ^^^ (p.getD ((e.2 + 1) % 5) 0).rotateLeft 1

/-- The lanes turned and moved along the walk. -/
def moveLanes (a : List Word) : List Word :=
  laneMoves.foldl (fun t m => lset t m.1 ((a.getD m.2.1 0).rotateLeft m.2.2)) a

/-- Each lane of a row takes what the next one masks of the one after that. -/
def maskRows (a : List Word) : List Word :=
  a.zipIdx.map fun e =>
    let row := e.2 / 5 * 5
    e.1 ^^^ ((a.getD (row + (e.2 + 1) % 5) 0 ^^^ BitVec.allOnes 64) &&& a.getD (row + (e.2 + 2) % 5) 0)

/-- The permutation of the 25 lanes: 24 rounds. -/
def permuteLanes (a : List Word) : List Word :=
  (List.range 24).foldl (fun t n => match maskRows (moveLanes (spread t)) with
    | l0 :: ls => (l0 ^^^ roundConst n) :: ls
    | [] => []) a

/-- Byte i of a message of `len` bytes and its padding to `total` bytes. -/
def paddedByte (bs : List Byte) (len total i : Nat) : Byte :=
  bs.getD i (if i = len then 0x1F else 0) ^^^ (if i + 1 = total then 0x80 else 0)

/-- The first `n` bytes, at most 136, of SHAKE256 of a byte string: 17 lanes of the message at a time. -/
def shake256 (n : Nat) (bs : List Byte) : List Byte :=
  let blocks := bs.length / 136 + 1
  let words := ((List.range (136 * blocks)).map (paddedByte bs bs.length (136 * blocks)))
  let out := (List.range blocks).foldl (fun a b =>
    permuteLanes (a.zipIdx.map fun e => if e.2 < 17 then e.1 ^^^ BitVec.ofNat 64 (field words (136 * b + 8 * e.2) 8) else e.1))
    (List.replicate 25 0)
  (out.flatMap fun w => bytesOfNat 8 w.toNat).take n

end Sys2Proof.Machine
end

