-- ==== Sys2Proof/Machine/Pipeline.lean ====
section
/-!
DEFINITION. Pipelines (13_engines_and_pipelines.md R340-R359, R390-R392): the stages and their handles, Welt's binding,
unbinding, detaching and rejoining, the production of tiles, and the instructions PBIND, PUNBIND, PERMIT and PSTAT.
-/

namespace Sys2Proof.Machine

open Sys2Proof

/-! ## The pipeline descriptor (R341, R342) -/

def pdW16 (bs : List Byte) : Nat := field bs 16 4
def pdLand (bs : List Byte) : Nat := field bs 20 4
def pdW24 (bs : List Byte) : Nat := field bs 24 4
def pdMask (bs : List Byte) : Nat := bits (pdW16 bs) 0 24
def pdCl (bs : List Byte) : Nat := bits (pdW16 bs) 24 5
def pdCfmt (bs : List Byte) : Half := BitVec.ofNat 32 (field bs 8 4)
def pdTcols (bs : List Byte) : Nat := field bs 12 4
def pdCv (bs : List Byte) : Bool := nbit (pdW24 bs) 3
def pdTl (bs : List Byte) : Bool := nbit (pdW24 bs) 4
def pdCyc (bs : List Byte) : Bool := nbit (pdW24 bs) 0
def pdOpr (bs : List Byte) : Bool := nbit (pdW24 bs) 5
def pdSlots (bs : List Byte) : Nat := bits (pdW24 bs) 6 4 + 1
def pdRcls (bs : List Byte) : Nat := bits (pdW24 bs) 1 2
def pdCrm (bs : List Byte) : Nat := bits (pdW24 bs) 11 3
def pdCsat (bs : List Byte) : Bool := nbit (pdW24 bs) 10

/-- The cores of the set. -/
def pdCores (bs : List Byte) : List Nat :=
  (clusterCores (pdCl bs)).zipIdx.filterMap fun e => if nbit (pdMask bs) e.2 then some e.1 else none

/-- An unscaled format of KIND 0 to 4. -/
def plainFmt (f : Half) : Bool := fmtValid f && !fmtScaled f && fmtKind f ≤ 4

/-- The format and the length of the tiles that CONVERT leaves. -/
def convFmt (bs : List Byte) (src : Half) : Half := if pdCv bs then pdCfmt bs else src
def convLen (bs : List Byte) (src : Half) : Nat := 4096 * fmtBytes (convFmt bs src) / fmtBytes src

/-- The rules of R341 and R342, for a binder on core c and a source of this format. -/
def pipeDescOk (s : State) (c : Nat) (bs : List Byte) (src : Half) : Bool :=
  let mine := (s.core c).wg
  field bs 0 4 % 16 == 0 && pdW16 bs < 2 ^ 29 && pdMask bs != 0 && pdCl bs < 24 && pdCl bs / 12 == coreDie c &&
    (pdCores bs).all (fun k => mine.isSome && (s.core k).wg == mine) && pdLand bs < 2 ^ 21 && pdLand bs % 4096 == 0 &&
    pdLand bs + 4096 * pdSlots bs ≤ 2 ^ 21 && pdW24 bs < 2 ^ 14 && pdSlots bs ≤ 15 && pdRcls bs != 3 && field bs 28 4 == 0 &&
    plainFmt src &&
    (if pdCv bs then plainFmt (pdCfmt bs) && fmtBytes (pdCfmt bs) ≤ fmtBytes src && pdCrm bs ≤ 4
      else pdCfmt bs == 0 && pdCrm bs == 0 && !pdCsat bs) &&
    (if pdTl bs then 64 ≤ pdTcols bs && pdTcols bs % 64 == 0 && convLen bs src % pdTcols bs == 0 else pdTcols bs == 0) &&
    (!pdOpr bs || fmtKind (convFmt bs src) ≤ 1)

/-! ## Stages and handles (R347) -/

/-- A stage of a chain: its kind, its byte string, its handle and the format it takes. -/
structure Stage where
  kind : Nat
  bytes : List Byte
  handle : Word
  infmt : Half
  deriving DecidableEq, Repr

/-- A stage with its predecessor's handle. -/
def mkStage (kind : Nat) (params : List Byte) (infmt out : Half) (pred : Word) : Stage :=
  let str := bytesOfNat 1 kind ++ params ++ bytesOfNat 4 out.toNat ++ bytesOfNat 8 pred.toNat
  ⟨kind, str, wordOf (shake256 8 str), infmt⟩

/-- The physical address of element 0. -/
def firstPa (l : Layout) : Nat := (layPa l (elemVa l 0)).elim 0 (·.1)

/-- The chain of a descriptor over a source, in order. -/
def stagesOf (bs : List Byte) (l : Layout) : List Stage :=
  let out := convFmt bs l.format
  let flag (b : Bool) : List Byte := bytesOfNat 1 (if b then 1 else 0)
  let f := mkStage 1 (bytesOfNat 8 (firstPa l) ++ bytesOfNat 4 l.format.toNat ++ l.dims.flatMap (bytesOfNat 4) ++
    (l.strs.flatMap fun w => bytesOfNat 8 w.toNat) ++ flag (pdCyc bs)) l.format l.format 0
  let c := mkStage 2 (bytesOfNat 4 (pdCfmt bs).toNat ++ bytesOfNat 1 (pdCrm bs) ++ flag (pdCsat bs)) l.format out f.handle
  let h1 := if pdCv bs then c.handle else f.handle
  let t := mkStage 3 (bytesOfNat 4 (pdTcols bs)) out out h1
  let h2 := if pdTl bs then t.handle else h1
  let m := mkStage 4 (bytesOfNat 4 (pdW16 bs) ++ bytesOfNat 4 (pdLand bs) ++ bytesOfNat 1 (pdSlots bs - 1) ++ flag (pdOpr bs))
    out out h2
  f :: (if pdCv bs then [c] else []) ++ (if pdTl bs then [t] else []) ++ [m]

/-- Tiles of a source (R340). -/
def tileCount (l : Layout) : Nat := (l.count * layEs l + 4095) / 4096

/-- The translations of two sources are the same, page for page, counted from the first page. -/
def relPages (l : Layout) : List (Nat × Nat × Nat) :=
  let b := l.base.toNat / 4096
  l.pages.map fun p => ((p.1 + 2 ^ 52 - b) % 2 ^ 52, p.2.1, 0)

/-! ## Binding (R348, R349, R351) -/

/-- The shared entries of a chain: the loop of R349. -/
def sharedWith (d : Die) (part : Nat) (pages : List (Nat × Nat × Nat)) : Option Nat → List Stage → List Nat
  | _, [] => []
  | prev, g :: gs =>
    match d.entries.find? fun e =>
        !e.2.catchUp && e.2.part == part && e.2.pred == prev && e.2.handle == g.handle && e.2.bytes == g.bytes &&
          (g.kind != 1 || e.2.pages == pages) with
    | some e => e.1 :: sharedWith d part pages (some e.1) gs
    | none => []

/-- The lowest free entries of a die's table of 512 (R391). -/
def freeEntries (d : Die) (n : Nat) : List Nat := ((List.range 512).filter fun i => (tfind d.entries i).isNone).take n

/-- A new entry of a stage. -/
def newEntry (part : Nat) (g : Stage) (pages : List (Nat × Nat × Nat)) (cyc catchUp : Bool) (pred : Option Nat) (next : Nat)
    (sub src : Nat) (todo : List Nat) : Entry :=
  { part := part, kind := g.kind, bytes := g.bytes, handle := g.handle, pages := if g.kind = 1 then pages else [], cyc := cyc,
    catchUp := catchUp, infmt := g.infmt, pred := pred, next := next, alt := none, nextAlt := 0, turn := false, refs := [sub],
    owner := sub, src := src, made := 0, held := [], done := [], todo := if g.kind = 1 then todo else [] }

/-- Lists new entries of consecutive stages under their numbers, each fed by the one before. -/
def addStages (mk : Stage → Option Nat → Nat → Entry) : List Stage → List Nat → Option Nat → Nat → Tbl Entry → Tbl Entry
  | g :: gs, i :: is, pred, next, t => addStages mk gs is (some i) 0 (tput t i (mk g pred next))
  | _, _, _, _, t => t

/-- The productions that an entry has made. -/
def madeBy (d : Die) (i : Option Nat) : Nat := match i.bind (tfind d.entries) with
  | some e => e.made
  | none => 0

/-- Gives an entry a catch-up source. -/
def withAlt (t : Tbl Entry) (i : Nat) (alt : Option Nat) : Tbl Entry := match tfind t i with
  | some e => tput t i { e with alt := alt, nextAlt := 0, turn := false }
  | none => t

/-- A subscriber's reference on every entry that its tiles pass through. -/
def addRefs (t : Tbl Entry) (sub : Nat) (is : List Nat) : Tbl Entry :=
  is.foldl (fun t i => match tfind t i with
    | some e => if e.refs.contains sub then t else tput t i { e with refs := e.refs ++ [sub] }
    | none => t) t

/-- A landing byte lies in a bank of another role (code 2), or in a landing of a bound pipeline (code 3). -/
def wrongBank (s : State) (bs : List Byte) : Bool :=
  let want : Role := if pdOpr bs then .operand else .scratch
  (pdCores bs).any fun c => (banksOf (pdLand bs) (4096 * pdSlots bs)).any fun b => (s.core c).role b != want
def landsOn (d : Die) (bs : List Byte) : Bool :=
  d.subs.any fun u =>
    ((pdCores u.2.desc).any fun c => (pdCores bs).contains c) &&
      pdLand u.2.desc < pdLand bs + 4096 * pdSlots bs && pdLand bs < pdLand u.2.desc + 4096 * pdSlots u.2.desc

/-- The events of R343, with their descriptors. -/
def pipeEvents (s : State) (core : Nat) (binder : Gid) (bs : List Byte) : List EventDesc :=
  let base := field bs 0 4
  let parts := [binder, gidOf s.dev core 12]
  ((List.range (pdSlots bs)).map fun j => ⟨base + j, .channel, 8, 0, false, 0, 0, parts⟩) ++
    [⟨base + 15, .sync, 0, 0, false, 0, 0, parts⟩]

/-- The handle of a pipeline (R356). -/
def pipeHandle (die i gen : Nat) : Nat := 2 ^ 31 + gen % 4096 * 2 ^ 10 + die * 2 ^ 9 + i

/-- Welt makes the entries and the subscription of a bind; `shared` are the entries found, `free` those taken, in chain order: a
catch-up branch comes before the stages that it feeds (R391). -/
def bindEntries (d : Die) (part core ctx wg : Nat) (bs : List Byte) (slot : Nat) (l : Layout) (shared free : List Nat) : Nat × Die :=
  let gs := stagesOf bs l
  let k := shared.length
  let m := gs.length
  let own := free.drop (free.length - (m - k))
  let extra := free.take (free.length - (m - k))
  let u := own.getLastD 0
  let pages := relPages l
  let cyc := pdCyc bs
  let at' := shared.getLast?
  let missed := match at'.bind (tfind d.entries) with
    | some e => e.done
    | none => []
  let t1 := addStages (fun g p n => newEntry part g pages cyc false p n u slot (List.range (tileCount l))) (gs.drop k) own at'
    (madeBy d at') d.entries
  let t2 := if cyc || k == 0 then t1 else
    withAlt (addStages (fun g p n => newEntry part g pages false true p n u slot missed) (gs.take k) extra none 0 t1)
      (own.headD 0) extra.getLast?
  let sub : Sub :=
    { part := part, core := core, ctx := ctx % 16, wg := wg, gen := tget 0 d.subGens u, pbase := field bs 0 4, src := slot, desc := bs,
      st := if cyc && k != 0 then .joining else .running, chain := shared ++ own, k := k, age := d.nextAge, total := tileCount l,
      fmt := convFmt bs l.format, seq := 0, passCount := 0, got := [], tile := none, ends := false, lands := none, fresh := false, passPend := false, passes := 0, flags := 0,
      pcnt := 0 }
  (u, { d with entries := addRefs t2 u (chainOf t2 5 u), subs := tput d.subs u sub, nextAge := d.nextAge + 1 })

/-- The source of a descriptor, registered with read access. -/
def pipeSource (s : State) (c : Nat) (bs : List Byte) : Option (Nat × Layout) :=
  match layoutOf s (coreDie c) (partNum (s.core c)) (field bs 4 4) with
  | some (slot, l) => if nbit l.kinds 0 then some (slot, l) else none
  | none => none

/-- WELT_BIND (R349, R351, R353, R356): the answer, and the die with the pipeline. -/
def bindPipe (s : State) (core ctx : Nat) (rd : Reg) (bs : List Byte) (addr : Word) : Answer × State :=
  let die := coreDie core
  let d := s.die die
  let part := partNum (s.core core)
  match pipeSource s core bs with
  | none => (answerTrap (eventDesc addr), s)
  | some (slot, l) =>
    let gs := stagesOf bs l
    let shared := sharedWith d part (relPages l) none gs.dropLast
    let k := shared.length
    let need := gs.length - k + (if pdCyc bs then 0 else k)
    let free := freeEntries d need
    let evs := pipeEvents s core (gidOf s.dev core (ctx % 16)) bs
    if free.length < need then (answerReg rd 1, s)
    else if wrongBank s bs then (answerReg rd 2, s)
    else if landsOn d bs then (answerReg rd 3, s)
    else if evs.any fun e => (s.home ⟨homeNum s.dev core, e.name⟩).isSome then (answerReg rd 4, s)
    else
      let r := bindEntries d part core ctx (wgTag (s.core core)) bs slot l shared free
      let s1 := evs.foldl (fun t e => (defineEvent t ⟨homeNum s.dev core, e.name⟩ e).2) (s.setDie die r.2)
      (answerReg rd (BitVec.ofNat 64 (pipeHandle die r.1 (tget 0 d.subGens r.1))), s1)

/-- The answer of Welt or Cantle goes back to its context (R207). -/
def answerTo (core ctx : Nat) (r : Answer × State) : State := r.2.send (.requestAnswer core ctx (.answer r.1))

def execWeltBind (b : BindReq) (s : State) : Ans :=
  .next (onHolder b.core b.ctx (fun t => answerTo b.core b.ctx (bindPipe t b.core b.ctx b.rd b.desc b.addr)) s)

/-! ## Unbinding, detaching and rejoining (R352, R353, R357) -/

/-- A subscriber leaves entries: one that no subscriber is left on is freed, and another's oldest subscriber owns it and
gives FETCH its translations (R352, R392). -/
def leaveEntries (d : Die) (sub : Nat) (is : List Nat) : Die :=
  is.foldl (fun d i => match tfind d.entries i with
    | none => d
    | some e =>
      let refs := e.refs.filter (· != sub)
      if refs.isEmpty then { d with entries := tdel d.entries i, subGens := tput d.subGens i ((tget 0 d.subGens i + 1) % 4096) }
      else
        let o := oldest d refs
        let src := match tfind d.subs o with
          | some v => v.src
          | none => e.src
        { d with entries := tput d.entries i { e with refs := refs, owner := o, src := if e.kind = 1 then src else 0 } }) d

/-- Ends a subscription: its events are deleted as EVDEL does, its tiles discarded, its entries left. -/
def unbindSub (s : State) (die u : Nat) : State :=
  match tfind (s.die die).subs u with
  | none => s
  | some v =>
    let names := (List.range (pdSlots v.desc)).map (v.pbase + ·) ++ [v.pbase + 15]
    let s1 := names.foldl (fun t n => deleteEvent t ⟨homeNum s.dev v.core, n⟩) s
    let d := s1.die die
    let d1 := leaveEntries { d with subs := tdel d.subs u } u (chainOf d.entries 5 u)
    s1.setDie die (prune d1 (busySubs s1 die))

/-- A permit event of a subscription is at COMMIT (R357). -/
def permitCommits (s : State) (u : Sub) : Bool :=
  u.lands.isSome || (List.range (pdSlots u.desc)).any fun j => match s.home ⟨homeNum s.dev u.core, u.pbase + j⟩ with
    | some h => h.st == .commit
    | none => false

/-- The subscription that a handle names, with its die and entry. -/
def subOf (s : State) (h : Word) : Option (Nat × Nat × Sub) :=
  let die := bits h.toNat 9 1
  let i := bits h.toNat 0 9
  match tfind (s.die die).subs i with
  | some u => if h.toNat = pipeHandle die i u.gen then some (die, i, u) else none
  | none => none

/-- The subscription that a context has bound under a handle: a context of another workgroup on its core has not. -/
def boundBy (s : State) (c x : Nat) (h : Word) : Option (Nat × Nat × Sub) :=
  match subOf s h with
  | some (die, i, u) => if u.core = c ∧ u.ctx = x % 16 ∧ u.wg = wgTag (s.core c) then some (die, i, u) else none
  | none => none

/-- An unbind must wait. -/
def unbindWaits (s : State) (c x : Nat) (h : Word) : Bool := match boundBy s c x h with
  | some (_, _, u) => permitCommits s u
  | none => false

/-- An unbind is carried out. -/
def serveUnbind (core ctx : Nat) (rd : Reg) (handle : Word) (s : State) : State :=
  match boundBy s core ctx handle with
  | none => answerTo core ctx (answerReg rd 2, s)
  | some (die, i, _) => answerTo core ctx (answerReg rd 0, unbindSub s die i)

/-- WELT_UNBIND (R357); while a permit event is at COMMIT it waits. -/
def execWeltUnbind (core ctx : Nat) (rd : Reg) (handle : Word) (s : State) : Ans :=
  .next (
    if unbindWaits (lent s core ctx) core ctx handle then s.send (.weltUnbind core ctx rd handle)
    else onHolder core ctx (serveUnbind core ctx rd handle) s)

/-- A subscription belongs to what a core runs. -/
def ownSub (s : State) (c : Nat) (u : Sub) : Bool := u.core == c && u.wg == wgTag (s.core c)

/-- The binder's core is saved: its running and joining branches are detached (R353). -/
def detachSubs (s : State) (c : Nat) : State :=
  let die := coreDie c
  let d := s.die die
  let subs := d.subs.map fun u =>
    (u.1, if ownSub s c u.2 ∧ (u.2.st = .running ∨ u.2.st = .joining) then { u.2 with st := .detached } else u.2)
  s.setDie die (prune { d with subs := subs } (busySubs s die))

/-- One detached subscription rejoins its own chain (R349, R351, R353): at the entry before MCAST, with a new catch-up
branch for the tiles of a ONCE source that it has missed. Where the table has no room for one it stays DETACHED. -/
def rejoinSub (s : State) (die : Nat) (e : Nat × Sub) : State :=
  let d := s.die die
  let v := e.2
  match tfind d.entries e.1, tfind d.layouts v.src with
  | some mc, some l =>
    let gs := stagesOf v.desc l
    let up := v.chain.dropLast
    let k := up.length
    let old := match mc.alt with
      | some a => (chainOf d.entries 5 a).filter fun i => !up.contains i
      | none => []
    let d1 := leaveEntries { d with entries := withAlt d.entries e.1 none } e.1 old
    let at' := up.getLast?
    let cyc := pdCyc v.desc
    let free := if cyc then [] else freeEntries d1 k
    if !cyc && free.length < k then s
    else
      let missed := match at'.bind (tfind d1.entries) with
        | some g => g.done.filter fun t => !v.got.contains t && v.tile != some t
        | none => []
      let t1 := if cyc then d1.entries else
        withAlt (addStages (fun g p n => newEntry v.part g (relPages l) false true p n e.1 v.src missed) (gs.take k) free none 0
          d1.entries) e.1 free.getLast?
      let t2 := match tfind t1 e.1 with
        | some m => tput t1 e.1 { m with next := madeBy d1 at' }
        | none => t1
      let sub := { v with st := if cyc then .joining else .running, k := k, passCount := if cyc then 0 else v.passCount,
                          fresh := cyc && v.tile.isSome }
      s.setDie die { d1 with entries := t2, subs := tput d1.subs e.1 sub }
  | _, _ => s

/-- The core is restored where it was (R353). -/
def rejoinSubs (s : State) (c : Nat) : State :=
  ((s.die (coreDie c)).subs.filter fun u => ownSub s c u.2 && u.2.st == .detached).foldl (fun t u => rejoinSub t (coreDie c) u) s

/-- A workgroup is placed elsewhere: its subscriptions are unbound (R353). -/
def unbindWg (s : State) (n : Nat) : State :=
  s.dies.foldl (fun t d => (d.2.subs.filter fun u => u.2.wg == n + 1).foldl (fun t u => unbindSub t d.1 u.1) t) s

/-! ## Production (R340, R350, R390) -/

/-- Source tile t of a FETCH stage: its bytes, padded, with poisoned ones read as zero; and whether it is poisoned. -/
def fetchTile (s : State) (l : Layout) (t : Nat) : List Byte × Bool × List (Addr × Nat) :=
  let n := 4096 / layEs l
  let lo := t * n
  let ps := (List.range (min n (l.count - lo))).flatMap fun j => layPlaces l (elemVa l (lo + j)) (layEs l)
  let bs := ps.map fun p => if (enginePoison s p.1).isSome then 0 else engineByte s p.1 p.2
  (bs ++ List.replicate (4096 - bs.length) 0, !(poisonOf s ps).isEmpty, ps)

/-- CONVERT of a whole tile, every element being rounded (R340): parameters CFMT, CRM and CSAT stand in the stage's byte string. -/
def convTile (e : Entry) (bs : List Byte) : List Byte × BitVec 5 :=
  let es := fmtBytes e.infmt
  let rs := (List.range (bs.length / es)).map fun i =>
    roundTo e.infmt (BitVec.ofNat 32 (field e.bytes 1 4)) (field e.bytes 5 1) (field e.bytes 6 1 == 1) ((bs.drop (es * i)).take es)
  (rs.flatMap (·.1), rs.foldl (fun f r => f ||| r.2) 0)

/-- TILE: slab by slab. -/
def slabTile (tcols : Nat) (bs : List Byte) : List Byte :=
  (List.range (tcols / 64)).flatMap fun q => (List.range (bs.length / max tcols 1)).flatMap fun r => (bs.drop (r * tcols + 64 * q)).take 64

/-- What a stage makes of the production it takes. -/
def stageTile (e : Entry) (bs : List Byte) : List Byte × BitVec 5 :=
  if e.kind = 2 then convTile e bs else if e.kind = 3 then (slabTile (field e.bytes 1 4) bs, 0) else (bs, 0)

/-- A production is listed; subscribers that join at this entry are RUNNING from it on (R353). -/
def putProd (d : Die) (i : Nat) (e : Entry) (tile : Nat) (bs : List Byte) (pois : Bool) : Die :=
  let e1 := { e with made := e.made + 1, held := e.held ++ [⟨e.made, tile, bs, pois⟩],
                     done := if e.cyc then [] else nadd e.done tile, todo := e.todo.filter (· != tile) }
  { d with entries := tput d.entries i e1,
           subs := d.subs.map fun u =>
             (u.1, if u.2.st = .joining ∧ (u.2.chain.take u.2.k).getLast? = some i then { u.2 with st := .running } else u.2) }

/-- The flags of a CONVERT go to every subscriber it feeds. -/
def feedFlags (d : Die) (e : Entry) (f : BitVec 5) : Die :=
  { d with subs := d.subs.map fun u =>
      (u.1, if e.refs.contains u.1 ∧ (u.2.st = .running ∨ u.2.st = .joining) then { u.2 with flags := u.2.flags ||| f } else u.2) }

/-- The lines of a FETCH fill under the class of the owner's descriptor (R352, R360). -/
def fetchFill (s : State) (l : Layout) (rcls : Nat) (ps : List (Addr × Nat)) : State :=
  (ps.foldl (fun (t : Tbl Nat) p => tput t (p.1 / 1024) p.2) []).foldl (fun t e =>
    settle (engineFill t { l with rcls := rcls } (e.1 * 1024) e.2) (e.1 * 1024) 1024) (countDenied s (deniedOf s ps))

/-- FETCH makes its next production. -/
def produceFetch (s : State) (die i : Nat) (e : Entry) : State :=
  let d := s.die die
  match tfind d.layouts e.src, tfind d.subs e.owner with
  | some l, some o =>
    let tile := if e.cyc then e.made % max (tileCount l) 1 else e.todo.headD 0
    let r := fetchTile s l tile
    let s1 := fetchFill s l (pdRcls o.desc) r.2.2
    let d1 := putProd d i e tile r.1 r.2.1
    let d2 := if r.2.1 then { d1 with subs := tupd d1.subs e.owner fun u => { u with pcnt := min (2 ^ 32 - 1) (u.pcnt + 1) } } else d1
    s1.setDie die (prune d2 (busySubs s1 die))
  | _, _ => s

/-- PIPELINE_STAGE_PRODUCE (R350). -/
def execPipelineStageProduce (die entry : Nat) (s : State) : Ans :=
  .next (
    let d := s.die die
    match tfind d.entries entry with
    | none => s
    | some e =>
      if !canProduce d entry then s
      else if e.kind = 1 then produceFetch s die entry e
      else match nextProd d.entries e with
        | none => s
        | some p =>
          let r := stageTile e p.bytes
          let d1 := putProd d entry (tookNext d.entries e) p.tile r.1 p.pois
          s.setDie die (prune (if r.2 = 0 then d1 else feedFlags d1 e r.2) (busySubs s die)))

/-- PERMIT_AGENT_OFFER (R344, R345): the offers of the tile-walk agent of a subscription. -/
def execPermitAgentOffer (die sub : Nat) (s : State) : Ans :=
  .next (
    match tfind (s.die die).subs sub with
    | none => s
    | some u => armAgent (armAgent s (permitLatch s u.core sub)) (passLatch s u.core sub))

/-! ## The instructions -/

/-- PBIND (R356): the descriptor, the release, the checks, and the request. -/
def execPbind (rd rs1 : Reg) (s : State) : Ans :=
  let i : Instr := .pbind rd rs1
  let a := xread s.me rs1
  .next (s.load .load a.toNat 32 fun bs t => t.release fun u =>
    let n := field bs 0 4
    if !nameValid u u.myCore.part n || nameScope n != 1 then u.trap (badName (BitVec.ofNat 64 n))
    else match pipeSource u u.cur.1 bs with
      | none => u.trap (eventDesc a)
      | some (_, l) =>
        if !pipeDescOk u u.cur.1 bs l.format then u.trap (eventDesc a)
        else (u.hold (.request (byteLen i))).send (.weltBind ⟨u.cur.1, u.asker u.cur.1 u.cur.2, rd, bs, a⟩))

/-- PUNBIND (R357). -/
def execPunbind (rd rs1 : Reg) (s : State) : Ans :=
  .next ((s.hold (.request (byteLen (.punbind rd rs1)))).send (.weltUnbind s.cur.1 (s.asker s.cur.1 s.cur.2) rd (xread s.me rs1)))

/-- PERMIT (R358): the handle, the slot, the length, then OFFER's own checks. -/
def execPermit (rt rs1 rs2 : Reg) (s : State) : Ans :=
  let i : Instr := .permit rt rs1 rs2
  let v := xread s.me rt
  let j := (xread s.me rs2).toNat
  .next (
    match boundBy s s.cur.1 s.cur.2 (xread s.me rs1) with
    | none => s.trap (eventDesc (xread s.me rs1))
    | some (_, _, u) =>
      if pdSlots u.desc ≤ j ∨ bits v.toNat 32 13 ≠ 8 then s.ill i 6
      else offer i .take (BitVec.ofNat 64 (u.pbase + j)) none (some v) s)

/-- The code of a state (R359). -/
def subCode : SubSt → Nat
  | .joining => 1
  | .running => 2
  | .detached => 3
  | .ended => 4

/-- The status record of a subscription (R359). -/
def pipeRecord (d : Die) (i : Nat) (u : Sub) : List Byte :=
  let owns := u.chain.dropLast.all fun j => match tfind d.entries j with
    | some e => e.owner == i
    | none => true
  let refs := match (u.chain.take u.k).getLast?.bind (tfind d.entries) with
    | some e => e.refs.length
    | none => 0
  let word := u.flags.toNat * 2 ^ 27 + u.passes * 2 ^ 19 + u.k * 2 ^ 16 + (if owns then 2 ^ 15 else 0) + subCode u.st
  ((List.range 4).flatMap fun j => bytesOfNat 8 (((u.chain[j]?).bind (tfind d.entries)).elim 0 (·.handle.toNat))) ++
    bytesOfNat 4 u.seq ++ bytesOfNat 4 word ++ bytesOfNat 4 u.pcnt ++ bytesOfNat 4 refs ++ List.replicate 16 0

/-- Welt's answer to a PSTAT: the record, with PASSES cleared by the read; or the cause for a handle that is not live. -/
def servePstat (s : State) (c : Nat) (h : Word) : Option (List Byte × State) :=
  match subOf s h with
  | some (die, i, u) =>
    if u.part ≠ partNum (s.core c) then none
    else
      let d := s.die die
      some (pipeRecord d i u, s.setDie die { d with subs := tput d.subs i { u with passes := 0 } })
  | none => none

/-- PSTAT (R359). -/
def execPstat (rd rs1 rs2 : Reg) (s : State) : Ans :=
  let i : Instr := .pstat rd rs1 rs2
  let ea := (xread s.me rs2).toNat
  let h := xread s.me rs1
  .next (
    if s.me.recd.isNone ∧ (servePstat s s.cur.1 h).isNone then s.trap (eventDesc h)
    else recordAt ea (fun t => t.request (byteLen i) (homeNum t.dev t.cur.1) (.pstat rd h (xread t.me rs2)))
      (fun bs => storeRecord i rd ea bs (BitVec.ofNat 64 (field bs 32 8)) s) s)

end Sys2Proof.Machine
end

