-- ==== Sys2Proof/Machine/Tree.lean ====
section
/-!
DEFINITION. Cantle, the search-tree engine (14_search_tree_engine.md): node pools (R361-R363), nodes (R364), the descent
(R368-R370), batches (R371, R372), expansion, backup, reuse and reclamation (R373-R377), and its eight instructions.
-/

namespace Sys2Proof.Machine

open Sys2Proof

/-! ## The pool (R361, R363, R373, R388) -/

/-- Capacity in nodes. -/
def treeCap (t : Tree) : Nat := (t.extents.map (·.nodes)).foldl (· + ·) 0

/-- The physical address and key of a node: index i of the extents in order. -/
def nodePa : List Extent → Nat → Option (Addr × Nat)
  | [], _ => none
  | e :: t, i =>
    if i < e.nodes then (e.pages[i / 64]?).map fun p => (p.1 * 4096 + i % 64 * 64, p.2) else nodePa t (i - e.nodes)

/-- A node is allocated. -/
def nodeAllocated (t : Tree) (i : Nat) : Bool := t.alloc.any fun r => r.1 ≤ i && i < r.2

/-- Free runs, as start and length, in rising order: what the allocated runs leave of [lo, cap). -/
def freeRuns (cap : Nat) : List (Nat × Nat) → Nat → List (Nat × Nat)
  | [], lo => if lo < cap then [(lo, cap - lo)] else []
  | r :: t, lo => (if lo < r.1 then [(lo, r.1 - lo)] else []) ++ freeRuns cap t r.2

def treeRuns (t : Tree) : List (Nat × Nat) := freeRuns (treeCap t) t.alloc 0

/-- The lowest free run of at least k nodes. -/
def findRun (t : Tree) (k : Nat) : Option Nat := ((treeRuns t).find? fun r => k ≤ r.2).map (·.1)

/-- Takes the run [lo, hi) into the allocated ones. -/
def allocRun (lo hi : Nat) : List (Nat × Nat) → List (Nat × Nat)
  | [] => [(lo, hi)]
  | r :: t =>
    if hi < r.1 then (lo, hi) :: r :: t
    else if r.2 < lo then r :: allocRun lo hi t
    else if hi = r.1 then (lo, r.2) :: t
    else match t with
      | q :: u => if hi = q.1 then (r.1, q.2) :: u else (r.1, hi) :: q :: u
      | [] => [(r.1, hi)]

/-- Gives one node back. -/
def freeNode (i : Nat) : List (Nat × Nat) → List (Nat × Nat)
  | [] => []
  | r :: t =>
    if r.1 ≤ i ∧ i < r.2 then (if r.1 < i then [(r.1, i)] else []) ++ (if i + 1 < r.2 then [(i + 1, r.2)] else []) ++ t
    else r :: freeNode i t

/-- NODE_POOL's value (R373). -/
def nodePool (t : Tree) (tree k : Nat) : Cause :=
  cause 0x13 (BitVec.ofNat 64 (((treeRuns t).map (·.2)).foldl max 0 * 2 ^ 32 + tree * 2 ^ 16 + k))

/-- An allocation waits while reclamation may still free a run that is long enough (R373). -/
def allocWaits (t : Tree) (k : Nat) : Bool := (findRun t k).isNone && !t.reclaim.isEmpty

/-! ## The node (R364) -/

structure Node where
  n : Nat
  w : Nat
  vl : Nat
  /-- EXP, PEND, TERM. -/
  exp : Bool
  pend : Bool
  term : Bool
  p : Nat
  none : Bool
  parent : Nat
  first : Nat
  ccount : Nat
  depth : Nat
  deriving DecidableEq, Repr

def nodeOf (bs : List Byte) : Node :=
  { n := field bs 0 4, w := field bs 4 4, vl := field bs 8 2, exp := nbit (field bs 10 2) 0, pend := nbit (field bs 10 2) 1,
    term := nbit (field bs 10 2) 2, p := field bs 12 4, none := nbit (field bs 16 4) 31, parent := bits (field bs 16 4) 0 24,
    first := bits (field bs 20 4) 0 24, ccount := field bs 24 2, depth := field bs 26 2 }

/-- Bytes 0 to 15 of a node. -/
def statBytes (x : Node) : List Byte :=
  bytesOfNat 4 x.n ++ bytesOfNat 4 x.w ++ bytesOfNat 2 x.vl ++
    bytesOfNat 2 ((if x.exp then 1 else 0) + (if x.pend then 2 else 0) + (if x.term then 4 else 0)) ++ bytesOfNat 4 x.p

/-- What reading a node gives: its bytes; poison, or no such place, refuses (R379). -/
def nodeBytes (s : State) (t : Tree) (i : Nat) : Except Nat (List Byte) :=
  match nodePa t.extents i with
  | none => .error 2
  | some (pa, key) => if s.memPoison.contains (pa / 256) then .error 10 else .ok (homeBytes s key pa 64)

def readNode (s : State) (t : Tree) (i : Nat) : Except Nat Node := (nodeBytes s t i).map nodeOf

/-- Reads several nodes. -/
def readNodes (s : State) (t : Tree) : List Nat → Except Nat (List (Nat × Node))
  | [] => .ok []
  | i :: is => match readNode s t i with
    | .error e => .error e
    | .ok x => match readNodes s t is with
      | .error e => .error e
      | .ok xs => .ok ((i, x) :: xs)

/-- Fills the line of a node (R361). -/
def nodeFill (s : State) (t : Tree) (pa key : Nat) : State :=
  llcInsert s (pa / 1024) key t.ccls t.rcls

/-- Writes bytes of a node, one aligned 16-byte part after another (R364). -/
def writeNode (s : State) (k : Nat) (t : Tree) (i off : Nat) (bs : List Byte) : State :=
  match nodePa t.extents i with
  | none => s
  | some (pa, key) =>
    let parts := (bs.zipIdx.map fun b => (pa + off + b.2, key, b.1)).foldl putByte []
    parts.foldl (fun u e => writePart u (copyAgent s k) e.2.1 e.2.2) (nodeFill s t pa key)

/-- The live chain of a node up to the root, the node first (R363); code 2 where it does not reach the root. -/
def liveChain (s : State) (t : Tree) : Nat → Nat → Except Nat (List (Nat × Node))
  | 0, _ => .error 2
  | f + 1, i =>
    if !nodeAllocated t i || t.reclaim.contains i then .error 2
    else match readNode s t i with
      | .error e => .error e
      | .ok x =>
        if t.root = some i then .ok [(i, x)]
        else if x.none then .error 2
        else match liveChain s t f x.parent with
          | .error e => .error e
          | .ok r => .ok ((i, x) :: r)

/-- Levels that a chain can have (DEPTH is at most 65,535). -/
def maxDepth : Nat := 65537

/-! ## Descent (R368-R370) -/

/-- A value rounded to FP32 under RNE, and its code. -/
def rne (v : Val) : Val := decodeCode fp32 (roundCode fp32 0 false v).1
def intVal (n : Nat) : Val := .fin false n 1 0
def rneInt (n : Nat) : Val := rne (intVal n)
def f32 (c : Nat) : Val := decodeCode fp32 c

/-- The score of a child (R368). -/
def childScore (t : Tree) (cs : Val) (y : Node) : Val :=
  let n := rneInt (y.n + y.vl)
  let q := if y.n + y.vl = 0 then f32 t.fpv.toNat
    else
      let loss := rne (mulVal (intVal y.vl) (f32 t.vlv.toNat)).1
      rne (divVal (rne (addVal 0 (f32 y.w) (negVal loss)).1) n).1
  let u := rne (divVal (rne (mulVal cs (f32 y.p)).1) (rne (addVal 0 (intVal 1) n).1)).1
  rne (addVal 0 q u).1

/-- The index of the highest score: a NaN ranks below all, ties to the lower. -/
def bestChild : List Val → Nat
  | vs => (vs.zipIdx.foldl (fun (b : Option (Val × Nat)) v => match b with
      | none => if isNan v.1 then none else some v
      | some w => if !isNan v.1 && ltVal w.1 v.1 then some v else some w) none).elim 0 (·.2)

/-- cs of a node. -/
def exploreTerm (t : Tree) (x : Node) : Val :=
  rne (mulVal (f32 t.c.toNat) (rne (sqrtVal (rneInt (x.n + x.vl))).1)).1

/-- The path of a descent from a node on, the node first (R369). -/
def descend (s : State) (t : Tree) : Nat → Nat → Except Nat (List (Nat × Node))
  | 0, _ => .error 2
  | f + 1, i => match readNode s t i with
    | .error e => .error e
    | .ok x =>
      if !x.exp || x.term then .ok [(i, x)]
      else match readNodes s t ((List.range x.ccount).map (x.first + ·)) with
        | .error e => .error e
        | .ok ys =>
          match descend s t f (x.first + bestChild (ys.map fun y => childScore t (exploreTerm t x) y.2)) with
          | .error e => .error e
          | .ok r => .ok ((i, x) :: r)

/-! ## Batches (R371) -/

/-- The open batch closes. -/
def closeBatch (t : Tree) : Tree := { t with closed := t.closed ++ [(t.seq, t.openB)], openB := [], seq := t.seq + 1 }

/-- A leaf joins the open batch. -/
def joinBatch (t : Tree) (i : Nat) : Tree :=
  let u := { t with openB := t.openB ++ [i] }
  if u.openB.length = t.bsz then closeBatch u else u

/-! ## The operations (R366, R380-R386) -/

/-- A refusal (R379). -/
def treeRefusal (code : Nat) : Word := BitVec.ofNat 64 (2 ^ 63 + code)

/-- The answer of Cantle: registers, flags, and the refresh (R367). -/
def treeAnswer (rs : List (Reg × Word)) (f : BitVec 5) : Answer := ⟨rs, f, none, true⟩
def treeTrap (cz : Cause) : Answer := ⟨[], 0, some cz, true⟩

def putTree (s : State) (k n : Nat) (t : Tree) : State :=
  s.setCluster k { s.cluster k with trees := tput (s.cluster k).trees n t }

/-- The level of the leaf that translates an address; 0 without a walk (R408). -/
def leafLevel (s : State) (c : Nat) (x : Ctx) (va : Addr) : Nat :=
  if x.priv = .h || !x.ptroot.getLsbD 63 then 0
  else match walkFrom s c x va .load 5 1 (bits x.ptroot.toNat 12 40) [] with
    | (.leaf e, _) => e.level
    | (.fault _, _) => 0

/-- Pages one after another, for reading and writing, each in GDDR 7; the first that refuses is the lowest (R361, R380). -/
def pinNodePages (s : State) (c : Nat) (x : Ctx) : List Addr → Except Cause (List (Nat × Nat))
  | [] => .ok []
  | va :: t => match pinPage s c x va [.load, .engine] (0, 0) with
    | .error cz => .error cz
    | .ok r =>
      if !isGddr (r.1 * 4096) then .error (memFault .load 0x08 va (leafLevel s c x va) 1)
      else match pinNodePages s c x t with
        | .error cz => .error cz
        | .ok rs => .ok (r :: rs)

/-- The pages of an extent, pinned for reading and writing, each in GDDR 7 (R361). -/
def pinExtent (s : State) (c x : Nat) (base nodes : Nat) : Except Cause (List (Nat × Nat)) :=
  let ps := (pagesOf (nodes / 64 + 1) base (64 * nodes)).map fun p => p.1 % 2 ^ 64
  match unreachable (ps.map fun a => (a / 4096, a)) with
  | some a => .error { cause 0x04 (BitVec.ofNat 64 a) with access := .load }
  | none => pinNodePages s c (s.ctx c x) ps

/-- The fields of the extent record at an offset (R362). -/
def extentOk (bs : List Byte) (off : Nat) : Bool :=
  field bs off 8 % 4096 == 0 && field bs (off + 8) 4 != 0 && field bs (off + 8) 4 % 64 == 0 && field bs (off + 12) 4 == 0

/-- The fields of a tree descriptor (R362), for a core's partition. -/
def treeDescOk (s : State) (c : Nat) (bs : List Byte) : Bool :=
  let w := field bs 16 4
  w < 2 ^ 15 && classHeld s (s.core c).part (bits w 11 4) && bits w 9 2 != 3 && 1 ≤ bits w 0 8 && bits w 0 8 ≤ 64 &&
    field bs 20 4 == 0 && extentOk bs 24 && field bs 40 8 == 0 && field bs 48 8 == 0 && field bs 56 8 == 0

/-- A configured tree, empty and with no root (R380). -/
def newTree (s : State) (c : Nat) (bs : List Byte) (pages : List (Nat × Nat)) : Tree :=
  let w := field bs 16 4
  { part := partNum (s.core c), wg := wgTag (s.core c), c := BitVec.ofNat 32 (field bs 0 4), fpv := BitVec.ofNat 32 (field bs 4 4),
    vlv := BitVec.ofNat 32 (field bs 8 4), bev := evKey s c (field bs 12 4), ccls := bits w 11 4, rcls := bits w 9 2,
    alt := nbit w 8, bsz := bits w 0 8, extents := [⟨pages, field bs 32 4⟩], alloc := [], reclaim := [], root := none,
    gen := 0, openB := [], closed := [], seq := 0, berr := false, refused := false }

/-- The other nodes of the old tree join the reclamation set, and the open batch keeps its live leaves (R371, R376). -/
def moveRoot (t : Tree) (root : Nat) (kept : List Nat) : Tree :=
  let all := t.alloc.flatMap fun r => (List.range (r.2 - r.1)).map (r.1 + ·)
  { t with root := some root, gen := t.gen + 1, reclaim := (all.filter fun i => !kept.contains i),
           openB := t.openB.filter kept.contains }

/-- A node and everything below it. -/
def subtree (s : State) (t : Tree) : Nat → List Nat → Except Nat (List Nat)
  | 0, _ => .ok []
  | _ + 1, [] => .ok []
  | f + 1, i :: is => match readNode s t i with
    | .error e => .error e
    | .ok x => match subtree s t f (is ++ (if x.exp then (List.range x.ccount).map (x.first + ·) else [])) with
      | .error e => .error e
      | .ok r => .ok (i :: r)

/-! ## The nodes that an operation reads -/

/-- The nodes that a descent reads. -/
def descendReads (s : State) (t : Tree) : Nat → Nat → List Nat
  | 0, _ => []
  | f + 1, i => i :: (match readNode s t i with
    | .error _ => []
    | .ok x =>
      if !x.exp || x.term then []
      else
        let is := (List.range x.ccount).map (x.first + ·)
        match readNodes s t is with
        | .error _ => is
        | .ok ys => is ++ descendReads s t f (x.first + bestChild (ys.map fun y => childScore t (exploreTerm t x) y.2)))

/-- The nodes of a chain up to the root. -/
def chainReads (s : State) (t : Tree) : Nat → Nat → List Nat
  | 0, _ => []
  | f + 1, i =>
    if !nodeAllocated t i || t.reclaim.contains i then []
    else i :: (match readNode s t i with
      | .error _ => []
      | .ok x => if t.root = some i || x.none then [] else chainReads s t f x.parent)

/-- The nodes that an operation on a configured tree reads. -/
def nodesRead (s : State) (t : Tree) : TreeOp → List Nat
  | .desc _ => t.root.elim [] (descendReads s t maxDepth)
  | .expand _ node _ => chainReads s t maxDepth node
  | .terminal _ node => chainReads s t maxDepth node
  | .back _ leaf _ _ => chainReads s t maxDepth leaf
  | .reuse _ child => match t.root with
    | none => []
    | some r => r :: (match readNode s t r, subtree s t (treeCap t + 1) [child] with
      | .ok x, .ok kept => if x.first ≤ child && child < x.first + x.ccount then kept else []
      | _, _ => [])
  | .readStats _ node => if nodeAllocated t node then [node] else []
  | .readLinks _ node => if nodeAllocated t node then [node] else []
  | .cfgNew _ _ _ => []
  | .cfgGrow _ _ _ => []
  | .cfgDel _ => []
  | .root _ _ => []
  | .batch _ => []
  | .readTree _ => []

/-- The lines of the nodes that an operation reads are filled under the tree's classes (R361), and their exact sums become values (R309). -/
def nodesFilled (s : State) (t : Tree) (op : TreeOp) : State :=
  (nodesRead s t op).foldl (fun u i => match nodePa t.extents i with
    | some p => settle (nodeFill u t p.1 p.2) p.1 64
    | none => u) s

/-- TROOT (R381): GEN of the new node is zero, as that rule lists it. -/
def treeRoot (s : State) (k n : Nat) (t : Tree) (rd : Reg) (action : Half) : Answer × State :=
  match findRun t 1 with
  | none => (treeTrap (nodePool t n 1), s)
  | some i =>
    let s1 := writeNode s k t i 0 (List.replicate 16 0 ++ bytesOfNat 4 (2 ^ 31) ++ List.replicate 8 0 ++
      bytesOfNat 4 action.toNat ++ List.replicate 32 0)
    let t1 := { t with alloc := allocRun i (i + 1) t.alloc }
    (treeAnswer [(rd, BitVec.ofNat 64 i)] 0, putTree s1 k n (moveRoot t1 i [i]))

/-- TDESC (R368-R370, R382). -/
def treeDesc (s : State) (k n : Nat) (t : Tree) (rd : Reg) : Answer × State :=
  let no (code : Nat) : Answer × State := (treeAnswer [(rd, treeRefusal code)] 0, s)
  match t.root with
  | none => no 2
  | some r => match descend s t maxDepth r with
    | .error e => no e
    | .ok path =>
      match path.getLast? with
      | none => no 2
      | some (leaf, x) =>
        let new := !x.term && !x.pend
        if new && t.openB.length + 1 == t.bsz && 3 ≤ t.closed.length then no 4
        else if path.any fun e => e.2.vl == 65535 then no 3
        else
          let s1 := path.foldl (fun u e =>
            let y := { e.2 with vl := e.2.vl + 1 }
            writeNode u k t e.1 0 (statBytes (if new && e.1 == leaf then { y with pend := true } else y))) s
          let word := (path.length - 1) * 2 ^ 32 + (if x.term then 2 ^ 26 else if x.pend then 2 ^ 25 else 2 ^ 24) + leaf
          (treeAnswer [(rd, BitVec.ofNat 64 word)] 0, putTree s1 k n (if new then joinBatch t leaf else t))

/-- A new child (R374). -/
def childBytes (t : Tree) (parent depth : Nat) (e : Half × Half) : List Byte :=
  List.replicate 12 0 ++ bytesOfNat 4 e.1.toNat ++ bytesOfNat 4 parent ++ bytesOfNat 4 0 ++ bytesOfNat 2 0 ++
    bytesOfNat 2 (depth + 1) ++ bytesOfNat 4 e.2.toNat ++ bytesOfNat 4 t.gen.toNat ++ List.replicate 28 0

/-- TEXP (R373, R374, R384). -/
def treeExpand (s : State) (k n : Nat) (t : Tree) (rd : Reg) (node : Nat) (es : List (Half × Half)) : Answer × State :=
  let no (code : Nat) : Answer × State := (treeAnswer [(rd, treeRefusal code)] 0, s)
  match liveChain s t maxDepth node with
  | .error e => no e
  | .ok ch =>
    match ch with
    | [] => no 2
    | (_, x) :: _ =>
      if x.exp || x.term then no 5
      else if x.depth = 65535 then no 9
      else match findRun t es.length with
        | none => (treeTrap (nodePool t n es.length), s)
        | some base =>
          let s1 := es.zipIdx.foldl (fun u e => writeNode u k t (base + e.2) 0 (childBytes t node x.depth e.1)) s
          let s2 := writeNode s1 k t node 20 (bytesOfNat 4 base ++ bytesOfNat 2 es.length)
          let s3 := writeNode s2 k t node 0 (statBytes { x with exp := true, pend := false })
          (treeAnswer [(rd, BitVec.ofNat 64 base)] 0, putTree s3 k n { t with alloc := allocRun base (base + es.length) t.alloc })

/-- TEXP.TERM (R384). -/
def treeTerminal (s : State) (k : Nat) (t : Tree) (rd : Reg) (node : Nat) : Answer × State :=
  let no (code : Nat) : Answer × State := (treeAnswer [(rd, treeRefusal code)] 0, s)
  match liveChain s t maxDepth node with
  | .error e => no e
  | .ok ch => match ch with
    | [] => no 2
    | (_, x) :: _ =>
      if x.exp || x.term then no 5
      else (treeAnswer [(rd, 0)] 0, writeNode s k t node 0 (statBytes { x with term := true, pend := false }))

/-- The state of a backup along its path: the value, the flags, SATN and VLU. -/
structure BackAcc where
  v : Nat
  flags : BitVec 5
  satn : Bool
  vlu : Bool
  st : State
  deriving DecidableEq, Repr

/-- One node of a backup (R375). -/
def backNode (k : Nat) (t : Tree) (leaf : Nat) (vlo : Bool) (a : BackAcc) (e : Nat × Node) : BackAcc :=
  let x := e.2
  let sum := finish fp32 0 false (addVal 0 (f32 x.w) (f32 a.v))
  let sat := !vlo && x.n == 2 ^ 32 - 1
  let y : Node := { x with
    n := if vlo || sat then x.n else x.n + 1, w := if vlo then x.w else sum.1, vl := x.vl - 1,
    pend := if e.1 = leaf ∧ !vlo then false else x.pend }
  { v := if t.alt then (if a.v < 2 ^ 31 then a.v + 2 ^ 31 else a.v - 2 ^ 31) else a.v,
    flags := if vlo then a.flags else a.flags ||| sum.2, satn := a.satn || sat, vlu := a.vlu || x.vl == 0,
    st := writeNode a.st k t e.1 0 (statBytes y) }

/-- TBACK (R375, R385). -/
def treeBack (s : State) (k : Nat) (t : Tree) (rd : Reg) (leaf : Nat) (v : Half) (vlo : Bool) : Answer × State :=
  match liveChain s t maxDepth leaf with
  | .error e => (treeAnswer [(rd, treeRefusal e)] 0, s)
  | .ok ch =>
    let a := ch.foldl (backNode k t leaf vlo) ⟨v.toNat, 0, false, false, s⟩
    (treeAnswer [(rd, BitVec.ofNat 64 ((if a.vlu then 2 ^ 18 else 0) + (if a.satn then 2 ^ 17 else 0) + ch.length))] a.flags, a.st)

/-- TREUSE (R376, R383). DESIGN CHOICE (log 30): it reads the root and every node of the kept subtree, and is refused with code 10 where one of
them lies in a poisoned sector; the spec does not say which nodes it reads. -/
def treeReuse (s : State) (k n : Nat) (t : Tree) (rd : Reg) (child : Nat) : Answer × State :=
  let no (code : Nat) : Answer × State := (treeAnswer [(rd, treeRefusal code)] 0, s)
  match t.root with
  | none => no 2
  | some r => match readNode s t r with
    | .error e => no e
    | .ok x =>
      if !(x.first ≤ child && child < x.first + x.ccount) then no 6
      else match subtree s t (treeCap t + 1) [child], nodeBytes s t child with
        | .error e, _ => no e
        | .ok _, .error e => no e
        | .ok kept, .ok bs =>
          let s1 := writeNode s k t child 16 (bytesOfNat 4 (field bs 16 4 % 2 ^ 31 + 2 ^ 31))
          let old := t.reclaim
          let t1 := moveRoot t child (kept ++ old)
          (treeAnswer [(rd, 0)] 0,
            putTree s1 k n { t1 with reclaim := t1.reclaim ++ old, openB := t.openB.filter kept.contains })

/-- TREAD.STATS and TREAD.LINKS (R386): two doublewords of a node from an offset on. -/
def treeReadNode (s : State) (t : Tree) (rd : Reg) (node off : Nat) : Answer × State :=
  let no (code : Nat) : Answer × State := (treeAnswer [(rd, treeRefusal code), (nextReg rd, 0)] 0, s)
  if !nodeAllocated t node then no 2
  else match nodeBytes s t node with
    | .error e => no e
    | .ok bs => (treeAnswer [(rd, BitVec.ofNat 64 (field bs off 8)), (nextReg rd, BitVec.ofNat 64 (field bs (off + 8) 8))] 0, s)

/-- TREAD.TREE (R386): the status, an input of the replay log (R435); the read clears BERR. -/
def treeStatus (s : State) (c x k n : Nat) (t : Tree) (rd : Reg) : Answer × State :=
  let w0 := t.openB.length * 2 ^ 40 + t.closed.length * 2 ^ 32 + (if t.berr then 2 ^ 26 else 0) +
    (if t.reclaim.isEmpty then 0 else 2 ^ 25) + (if t.root.isNone then 2 ^ 24 else 0) + t.root.getD 0
  let free := ((treeRuns t).map (·.2)).foldl (· + ·) 0
  let a := s.input c x 4 (BitVec.ofNat 64 w0)
  let b := a.2.input c x 4 (BitVec.ofNat 64 (treeCap t * 2 ^ 32 + free))
  (treeAnswer [(rd, a.1), (nextReg rd, b.1)] 0, putTree b.2 k n { t with berr := false })

/-- The register of an operation's result, and whether it is a pair. -/
def treeRd : TreeOp → Reg × Bool
  | .cfgNew rd _ _ => (rd, false)
  | .cfgGrow rd _ _ => (rd, false)
  | .cfgDel rd => (rd, false)
  | .root rd _ => (rd, false)
  | .desc rd => (rd, false)
  | .expand rd _ _ => (rd, false)
  | .terminal rd _ => (rd, false)
  | .back rd _ _ _ => (rd, false)
  | .batch rd => (rd, false)
  | .reuse rd _ => (rd, false)
  | .readStats rd _ => (rd, true)
  | .readLinks rd _ => (rd, true)
  | .readTree rd => (rd, true)

/-- An operation on a configured tree. -/
def treeOn (s : State) (c x k n : Nat) (t : Tree) (op : TreeOp) : Answer × State :=
  let no (rd : Reg) (code : Nat) : Answer × State := (treeAnswer [(rd, treeRefusal code)] 0, s)
  match op with
  | .cfgNew rd _ _ => no rd 7
  | .cfgGrow rd bs _ =>
    if 8 ≤ t.extents.length ∨ 2 ^ 24 < treeCap t + field bs 8 4 then no rd 8
    else match pinExtent s c x (field bs 0 8) (field bs 8 4) with
      | .error cz => (treeTrap cz, s)
      | .ok ps =>
        let t1 := { t with extents := t.extents ++ [⟨ps, field bs 8 4⟩] }
        (treeAnswer [(rd, BitVec.ofNat 64 (treeCap t1))] 0, putTree s k n t1)
  | .cfgDel rd =>
    (treeAnswer [(rd, 0)] 0,
      idleLatch (s.setCluster k { s.cluster k with trees := tdel (s.cluster k).trees n }) (batchLatch s k n))
  | .root rd action => treeRoot s k n t rd action
  | .desc rd => treeDesc s k n t rd
  | .expand rd node es => treeExpand s k n t rd node es
  | .terminal rd node => treeTerminal s k t rd node
  | .back rd leaf v vlo => treeBack s k t rd leaf v vlo
  | .batch rd =>
    if 3 ≤ t.closed.length then no rd 4
    else if t.openB.isEmpty then (treeAnswer [(rd, 0)] 0, s)
    else (treeAnswer [(rd, BitVec.ofNat 64 t.openB.length)] 0, putTree s k n (closeBatch t))
  | .reuse rd child => treeReuse s k n t rd child
  | .readStats rd node => treeReadNode s t rd node 0
  | .readLinks rd node => treeReadNode s t rd node 16
  | .readTree rd => treeStatus s c x k n t rd

/-- An operation as Cantle handles it (R366, R379). -/
def treeServe (s : State) (c x k n : Nat) (op : TreeOp) : Answer × State :=
  match tfind (s.cluster k).trees n with
  | some t => treeOn (nodesFilled s t op) c x k n t op
  | none => match op with
    | .cfgNew rd bs _ =>
      if 2 ^ 24 < field bs 32 4 then (treeAnswer [(rd, treeRefusal 8)] 0, s)
      else match pinExtent s c x (field bs 24 8) (field bs 32 4) with
        | .error cz => (treeTrap cz, s)
        | .ok ps => (treeAnswer [(rd, 0)] 0, putTree s k n (newTree s c bs ps))
    | _ =>
      let r := treeRd op
      (treeAnswer ((r.1, treeRefusal 1) :: (if r.2 then [(nextReg r.1, 0)] else [])) 0, s)

/-- The operation waits: for reclamation (R373), or for the end of a claim of the batch event's offer (R380). -/
def treeWaits (s : State) (k n : Nat) (op : TreeOp) : Bool :=
  match tfind (s.cluster k).trees n with
  | none => false
  | some t => match op with
    | .root _ _ => allocWaits t 1
    | .expand _ node es => allocWaits t es.length && (match liveChain s t maxDepth node with
        | .ok ((_, x) :: _) => !(x.exp || x.term) && x.depth != 65535
        | _ => false)
    | .cfgDel _ => latchBusy s (batchLatch s k n)
    | _ => false

/-- CANTLE_OPERATION (R366): it is complete in one step, or waits. -/
def execCantleOperation (core ctx cluster tree : Nat) (op : TreeOp) (s : State) : Ans :=
  .next (
    if treeWaits s cluster tree op then s.send (.cantleOperation core ctx cluster tree op)
    else onHolder core ctx (fun t => answerTo core ctx (treeServe t core (ctx % 16) cluster tree op)) s)

/-- BATCH_OFFER (R372): the offer of a tree's oldest closed batch. -/
def execBatchOffer (cluster tree : Nat) (s : State) : Ans := .next (armAgent s (batchLatch s cluster tree))

/-- RECLAMATION_FREE (R377): one node of the reclamation set is free. -/
def execReclamationFree (cluster tree node : Nat) (s : State) : Ans :=
  .next (
    match tfind (s.cluster cluster).trees tree with
    | none => s
    | some t =>
      if t.reclaim.contains node then
        putTree s cluster tree { t with reclaim := t.reclaim.filter (· != node), alloc := freeNode node t.alloc }
      else s)

/-! ## The instructions (R378-R386) -/

/-- The number in a register, if it is a tree's. -/
def treeNum (v : Word) : Option Nat := if v.toNat < 64 then some v.toNat else none

/-- Sends an operation to the cluster's Cantle. -/
def askTree (s : State) (tree : Nat) (op : TreeOp) : State :=
  (s.hold (.request 12)).send (.cantleOperation s.cur.1 (s.asker s.cur.1 s.cur.2) (clusterOf s.cur.1) tree op)

/-- An operation of a tree on a node, after the release (R367, R378). -/
def treeOp (i : Instr) (tv : Word) (node : Word) (op : Nat → TreeOp) (s : State) : Ans :=
  .next (
    match treeNum tv with
    | none => s.ill i 6
    | some n => if 2 ^ 24 ≤ node.toNat then s.ill i 6 else s.release fun t => askTree t n (op node.toNat))

/-- TCFG.NEW and TCFG.GROW (R380): the record, then checks 1 and 2; check 3 is Cantle's walk. -/
def tcfgRecord (i : Instr) (new : Bool) (rd : Reg) (addr tv : Word) (s : State) : Ans :=
  .next (
    match treeNum tv with
    | none => s.ill i 6
    | some n =>
      s.load .load addr.toNat (if new then 64 else 16) fun bs t =>
        let bev := field bs 12 4
        if new && !nameValid t t.myCore.part bev then t.trap (badName (BitVec.ofNat 64 bev))
        else if !(if new then treeDescOk t t.cur.1 bs else extentOk bs 0) then t.trap (eventDesc addr)
        else t.release fun u =>
          (u.hold (.request (byteLen i))).send (.cantleOperation u.cur.1 (u.asker u.cur.1 u.cur.2) (clusterOf u.cur.1) n
            (if new then .cfgNew rd bs addr else .cfgGrow rd bs addr)))

def execTcfgNew (rd rs1 rs2 : Reg) (s : State) : Ans :=
  tcfgRecord (.tcfgNew rd rs1 rs2) true rd (xread s.me rs1) (xread s.me rs2) s
def execTcfgNewLit (rd rs2 : Reg) (lit : BitVec 64) (s : State) : Ans :=
  tcfgRecord (.tcfgNewLit rd rs2 lit) true rd lit (xread s.me rs2) s
def execTcfgGrow (rd rs1 rs2 : Reg) (s : State) : Ans :=
  tcfgRecord (.tcfgGrow rd rs1 rs2) false rd (xread s.me rs1) (xread s.me rs2) s
def execTcfgGrowLit (rd rs2 : Reg) (lit : BitVec 64) (s : State) : Ans :=
  tcfgRecord (.tcfgGrowLit rd rs2 lit) false rd lit (xread s.me rs2) s
def execTcfgDel (rd rs2 : Reg) (s : State) : Ans := treeOp (.tcfgDel rd rs2) (xread s.me rs2) 0 (fun _ => .cfgDel rd) s
def execTroot (rd rs1 rs2 : Reg) (s : State) : Ans :=
  treeOp (.troot rd rs1 rs2) (xread s.me rs1) 0 (fun _ => .root rd ((xread s.me rs2).setWidth 32)) s
def execTdesc (rd rs1 : Reg) (s : State) : Ans := treeOp (.tdesc rd rs1) (xread s.me rs1) 0 (fun _ => .desc rd) s
def execTbatch (rd rs1 : Reg) (s : State) : Ans := treeOp (.tbatch rd rs1) (xread s.me rs1) 0 (fun _ => .batch rd) s
def execTreuse (rd rs1 rs2 : Reg) (s : State) : Ans :=
  treeOp (.treuse rd rs1 rs2) (xread s.me rs1) (xread s.me rs2) (fun n => .reuse rd n) s

/-- The k entries of TEXP. -/
def texpEntries (k : Nat) (bs : List Byte) : List (Half × Half) :=
  (List.range k).map fun i => (BitVec.ofNat 32 (field bs (8 * i) 4), BitVec.ofNat 32 (field bs (8 * i + 4) 4))

/-- TEXP (R384): the entries are one load before the request. -/
def execTexp (rd rs1 rs2 rs3 : Reg) (k : BitVec 9) (s : State) : Ans :=
  let i : Instr := .texp rd rs1 rs2 rs3 k
  let node := (xread s.me rs2).toNat
  .next (
    match treeNum (xread s.me rs1) with
    | none => s.ill i 6
    | some n =>
      if 2 ^ 24 ≤ node then s.ill i 6
      else s.load .load (xread s.me rs3).toNat (8 * k.toNat) fun bs t =>
        t.release fun u => askTree u n (.expand rd node (texpEntries k.toNat bs)))

def execTexpTerm (rd rs1 rs2 : Reg) (s : State) : Ans :=
  treeOp (.texpTerm rd rs1 rs2) (xread s.me rs1) (xread s.me rs2) (fun n => .terminal rd n) s
def execTback (rd rs1 rs2 rs3 : Reg) (s : State) : Ans :=
  treeOp (.tback rd rs1 rs2 rs3) (xread s.me rs1) (xread s.me rs2) (fun n => .back rd n ((xread s.me rs3).setWidth 32) false) s
def execTbackVlo (rd rs1 rs2 : Reg) (s : State) : Ans :=
  treeOp (.tbackVlo rd rs1 rs2) (xread s.me rs1) (xread s.me rs2) (fun n => .back rd n 0 true) s
def execTreadStats (rd rs1 rs2 : Reg) (s : State) : Ans :=
  treeOp (.treadStats rd rs1 rs2) (xread s.me rs1) (xread s.me rs2) (fun n => .readStats rd n) s
def execTreadLinks (rd rs1 rs2 : Reg) (s : State) : Ans :=
  treeOp (.treadLinks rd rs1 rs2) (xread s.me rs1) (xread s.me rs2) (fun n => .readLinks rd n) s
/-- TREAD.TREE: its result is an input of the replay log (R435, R440). -/
def execTreadTree (rd rs1 : Reg) (s : State) : Ans :=
  if s.replayFull s.cur.1 then .next (s.hold .replay)
  else treeOp (.treadTree rd rs1) (xread s.me rs1) 0 (fun _ => .readTree rd) s

end Sys2Proof.Machine
end

