-- ==== Sys2Proof/Machine/Requests.lean ====
section
/-!
DEFINITION. The answer to a request (R207): the home, pool, bank, die or engine handles it, and what it answers is written
at the context that asked.
-/

namespace Sys2Proof.Machine

open Sys2Proof

/-- The device and core of a requester: a core of another device is written (device + 1) × 2^16 + core. -/
def askDev (s : State) (core : Nat) : Nat := if core < 2 ^ 16 then s.dev else core / 2 ^ 16 - 1
def askCore (core : Nat) : Nat := core % 2 ^ 16

/-- An answer is written at its context: registers, flags and the refresh (R367), or the cause in their place. One to the front end, which
asked as context 15, has nothing to write. -/
def applyAnswer (s : State) (c x : Nat) (a : Answer) : State :=
  if x = 15 then s
  else match (s.ctx c x).wait with
  | .request len =>
    let s1 := if a.refresh then refresh s c else s
    match a.trap with
    | some cz => s1.trapAt c x cz
    | none => s1.updCtx c x fun k =>
        let w := a.regs.foldl (fun v r => xwrite v r.1 r.2) k
        { (advance w len).orFlags s.cycle a.flags with wait := .none }
  | _ => match a.trap with
    | some cz => poisonAt s c x (some cz.tval.toNat)
    | none => s

/-- The core of this device whose router handles a request of core `c`. -/
def requestHome (s : State) (c : Nat) (r : Request) : Nat :=
  let home := match r with
    | .evdef _ bs _ => nameHome s c (field bs 0 4)
    | .evdel _ n => nameHome s c n
    | .evstat _ n _ => nameHome s c n
    | .fifoname _ _ n d size => match size, d with
      | some _, some e => e.home
      | _, _ => n.home
    | .poll ev => ev.home
    | _ => c
  homeCore home % 576

/-- Sends an answer back to where the request came from. -/
def giveAnswer (home core ctx : Nat) (r : Answer × State) : State :=
  if core < 2 ^ 16 then applyAnswer r.2 core (ctx % 16) r.1
  else r.2.toDevice home (askDev r.2 core) (.requestAnswer (askCore core) ctx (.answer r.1))

/-- Sends a request on from a router to another home for its requester. -/
def passOn (s : State) (own core ctx home : Nat) (r : Request) : State :=
  let dev := askDev s core
  let m : Instr := .requestAnswer (if homeDev home = dev then askCore core else (dev + 1) * 2 ^ 16 + askCore core) ctx r
  if homeDev home = s.dev then s.send m else s.toDevice own (homeDev home) m

/-- FIFOBIND goes on: it is answered, or goes to its next home (R232). -/
def goOn (s : State) (home core ctx : Nat) : BindStage → State
  | .done a t => giveAnswer home core ctx (a, t)
  | .goes next r => passOn s home core ctx next r

/-- The 64 bytes of a record come back (R213, R359). -/
def giveRecord (s : State) (home core ctx : Nat) (bs : List Byte) : State :=
  if core < 2 ^ 16 then dataReturn s core (ctx % 16) bs else s.toDevice home (askDev s core) (.loadDataReturn (askCore core) ctx bs)

/-- A request that must wait where it is handled: for an occurrence under way at the event, pool or bank it changes
(R189, R212). -/
def requestWaits (s : State) (core : Nat) : Request → Bool
  | .evdel _ n => match s.home (evKey s (askCore core) n) with
    | some h => h.st == .commit
    | none => false
  | .poolcfg _ p _ => poolBusy s (clusterOf (askCore core)) p
  | .fifobind b n _ => n == 0 && fifoBusy s (askCore core) b
  | _ => false

/-- A watchpoint has no registration. -/
def unlist (s : State) (c n : Nat) : State := { s with watches := s.watches.filter fun w => !(w.1 == c && w.2.1 == n) }

/-- A request is handled and answered. -/
def serveRequest (core ctx : Nat) (r : Request) (s : State) : State :=
  let c := askCore core
  let x := ctx % 16
  let home := requestHome s c r
  let give := giveAnswer home core ctx
  match r with
  | .evdef rd bs addr => give (serveEvdef s c x rd bs addr)
  | .evdel rd n => give (serveEvdel s c rd n)
  | .evstat _ n _ => giveRecord s home core ctx (occurrenceRecord s (evKey s c n))
  | .done h n => give (serveDone s c h n)
  | .poolcfg rd p cfg => give (servePoolcfg s c rd p cfg)
  | .poolput rd p bs addr => give (servePoolput s c rd p bs addr)
  | .fifobind b n d => goOn s home core ctx (serveFifobind s c b n d)
  | .fifoname g b n d size => goOn s home core ctx (serveFifoname s g b n d size)
  | .fifobound b n size d => give (serveFifobound s c b n size d)
  | .layreg rd bs kinds => give (serveLayreg s c x rd bs kinds)
  | .layrel rd h => give (serveLayrel s c rd h)
  | .cstat rd n abort => give (serveCstat s c x rd n abort)
  | .pstat _ h _ => match servePstat s c h with
    | some q => giveRecord q.2 home core ctx q.1
    | none => give (answerTrap (eventDesc h), s)
  | .rescls rd h cls => give (serveRescls s c rd h cls)
  | .answer a => applyAnswer s c x a
  | .watched wp ok =>
    let t := if ok then s else (unlist s c wp).updCore c fun k => { k with wpCtl := lset k.wpCtl wp (k.wpCtl.getD wp 0 &&& ~~~8) }
    applyAnswer t c x ⟨[], 0, none, false⟩
  | .matched wp base ctl i who acc =>
    if (farPlace s c wp).isSome || (s.core c).ctxs.any fun e => (match e.2.wait with
        | .request _ => true
        | _ => false) then watchAct c wp ctl base.toNat i who acc s else s
  | .poll ev => servePoll s ev

/-- REQUEST_ANSWER (R207): the request is handled and answered, or waits. -/
def execRequestAnswer (core ctx : Nat) (r : Request) (s : State) : Ans :=
  .next (
    if requestWaits (lent s core ctx) core r then s.send (.requestAnswer core ctx r)
    else onHolder core ctx (serveRequest core ctx r) s)

end Sys2Proof.Machine
end

