-- ==== Sys2Proof/Machine/FrontEnd.lean ====
section
/-!
DEFINITION. The front end (22_front_end_firmware_security.md R463-R471): the host apertures, the queues, the packets other
than LAUNCH, and the completion records.
-/

namespace Sys2Proof.Machine

open Sys2Proof

/-! ## Memory of a partition -/

def partOf (s : State) (p : Nat) : Option Partition := tfind s.parts p
def partKey (s : State) (p : Nat) : Nat := (partOf s p).elim 0 (·.key)

/-- Bytes that the command processor reads for a partition, under its key. -/
def partBytes (s : State) (p pa n : Nat) : List Byte := homeBytes s (partKey s p) pa n

/-- The cores of a partition, and those of a queue's. -/
def partCores (s : State) (p : Nat) : List Nat := (partClusters s (some p)).flatMap clusterCores

/-- A run of bytes lies in valid regions of a list; `f` bounds the regions it may span. -/
def covered (rs : List (Word × Word)) : Nat → Nat → Nat → Bool
  | 0, _, n => n == 0
  | f + 1, a, n =>
    n == 0 || match rs.find? fun r => r.1.getLsbD 63 && bits r.1.toNat 12 40 * 4096 ≤ a && a < (bits r.2.toNat 12 40 + 1) * 4096 with
      | some r =>
        let stop := (bits r.2.toNat 12 40 + 1) * 4096
        covered rs f stop (n - (stop - a))
      | none => false

/-- The regions of a partition. -/
def partRegions (s : State) (p : Nat) : List (Word × Word) :=
  (partClusters s (some p)).flatMap fun k => (s.cluster k).regions.map (·.2)

/-- GDDR 7 bytes inside the partition's regions (R467). -/
def inRegions (s : State) (p a n : Nat) : Bool := a + n ≤ 96 * 2 ^ 30 && covered (partRegions s p) 200 a n

/-! ## Packets (R466, R467) -/

def pkType (pkt : List Byte) : Nat := field pkt 0 1
def pkCount (pkt : List Byte) : Nat := bits (field pkt 0 4) 8 3
def pkTag (pkt : List Byte) : Half := BitVec.ofNat 32 (field pkt 4 4)
def pkEvent (pkt : List Byte) : Nat := field pkt 8 4

/-- The buffers: address, length, mode. -/
def pkBufs (pkt : List Byte) : List (Nat × Nat × Nat) :=
  (List.range (pkCount pkt)).map fun i =>
    (field pkt (144 + 16 * i) 8, bits (field pkt (152 + 16 * i) 8) 0 40, bits (field pkt (152 + 16 * i) 8) 40 2)

/-- Bytes lo to hi − 1 are zero. -/
def zeroFrom (pkt : List Byte) (lo hi : Nat) : Bool := ((pkt.drop lo).take (hi - lo)).all (· == 0)

/-- A name is 0, or valid in a partition. -/
def eventOrZero (s : State) (p n : Nat) : Bool := n == 0 || nameValid s (some p) n

/-- The header and the buffer list. -/
def headerOk (s : State) (p ty : Nat) (pkt : List Byte) : Bool :=
  pkt.length == 256 && pkType pkt == ty && field pkt 0 4 < 2048 && field pkt 12 4 == 0 && eventOrZero s p (pkEvent pkt) &&
    (pkBufs pkt).all (fun b => 1 ≤ b.2.1 && inRegions s p b.1 b.2.1) &&
    (List.range (pkCount pkt)).all (fun i => field pkt (152 + 16 * i) 8 < 2 ^ 42) && zeroFrom pkt (144 + 16 * pkCount pkt) 256

/-- The record of a packet. -/
def crec (pkt : List Byte) (status : Nat) (value : Word) (last : Bool) : CRec :=
  ⟨pkTag pkt, status, 0, value, pkEvent pkt, pkt.drop 144 |>.take (16 * pkCount pkt), last⟩

/-- The thread may take a packet: what it has offered is armed, as the packet before it being done asks (R469). -/
def mayTake (s : State) (q : Nat) : Bool :=
  let u := s.queue q
  s.hostRegs.ready && u.en && u.stage == .idle && u.qtail != u.qhead && u.offers.all fun o => (s.latch (queueLatch s q o.1)).st != .idle

/-- The packet is taken from the ring. -/
def taken (s : State) (q : Nat) : State := s.setQueue q { s.queue q with qhead := (s.queue q).qhead + 1 }

/-- A record waits to be written; while it is the packet's end the thread takes no other. -/
def putRec (s : State) (q : Nat) (r : CRec) : State :=
  let u := s.queue q
  s.setQueue q { u with recs := u.recs ++ [r], stage := if r.last then .ending else u.stage }

/-- A packet that is refused is counted and completes with STATUS 1 (R467). -/
def refusePacket (s : State) (q : Nat) (pkt : List Byte) : State :=
  putRec (countHost (taken s q) 6) q { crec pkt 1 0 true with bufs := [] }

/-! ## Buffer modes (R468) -/

/-- The sectors that a core's L1 holds of a run of bytes. -/
def heldSectors (k : Core) (a n : Nat) : List Nat := (k.l1.map (·.1)).filter fun q => q * 256 < a + n && a < q * 256 + 256

/-- The partials of some cores for a run of bytes reach their homes at once: a write-back is complete when it has (R309). -/
def combineRun (cores : List Nat) (b : Nat × Nat × Nat) (s : State) : State :=
  let mine : Instr → Option UpdMsg := fun i => match i with
    | .updPartialCombine m => if cores.contains m.core && m.sector * 256 < b.1 + b.2.1 && b.1 < m.sector * 256 + 256 then some m else none
    | _ => none
  (s.agenda.filterMap mine).foldl (fun t m => combinePartial m t) { s with agenda := s.agenda.filter fun i => (mine i).isNone }

/-- Writes the L1 copies of a run back, and drops them where told. -/
def cleanRun (s : State) (cores : List Nat) (drop : Bool) (b : Nat × Nat × Nat) : State :=
  combineRun cores b (cores.foldl (fun t c => (heldSectors (t.core c) b.1 b.2.1).foldl (fun u q =>
    if drop then dropSector u c q else sendPartial (writeBack u c q) c q) t) s)

/-- INV and WBINV, before the packet acts. -/
def buffersBefore (s : State) (cores : List Nat) (pkt : List Byte) : State :=
  (pkBufs pkt).foldl (fun t b => if 2 ≤ b.2.2 then cleanRun t cores true b else t) s

/-- WB and WBINV, after its work: of a packet's buffer list as 16-byte entries. -/
def buffersAfter (s : State) (cores : List Nat) (bufs : List Byte) : State :=
  (List.range (bufs.length / 16)).foldl (fun t i =>
    let m := bits (field bufs (16 * i + 8) 8) 40 2
    if m % 2 = 1 then cleanRun t cores (m == 3) (field bufs (16 * i) 8, bits (field bufs (16 * i + 8) 8) 0 40, m) else t) s

/-! ## WAIT and SIGNAL (R470, R471) -/

/-- A WAIT or SIGNAL body. -/
def signalOk (s : State) (p : Nat) (nb : Bool) (pkt : List Byte) : Bool :=
  nameValid s (some p) (field pkt 16 4) && (if nb then field pkt 20 4 ≤ 1 else field pkt 20 4 == 0) && zeroFrom pkt 24 144

/-- The thread offers an event; what it then writes is the record. -/
def offerFrom (s : State) (q : Nat) (name : Nat) (r : Option CRec) (stage : QStage) : State :=
  let u := s.queue q
  s.setQueue q { u with offers := u.offers ++ [(u.nextSub, name, r)], nextSub := u.nextSub + 1, stage := stage }

def execWaitPacket (q : Nat) (pkt : List Byte) (s : State) : Ans :=
  .next (
    let p := (s.queue q).part
    if !mayTake s q then s
    else if !(headerOk s p 3 pkt && signalOk s p false pkt) then refusePacket s q pkt
    else offerFrom (buffersBefore (taken s q) (partCores s p) pkt) q (field pkt 16 4) (some (crec pkt 0 0 true)) (.offering pkt))

def execSignalPacket (q : Nat) (pkt : List Byte) (s : State) : Ans :=
  .next (
    let p := (s.queue q).part
    let nb := nbit (field pkt 20 4) 0
    if !mayTake s q then s
    else if !(headerOk s p 4 pkt && signalOk s p true pkt) then refusePacket s q pkt
    else
      let s1 := buffersAfter (buffersBefore (taken s q) (partCores s p) pkt) (partCores s p) ((pkt.drop 144).take (16 * pkCount pkt))
      offerFrom s1 q (field pkt 16 4) (some (crec pkt 0 0 (!nb))) (if nb then .idle else .offering pkt))

/-! ## POOL (R470, R229) -/

def poolOk (s : State) (p : Nat) (pkt : List Byte) : Bool :=
  let w := field pkt 16 4
  let bs := (pkt.drop 32).take 48
  bits w 29 3 == 0 && bits w 4 20 == 0 && (partClusters s (some p)).contains (bits w 24 5) && zeroFrom pkt 20 32 &&
    zeroFrom pkt 80 144 && taskDescOk bs && nameValid s (some p) (field bs 36 4)

/-- POOL: as POOLPUT; a pool that is disabled or full refuses it (STATUS 1). -/
def execPoolPacket (q : Nat) (pkt : List Byte) (s : State) : Ans :=
  .next (
    let p := (s.queue q).part
    if !mayTake s q then s
    else if !(headerOk s p 2 pkt && poolOk s p pkt) then refusePacket s q pkt
    else
      let s1 := buffersBefore (taken s q) (partCores s p) pkt
      let k := bits (field pkt 16 4) 24 5
      let i := bits (field pkt 16 4) 0 4
      let pool := s1.pool k i
      let bs := (pkt.drop 32).take 48
      match if pool.en then placeTask pool i bs (evKey s1 (firstCore k) (field bs 36 4)) else none with
      | none => putRec s1 q (crec pkt 1 0 true)
      | some (h, pool1) => putRec (s1.setPool k i pool1) q (crec pkt 0 (BitVec.ofNat 64 h) true))

/-! ## COPY (R470) -/

def copyPacketOk (pkt : List Byte) : Bool :=
  let w := field pkt 32 8
  bits w 40 23 == 0 && zeroFrom pkt 40 144

/-- Bytes inside a host range of the partition. -/
def inHostRange (q : Partition) (a n : Nat) : Bool := q.hostRanges.any fun r => r.1 ≤ a && a + n ≤ r.1 + r.2

/-- Counts a host error (R459, R464). -/
def countStatus (s : State) : HostStatus → State
  | .ok _ => s
  | .poisoned => countHost s 0
  | .unsupported => countHost s 1
  | .aborted => countHost s 2
  | .timeout => countHost s 3
  | .cut _ why => countHost s (min why 3)

/-- The log without the first `n` of an agent's items of kind 5. -/
def dropHost (g : Gid) : Nat → List LogItem → List LogItem
  | 0, l => l
  | _ + 1, [] => []
  | k + 1, .input h 5 v :: l => if h = g then dropHost g k l else .input h 5 v :: dropHost g (k + 1) l
  | k + 1, it :: l => it :: dropHost g (k + 1) l

/-- Host data for memory of a partition as one workgroup of it takes it: recorded, with its address, as the front end's, or the logged data
(R435, R436). -/
def hostFor (a : Nat) (r : List Byte × State) (e : Nat × Wg) : List Byte × State :=
  let bs := r.1
  let s := r.2
  let c := queueCore 0
  let g := gidOf s.dev c 15
  let words := (List.range ((bs.length + 7) / 8)).map fun i => BitVec.ofNat 64 (field bs (8 * i) 8)
  match e.2.mode with
  | .record =>
    let t := words.foldl (fun t v => match tfind t.wgs e.1 with
      | some u => t.record e.1 u (.input g 5 v)
      | none => t) s
    (bs, traceData c g 5 (bs.length + 1) a bs t)
  | .replay =>
    let mine := e.2.log.filterMap fun it => match it with
      | .input h 5 v => if h = g then some v else none
      | _ => none
    let use := mine.take words.length
    ((use.flatMap fun v => bytesOfNat 8 v.toNat).take bs.length ++ bs.drop (8 * use.length),
      { s with wgs := tput s.wgs e.1 { e.2 with log := dropHost g use.length e.2.log } })
  | .off => r

/-- A workgroup of a partition has a log whose ring has no free slot: the records that host data would write wait (R440). -/
def logsFull (s : State) (p : Nat) : Bool := s.wgs.any fun w => w.2.part == p && w.2.cores.any s.replayFull

/-- Host data for memory of a partition: each replayed workgroup of it takes it into account. -/
def hostLogged (s : State) (p a : Nat) (bs : List Byte) : List Byte × State :=
  (s.wgs.filter fun w => w.2.part == p).foldl (hostFor a) (bs, s)

/-- COPY: at points of coherence, inside the partition's host ranges and regions; an error of the host ends it with
STATUS 6 and leaves what was written. -/
def execCopyPacket (q : Nat) (pkt : List Byte) (src : HostStatus) (s : State) : Ans :=
  .next (
    let p := (s.queue q).part
    let host := field pkt 16 8
    let pa := field pkt 24 8
    let n := bits (field pkt 32 8) 0 40
    let out := nbit (field pkt 32 8) 63
    match partOf s p with
    | none => s
    | some part =>
      if !mayTake s q then s
      else if !(headerOk s p 5 pkt && copyPacketOk pkt && inRegions s p pa n && (!out || inHostRange part host n)) then
        refusePacket s q pkt
      else
        let s1 := countStatus (buffersBefore (taken s q) (partCores s p) pkt) src
        let key := partKey s p
        if out then
          let m := match src with
            | .ok _ => n
            | .cut data _ => min data.length n
            | _ => s1.pick % (n + 1)
          let good : Bool := match src with
            | .ok _ => true
            | _ => false
          let r := homeRead s1.used key pa m
          putRec (r.2.emit (.hostCopy q host r.1)) q (crec pkt (if good then 0 else 6) 0 true)
        else
          let come : List Byte × Bool := match src with
            | .ok data => (data.take n, n ≤ data.length)
            | .cut data _ => (data.take n, false)
            | _ => ([], false)
          let r := hostLogged s1 p pa come.1
          putRec (homeWrite r.2 key pa r.1) q (crec pkt (if come.2 then 0 else 6) 0 true))

/-! ## BIND (R470, R326, R327) -/

/-- A core of the partition on the queue's die, else its lead core: whose regions the walk uses. -/
def bindCore (s : State) (q p : Nat) : Nat :=
  ((partCores s p).find? fun c => coreDie c == q / 32).getD ((partOf s p).elim 0 (·.lead))

/-- The agent's context: S, with the identity map. -/
def bindCtx : Ctx := { Ctx.reset with priv := .s }

def execBindPacket (q : Nat) (pkt : List Byte) (s : State) : Ans :=
  .next (
    let p := (s.queue q).part
    let kind := field pkt 24 4
    let pa := field pkt 16 8
    if !mayTake s q then s
    else if !(headerOk s p 6 pkt && 1 ≤ kind && kind ≤ 3 && inRegions s p pa 64 && zeroFrom pkt 28 144) then refusePacket s q pkt
    else
      let s1 := buffersBefore (taken s q) (partCores s p) pkt
      match registerLayout s1 (q / 32) (bindCore s1 q p) (some p) bindCtx (partBytes s1 p pa 64) kind with
      | .error _ => putRec s1 q (crec pkt 7 0 true)
      | .ok r => putRec r.2 q (crec pkt (if r.1 = 0 then 7 else 0) (BitVec.ofNat 64 r.1) true))

/-- BIND with RELEASE: a handle that is busy or not live is refused with STATUS 7. -/
def execBindReleasePacket (q : Nat) (pkt : List Byte) (s : State) : Ans :=
  .next (
    let p := (s.queue q).part
    if !mayTake s q then s
    else if !(headerOk s p 6 pkt && bits (field pkt 24 4) 2 30 == 1 && zeroFrom pkt 32 144) then refusePacket s q pkt
    else
      let s1 := buffersBefore (taken s q) (partCores s p) pkt
      let r := releaseLayout s1 (q / 32) p (field pkt 28 4)
      putRec r.2 q (crec pkt (if r.1 = 0 then 0 else 7) 0 true))

/-! ## The end of a packet (R469) -/

/-- The bytes of a completion record. -/
def recordBytes (time : Word) (r : CRec) : List Byte :=
  bytesOfNat 4 r.tag.toNat ++ bytesOfNat 4 r.status ++ bytesOfNat 8 r.wg ++ bytesOfNat 8 time.toNat ++ bytesOfNat 8 r.value.toNat

/-- There is room in the completion ring. -/
def recRoom (u : Queue) : Bool := (u.qctail - u.qchead).toNat < 2 ^ u.log

/-- COMPLETION_RECORD_WRITE: the WB, then the record once there is room for it, and the arming of CEVENT. -/
def execCompletionRecordWrite (q : Nat) (s : State) : Ans :=
  .next (
    let u := s.queue q
    match u.recs with
    | [] => s
    | r :: rs =>
      let s1 := buffersAfter s (partCores s u.part) r.bufs
      if !recRoom u then s1.setQueue q { u with recs := { r with bufs := [] } :: rs }
      else
        let s2 := s1.emit (.completion q (u.qctail.toNat % 2 ^ u.log) (recordBytes s.time r))
        let v := { u with recs := rs, qctail := u.qctail + 1, stage := if r.last then .idle else u.stage }
        s2.setQueue q (if r.cevent = 0 then v
          else { v with offers := v.offers ++ [(v.nextSub, r.cevent, none)], nextSub := v.nextSub + 1 }))

/-! ## The apertures (R463-R465) -/

/-- QTAIL_DOORBELL_WRITE: ignored before READY; one past the ring is refused and counted. -/
def doorbell (q : Nat) (v : Half) (s : State) : State :=
  let u := s.queue q
  if !s.hostRegs.ready then s
  else if 2 ^ u.log < (v - u.qhead).toNat then countHost s 5
  else s.setQueue q { u with qtail := v }

def execQtailDoorbellWrite (q : Nat) (v : Half) (s : State) : Ans := .next (doorbell q v s)

/-- A write of a queue's plain register. -/
def queueWrite (s : State) (q off : Nat) (v : Word) : State :=
  let u := s.queue q
  match off with
  | 0 => s.setQueue q { u with qbase := v &&& ~~~0xFFF }
  | 8 => s.setQueue q { u with qcbase := v &&& ~~~0xFFF }
  | 16 => s.setQueue q { u with log := if 4 ≤ bits v.toNat 0 5 ∧ bits v.toNat 0 5 ≤ 16 then bits v.toNat 0 5 else u.log }
  | 32 => s.setQueue q { u with qchead := v.setWidth 32 }
  | _ => s

/-- The partition whose host range holds the bytes. -/
def hostOwner (s : State) (a n : Nat) : Option (Nat × Partition) :=
  if a + n ≤ 96 * 2 ^ 30 then s.parts.find? fun p => inHostRange p.2 a n else none

/-- The eight bytes at an aligned offset of the register aperture (R464, R465). -/
def apertureReg (s : State) (a : Nat) : Nat :=
  let h := s.hostRegs
  if a = 0 then
    h.device * 2 ^ 36 + h.booterr * 2 ^ 24 + h.stage * 2 ^ 16 + (if h.activating then 4 else 0) + (if h.fault then 2 else 0) +
      if h.ready then 1 else 0
  else if 0x100 ≤ a ∧ a ≤ 0x130 then (h.counts.getD ((a - 0x100) / 8) 0).toNat
  else if 0x1000 ≤ a ∧ a < 0x2000 then
    let u := s.queue ((a - 0x1000) / 64)
    match a % 64 with
    | 0 => u.qbase.toNat
    | 8 => u.qcbase.toNat
    | 16 => u.log
    | 24 => u.qtail.toNat + u.qhead.toNat * 2 ^ 32
    | 32 => u.qchead.toNat + u.qctail.toNat * 2 ^ 32
    | 40 => (if u.en then 2 ^ 31 else 0) + u.part % 32 * 2 ^ 26 + u.age % 65536 * 4 + u.prio % 4
    | _ => 0
  else 0

/-- Bytes of the register aperture. -/
def apertureBytes (s : State) (a n : Nat) : List Byte :=
  (List.range n).map fun i => BitVec.ofNat 8 (apertureReg s ((a + i) / 8 * 8) / 2 ^ (8 * ((a + i) % 8)))

/-- A write of the register aperture, word by aligned word: the ring registers and the doorbells take it, every other offset ignores it. -/
def apertureWrite (a : Nat) (bs : List Byte) (s : State) : State :=
  (List.range ((a % 8 + bs.length + 7) / 8)).foldl (fun t i =>
    let w := a / 8 * 8 + 8 * i
    let new := (List.range 8).map fun j => if a ≤ w + j ∧ w + j < a + bs.length then some (bs.getD (w + j - a) 0) else none
    let v := natOfBytes ((new.zip (apertureBytes t w 8)).map fun e => e.1.getD e.2)
    let q := (w - 0x1000) / 64
    if w < 0x1000 ∨ 0x2000 ≤ w then t
    else if w % 64 = 24 then if (new.take 4).any (·.isSome) then doorbell q (BitVec.ofNat 32 v) t else t
    else if w % 64 = 32 then if (new.take 4).any (·.isSome) then queueWrite t q 32 (BitVec.ofNat 64 v) else t
    else queueWrite t q (w % 64) (BitVec.ofNat 64 v)) s

/-- HOST_APERTURE_ACCESS (R463): the register aperture, or the memory aperture. -/
def execHostApertureAccess (a : HostAcc) (s : State) : Ans :=
  .next (
    if a.regs then match a.data with
      | none => s.emit (.aperture a.off (some (apertureBytes s a.off a.len)))
      | some bs => (apertureWrite a.off (bs.take a.len) s).emit (.aperture a.off (some []))
    else match hostOwner s a.off a.len with
    | none => s.emit (.aperture a.off none)
    | some (p, q) => match a.data with
      | none => let r := homeRead s q.key a.off a.len; r.2.emit (.aperture a.off (some r.1))
      | some bs =>
        let r := hostLogged s p a.off (bs.take a.len)
        (homeWrite r.2 q.key a.off r.1).emit (.aperture a.off (some [])))

end Sys2Proof.Machine
end

