-- ==== Sys2Proof/Machine/Fetch.lean ====
section
/-!
DEFINITION. Instruction fetch (R42, R43, R69-R71): the words at the PC through the core's instruction cache, before any
decoding.
-/

namespace Sys2Proof.Machine

open Sys2Proof

/-- A fault of a fetch at a word's address (R43, R408). -/
def fetchFault (va level reason : Nat) : Cause :=
  { cause 0x01 (BitVec.ofNat 64 va) with access := .fetch, level := level, reason := reason }

/-- Where a word is fetched from: its physical address and key, or why not. -/
def fetchPlace (s : State) (c : Nat) (x : Ctx) (va : Addr) : Tr :=
  if !canonical va then .fault (fetchFault va 0 12)
  else if inWindow va then .fault (fetchFault va 0 13)
  else translate s c x va .fetch

/-- What the fetch of an instruction answers. -/
inductive Fetched where
  | words (ws : List Half) (s : State)
  | trap (c : Cause)
  | wait (w : Wait) (msgs : List Instr)
  deriving DecidableEq, Repr

/-- A word that the instruction cache holds; if memory holds another one by now, the old or the new word (R42). -/
def cachedWord (s : State) (key pa : Nat) (w : Half) : Half × State :=
  let fresh := if isGddr pa then wordOfBytes (homeBytes s key pa 4) else w
  if fresh = w then (w, s) else (if s.pick % 2 = 0 then w else fresh, s.used)

/-- A word that a context has at hand: in the instruction cache, under its key; of a window or the host, fetched for the instruction at
its PC (R267). -/
def fetchHit (s : State) (c x key pa : Nat) : Option Half :=
  if isGddr pa then ((tfind (s.core c).icache (pa / 4)).filter fun e => e.1 == key).map (·.2) else tfind (s.ctx c x).fetched pa

/-- `n` words from an address on. -/
def fetchFrom (c x : Nat) : Nat → Addr → List Half → State → Fetched
  | 0, _, ws, s => .words ws s
  | n + 1, va, ws, s =>
    match fetchPlace s c (s.ctx c x) va with
    | .fault cz => .trap cz
    | .walk => .wait (.walk va .fetch) [.pageWalk c x va .fetch]
    | .ok pa key =>
      match fetchHit s c x key pa with
      | none => if !isGddr pa ∧ ((s.ctx c x).stale ∨ (s.ctx c x).flushing) then .wait .stale [] else .wait (.fetch pa key) [.instructionFetchFill c (s.asker c x) pa]
      | some w =>
        let (v, s1) := cachedWord s key pa w
        fetchFrom c x n ((va + 4) % 2 ^ 64) (ws ++ [v]) s1

/-- The words of the instruction at a context's PC: every word that LEN implies (R70). -/
def fetchInstr (s : State) (c x : Nat) : Fetched :=
  match fetchFrom c x 1 (s.ctx c x).pc.toNat [] s with
  | .words ws s1 => fetchFrom c x (wordCount (ws.getD 0 0) - 1) (((s.ctx c x).pc.toNat + 4) % 2 ^ 64) ws s1
  | r => r

end Sys2Proof.Machine
end

