-- ==== Sys2Proof/Machine/Trans.lean ====
section
/-!
DEFINITION. The transcendentals of the wide side (02_numbers.md R63, 05_wide_instructions.md R152). Each takes an exact
value and gives one that rounds to FP32 as the true result does: exactly where R63 calls the result exact, else from
fixed-point series of 320 fraction bits (log 7).
-/

namespace Sys2Proof.Machine

open Sys2Proof

/-- Fraction bits of the fixed-point numbers. -/
def fxBits : Nat := 320
def fxOne : Nat := 2 ^ fxBits

/-- z/1 + z^3/3 + z^5/5 + …, given z². -/
def atanhGo : Nat → Nat → Nat → Nat → Nat
  | 0, _, _, _ => 0
  | f + 1, z2, pow, d => pow / d + atanhGo f z2 (pow * z2 / fxOne) (d + 2)

/-- ln 2. -/
def fxLn2 : Nat := 2 * atanhGo 120 (fxOne / 9) (fxOne / 3) 1

/-- ln m for 1 ≤ m < 2. -/
def fxLn (m : Nat) : Nat :=
  let z := (m - fxOne) * fxOne / (m + fxOne)
  2 * atanhGo 120 (z * z / fxOne) z 1

/-- The terms of e^r from the n-th on. -/
def expGo : Nat → Nat → Nat → Nat → Nat
  | 0, _, _, _ => 0
  | f + 1, r, term, n => term + expGo f r (term * r / fxOne / (n + 1)) (n + 1)

/-- e^r for 0 ≤ r < 1. -/
def fxExp (r : Nat) : Nat := expGo 90 r fxOne 0

/-- e^y for y ≥ 0 of moderate size. -/
def fxExpBig (y : Nat) : Nat := fxExp (y % fxLn2) * 2 ^ (y / fxLn2)

/-- num × 2^exp in fixed point, its fraction cut. -/
def fxOf (num : Nat) (exp : Int) : Nat := num * 2 ^ (exp + fxBits).toNat / 2 ^ (-(exp + fxBits)).toNat

/-- num × 2^exp against 2^k. -/
def mag2 (num : Nat) (exp k : Int) : Ordering := cmpMag num exp 1 k

/-- 2^x. -/
def exp2Val (x : Val) : Val × FFlags :=
  match x with
  | .nan s => (.nan s, 0)
  | .inf neg => (if neg then .fin false 0 1 0 else .inf false, 0)
  | .fin neg num _ exp =>
    if num = 0 then (.fin false 1 1 0, 0)
    else if mag2 num exp 9 != .lt then (.fin false 1 1 (if neg then -400 else 400), 0)
    else
      let (n, rest, _) := quot num 1 exp 0
      if !rest then (.fin false 1 1 (if neg then -(n : Int) else n), 0)
      else
        let f := fxOf num exp - n * fxOne
        let (k, g) := if neg then (-(n : Int) - 1, fxOne - f) else ((n : Int), f)
        (.fin false (2 * fxExp (g * fxLn2 / fxOne) + 1) 1 (k - fxBits - 1), 0)

/-- log2 x. -/
def log2Val (x : Val) : Val × FFlags :=
  match x with
  | .nan s => (.nan s, 0)
  | .inf neg => if neg then (.nan false, nv) else (.inf false, 0)
  | .fin neg num _ exp =>
    if num = 0 then (.inf true, dz)
    else if neg then (.nan false, nv)
    else
      let l := num.log2
      let e : Int := (l : Int) + exp
      if num = 2 ^ l then (.fin (decide (e < 0)) e.natAbs 1 0, 0)
      else
        let t : Int := e * fxOne + (fxLn (num * fxOne / 2 ^ l) * fxOne / fxLn2 : Nat)
        (.fin (decide (t < 0)) (2 * t.natAbs + 1) 1 (-(fxBits : Int) - 1), 0)

/-- 1/x. -/
def rcpVal (x : Val) : Val × FFlags := divVal (.fin false 1 1 0) x

/-- 1/√x. -/
def rsqVal (x : Val) : Val × FFlags :=
  match x with
  | .nan s => (.nan s, 0)
  | .inf neg => if neg then (.nan false, nv) else (.fin false 0 1 0, 0)
  | .fin neg num _ exp =>
    if num = 0 then (.inf neg, dz)
    else if neg then (.nan false, nv)
    else
      let m := num * 2 ^ (exp % 2).toNat
      let h := (exp - exp % 2) / 2
      let r := isqrt (2 ^ 400 / m)
      if m * r * r = 2 ^ 400 then (.fin false r 1 (-200 - h), 0) else (.fin false (2 * r + 1) 1 (-201 - h), 0)

/-- tanh x. Near zero it lies just inside x, far out just inside 1. -/
def tanhVal (x : Val) : Val × FFlags :=
  match x with
  | .nan s => (.nan s, 0)
  | .inf neg => (.fin neg 1 1 0, 0)
  | .fin neg num _ exp =>
    if num = 0 then (.fin neg 0 1 0, 0)
    else if mag2 num exp (-60) == .lt then (.fin neg (num * 2 ^ 100 - 1) 1 (exp - 100), 0)
    else if mag2 num exp 6 != .lt then (.fin neg (2 ^ 100 - 1) 1 (-100), 0)
    else
      let e := fxExpBig (2 * fxOf num exp)
      (.fin neg (e - fxOne) (e + fxOne) 0, 0)

/-- 1/(1 + e^-x). -/
def sigVal (x : Val) : Val × FFlags :=
  match x with
  | .nan s => (.nan s, 0)
  | .inf neg => (if neg then .fin false 0 1 0 else .fin false 1 1 0, 0)
  | .fin neg num _ exp =>
    if num = 0 then (.fin false 1 1 (-1), 0)
    else if mag2 num exp (-60) == .lt then (addVal 0 (.fin false 1 1 (-1)) (.fin neg num 1 (exp - 2)))
    else if mag2 num exp 8 != .lt then (if neg then .fin false 1 1 (-400) else .fin false (2 ^ 100 - 1) 1 (-100), 0)
    else
      let e := fxExpBig (fxOf num exp)
      (.fin false (if neg then fxOne else e) (e + fxOne) 0, 0)

end Sys2Proof.Machine
end

