-- ==== Sys2Proof/Machine/WideExec.lean ====
section
/-!
DEFINITION. What the wide side does when it executes an instruction of opcodes 0x30-0x35 (05_wide_instructions.md
R131-R152; 02_numbers.md R56-R58): reading lanes through pointers, the lane operations, stores, block-scaled
conversion, flags, and when an instruction must wait.
-/

namespace Sys2Proof.Machine

open Sys2Proof

/-! ## ACC rows -/

def accRow (a : Acc) (r : Nat) : List Half := (a.lanes.drop (64 * r)).take 64
def setRow (a : Acc) (r : Nat) (ls : List Half) : Acc :=
  { a with lanes := a.lanes.take (64 * r) ++ ls ++ a.lanes.drop (64 * r + 64) }

/-- ORs flags into a row's status word (R29). -/
def rowFlags (a : Acc) (r : Nat) (f : FFlags) : Acc := { a with st := lset a.st r (a.st.getD r 0 ||| f.setWidth 32) }

/-- Clears a row's status word. -/
def rowFresh (a : Acc) (r : Nat) : Acc := { a with st := lset a.st r 0 }

/-! ## Reading lanes (R133) -/

/-- The codes of n elements of `es` bytes. -/
def codesOf (es : Nat) (bs : List Byte) : Nat → List Nat
  | 0 => []
  | n + 1 => natOfBytes (bs.take es) :: codesOf es (bs.drop es) n

/-- The element codes of a reading use. -/
def useCodes (k : Core) (u : RUse) : List Nat :=
  codesOf (fmtBytes u.fmt) ((useRuns k u).flatMap fun q => memRead k.loc q.1 q.2) u.n

/-- The scale of element k of a SCALED use. -/
def useScale (k : Core) (u : RUse) (i : Nat) : Nat :=
  natOfBytes (memRead k.loc (scaleAddr u.w u.org (blockOf u.w u.org u.fmt i)) 2)

/-- Sat of raw FP32 bits (R133): only an infinity changes. -/
def satRaw (c : Nat) : Half × FFlags :=
  match decodeCode fp32 c with
  | .inf neg => (BitVec.ofNat 32 (encodeVal fp32 (fp32.maxVal neg)), nx)
  | _ => (BitVec.ofNat 32 c, 0)

/-- One element as a lane of ACC's kind, with the flags of its conversion. -/
def readLane (k : Core) (int : Bool) (rm : Rm) (sat : Bool) (u : RUse) (i code : Nat) : Half × FFlags :=
  if fmtKind u.fmt = 4 then (if sat && !int then satRaw code else (BitVec.ofNat 32 code, 0))
  else
    let F := fmtOf u.fmt
    let v := decodeCode F (code % 2 ^ F.width)
    if int then
      match v with
      | .fin neg num _ _ => (BitVec.ofInt 32 (if neg then -(num : Int) else num), 0)
      | _ => (0, 0)
    else
      let sc := if fmtScaled u.fmt then useScale k u i else 0
      if zeroBlock sc then (0, 0)
      else
        let t := if fmtScaled u.fmt then (mulVal v (scaleVal sc)).1 else v
        let r := roundCode fp32 rm sat t
        (BitVec.ofNat 32 r.1, r.2)

/-- The lanes of a reading use and the flags of its conversion. -/
def readLanes (k : Core) (int : Bool) (rm : Rm) (sat : Bool) (u : RUse) : List Half × FFlags :=
  let ls := (useCodes k u).zipIdx.map fun c => readLane k int rm sat u c.2 c.1
  (ls.map (·.1), (ls.map (·.2)).foldl (· ||| ·) 0)

/-- The integer value of each element of an integer format (VSCALE, VPERM). -/
def readInts (k : Core) (u : RUse) : List Int :=
  (useCodes k u).map fun c =>
    match decodeCode (fmtOf u.fmt) (c % 2 ^ (fmtOf u.fmt).width) with
    | .fin neg num _ _ => if neg then -(num : Int) else num
    | _ => 0

/-! ## Lane operations (R142, R144, R152) -/

/-- An exact FP32 result, rounded. -/
def fpLane (rm : Rm) (sat : BitVec 1) (r : Val × FFlags) : Half × FFlags :=
  let t := finish fp32 rm (sat == 1) r
  (BitVec.ofNat 32 t.1, t.2)

/-- An exact integer result, clamped (R136). -/
def intLane (v : Int) : Half × FFlags := let t := clamp32 v; (BitVec.ofNat 32 t.1, t.2)

def fpv (c : Half) : Val := decodeCode fp32 c.toNat

/-- One FP32 operand of two (R116 ops 5 and 6), or of two integers. -/
def pickLane (int : Bool) (op : Nat) (c b : Half) : Half × FFlags :=
  if int then (if (op = 6) = c.sle b then b else c, 0)
  else let t := selectCode fp32 op c.toNat b.toNat; (BitVec.ofNat 32 t.1, t.2)

/-- VSCALE of one lane by 2^n (R142). -/
def scaleLane (rm : Rm) (sat : BitVec 1) (c : Half) (n : Int) : Half × FFlags :=
  match fpv c with
  | .nan s => if s then (0x7FC00000, nv) else (c, 0)
  | .inf _ => if sat = 1 then satRaw c.toNat else (c, 0)
  | .fin neg num den exp => if num = 0 then (c, 0) else fpLane rm sat (.fin neg num den (exp + n), 0)

/-- A transcendental of one lane: rounded to nearest even, never saturated (R152). -/
def transLane (f : Val → Val × FFlags) (c : Half) : Half × FFlags := fpLane 0 0 (f (fpv c))

/-- The lane of an elementwise instruction from C, A and B; `n` is B's integer value (VSCALE). -/
def laneFn (int : Bool) (rm : Rm) (i : Instr) (c a b : Half) (n : Int) : Half × FFlags :=
  match i with
  | .vadd _ _ _ _ sat => if int then intLane (c.toInt + b.toInt) else fpLane rm sat (addVal rm (fpv c) (fpv b))
  | .vsub _ _ _ _ sat => if int then intLane (c.toInt - b.toInt) else fpLane rm sat (addVal rm (fpv c) (negVal (fpv b)))
  | .vmul _ _ _ _ sat => if int then intLane (c.toInt * b.toInt) else fpLane rm sat (mulVal (fpv c) (fpv b))
  | .vfma _ _ _ _ _ sat =>
    if int then intLane (c.toInt + a.toInt * b.toInt) else fpLane rm sat (fmaVal rm (fpv a) (fpv b) (fpv c))
  | .vfms _ _ _ _ _ sat =>
    if int then intLane (c.toInt - a.toInt * b.toInt) else fpLane rm sat (fmaVal rm (negVal (fpv a)) (fpv b) (fpv c))
  | .vmax _ _ _ => pickLane int 6 c b
  | .vmin _ _ _ => pickLane int 5 c b
  | .vclamp _ _ _ _ =>
    let t := pickLane int 6 c a
    let r := pickLane int 5 t.1 b
    (r.1, t.2 ||| r.2)
  | .vabs _ _ => if int then intLane c.toInt.natAbs else (c &&& 0x7FFFFFFF, 0)
  | .vneg _ _ => if int then intLane (-c.toInt) else (c ^^^ 0x80000000, 0)
  | .vscale _ _ _ _ sat => scaleLane rm sat c n
  | .vand _ _ _ => (c &&& b, 0)
  | .vor _ _ _ => (c ||| b, 0)
  | .vxor _ _ _ => (c ^^^ b, 0)
  | .vshl _ _ _ => (c <<< (b.toNat % 32), 0)
  | .vshr _ _ _ ar => (if ar = 1 then c.sshiftRight (b.toNat % 32) else c >>> (b.toNat % 32), 0)
  | .vexp2 _ _ => transLane exp2Val c
  | .vlog2 _ _ => transLane log2Val c
  | .vrcp _ _ => transLane rcpVal c
  | .vrsq _ _ => transLane rsqVal c
  | .vtanh _ _ => transLane tanhVal c
  | .vsig _ _ => transLane sigVal c
  | _ => (c, 0)

/-- VDOT's lane 0 (R143): one rounding of the exact sum; a NaN term, ∞ × 0 and unlike infinities raise NV. -/
def dotLane (int : Bool) (rm : Rm) (sat : BitVec 1) (c : Half) (as bs : List Half) : Half × FFlags :=
  if int then intLane ((as.zip bs).foldl (fun t p => t + p.1.toInt * p.2.toInt) c.toInt)
  else
    let ps := (as.zip bs).map fun p => mulVal (fpv p.1) (fpv p.2)
    let t := sumVals rm (fpv c) (ps.map (·.1))
    let f := (ps.map (·.2)).foldl (· ||| ·) t.2
    fpLane rm sat (t.1, if isNan t.1 then nv else f)

/-- The flags of an exact sum of FP32 lanes (R149): with a NaN lane NV for a signalling one alone, else NV where infinities of both signs
meet. DEDUCED (log 47). -/
def redFlags (ls : List Val) (f : FFlags) : FFlags := if ls.any isNan then (if ls.any isSnan then nv else 0) else f

/-- VRED (R149): the value for the mailbox and the flags. DEDUCED (log 47): a NaN lane makes the sum the canonical NaN and raises NV only
where it is signalling, whatever infinities stand beside it; without a NaN, infinities of both signs raise NV. -/
def redValue (int : Bool) (rm : Rm) (op : Nat) (ls : List Half) : Word × FFlags :=
  let c := ls.headD 0
  match op with
  | 0 =>
    if int then (BitVec.ofInt 64 ((ls.map (·.toInt)).foldl (· + ·) 0), 0)
    else
      let t := sumVals rm (fpv c) (ls.tail.map fpv)
      let r := fpLane rm 0 (if ls.any (isNan ∘ fpv) then .nan false else t.1, redFlags (ls.map fpv) t.2)
      (r.1.setWidth 64, r.2)
  | 3 => ((ls.foldl (· &&& ·) 0xFFFFFFFF).setWidth 64, 0)
  | 4 => ((ls.foldl (· ||| ·) 0).setWidth 64, 0)
  | _ =>
    let r := ls.tail.foldl (fun t x => let q := pickLane int (if op = 1 then 5 else 6) t.1 x; (q.1, t.2 ||| q.2)) (c, (0 : FFlags))
    (if int then r.1.signExtend 64 else r.1.setWidth 64, r.2)

/-- VCMP (R145): bit l of the mask, and the flags. -/
def cmpLane (int : Bool) (cond : Nat) (c b : Half) : Bool × FFlags :=
  if int then
    (match cond with
      | 0 => c == b
      | 1 => c.slt b
      | 2 => c.sle b
      | _ => false, 0)
  else fcmpCode fp32 cond c.toNat b.toNat

/-- The lane that VSHUF copies (R147). -/
def shufLane (pat l : Nat) : Nat := if pat = 6 then 63 - l else l ^^^ 2 ^ pat

/-! ## Writing local bytes -/

/-- Writes bytes over runs, each with its watch matches (R423). -/
def writeRunsAt (s : State) (c : Nat) : List (Nat × Nat) → List Byte → State
  | [], _ => s
  | (a, n) :: t, bs =>
    writeRunsAt (watchBank (locWrite s c a (bs.take n)) c a n (gidOf s.dev c 0) .wideWrite none) c t (bs.drop n)

/-- Ring positions of a FIFO bank from a counter on. -/
def ringRuns (b pos n : Nat) : List (Nat × Nat) :=
  let p := pos % 65536
  if p + n ≤ 65536 then [(b * 65536 + p, n)] else [(b * 65536 + p, 65536 - p), (b * 65536, n - (65536 - p))]

/-- Stores a use's bytes: over its extent, or appended to its FIFO bank (R278). -/
def storeUse (s : State) (c : Nat) (u : RUse) (bs : List Byte) : State :=
  if pMode u.w = 2 then
    let f := tget FifoBank.reset (s.core c).fifo (pBank u.w)
    let s1 := writeRunsAt s c (ringRuns (pBank u.w) f.tail.toNat bs.length) bs
    s1.updCore c fun k => { k with fifo := tput k.fifo (pBank u.w) (f.moveTail s.cycle bs.length) }
  else writeRunsAt s c (extent u.w u.org bs.length) bs

/-- Takes a reading use's bytes off its FIFO bank (R278). -/
def popUse (s : State) (c : Nat) (u : RUse) : State :=
  if pMode u.w = 2 ∧ !u.write then
    s.updCore c fun k =>
      let f := tget FifoBank.reset k.fifo (pBank u.w)
      { k with fifo := tput k.fifo (pBank u.w) (f.moveHead s.cycle u.size) }
  else s

/-- One lane as VSTA stores it (R141): its code and flags. -/
def storeLane (int : Bool) (rm : Rm) (sat : BitVec 1) (f c : Half) : Nat × FFlags :=
  if fmtKind f = 4 then
    (if sat = 1 && !int then (let r := satRaw c.toNat; (r.1.toNat, r.2)) else (c.toNat, 0))
  else roundCode (fmtOf f) rm (sat == 1) (if int then decodeCode int32 c.toNat else fpv c)

/-! ## Block-scaled conversion (R56-R58, R151) -/

/-- Whether the magnitude of q, which RoundFRM took to r, is reduced to MaxF: by Sat, or because the format has no ∞ and the rounded value
lies past its range (R57). A value that only rounds to MaxF, an overflow that the mode takes to MaxF, and a negative value in a format
without a sign are not. -/
def reduced (F : Fmt) (sat : Bool) (q : Val) (r : Val × FFlags) : Bool :=
  if F.hasInf then (match r.1 with
    | .inf _ => sat
    | _ => false)
  else match q with
    | .nan _ => false
    | .inf neg => F.sgn || !neg
    | .fin neg _ _ _ => (F.sgn || !neg) && (if F.isInt then r.2 &&& nv != 0 else r.2 &&& ofl != 0)

/-- One element under a scale that is no zero block: code, flags, underflow to zero, reduction to MaxF. A result of ±0 by rounding or by FTZ is
an underflow; the +0 that a format without a sign, or a clamp, gives with NV is none (R57). -/
def cvtElem (F : Fmt) (rm : Rm) (sat : Bool) (sc : Nat) (v : Val) : Nat × FFlags × Bool × Bool :=
  let q := (divVal v (scaleVal sc)).1
  let r0 := roundVal F rm q
  let r := if sat then satVal F q r0 else r0
  let fin := match v with
    | .fin _ num _ _ => num != 0
    | _ => false
  (encodeVal F r.1, r.2, fin && isZero r.1 && r0.2 &&& nv == 0, reduced F sat q r0)

/-- One element of a zero block (R57): the code of ±0 by the input's sign bit. DESIGN CHOICE (log 48): an integer format has one code of zero, the
one with no bit set, and -0 takes it in a sign-magnitude format too. -/
def zeroElem (F : Fmt) (v : Val) (neg : Bool) : Nat × FFlags × Bool × Bool :=
  let code := encodeVal F (.fin (neg && !F.isInt) 0 1 0)
  match v with
  | .fin _ num _ _ => if num = 0 then (code, 0, false, false) else (code, ufl ||| nx, true, false)
  | _ => (code, nv, false, false)

/-- The largest finite magnitude of a block's inputs. -/
def amaxOf : List Val → Val
  | [] => .fin false 0 1 0
  | .fin _ n d e :: t => let m := amaxOf t; if ltVal m (.fin false n d e) then .fin false n d e else m
  | _ :: t => amaxOf t

/-- The scale that VCVT.AUTO chooses (R58), for amax > 0; `free` stands where MaxF is 0 and the spec gives none (log 8). -/
def autoScale (F : Fmt) (uthr old free : Nat) (amax : Val) : Nat :=
  match (divVal amax (F.maxVal false)).1 with
  | .fin _ num den exp =>
    let e := ilog2 num den exp
    let (q, rest, _) := quot (16 * num) den exp e
    let f0 : Nat := (if rest then q + 1 else q) - 16
    let (e1, f) := if f0 = 16 then (e + 1, 0) else (e, f0)
    let e2 := if old > uthr then e1 - 1 else e1
    wrap (max (-2047) (min e2 2047)) 12 * 16 + f
  | _ => if zeroBlock (free % 65536) then 0x8010 else free % 65536

/-- A block of VCVT or VCVT.AUTO: the converted elements, the scale to write, the new status word. -/
def cvtBlock (F : Fmt) (fmt : Half) (rm : Rm) (sat auto : Bool) (scale old free : Nat) (xs : List (Val × Bool)) :
    List (Nat × FFlags × Bool × Bool) × Nat × Nat :=
  let amax := amaxOf (xs.map (·.1))
  let sc := if auto then (if isZero amax then 0x8000 else autoScale F (fmtUthr fmt) old free amax) else scale
  let es := xs.map fun x => if zeroBlock sc then zeroElem F x.1 x.2 else cvtElem F rm (sat || auto) sc x.1
  (es, sc, (es.filter fun e => e.2.2.1).length + (if es.any fun e => e.2.2.2 then 512 else 0))

/-- The input lanes of VCVT with their sign bits. -/
def cvtInputs (a : Acc) (s n : Nat) : List (Val × Bool) :=
  ((a.lanes.drop (64 * s)).take n).map fun c => (if a.int then decodeCode int32 c.toNat else fpv c, c.getLsbD 31)

/-- The conversion block by block, in ascending order (R151). -/
def cvtBlocks (c : Nat) (u : RUse) (rm : Rm) (sat auto : Bool) (s : Nat) (xs : List ((Val × Bool) × Nat)) :
    List Nat → State → State
  | [], t => t
  | b :: bs, t =>
    let mine := xs.filter fun x => blockOf u.w u.org u.fmt x.2 == b
    let k := t.core c
    let rd (a : Nat) : Nat := natOfBytes (memRead k.loc a 2)
    let (es, sc, st) := cvtBlock (fmtOf u.fmt) u.fmt rm sat auto (rd (scaleAddr u.w u.org b))
      (bits (rd (statAddr u.w u.org b)) 0 9) t.pick (mine.map (·.1))
    let pairs := mine.zip es
    let t1 := pairs.foldl (fun q p =>
      writeRunsAt q c (extRuns u.w u.org (fmtBytes u.fmt) (p.1.2 * fmtBytes u.fmt) ((p.1.2 + 1) * fmtBytes u.fmt))
        (bytesOfNat (fmtBytes u.fmt) p.2.1)) t.used
    let t2 := if auto then writeRunsAt t1 c [(scaleAddr u.w u.org b, 2)] (bytesOfNat 2 sc) else t1
    let t3 := writeRunsAt t2 c [(statAddr u.w u.org b, 2)] (bytesOfNat 2 st)
    let t4 := t3.updCore c fun k => { k with wide := { k.wide with
      acc := pairs.foldl (fun a p => rowFlags a (s + p.1.2 / 64) p.2.2.1) k.wide.acc } }
    let f := (es.map (·.2.1)).foldl (· ||| ·) 0
    cvtBlocks c u rm sat auto s xs bs (t4.updCtx c 0 fun x => x.orFlags t4.cycle f)

/-! ## Executing -/

/-- Ends an instruction's row write: fresh unless it reads the row (R135), flags to the row and to FFLAGS. -/
def putRow (s : State) (c : Nat) (i : Instr) (d : Nat) (ls : List Half) (f : FFlags) : State :=
  let s1 := s.updCore c fun k =>
    let a := if wSrc i = some d then k.wide.acc else rowFresh k.wide.acc d
    { k with wide := { k.wide with acc := rowFlags (setRow a d ls) d f } }
  s1.updCtx c 0 fun x => x.orFlags s.cycle f

/-- Flags of an instruction that writes no row go to its source row (R135). -/
def flagRow (s : State) (c r : Nat) (f : FFlags) : State :=
  (s.updCore c fun k => { k with wide := { k.wide with acc := rowFlags k.wide.acc r f } }).updCtx c 0
    fun x => x.orFlags s.cycle f

/-- The mailbox an instruction writes, and the one it reads with .PEEK (R137). -/
def wMbWrite : Instr → Option Nat
  | .vcmp n _ _ _ => some n.toNat
  | .vred n _ _ => some n.toNat
  | _ => none

def wMbRead : Instr → Option (Nat × Bool)
  | .vsel _ _ _ n peek => some (n.toNat, peek == 1)
  | .vbcast _ n peek => some (n.toNat, peek == 1)
  | _ => none

/-- Whether a context of a core waits in MBW or MBR on a mailbox. -/
def waitsMbw (k : Core) (n : Nat) : Bool := k.ctxs.any fun e => match e.2.wait with
  | .mbw m _ => m == n
  | _ => false
def waitsMbr (k : Core) (n : Nat) : Bool := k.ctxs.any fun e => match e.2.wait with
  | .mbr m _ => m == n
  | _ => false

/-- Bytes that uses take from, or append to, a FIFO bank. -/
def fifoNeed (us : List RUse) (b : Nat) (wr : Bool) : Nat :=
  ((us.filter fun u => pMode u.w == 2 && pBank u.w == b && u.write == wr).map (·.size)).foldl (· + ·) 0

/-- Whether an instruction of opcodes 0x30-0x35 can execute now: its mailbox (R36, R137) and its FIFO banks (R132,
R278). -/
def wReady (s : State) (c : Nat) (i : Instr) : Bool :=
  let k := s.core c
  let us := (k.view.uses (wUses k.view i)).1
  (match wMbWrite i with
    | some n => !mbFullAt k n && !waitsMbw k n
    | none => true) &&
  (match wMbRead i with
    | some (n, peek) => mbFullAt k n && (!waitsMbr k n || peek && !k.peeked.getLsbD n)
    | none => true) &&
  us.all fun u => pMode u.w != 2 ||
    (let f := tget FifoBank.reset k.fifo (pBank u.w)
     fifoNeed us (pBank u.w) false ≤ fifoReads f s.cycle && fifoNeed us (pBank u.w) true ≤ fifoSpace f s.cycle - fifoRsv s c (pBank u.w))

/-- Whether an instruction that reads an operand has SAT set (R136): Sat then maps raw infinities of a KIND 4 operand (R133). -/
def wSat : Instr → Bool
  | .vlda _ _ _ sat => sat == 1
  | .vadd _ _ _ _ sat => sat == 1
  | .vsub _ _ _ _ sat => sat == 1
  | .vmul _ _ _ _ sat => sat == 1
  | .vfma _ _ _ _ _ sat => sat == 1
  | .vfms _ _ _ _ _ sat => sat == 1
  | .vdot _ _ _ _ _ sat => sat == 1
  | _ => false

/-- The lanes of the A and B operands: of two uses the first is A, a single one is B. -/
def operandLanes (k : Core) (rm : Rm) (i : Instr) (us : List RUse) : List Half × List Half × List Int × FFlags :=
  let zeros : List Half := List.replicate 64 0
  let ints : List Int := List.replicate 64 0
  match i, us with
  | .vscale _ _ _ _ _, [u] => (zeros, zeros, readInts k u, 0)
  | .vperm _ _ _, [u] => (zeros, zeros, readInts k u, 0)
  | _, [u] => let r := readLanes k k.wide.acc.int rm (wSat i) u; (zeros, r.1, ints, r.2)
  | _, [u, v] =>
    let p := readLanes k k.wide.acc.int rm (wSat i) u
    let q := readLanes k k.wide.acc.int rm (wSat i) v
    (p.1, q.1, ints, p.2 ||| q.2)
  | _, _ => (zeros, zeros, ints, 0)

/-- Lanes of a row combined with A, B and the integers. -/
def mapLanes (g : Half → Half → Half → Int → Half × FFlags) :
    List Half → List Half → List Half → List Int → List Half × FFlags
  | c :: cs, a :: as, b :: bs, n :: ns =>
    let r := g c a b n
    let t := mapLanes g cs as bs ns
    (r.1 :: t.1, r.2 ||| t.2)
  | _, _, _, _ => ([], 0)

/-- A .PEEK read leaves the mailbox full; where an MBR waits it is the one .PEEK of that fill, and the next one waits (R137). -/
def mbPeek (k : Core) (n : Nat) : Core := if waitsMbr k n then { k with peeked := k.peeked ||| ((1 : BitVec 8) <<< n) } else k

/-- The effect on rows, mailboxes and local bytes of an instruction of opcodes 0x30-0x35 with its uses. -/
def wEffect (s : State) (c : Nat) (i : Instr) (rm : Rm) (us : List RUse) : State :=
  let k := s.core c
  let acc := k.wide.acc
  let row (r : BitVec 4) : List Half := accRow acc r.toNat
  let ab := operandLanes k rm i us
  let elem (d r : BitVec 4) : State :=
    let t := mapLanes (laneFn acc.int rm i) (row r) ab.1 ab.2.1 ab.2.2.1
    putRow s c i d.toNat t.1 (t.2 ||| ab.2.2.2)
  let empty (n : BitVec 3) (peek : BitVec 1) (t : State) : State := t.updCore c fun q =>
    if peek = 1 then mbPeek q n.toNat else mbEmpty q n.toNat
  match i with
  | .vlda d _ _ sat =>
    match us with
    | [u] => let r := readLanes k acc.int rm (sat == 1) u; putRow s c i d.toNat r.1 r.2
    | _ => s
  | .vsta r _ _ sat =>
    match us with
    | [u] =>
      let es := (row r).map fun x => storeLane acc.int rm sat u.fmt x
      flagRow (storeUse s c u (es.flatMap fun e => bytesOfNat (fmtBytes u.fmt) e.1)) c r.toNat ((es.map (·.2)).foldl (· ||| ·) 0)
    | _ => s
  | .vdot d r _ _ _ sat =>
    let t := dotLane acc.int rm sat ((row r).headD 0) ab.1 ab.2.1
    putRow s c i d.toNat (t.1 :: (row r).tail) (t.2 ||| ab.2.2.2)
  | .vsel d r _ n peek =>
    let m := mbValue k n.toNat
    let ls := ((row r).zip ab.2.1).zipIdx.map fun p => if m.getLsbD p.2 then p.1.1 else p.1.2
    empty n peek (putRow s c i d.toNat ls ab.2.2.2)
  | .vcmp n r _ cond =>
    let rs := ((row r).zip ab.2.1).map fun p => cmpLane acc.int cond.toNat p.1 p.2
    let m := (rs.zipIdx.map fun p => if p.1.1 then 2 ^ p.2 else 0).foldl (· + ·) 0
    flagRow (s.updCore c fun q => mbFill q n.toNat (BitVec.ofNat 64 m)) c r.toNat ((rs.map (·.2)).foldl (· ||| ·) ab.2.2.2)
  | .vperm d r _ =>
    putRow s c i d.toNat (ab.2.2.1.map fun v => (row r).getD (v % 64).toNat 0) 0
  | .vshuf d r pat => putRow s c i d.toNat ((List.range 64).map fun l => (row r).getD (shufLane pat.toNat l) 0) 0
  | .viota d =>
    putRow s c i d.toNat ((List.range 64).map fun l =>
      if acc.int then BitVec.ofNat 32 l else BitVec.ofNat 32 (encodeVal fp32 (.fin false l 1 0))) 0
  | .vred n r op =>
    let t := redValue acc.int rm op.toNat (row r)
    flagRow (s.updCore c fun q => mbFill q n.toNat t.1) c r.toNat t.2
  | .vbcast d n peek =>
    empty n peek (putRow s c i d.toNat (List.replicate 64 ((mbValue k n.toNat).setWidth 32)) 0)
  | .vcvt r _ _ sat =>
    match us with
    | [u] => cvtBlocks c u rm (sat == 1) false r.toNat (cvtInputs acc r.toNat u.n).zipIdx (useBlocks u) s
    | _ => s
  | .vcvtAuto r _ _ _ =>
    match us with
    | [u] => cvtBlocks c u rm true true r.toNat (cvtInputs acc r.toNat u.n).zipIdx (useBlocks u) s
    | _ => s
  | j =>
    match wDst j, wSrc j with
    | some d, some r => elem (BitVec.ofNat 4 d) (BitVec.ofNat 4 r)
    | _, _ => s

/-- The wide side has worked for some cycles (R434, log 2). -/
def wideCycles (s : State) (c : Nat) : State := (count s c 2 (1 + Config.elapsed s.draws)).used

/-- The wide side executes an instruction of opcodes 0x30-0x35: its effect, then its pointers advance (R131, R132). -/
def wExec (s : State) (c : Nat) (i : Instr) (rm : Rm) : State :=
  let v := (s.core c).view
  let (us, v1) := v.uses (wUses v i)
  let s1 := us.foldl (fun t u => popUse t c u) (wEffect s c i rm us)
  wideCycles (s1.updCore c fun k => { k with wide := { k.wide with ptr := v1.ptr } }) c

end Sys2Proof.Machine
end

