-- ==== Sys2Proof/Machine/Wide.lean ====
section
/-!
DEFINITION. The wide instructions of opcodes 0x30-0x37 as the control context issues them (05_wide_instructions.md
R139-R159), and the two events of the wide side that execute them: the head of the queue and one pass of a REP.
-/

namespace Sys2Proof.Machine

open Sys2Proof

/-! ## Opcodes 0x30-0x35 enter the queue (R134) -/

def execVlda (d : BitVec 4) (a rm : BitVec 3) (sat : BitVec 1) (s : State) : Ans := enterW (.vlda d a rm sat) s
def execVsta (r : BitVec 4) (a rm : BitVec 3) (sat : BitVec 1) (s : State) : Ans := enterW (.vsta r a rm sat) s
def execVadd (d r : BitVec 4) (b rm : BitVec 3) (sat : BitVec 1) (s : State) : Ans := enterW (.vadd d r b rm sat) s
def execVsub (d r : BitVec 4) (b rm : BitVec 3) (sat : BitVec 1) (s : State) : Ans := enterW (.vsub d r b rm sat) s
def execVmul (d r : BitVec 4) (b rm : BitVec 3) (sat : BitVec 1) (s : State) : Ans := enterW (.vmul d r b rm sat) s
def execVfma (d r : BitVec 4) (a b rm : BitVec 3) (sat : BitVec 1) (s : State) : Ans := enterW (.vfma d r a b rm sat) s
def execVfms (d r : BitVec 4) (a b rm : BitVec 3) (sat : BitVec 1) (s : State) : Ans := enterW (.vfms d r a b rm sat) s
def execVmax (d r : BitVec 4) (b : BitVec 3) (s : State) : Ans := enterW (.vmax d r b) s
def execVmin (d r : BitVec 4) (b : BitVec 3) (s : State) : Ans := enterW (.vmin d r b) s
def execVabs (d r : BitVec 4) (s : State) : Ans := enterW (.vabs d r) s
def execVneg (d r : BitVec 4) (s : State) : Ans := enterW (.vneg d r) s
def execVclamp (d r : BitVec 4) (a b : BitVec 3) (s : State) : Ans := enterW (.vclamp d r a b) s
def execVscale (d r : BitVec 4) (b rm : BitVec 3) (sat : BitVec 1) (s : State) : Ans := enterW (.vscale d r b rm sat) s
def execVdot (d r : BitVec 4) (a b rm : BitVec 3) (sat : BitVec 1) (s : State) : Ans := enterW (.vdot d r a b rm sat) s
def execVand (d r : BitVec 4) (b : BitVec 3) (s : State) : Ans := enterW (.vand d r b) s
def execVor (d r : BitVec 4) (b : BitVec 3) (s : State) : Ans := enterW (.vor d r b) s
def execVxor (d r : BitVec 4) (b : BitVec 3) (s : State) : Ans := enterW (.vxor d r b) s
def execVshl (d r : BitVec 4) (b : BitVec 3) (s : State) : Ans := enterW (.vshl d r b) s
def execVshr (d r : BitVec 4) (b : BitVec 3) (arith : BitVec 1) (s : State) : Ans := enterW (.vshr d r b arith) s
def execVsel (d r : BitVec 4) (b n : BitVec 3) (peek : BitVec 1) (s : State) : Ans := enterW (.vsel d r b n peek) s
def execVcmp (n : BitVec 3) (r : BitVec 4) (b cond : BitVec 3) (s : State) : Ans := enterW (.vcmp n r b cond) s
def execVperm (d r : BitVec 4) (b : BitVec 3) (s : State) : Ans := enterW (.vperm d r b) s
def execVshuf (d r : BitVec 4) (pat : BitVec 3) (s : State) : Ans := enterW (.vshuf d r pat) s
def execViota (d : BitVec 4) (s : State) : Ans := enterW (.viota d) s
def execVred (n : BitVec 3) (r : BitVec 4) (op : BitVec 3) (s : State) : Ans := enterW (.vred n r op) s
def execVbcast (d : BitVec 4) (n : BitVec 3) (peek : BitVec 1) (s : State) : Ans := enterW (.vbcast d n peek) s
def execVcvt (r : BitVec 4) (b rm : BitVec 3) (sat : BitVec 1) (s : State) : Ans := enterW (.vcvt r b rm sat) s
def execVcvtAuto (r : BitVec 4) (b rm : BitVec 3) (sat : BitVec 1) (s : State) : Ans := enterW (.vcvtAuto r b rm sat) s
def execVexp2 (d r : BitVec 4) (s : State) : Ans := enterW (.vexp2 d r) s
def execVlog2 (d r : BitVec 4) (s : State) : Ans := enterW (.vlog2 d r) s
def execVrcp (d r : BitVec 4) (s : State) : Ans := enterW (.vrcp d r) s
def execVrsq (d r : BitVec 4) (s : State) : Ans := enterW (.vrsq d r) s
def execVtanh (d r : BitVec 4) (s : State) : Ans := enterW (.vtanh d r) s
def execVsig (d r : BitVec 4) (s : State) : Ans := enterW (.vsig d r) s

/-! ## Pointer and format registers, ACC shape (R153-R155) -/

/-- Queues an instruction that can no longer fail, with its operand. -/
def enterPlain (i : Instr) (v1 : Word) (bad : WView → Bool) (s : State) : Ans :=
  s.wideEnter i fun v => if bad v then s.ill i 6 else s.enqueue (s.wentry i v1 0 [])

def execPset (n rs1 : Reg) (s : State) : Ans :=
  enterPlain (.pset n rs1) (xread s.me rs1) (fun _ => pMode (xread s.me rs1) == 3) s
def execPadd (n rs1 : Reg) (s : State) : Ans := enterPlain (.padd n rs1) (xread s.me rs1) (fun _ => false) s
def execFset (n rs1 : Reg) (s : State) : Ans :=
  enterPlain (.fset n rs1) (xread s.me rs1) (fun _ => !fmtValid ((xread s.me rs1).setWidth 32)) s
def execAcccfg (rs1 : Reg) (s : State) : Ans :=
  enterPlain (.acccfg rs1) (xread s.me rs1) (fun _ => !accCfgValid (xread s.me rs1)) s
def execAcccfgKeep (rs1 : Reg) (s : State) : Ans :=
  enterPlain (.acccfgKeep rs1) (xread s.me rs1) (fun _ => !accCfgValid (xread s.me rs1)) s

/-- ACCSW; in U it is illegal (R155). -/
def execAccsw (s : State) : Ans :=
  if s.me.priv = .u then .next (s.ill .accsw 6) else enterPlain .accsw 0 (fun _ => false) s

/-- An instruction that writes X[rd] from the wide side: at once with an empty queue, else when its turn comes; until
then the context is not ready (R131). -/
def wideValue (i : Instr) (rd : Reg) (now : Core → Word) (s : State) : Ans :=
  s.wideEnter i fun _ =>
    if s.myCore.wide.queue.isEmpty then s.ret i rd (now s.myCore) else (s.queueUp (s.wentry i 0 0 [])).hold .wideVal

/-- P[n] and F[n] as registers (R153). -/
def ptrWord (n : Reg) (k : Core) : Word := k.wide.ptr.getD n.toNat 0
def fmtWord (n : Reg) (k : Core) : Word := (k.wide.fmt.getD n.toNat 0).setWidth 64

def execPget (rd n : Reg) (s : State) : Ans := wideValue (.pget rd n) rd (ptrWord n) s
def execFget (rd n : Reg) (s : State) : Ans := wideValue (.fget rd n) rd (fmtWord n) s

/-! ## REP (R156-R159) -/

/-- The body a REP captures, or the cause of its first bad word (R157). -/
def repBody : List Half → Except Cause (List Instr)
  | [] => .ok []
  | w :: ws =>
    let bad (item : Nat) : Except Cause (List Instr) := .error { cause 0x02 (w.setWidth 64) with reason := item }
    let op := (fOp w).toNat
    if 0x30 ≤ op ∧ op ≤ 0x35 then
      match decodeWords w 0 0 with
      | .illegal n => bad n
      | .ok i => match repBody ws with
        | .ok is => .ok (i :: is)
        | .error cz => .error cz
    else match decodeWords w 0 0 with
      | .illegal n => bad (if n ≤ 2 ∨ fLen w = 0 then n else 6)
      | .ok _ => bad 6

/-- The checks of one pass, in order: the first cause, or the view after it and the local runs (R159). -/
def passCheck (k : Core) (p rowstep ptrstep : Nat) : List Instr → WView → List (Nat × Nat) → Except Cause (WView × List (Nat × Nat))
  | [], v, runs => .ok (v, runs)
  | i :: is, v, runs =>
    match wformCheck k v (stagger p rowstep ptrstep i) with
    | .error cz => .error cz
    | .ok (v1, r) => passCheck k p rowstep ptrstep is v1 (runs ++ r)

/-- The checks of n passes from p on. -/
def passesCheck (k : Core) (rowstep ptrstep : Nat) (body : List Instr) :
    Nat → Nat → WView → List (Nat × Nat) → Except Cause (List (Nat × Nat))
  | 0, _, _, runs => .ok runs
  | n + 1, p, v, runs =>
    match passCheck k p rowstep ptrstep body v [] with
    | .error cz => .error cz
    | .ok (v1, r) => passesCheck k rowstep ptrstep body n (p + 1) v1 (runs ++ r.filter fun q => !runs.contains q)

/-- What the capture of a body answers. -/
inductive Captured where
  | body (is : List Instr) (s : State)
  | trap (c : Cause) (s : State)
  | wait (w : Wait) (msgs : List Instr)
  deriving DecidableEq, Repr

/-- Captures `n` body words from an address on, one after another: a word is fetched and checked before the next is fetched, so the first
failure in order is the one that discards the capture (R156, R157). -/
def captureBody (c x : Nat) : Nat → Addr → List Instr → State → Captured
  | 0, _, is, s => .body is s
  | n + 1, va, is, s =>
    match fetchFrom c x 1 va [] s with
    | .trap cz => .trap cz s
    | .wait w msgs => .wait w msgs
    | .words ws s1 =>
      match repBody ws with
      | .error cz => .trap cz s1
      | .ok js => captureBody c x n ((va + 4) % 2 ^ 64) (is ++ js) s1

def execRep (cnt : BitVec 12) (ni rowstep : BitVec 4) (ptrstep : BitVec 3) (s : State) : Ans :=
  let i : Instr := .rep cnt ni rowstep ptrstep
  s.wideEnter i fun v =>
    match captureBody s.cur.1 s.cur.2 (ni.toNat + 1) ((s.me.pc.toNat + 4) % 2 ^ 64) [] s with
    | .trap cz s1 => (s1.setMe { s1.me with capturing := false }).trap cz
    | .wait w msgs => ((s.hold w).setMe { (s.hold w).me with capturing := true }).sendAll msgs
    | .body body s0 =>
      let s1 := s0.setMe { s0.me with capturing := false }
      match passesCheck s1.myCore rowstep.toNat ptrstep.toNat body (cnt.toNat + 1) 0 v [] with
      | .error cz => s1.trap cz
      | .ok runs =>
        let s2 := s1.queueUp { s1.wentry i 0 0 runs with body := body }
        count (s2.setMe (advance s2.me (4 * (ni.toNat + 2)))) s.cur.1 0 (ni.toNat + 1)

/-! ## The queue drains (R131, R158) -/

/-- The wide side of a core may start work (R161). DEDUCED (log 22): an instruction that waits on a mailbox or a FIFO has not started, so a stop
does not wait for it, nor for the pass of a REP in which it stands; the repetition buffer is saved at that instruction. Where the next
instruction of the pass can execute, the stop waits for the pass (`passRuns`, `passOver`). -/
def wideRuns (k : Core) : Bool := match k.run with
  | .running => true
  | .stepping _ _ => true
  | _ => false

/-- Takes the head off the queue; whatever waited for it looks again. -/
def popHead (s : State) (c : Nat) : State :=
  s.updCore c fun k =>
    ({ k with wide := { k.wide with queue := k.wide.queue.tail } } : Core).wakeIf fun w => match w with
      | .wideFull => true
      | .overlap _ _ _ => true
      | .fifoAcc _ => true
      | _ => false

/-- A value arrives at the control context, which retires its instruction (R96, R131). -/
def wideArrive (s : State) (c : Nat) (i : Instr) (rd : Reg) (v : Word) : State :=
  s.updCtx c 0 fun k => if k.wait = .wideVal then { advance (xwrite k rd v) (byteLen i) with wait := .none } else k

/-- Exchanges ACC with the shadow bank (R155). -/
def swapAcc (w : Wide) : Wide := { w with acc := w.shadow, shadow := w.acc }

/-- ACC after ACCCFG (R154). -/
def accConfig (keep : Bool) (v : Word) (a : Acc) : Acc :=
  { lanes := if keep then a.lanes else List.replicate 1024 0, st := List.replicate 16 0, rows := bits v.toNat 0 5, int := nbit v.toNat 8 }

/-- Executes a WCTL entry (R153-R155). -/
def wctlExec (s : State) (c : Nat) (e : WEntry) : State :=
  let v := viewAfter (posOf c == 0) (s.core c).view e.i e.v1 0
  let put (t : State) : State :=
    t.updCore c fun k => { k with wide := { k.wide with ptr := v.ptr, origin := v.origin, fmt := v.fmt } }
  match e.i with
  | .pget rd n => wideArrive s c e.i rd (ptrWord n (s.core c))
  | .fget rd n => wideArrive s c e.i rd (fmtWord n (s.core c))
  | .acccfg _ => s.updCore c fun k => { k with wide := { k.wide with acc := accConfig false e.v1 k.wide.acc } }
  | .acccfgKeep _ => s.updCore c fun k => { k with wide := { k.wide with acc := accConfig true e.v1 k.wide.acc } }
  | .accsw => s.updCore c fun k => { k with wide := swapAcc k.wide }
  | _ => put s

/-- Whether an entry is a WCTL instruction. -/
def isWctl : Instr → Bool
  | .pset _ _ => true
  | .padd _ _ => true
  | .pget _ _ => true
  | .fset _ _ => true
  | .fget _ _ => true
  | .acccfg _ => true
  | .acccfgKeep _ => true
  | .accsw => true
  | _ => false

/-- Runs the body of a REP's pass from instruction `row` on, until one must wait. -/
def repRun (c : Nat) (rm p rowstep ptrstep : Nat) : List Instr → Nat → State → Nat × State
  | [], row, s => (row, s)
  | i :: is, row, s =>
    let j := stagger p rowstep ptrstep i
    if wReady s c j then repRun c rm p rowstep ptrstep is (row + 1) (wExec s c j (wideRm j rm)) else (row, s)

/-- The body instruction that a REP at the head of the queue executes next, staggered for its pass; none between two passes. -/
def repNext (k : Core) : Option Instr :=
  match k.wide.queue.head? with
  | some e => match e.i with
    | .rep _ _ rs ps => (e.body[e.row]?).map (stagger e.pass rs.toNat ps.toNat)
    | _ => none
  | none => none

/-- A pass that has begun goes on to its end while the core stops (R34, R161). -/
def passRuns (k : Core) : Bool := wideRuns k || midPass k && (match k.run with
  | .halting => true
  | .stopping _ _ _ => true
  | _ => false)

/-- Whether the head of a core's queue is a REP whose next body instruction can execute. -/
def repReady (s : State) (c : Nat) : Bool :=
  passRuns (s.core c) && match (s.core c).wide.queue.head? with
    | some e => match e.i with
      | .rep _ _ _ _ => match repNext (s.core c) with
        | some i => wReady s c i
        | none => true
      | _ => false
    | none => false

/-- Replaces the head of the queue. -/
def setHead (s : State) (c : Nat) (e : WEntry) : State :=
  s.updCore c fun k => { k with wide := { k.wide with queue := e :: k.wide.queue.tail } }

/-- Adds runs that a list does not hold yet. -/
def addRuns (runs more : List (Nat × Nat)) : List (Nat × Nat) := runs ++ more.filter fun q => !runs.contains q

/-- The local bytes that body instructions touch in a pass, with the view after them. -/
def bodyRuns (k : Core) (p rowstep ptrstep : Nat) : List Instr → WView → List (Nat × Nat) → WView × List (Nat × Nat)
  | [], v, runs => (v, runs)
  | i :: is, v, runs =>
    let j := stagger p rowstep ptrstep i
    let (us, v1) := v.uses (wUses v j)
    bodyRuns k p rowstep ptrstep is v1 (addRuns runs (wformRuns k j us))

/-- The local bytes that n passes from p on touch. -/
def passesRuns (k : Core) (rowstep ptrstep : Nat) (body : List Instr) : Nat → Nat → WView → List (Nat × Nat) → List (Nat × Nat)
  | 0, _, _, runs => runs
  | n + 1, p, v, runs =>
    let (v1, r) := bodyRuns k p rowstep ptrstep body v runs
    passesRuns k rowstep ptrstep body n (p + 1) v1 r

/-- What a REP has still to touch of the local space: an access that overlaps only what it has done waits no longer (R34). -/
def restRuns (k : Core) (cnt rowstep ptrstep : Nat) (e : WEntry) : List (Nat × Nat) :=
  let (v, r) := bodyRuns k e.pass rowstep ptrstep (e.body.drop e.row) k.view []
  passesRuns k rowstep ptrstep e.body (cnt - e.pass) (e.pass + 1) v r

/-- A REP stays at the head with what is left of it; accesses that waited for it look again. -/
def repLeft (s : State) (c cnt rowstep ptrstep : Nat) (e : WEntry) : State :=
  (setHead s c { e with runs := restRuns (s.core c) cnt rowstep ptrstep e }).updCore c fun k => k.wakeIf fun w => match w with
    | .overlap _ _ _ => true
    | _ => false

/-- REP_PASS (R158): the pass runs to its end, or to an instruction that waits on a mailbox or a FIFO. -/
def execRepPass (core : Nat) (s : State) : Ans :=
  .next (
    match repReady s core, (s.core core).wide.queue.head? with
    | true, some e =>
      match e.i with
      | .rep cnt _ rs ps =>
        let (row, s1) := repRun core e.rm e.pass rs.toNat ps.toNat (e.body.drop e.row) e.row s
        if row < e.body.length then repLeft s1 core cnt.toNat rs.toNat ps.toNat { e with row := row }
        else if e.pass < cnt.toNat then repLeft s1 core cnt.toNat rs.toNat ps.toNat { e with row := 0, pass := e.pass + 1 }
        else popHead s1 core
      | _ => s
    | _, _ => s)

end Sys2Proof.Machine
end

