-- ==== Sys2Proof/Machine/Save.lean ====
section
/-!
DEFINITION. Saving, restoring and scrubbing a core (05_wide_instructions.md R161; 09_joint_array.md R240, R241;
17_launch_preemption_traps.md R401-R406; 22_front_end_firmware_security.md R478).
-/

namespace Sys2Proof.Machine

open Sys2Proof

/-! ## Banks -/

/-- The cells of a memory inside a bank, and a memory without a bank's cells. -/
def bankCells (m : Memory) (size b : Nat) : Memory := m.filter fun e => e.1 / size == b
def dropBank (m : Memory) (size b : Nat) : Memory := m.filter fun e => e.1 / size != b

/-- Puts cells of one bank in the place of those a memory holds of it. -/
def putBank (m : Memory) (size b : Nat) (cells : Memory) : Memory :=
  (m.filter fun e => e.1 / size < b) ++ bankCells cells size b ++ m.filter fun e => b < e.1 / size

/-- The residency class of an OPERAND bank: RES of the control context's matrix configuration (R239). -/
def bankClass (k : Core) (b : Nat) : Nat := bits k.wide.mcfg.toNat (8 + 2 * (b - 24)) 2

/-- The banks a save spills (R241, R404): SCRATCH and FIFO, and OPERAND by class. PINNED ones stay, but for a change of
owner or of cores (R400, R478). -/
def spilled (k : Core) (all : Bool) (b : Nat) : Bool :=
  match k.role b with
  | .scratch => true
  | .fifo => true
  | .operand => bankClass k b == 0 || (all && bankClass k b == 1)
  | _ => false

/-! ## The image (R403) -/

/-- The header: 64 bytes. -/
def imageHeader (s : State) (c : Nat) (pair : Bool) (wg : Nat) (cs : Tbl Ctx) (seq haltt : Nat) : List Byte :=
  let live := (cs.map fun e => if e.2.live then 2 ^ e.1 else 0).foldl (· + ·) 0
  bytesOfNat 8 seq ++ bytesOfNat 4 (wg % 65536 * 65536 + Config.imageVersion.toNat) ++ bytesOfNat 4 (gidOf s.dev c 0) ++
    bytesOfNat 4 ((if cs.any fun e => owesAnswer e.2 then 4096 else 0) + (if pair then 2048 else 0) + live) ++
    bytesOfNat 4 0x9C40 ++ bytesOfNat 8 haltt ++ List.replicate 32 0

/-- The number of the workgroup a core runs, as the front end gave it. -/
def wgNumber (s : State) (n : Nat) : Nat := match tfind s.wgs n with
  | some w => w.num
  | none => 0

/-- The records of contexts as a save takes them: the flags of one that has ended stay with the core (R64). -/
def savedCtxs (t : Tbl Ctx) : Tbl Ctx := t.map fun e => (e.1, if e.2.live then e.2 else { e.2 with fflags := 0 })

/-- A core keeps the flags of contexts that have ended when their records go: of all, or of those that a save does not take (R64). -/
def Core.keepFlags (k : Core) (all : Bool) : Core :=
  { k with endFlags := k.ctxs.foldl (fun t e =>
      if (all || !e.2.live) && e.2.fflags != 0 then tput t e.1 (tget 0 t e.1 ||| e.2.fflags) else t) k.endFlags }

/-- What a core holds of its workgroup. -/
def capture (s : State) (c : Nat) (all : Bool) : Image :=
  let k := s.core c
  let bs := (List.range 32).filter (spilled k all)
  { seq := k.saveSeq, part := k.part.getD 0, wg := k.wg.getD 0, haltt := s.time.toNat, ctxs := savedCtxs k.ctxs, rr := k.rr, tvec := k.tvec,
    htvec := k.htvec, hdeleg := k.hdeleg, mb := k.mb, mbFull := k.mbFull, wpBase := k.wpBase, wpCtl := k.wpCtl,
    watches := (s.watches.filter fun w => w.1 == c).map (·.2), reports := k.reports, roles := k.roles, lmem := k.lmem,
    lbase := k.lbase, sysdom := k.sysdom, sysv := k.sysv, wide := k.wide, exch := k.exch, banks := bs,
    loc := k.loc.filter fun e => bs.contains (e.1 / 65536), locPoison := k.locPoison.filter fun q => bs.contains (q / 256),
    sidecar := k.sidecar.filter fun e => bs.contains (e.1 / 2048), tags := k.tags.filter fun e => bs.contains e.1,
    fifo := k.fifo.filter fun e => bs.contains e.1, places := [], dbg := if k.run = .stopped then some k.dbg else none, pair := false }

/-- Writes an image into a CADDY bank: the header, and a body that only the part reads. -/
def writeImage (s : State) (c b : Nat) (hdr : List Byte) : State :=
  let seq := (s.core c).saveSeq
  let cell (i : Nat) : Host.Cell := (b * 65536 + i, if i < 64 then hdr.getD i 0 else Config.imageByte c seq i)
  s.updCore c fun k =>
    { k with loc := putBank k.loc 65536 b ((((List.range 0x9C40).map cell).filter fun e => e.2 != 0) ++
        (bankCells k.loc 65536 b).filter fun e => 0x9C40 ≤ e.1 % 65536) }

/-- CORE_SAVE (R403): the image of the core's workgroup, in its lowest CADDY bank. -/
def saveCore (s : State) (c : Nat) : State :=
  let k := s.core c
  match k.caddies.head?, k.wg with
  | some b, some n =>
    let s1 := writeImage s c b (imageHeader s c false (wgNumber s n) k.ctxs k.saveSeq s.time.toNat)
    (s1.updCore c fun q => { q with image := some (capture s c false), saveSeq := q.saveSeq + 1 }).traceIf c 0 8 (wgNumber s n)
      [BitVec.ofNat 64 k.saveSeq]
  | _, _ => s

/-- The watch entries of a core go. -/
def dropWatches (s : State) (c : Nat) : State := (List.range 4).foldl (fun t n => unwatch t c n) s

/-- The watch entries of a core are replaced by those of an image (R422). -/
def swapWatches (s : State) (c : Nat) (m : Image) : State :=
  let s1 := dropWatches s c
  (m.watches.filter fun w => w.2.1 == 3).foldl (fun t w => watchFar t c w.1 15 w.2.2 (m.wpBase.getD w.1 0) (m.wpCtl.getD w.1 0))
    { s1 with watches := s1.watches ++ m.watches.map fun w => (c, w) }


/-- The poisoned sectors of one bank in the place of those a list holds of it. -/
def putPoison (ps : List Nat) (b : Nat) (qs : List Nat) : List Nat :=
  (ps.filter fun p => p / 256 < b) ++ (qs.filter fun p => p / 256 == b) ++ ps.filter fun p => b < p / 256

/-- A bank of an image is filled. -/
def fillOne (m : Image) (k : Core) (b : Nat) : Core :=
  { k with loc := putBank k.loc 65536 b m.loc, sidecar := putBank k.sidecar 2048 b m.sidecar, locPoison := putPoison k.locPoison b m.locPoison,
           tags := match tfind m.tags b with
             | some t => tput k.tags b t
             | none => tdel k.tags b,
           fifo := match tfind m.fifo b with
             | some t => tput k.fifo b t
             | none => tdel k.fifo b }

/-- The banks of an image come back: what it holds of each, and the tag of a bank that was dropped is empty. A bank that another workgroup
has left PINNED stays as it is, an OPERAND bank (R241). -/
def restoreBanks (k : Core) (m : Image) : Core :=
  let pinned (b : Nat) : Bool := k.pins.any fun e => e.1 == b && e.2 != m.wg
  let k1 := (m.banks.filter fun b => !pinned b).foldl (fillOne m) k
  let k2 := { k1 with roles := m.roles, wide := m.wide }
  let k3 := k.pins.foldl (fun q e => if pinned e.1 then q.setRole e.1 .operand else q) k2
  { k3 with tags := k3.tags.filter fun e => m.banks.contains e.1 || bankClass k2 e.1 != 2 || pinned e.1,
            pins := k.pins.filter fun e => e.2 != m.wg }

/-- An image is restored on a core: records and banks. L1 copies in banks that are no longer CACHE go. -/
def restoreImage (s : State) (c : Nat) (m : Image) : State :=
  let k1 := restoreBanks (restoreControl (s.core c) m) m
  let gone := k1.l1.filter fun e => k1.role e.2.way != .cache
  swapWatches ((gone.foldl (fun t e => dropSector t c e.1) s).updCore c fun k =>
    restoreBanks (restoreControl k m) m) c m

/-! ## The save area (R404, R241) -/

/-- The 68 KiB places of a partition's save area that hold nothing of a saved workgroup. -/
def freeSave (s : State) (used : List Addr) (q : Partition) : List Addr :=
  let held := s.wgs.flatMap fun w => w.2.images.flatMap fun m => m.2.places.map (·.2)
  ((List.range (q.save.2 / 0x11000)).map (q.save.1 + 0x11000 * ·)).filter fun a => !used.contains a && !held.contains a

/-- Bytes go to a free place of the save area, as lines of residency class WARM: where, unless the area is full (log 27). -/
def saveBytes (s : State) (q : Partition) (used : List Addr) (cls : Nat) (bs : List Byte) : Option Addr × State :=
  let free := freeSave s used q
  match free[Config.spillSlot s.draws % max free.length 1]? with
  | none => (none, s)
  | some a => (some a, (List.range ((bs.length + 1023) / 1024)).foldl (fun t i => llcInsert t (a / 1024 + i) q.key cls 0)
      (homeWrite s.used q.key a bs))

/-- An image with one more bank of a core in it (R400). -/
def addBank (k : Core) (m : Image) (b : Nat) : Image :=
  { m with banks := nadd m.banks b, loc := putBank m.loc 65536 b k.loc, sidecar := putBank m.sidecar 2048 b k.sidecar,
           locPoison := putPoison m.locPoison b k.locPoison, tags := tput m.tags b (tget 0 k.tags b) }

/-- A bank of an image is spilled in the layout of R259: it lies in memory from now on, with its poison (R287). -/
def spillOne (q : Partition) (k : Core) (p : Image × State) (b : Nat) : Image × State :=
  let m := p.1
  let r := saveBytes p.2 q (m.places.map (·.2)) (k.ctx 0).cclass.toNat (bankImage k b)
  match r.1 with
  | none => p
  | some a =>
    let bad := (k.locPoison.filter fun e => e / 256 == b).map fun e => a / 256 + e % 256
    ({ m with places := tput m.places b a, loc := dropBank m.loc 65536 b, sidecar := dropBank m.sidecar 2048 b,
              locPoison := m.locPoison.filter fun e => e / 256 != b },
      { r.2 with memPoison := bad.foldl nadd r.2.memPoison })

/-- The CADDY bank in which an image of a core lies (R403): the lowest, or the highest for a parked partner's. -/
def imageBank (k : Core) (m : Image) : Option Nat := if m.pair then k.caddies.getLast? else k.caddies.head?

/-- The save image of a core is copied. -/
def copyImage (q : Partition) (k : Core) (p : Image × State) : Image × State :=
  match imageBank k p.1 with
  | none => p
  | some b =>
    let r := saveBytes p.2 q (p.1.places.map (·.2)) (k.ctx 0).cclass.toNat (memRead k.loc (b * 65536) 0x9C40)
    match r.1 with
    | none => p
    | some a => ({ p.1 with places := tput p.1.places 32 a }, r.2)

/-- The banks of an image and its copy go to the save area. -/
def spillImage (s : State) (k : Core) (m : Image) : Image × State :=
  match tfind s.parts m.part with
  | none => (m, s)
  | some q => copyImage q k (m.banks.foldl (spillOne q k) (m, s))

/-- Bytes as cells of a memory. -/
def cellsAt (a : Nat) (bs : List Byte) : Memory := (bs.zipIdx.map fun e => (a + e.2, e.1)).filter fun e => e.2 != 0

/-- A bank of an image is read back from the save area. -/
def fetchOne (key : Nat) (p : Image × State) (e : Nat × Addr) : Image × State :=
  let b := e.1
  if 32 ≤ b then p
  else
    let r := homeRead p.2 key e.2 0x10810
    let m := p.1
    let bad := (List.range 256).filter fun i => r.2.memPoison.contains (e.2 / 256 + i)
    let tag : Half := BitVec.ofNat 32 (field r.1 0x10800 4)
    ({ m with loc := putBank m.loc 65536 b (cellsAt (b * 65536) (r.1.take 65536)),
              sidecar := putBank m.sidecar 2048 b (cellsAt (b * 2048) ((r.1.drop 65536).take 2048)),
              locPoison := putPoison m.locPoison b (bad.map (b * 256 + ·)), tags := if tag = 0 then tdel m.tags b else tput m.tags b tag }, r.2)

/-- The banks of an image are read back. -/
def fetchImage (s : State) (m : Image) : Image × State :=
  match tfind s.parts m.part with
  | none => (m, s)
  | some q => m.places.foldl (fetchOne q.key) (m, s)

/-- The copy of an image comes back into its CADDY bank of the core. -/
def fetchCopy (s : State) (c : Nat) (m : Image) : State :=
  match tfind m.places 32, tfind s.parts m.part, imageBank (s.core c) m with
  | some a, some q, some b =>
    let r := homeRead s q.key a 0x9C40
    r.2.updCore c fun k => { k with loc := memWrite k.loc (b * 65536) r.1 }
  | _, _, _ => s

/-- The banks that saved workgroups have left PINNED on a core, of those workgroups that `p` picks, join their images: another owner's work
comes to the core, or the workgroup goes to other cores (R241, R400, R478). -/
def unpin (p : Nat → Bool) (c : Nat) (s : State) : State :=
  let k := s.core c
  let s1 := (k.pins.filter fun e => p e.2).foldl (fun t e => match tfind t.wgs e.2 with
    | none => t
    | some w => match w.map.find? fun q => q.2 == c with
      | none => t
      | some i => match tfind w.images i.1, tfind t.parts w.part with
        | some m, some q =>
          let r := spillOne q k (addBank k m e.1, t) e.1
          { r.2 with wgs := tput r.2.wgs e.2 { w with images := tput w.images i.1 r.1 } }
        | _, _ => t) s
  s1.updCore c fun q => { q with pins := q.pins.filter fun e => !p e.2 }

/-! ## The scrub (R478) -/

/-- Zeroed lanes and status words. -/
def zeroAcc (a : Acc) : Acc := { a with lanes := List.replicate 1024 0, st := List.replicate 16 0 }

/-- Writes every dirty sector of a core's L1 back, sends its partials, and empties it. -/
def emptyL1 (s : State) (c : Nat) : State := (s.core c).l1.foldl (fun t e => dropSector t c e.1) s

/-- CORE_SCRUB. -/
def scrub (s : State) (c : Nat) : State :=
  let s1 := emptyL1 (unpin (fun _ => true) c s) c
  let s2 := s1.setCluster (clusterOf c) { s1.cluster (clusterOf c) with tlb := [], walkCache := [] }
  (dropWatches s2 c).updCore c fun k =>
    let roles : Vector Role 32 := Vector.ofFn fun i => if k.roles[i] = .caddy then .caddy else defaultRoles[i]
    { k with l1 := [], icache := [], loc := [], locPoison := [], sidecar := [], tags := [], fifo := [],
             mb := Vector.replicate 8 0, mbFull := 0, wpBase := List.replicate 4 0, wpCtl := List.replicate 4 0, reports := [],
             dbg := Dbg.reset, roles := roles,
             wide := { k.wide with acc := zeroAcc k.wide.acc, shadow := zeroAcc k.wide.shadow } }

/-- The scrub where the core last held the work of another partition. -/
def scrubFor (s : State) (c p : Nat) : State := match (s.core c).lastPart with
  | some q => if q = p then s else scrub s c
  | none => s

/-! ## Halting (R401) -/

/-- What a stop leaves of a wait: those that stand keep it; the others are abandoned and execute again. -/
def haltWait (x : Ctx) : Ctx :=
  match x.wait with
  | .none => { x with half := none, fetched := [], capturing := false }
  | .request _ => x
  | .amo _ _ _ => x
  | .wideVal => x
  | .select _ _ _ => x
  | .phase _ => x
  | .gang => x
  | .trapping _ => x
  | _ => { x with wait := .none, rdata := none, relDone := false, half := none, fetched := [], capturing := false }

/-- A commit has won at the latch of a context that stops: its saved PC lies after the waiting instruction (R178). -/
def passWait (c : Nat) (s : State) (x : Nat) : State :=
  let l := ctxLatch s c x
  let m := s.latch l
  match m.st with
  | .committed _ =>
    if m.past then s
    else (s.updCtx c x fun k => advance k (waitBytes (s.core c).exch k.wait)).setLatch l { m with past := true }
  | _ => s

/-- The contexts of a core stand at instruction boundaries; a BANKROLE in its drain step is given up (R322). -/
def haltContexts (s : State) (c : Nat) : State :=
  let xs := (s.core c).ctxs.map (·.1)
  let s1 := xs.foldl (passWait c) (xs.foldl (fun t x => abandonData t c x) (performLate c s))
  s1.updCore c fun k => { k with ctxs := k.ctxs.map fun e => (e.1, haltWait e.2), roleChange := none }

/-- The context latches of what a core runs are neither armed nor claimed. -/
def latchesStill (s : State) (c : Nat) : Bool :=
  s.latches.all fun l => !(gidDev l.1.gid == s.dev && gidCore l.1.gid == c && isCtxLatch l.1 && latchNow s l.1) ||
    (match l.2.st with
      | .armed => false
      | .claimed _ _ => false
      | _ => true)

/-- No context of a core has a record to store, and none waits for the answer of a request (R207). -/
def recordsDone (k : Core) : Bool := k.ctxs.all fun e => e.2.recd.isNone
def requestsDone (k : Core) : Bool := k.ctxs.all fun e => match e.2.wait with
  | .request _ => false
  | _ => true

/-- No pass of a REP is under way on a core but one that waits on a mailbox or a FIFO (R34, R161). -/
def passOver (s : State) (c : Nat) : Bool := !(midPass (s.core c) && repReady s c)

/-- A core's stores are acknowledged (R401). -/
def storesDone (k : Core) : Bool := k.stbuf.isEmpty && !(k.ctxs.any fun e => e.2.owed != 0)

/-- A pre-emption has a core at its stop, with its stores acknowledged; a debug stop has it there, with its requests answered. -/
def haltsNow (s : State) (c : Nat) : Bool := latchesStill s c && recordsDone (s.core c) && passOver s c && storesDone (s.core c)
def stopsNow (s : State) (c : Nat) : Bool := latchesStill s c && recordsDone (s.core c) && passOver s c && requestsDone (s.core c)

/-- The workgroup with a number in a partition. -/
def wgNamed (s : State) (part num : Nat) : Option (Nat × Wg) := s.wgs.find? fun w => w.2.part == part && w.2.num == num

/-- A pre-emption of a stopped core saves it as it stands, once its stores are acknowledged (R401, R415). -/
def saveStopped (s : State) (c : Nat) : State :=
  if (s.core c).image.isSome then s
  else
    let t := s.updCore c fun k => { k with haltPend := true }
    if storesDone (s.core c) then saveCore (detachSubs t c) c else t

/-- A stopped core is still to be saved, and can be. -/
def savesNow (s : State) (c : Nat) : Bool :=
  let k := s.core c
  k.run == .stopped && k.haltPend && k.image.isNone && !k.caddies.isEmpty && k.wg.isSome && storesDone k

/-- CORE_HALTED (R401): the core stands still, its branches of pipelines are detached, and its image is in its CADDY bank. -/
def execCoreHalted (core : Nat) (s : State) : Ans :=
  .next (
    if (s.core core).run = .halting ∧ haltsNow s core then
      saveCore (detachSubs ((haltContexts s core).updCore core fun k => { k with run := .halted }) core) core
    else if savesNow s core then saveStopped s core
    else s)

/-- Cores begin to halt; one that the debugger stops, or steps, is saved when it has stopped. -/
def haltCores (s : State) (cs : List Nat) : State :=
  cs.foldl (fun t c => match (t.core c).run with
    | .running => t.updCore c fun k => { k with run := .halting }
    | .stepping _ _ => t.updCore c fun k => { k with run := .stopping 1 0 0, haltPend := true }
    | .stopping _ _ _ => t.updCore c fun k => { k with haltPend := true }
    | .stopped => saveStopped t c
    | _ => t) s

/-- PREEMPTION_REQUEST (R401). -/
def execPreemptionRequest (part wg : Nat) (s : State) : Ans :=
  .next (match wgNamed s part wg with
    | some (_, w) => if w.saved then s else haltCores s w.cores
    | none => s)

/-- A core does not issue, and its stores are acknowledged. -/
def quiet (s : State) (c : Nat) : Bool :=
  let k := s.core c
  (k.run == .halted || k.run == .stopped) && storesDone k

/-! ## The resident pair (R406) -/

/-- The debug block of a core that a restored or swapped-in workgroup finds: where the image is of a stopped core it is STOPPED again and its
DBGSTAT is kept; the counters and TRCTL are the core's (R415, R434). -/
def resumeDbg (k : Core) (m : Image) (run : Run) : Core := match m.dbg with
  | some d => { k with run := .stopped, dbg := { d with counts := k.dbg.counts, trctl := k.dbg.trctl, sampleAt := k.dbg.sampleAt,
                                                        countAt := k.dbg.countAt } }
  | none => { k with run := run }

/-- One core runs its parked partner: control-side and wide records, ACC with the shadow bank, the matrix configurations.
The L1, the banks and their roles stay. What ran is parked in the highest CADDY bank, unless it has ended. -/
def swapCore (s : State) (c : Nat) : State :=
  let k := s.core c
  match k.parked with
  | none => s
  | some m =>
    let haltt := k.image.elim s.time.toNat (·.haltt)
    let all := { capture s c false with banks := [], loc := [], locPoison := [], sidecar := [], tags := [], fifo := [] }
    let out := { all with haltt := haltt, pair := true }
    let s1 := swapWatches s c m
    let wide := { m.wide with acc := k.wide.shadow, shadow := k.wide.acc, mcfg := k.wide.mcfg2, mcfg2 := k.wide.mcfg }
    let k1 := { restoreControl (k.keepFlags false) m with wide := wide, parked := if k.wg.isSome then some out else none, image := none,
                                                            haltPend := false, active := true }
    let s2 := (s1.setCore c (resumeDbg k1 m .running)).traceIf c 0 9 (wgNumber s m.wg) [BitVec.ofNat 64 m.seq]
    match k.caddies.getLast?, k.wg with
    | some b, some n =>
      (writeImage s2 c b (imageHeader s c true (wgNumber s n) k.ctxs k.saveSeq haltt)).updCore c fun q =>
        { q with saveSeq := q.saveSeq + 1 }
    | _, _ => s2

/-- The partner of what ran on a core runs: what the router holds for it lands before it issues, and its branches of pipelines rejoin
(R185, R353, R406). -/
def swapIn (s : State) (c : Nat) : State :=
  let t := landHeld (swapCore s c) c
  if (t.core c).run = .running then rejoinSubs t c else t

end Sys2Proof.Machine
end

