-- ==== Sys2Proof/Machine/Load.lean ====
section
/-!
DEFINITION. Images and the loader (22_front_end_firmware_security.md R472; 03_encoding_and_assembly.md R92-R95): the header,
the core sets, the launch domains, the sections and the relocation table.
-/

namespace Sys2Proof.Machine

open Sys2Proof

/-! ## The header (R472) -/

/-- The bytes of the header, up to the last domain mask. -/
def imageHead (s : State) (p img : Nat) : List Byte := partBytes s p img 1240

def imgNset (h : List Byte) : Nat := field h 0 1
def imgNrel (h : List Byte) : Nat := bits (field h 0 8) 8 24
def imgNdom (h : List Byte) : Nat := bits (field h 0 8) 32 5

/-- Section i: image offset, destination, length. -/
def imgSect (h : List Byte) (i : Nat) : Nat × Nat × Nat :=
  (field h (16 + 24 * i) 8, field h (24 + 24 * i) 8, field h (32 + 24 * i) 8)

/-- The cores of set k in ascending order. DESIGN CHOICE (log 32): where sets overlap, which R88 forbids without naming a consequence, the image is
taken, and a core belongs to the first set that names it. -/
def imgSet (h : List Byte) (k : Nat) : List Nat :=
  let v := field h (88 + 16 * k) 8
  let r0 := bits v 1 4
  let c0 := bits v 9 5
  (List.range (bits v 5 4 + 1 - r0)).flatMap fun r =>
    (List.range (bits v 14 5 + 1 - c0)).map fun c => coreAt (bits v 0 1) (r0 + r) (c0 + c)

/-- The entry offset of set k. -/
def imgEntry (h : List Byte) (k : Nat) : Nat := field h (96 + 16 * k) 8

/-- The image cores, each with the first set that holds it, in ascending order. -/
def imgCores (h : List Byte) : Tbl Nat :=
  (List.range (imgNset h)).foldl (fun t k => (imgSet h k).foldl (fun t c => if (tfind t c).isSome then t else tput t c k) t) []

/-- The image cores of launch ordinal j. -/
def imgDomain (h : List Byte) (j : Nat) : List Nat :=
  ((imgCores h).map (·.1)).filter fun c =>
    (List.range (imgNset h)).any fun k => nbit (field h (1112 + 8 * j) 8) k && (imgSet h k).contains c

/-- The gangs of which the image holds all six cores, and the image cores outside them (R397). -/
def imgGangs (h : List Byte) : List Nat :=
  let cs := (imgCores h).map (·.1)
  (List.range 96).filter fun g => (List.range 6).all fun p => cs.contains (gangCore g p)
def imgRest (h : List Byte) : List Nat :=
  let gs := imgGangs h
  ((imgCores h).map (·.1)).filter fun c => !gs.contains (gangOf c)

/-- A header that a partition can run: its counts and sets in range, its sections inside the regions. -/
def imageOk (s : State) (p img : Nat) (h : List Byte) : Bool :=
  1 ≤ imgNset h && imgNset h ≤ 64 && imgNdom h ≤ 16 &&
    (List.range (imgNset h)).all (fun k =>
      let v := field h (88 + 16 * k) 8
      bits v 1 4 ≤ bits v 5 4 && bits v 9 5 ≤ bits v 14 5 && bits v 14 5 < 18) &&
    (List.range 3).all (fun i =>
      let t := imgSect h i
      t.2.2 == 0 || (inRegions s p t.2.1 t.2.2 && inRegions s p (img + t.1) t.2.2)) &&
    (imgNrel h == 0 || inRegions s p (img + field h 8 8) (16 * imgNrel h)) && inRegions s p img 1240

/-! ## Relocation (R93, R94) -/

/-- The placed core of an image core. -/
def placed (m : List (Nat × Nat)) (c : Nat) : Option Nat := (m.find? fun e => e.1 == c).map (·.2)

/-- An entry: section, kind, offset, value. -/
def relEntry (s : State) (p a : Nat) : Nat × Nat × Nat × Nat :=
  let bs := partBytes s p a 16
  (field bs 4 1, field bs 5 1, field bs 0 4, field bs 8 4)

/-- Whether an entry has a meaning: a coordinate that is in a core set, one of a launch's sixteen ordinals (R167). -/
def relOk (_h : List Byte) (m : List (Nat × Nat)) (e : Nat × Nat × Nat × Nat) : Bool :=
  e.1 ≤ 2 && (match e.2.1 with
    | 1 => gidCol e.2.2.2 < 18 && (placed m (gidCore e.2.2.2)).isSome
    | 2 => gidCol e.2.2.2 < 18 && (placed m (gidCore e.2.2.2)).isSome
    | 3 => e.2.2.2 < 16
    | _ => false)

/-- The relocated value of a global ID. -/
def relGid (s : State) (m : List (Nat × Nat)) (v : Nat) : Nat := gidOf s.dev ((placed m (gidCore v)).getD 0) (gidCtx v)

/-- Replaces bits [lo + w - 1 : lo] of a number. -/
def setBits (v lo w x : Nat) : Nat := v - bits v lo w * 2 ^ lo + x % 2 ^ w * 2 ^ lo

/-- Rewrites one marked field in the loaded sections (R93). DESIGN CHOICE (log 32): the reserved bits of an entry are not looked at, and an OFFSET
past its section is not refused: the field lies at the section's place plus OFFSET; the spec says neither. -/
def relocate1 (s : State) (p : Nat) (h : List Byte) (m : List (Nat × Nat)) (base : Nat) (e : Nat × Nat × Nat × Nat) : State :=
  let key := partKey s p
  let a := (imgSect h e.1).2.1 + e.2.2.1
  match e.2.1 with
  | 1 => homeWrite s key (a + 4) (bytesOfNat 8 (setBits (natOfBytes (homeBytes s key (a + 4) 8)) 38 26 (relGid s m e.2.2.2)))
  | 2 => homeWrite s key a (bytesOfNat 4 (setBits (natOfBytes (homeBytes s key a 4)) 0 26 (relGid s m e.2.2.2)))
  | _ => homeWrite s key a (bytesOfNat 4 (setBits (natOfBytes (homeBytes s key a 4)) 16 13 (base + e.2.2.2)))

/-- The entries of an image's table. -/
def relTable (s : State) (p img : Nat) (h : List Byte) : List (Nat × Nat × Nat × Nat) :=
  (List.range (imgNrel h)).map fun i => relEntry s p (img + field h 8 8 + 16 * i)

/-- Applies the table; none where an entry is refused. -/
def relocate (s : State) (p img base : Nat) (h : List Byte) (m : List (Nat × Nat)) : Option State :=
  let es := relTable s p img h
  if es.all (relOk h m) then some (es.foldl (fun t e => relocate1 t p h m base e) s) else none

/-- Copies the sections to their places. -/
def loadSections (s : State) (p img : Nat) (h : List Byte) : State :=
  (List.range 3).foldl (fun t i =>
    let q := imgSect h i
    homeWrite t (partKey t p) q.2.1 (partBytes t p (img + q.1) q.2.2)) s

/-- Empties the instruction caches of cores (R42). -/
def emptyIcaches (s : State) (cs : List Nat) : State := cs.foldl (fun t c => t.updCore c fun k => { k with icache := [] }) s

/-! ## Launch domains (R167, R169) -/

/-- The members of ordinal j under a map, in ascending order. -/
def domCores (h : List Byte) (m : List (Nat × Nat)) (j : Nat) : List Nat :=
  ((imgDomain h j).filterMap (placed m)).foldl nadd []

/-- The members of ordinal j on other devices: a launch of a partition set on several devices gives each device's packet the same ones (R449),
of which this device's image holds only its own. Which of the set's cores they are is free (log 51). -/
def peerCores (s : State) (d p : Nat) (sys : Bool) (j : Nat) : List Gid :=
  if sys then ((partOf s p).elim [] (·.peers)).filter fun g => Config.peerMember (d + j) g else []

/-- The members of ordinal j. -/
def domGids (s : State) (d p : Nat) (sys : Bool) (h : List Byte) (m : List (Nat × Nat)) (j : Nat) : List Gid :=
  if j < imgNdom h then (((domCores h m j).map fun c => gidOf s.dev c 0) ++ peerCores s d p sys j).foldl nadd [] else []

/-- Records the 16 launch domains of a workgroup, from `base` on: those past the image's NDOM have no members yet. In a range
that several launches of a partition set share, a number past NDOM that another launch holds stays that launch's. -/
def putDomains (s : State) (d p wg base : Nat) (sys : Bool) (h : List Byte) (m : List (Nat × Nat)) : State :=
  { s with ldoms := (List.range 16).foldl (fun t j =>
      let gs := domGids s d p sys h m j
      if imgNdom h ≤ j ∧ (tfind t (base + j)).isSome then t
      else tput t (base + j) ⟨p, wg, if sys then 6 else enclosing (gs.map gidCore), gs, true⟩) s.ldoms }

/-- LMEM of a core. -/
def lmemOf (h : List Byte) (m : List (Nat × Nat)) (c : Nat) : BitVec 16 :=
  BitVec.ofNat 16 (((List.range (imgNdom h)).map fun j => if (domCores h m j).contains c then 2 ^ j else 0).foldl (· + ·) 0)

/-- The ranges of launch-domain numbers in use. -/
def baseFree (s : State) (b : Nat) : Bool :=
  (s.wgs.all fun w => b + 16 ≤ w.2.ldomBase || w.2.ldomBase + 16 ≤ b) && (s.ldoms.all fun l => l.1 < b || b + 16 ≤ l.1) &&
    s.parts.all fun q => match q.2.set with
      | some (n, lo, c) => (b + 16 ≤ lo || lo + c ≤ b) && (n < b || b + 16 ≤ n)
      | none => true

/-- Sixteen free numbers: which ones is the front end's (Config.pickBase). DESIGN CHOICE (log 34): with none free, where the spec is silent, a
launch takes those from 4,096 on, which another may hold. -/
def newBase (s : State) : Nat :=
  let free := ((List.range 4081).map (4096 + ·)).filter (baseFree s)
  free.getD (Config.pickBase s.draws % max free.length 1) 4096

/-- R449: the numbers lie in the set's range, and a domain that has events keeps its members. -/
def sysDomainOk (s : State) (d p base : Nat) (h : List Byte) (m : List (Nat × Nat)) : Bool :=
  match partSet s (some p) with
  | none => false
  | some (_, lo, n) =>
    lo ≤ base && base + imgNdom h ≤ lo + n && (List.range (imgNdom h)).all fun j =>
      match tfind s.ldoms (base + j) with
      | some l => !(s.homes.any fun e => nameDom e.1.name == base + j) ||
          l.members == domGids s d p true h m j
      | none => true

end Sys2Proof.Machine
end

