-- ==== Sys2Proof/Machine/Place.lean ====
section
/-!
DEFINITION. The placer (17_launch_preemption_traps.md R396-R399): candidates and their priority, free cores, which candidate
is placed next and where, and the rows drained for a gang request.
-/

namespace Sys2Proof.Machine

open Sys2Proof

/-! ## The LAUNCH packet's fields (R470) -/

def lpImage (pkt : List Byte) : Nat := field pkt 16 8
def lpFlag (pkt : List Byte) (i : Nat) : Bool := nbit (field pkt 24 4) i
def lpExact (pkt : List Byte) : Bool := lpFlag pkt 0
def lpPreempt (pkt : List Byte) : Bool := lpFlag pkt 1
def lpRepl (pkt : List Byte) : Bool := lpFlag pkt 2
def lpPair (pkt : List Byte) : Bool := lpFlag pkt 3
def lpBsp (pkt : List Byte) : Bool := lpFlag pkt 4
def lpPhase (pkt : List Byte) : Nat := field pkt 40 4
def lpNev (pkt : List Byte) : Nat := field pkt 44 4
def lpSysv (pkt : List Byte) : Bool := nbit (field pkt 56 4) 15
def lpSysbase (pkt : List Byte) : Nat := bits (field pkt 56 4) 0 13

/-- The patience of a gang request, in µs (R398). -/
def patience (pkt : List Byte) : Nat := if lpFlag pkt 6 then 2000 else field pkt 26 2

/-- Cycles of a microsecond (R1, R404). -/
def usCycles : Nat := 1100

/-! ## Candidates (R396) -/

/-- A candidate: the head launch of a queue, or a workgroup that a compaction sent back to the head of its queue (R398). -/
structure Cand where
  wg : Option Nat
  q : Nat
  part : Nat
  pkt : List Byte
  since : Nat
  deriving DecidableEq, Repr

/-- The head launch of a queue. -/
def candOf (e : Nat × Queue) : Option Cand := match e.2.stage with
  | .candidate pkt since => some ⟨none, e.1, e.2.part, pkt, since⟩
  | _ => none

/-- Cycles that a candidate has waited. -/
def waited (s : State) (c : Cand) : Nat := s.cycle.toNat - c.since

/-- The effective priority (R396). -/
def effPrio (s : State) (c : Cand) : Nat :=
  if c.wg.isSome then 3
  else
    let u := s.queue c.q
    min 3 (u.prio + 3 * waited s c / (max u.age 1 * usCycles))

/-- One candidate is considered before another: higher priority, longer wait, lower queue. -/
def before (s : State) (a b : Cand) : Bool :=
  effPrio s b < effPrio s a ||
    (effPrio s a == effPrio s b && (a.since < b.since || (a.since == b.since && a.q < b.q)))

def insertCand (s : State) (c : Cand) : List Cand → List Cand
  | [] => [c]
  | d :: t => if before s c d then c :: d :: t else d :: insertCand s c t

/-- The workgroups that wait to be placed again. -/
def displaced (s : State) : List Cand :=
  s.wgs.filterMap fun w => if w.2.moving && w.2.saved then some ⟨some w.1, w.2.queue, w.2.part, w.2.pkt, 0⟩ else none

/-- One candidate for each queue. -/
def headsOnly : List Cand → List Cand → List Cand
  | [], t => t
  | c :: cs, t => headsOnly cs (if t.any fun d => d.q == c.q then t else t ++ [c])

/-- All candidates in the order in which they are considered: of each queue only its head, which a workgroup that was sent back is, and the
gang request for which rows are drained, which is placed though a workgroup that it displaced stands before it (R396, R398). -/
def candidates (s : State) : List Cand :=
  let drains := (s.queues.filter fun e => !e.2.drained.isEmpty).filterMap candOf
  let heads := headsOnly (s.queues.filterMap candOf) (headsOnly (displaced s) [])
  (heads ++ drains.filter fun c => !heads.contains c).foldl (fun t c => insertCand s c t) []

/-! ## Free cores (R397) -/

/-- Gangs drained for a queue's candidate; those drained for any other. -/
def drainedRows (u : Queue) : List Nat := u.drained.map fun r => 4 * r.1 + r.2
def drainedFor (s : State) (q : Option Nat) : List Nat :=
  s.queues.flatMap fun e => if some e.1 = q then [] else drainedRows e.2

/-- No workgroup and no live context is on a core. -/
def vacant (k : Core) : Bool := k.wg.isNone && k.parked.isNone && !(k.ctxs.any fun e => e.2.live)

/-- The cores that a candidate may take. -/
def eligible (s : State) (c : Cand) : List Nat :=
  let barred := drainedFor s (if c.wg.isSome then none else some c.q)
  (partCores s c.part).filter fun n =>
    let k := s.core n
    vacant k && !barred.contains (gangOf n) && (!lpPreempt c.pkt || 1 ≤ k.caddies.length) &&
      (!lpPair c.pkt || 2 ≤ k.caddies.length)

/-- The rows that are wholly among some cores. -/
def wholeRows (avail : List Nat) : List Nat :=
  (List.range 96).filter fun g => (List.range 6).all fun p => avail.contains (gangCore g p)

/-- Whether the allowed placements on some cores are any. -/
def fits (h : List Byte) (exact : Bool) (avail : List Nat) : Bool :=
  if exact then (imgCores h).all fun e => avail.contains e.1
  else (imgGangs h).length ≤ (wholeRows avail).length && (imgCores h).length ≤ avail.length

/-- The cores that a candidate which cannot be placed could use. -/
def usable (h : List Byte) (exact : Bool) (avail : List Nat) : List Nat :=
  if exact then avail.filter fun c => (imgCores h).any fun e => e.1 == c
  else if (imgRest h).isEmpty then avail.filter fun c => (wholeRows avail).contains (gangOf c)
  else avail

def candHead (s : State) (c : Cand) : List Byte := imageHead s c.part (lpImage c.pkt)

/-- The running workgroup on whose cores a PAIR launch is parked (R406). -/
def pairHost (s : State) (c : Cand) : Option (Nat × Wg) :=
  if !lpPair c.pkt || c.wg.isSome then none
  else
    let cs := (imgCores (candHead s c)).map (·.1)
    let barred := drainedFor s (some c.q)
    s.wgs.find? fun w => w.2.part == c.part && w.2.pair && !w.2.saved && w.2.ended.isEmpty &&
      (w.2.map.map (·.1)).foldl nadd [] == cs && (!lpExact c.pkt || w.2.map.all fun e => e.1 == e.2) &&
      w.2.cores.all fun n => (s.core n).parked.isNone && (s.core n).wg == some w.1 && !barred.contains (gangOf n)

/-- The candidate that is placed next, with the cores it may take (R396): the first that can be placed, on cores that those
before it cannot use. -/
def placeFrom (s : State) (barred : List Nat) : List Cand → Option (Cand × List Nat)
  | [] => none
  | c :: t =>
    let h := candHead s c
    let avail := (eligible s c).filter fun n => !barred.contains n
    if (pairHost s c).isSome || fits h (lpExact c.pkt) avail then some (c, avail)
    else placeFrom s (barred ++ usable h (lpExact c.pkt) (eligible s c)) t

def placeNext (s : State) : Option (Cand × List Nat) := placeFrom s [] (candidates s)

/-! ## The choice of a placement -/

/-- Gives each image gang a row, in turn, by free picks from `d` on. -/
def pickRows : List Nat → List Nat → Nat → List (Nat × Nat)
  | [], _, _ => []
  | g :: gs, rows, d =>
    let r := rows.getD (Config.choice d % max rows.length 1) 0
    ((List.range 6).map fun p => (gangCore g p, gangCore r p)) ++ pickRows gs (rows.filter (· != r)) (d + 1)

/-- Gives each other image core a core. -/
def pickCores : List Nat → List Nat → Nat → List (Nat × Nat)
  | [], _, _ => []
  | c :: cs, avail, d =>
    let n := avail.getD (Config.choice d % max avail.length 1) 0
    (c, n) :: pickCores cs (avail.filter (· != n)) (d + 1)

/-- One of the allowed placements (R397): which one is free. -/
def pickPlacement (s : State) (h : List Byte) (exact : Bool) (avail : List Nat) : List (Nat × Nat) :=
  if exact then (imgCores h).map fun e => (e.1, e.1)
  else
    let rows := pickRows (imgGangs h) (wholeRows avail) s.draws
    rows ++ pickCores (imgRest h) (avail.filter fun c => !rows.any fun e => e.2 == c) (s.draws + (imgGangs h).length)

/-! ## Draining and compaction (R398, R399) -/

/-- A workgroup that counts as pre-emptible for draining and compaction: PREEMPT, no tree configured by it, no FIFO bank bound (R399). -/
def yields (s : State) (n : Nat) (w : Wg) : Bool :=
  w.preempt && !(w.cores.any fun c => (s.cluster (clusterOf c)).trees.any fun t => t.2.wg == n + 1) &&
    !(w.cores.any fun c => (s.core c).fifo.any fun f => f.2.bound.isSome)

/-- A compaction may move it: it is re-placeable too. -/
def movable (s : State) (n : Nat) (w : Wg) : Bool := w.repl && yields s n w

/-- The workgroups of a core: that which runs there and its parked partner. -/
def coreWgs (k : Core) : List Nat := k.wg.toList ++ (k.parked.map (·.wg)).toList

/-- The workgroups on a row, and whether every occupied core of it belongs to ones that may be moved. -/
def rowWgs (s : State) (g : Nat) : List Nat :=
  (List.range 6).foldl (fun t p => (coreWgs (s.core (gangCore g p))).foldl addOnce t) []
def rowMovable (s : State) (g : Nat) : Bool :=
  (List.range 6).all fun p =>
    let k := s.core (gangCore g p)
    vacant k || (!(coreWgs k).isEmpty && (coreWgs k).all fun n => (tfind s.wgs n).any (yields s n))
def rowOccupied (s : State) (g : Nat) : Nat :=
  ((List.range 6).filter fun p => !vacant (s.core (gangCore g p))).length

/-- The row that is drained next for a candidate. -/
def drainRow (s : State) (c : Cand) : Option Nat :=
  let h := candHead s c
  let taken := s.queues.flatMap fun e => drainedRows e.2
  let rows := (List.range 96).filter fun g =>
    (partClusters s (some c.part)).contains (g / 4) && !taken.contains g && 1 ≤ rowOccupied s g && rowMovable s g &&
      (!lpExact c.pkt || (imgGangs h).contains g)
  rows.foldl (fun b g => match b with
    | none => some g
    | some m => if rowOccupied s g < rowOccupied s m then some g else some m) none

/-- Rows still to be drained for a candidate: its gangs beyond the free rows and those already drained. -/
def rowsWanted (s : State) (c : Cand) : Nat :=
  let free := wholeRows (eligible s c)
  let rows := drainedRows (s.queue c.q)
  if lpExact c.pkt then ((imgGangs (candHead s c)).filter fun g => !free.contains g && !rows.contains g).length
  else (imgGangs (candHead s c)).length - free.length - (rows.filter fun g => !free.contains g).length

/-- GANG_DRAIN is due for a queue's candidate. -/
def drainDue (s : State) (c : Cand) : Bool :=
  c.wg.isNone && patience c.pkt != 0 && patience c.pkt * usCycles ≤ waited s c && 1 ≤ rowsWanted s c && (drainRow s c).isSome

/-- GANG_DRAIN. -/
def execGangDrain (q : Nat) (s : State) : Ans :=
  .next (
    let u := s.queue q
    match candOf (q, u) with
    | none => s
    | some c => match drainDue s c, drainRow s c with
      | true, some g => s.setQueue q { u with drained := u.drained ++ [(g / 4, g % 4)] }
      | _, _ => s)

/-- The workgroups that occupy a queue's drained rows and do not move yet. -/
def toMove (s : State) (q : Nat) : List Nat :=
  (drainedRows (s.queue q)).foldl (fun t g => (rowWgs s g).foldl (fun t n => match tfind s.wgs n with
    | some w => if movable s n w && !w.moving then addOnce t n else t
    | none => t) t) []

/-- GANG_COMPACTION is due. -/
def compactionDue (s : State) (c : Cand) : Bool :=
  c.wg.isNone && patience c.pkt != 0 && 2 * patience c.pkt * usCycles ≤ waited s c && !(toMove s c.q).isEmpty

/-- GANG_COMPACTION: the workgroups on the drained rows are pre-empted; REPLACEMENT moves each. -/
def execGangCompaction (q : Nat) (s : State) : Ans :=
  .next (
    match candOf (q, s.queue q) with
    | none => s
    | some c =>
      if !compactionDue s c then s
      else (toMove s q).foldl (fun t n => match tfind t.wgs n with
        | some w => haltCores { t with wgs := tput t.wgs n { w with moving := true } } w.cores
        | none => t) s)

end Sys2Proof.Machine
end

