-- ==== Sys2Proof/Machine/Launch.lean ====
section
/-!
DEFINITION. Launches (17_launch_preemption_traps.md R393-R397; 22_front_end_firmware_security.md R470): the LAUNCH packet, the
placement and start of a workgroup, and its end.
-/

namespace Sys2Proof.Machine

open Sys2Proof

/-! ## The packet (R467, R470) -/

/-- A PHASE name of a LAUNCH: valid; 0 only where the launch is not bulk-synchronous (R168, R467). -/
def phaseOk (s : State) (p : Nat) (pkt : List Byte) : Bool := (!lpBsp pkt && lpPhase pkt == 0) || nameValid s (some p) (lpPhase pkt)

/-- The body of a LAUNCH packet. A PHASE name in a launch domain is checked when the launch has assigned its domains. -/
def launchBodyOk (s : State) (p : Nat) (pkt : List Byte) : Bool :=
  let w := field pkt 72 4
  lpImage pkt % 4096 == 0 && bits (field pkt 24 8) 7 9 == 0 && zeroFrom pkt 28 32 && (!lpRepl pkt || lpPreempt pkt) &&
    (if lpBsp pkt then inRegions s p (field pkt 32 8) 16 else zeroFrom pkt 32 40) &&
    (4096 ≤ nameDom (lpPhase pkt) || phaseOk s p pkt) && lpNev pkt ≤ 256 &&
    (lpNev pkt == 0 || inRegions s p (field pkt 48 8) (80 * lpNev pkt)) && bits (field pkt 56 8) 13 2 == 0 &&
    bits (field pkt 56 8) 16 48 == 0 && bits w 22 10 == 0 && bits w 20 2 != 3 && zeroFrom pkt 76 80 && zeroFrom pkt 84 144 &&
    (match partOf s p with
      | some q => q.classes.contains (bits w 16 4)
      | none => false)

/-- An image whose cores the partition can give. -/
def imageFits (s : State) (p : Nat) (pkt h : List Byte) : Bool :=
  imageOk s p (lpImage pkt) h && fits h (lpExact pkt) (partCores s p)

/-- LAUNCH_PACKET: a packet that is well formed becomes its queue's candidate (R396); one whose image cannot be placed in the
partition ends with STATUS 5. -/
def execLaunchPacket (q : Nat) (pkt : List Byte) (s : State) : Ans :=
  .next (
    let p := (s.queue q).part
    if !mayTake s q then s
    else if !(headerOk s p 1 pkt && launchBodyOk s p pkt) then refusePacket s q pkt
    else if !imageFits s p pkt (imageHead s p (lpImage pkt)) then putRec (taken s q) q { crec pkt 5 0 true with bufs := [] }
    else
      let s1 := taken s q
      s1.setQueue q { s1.queue q with stage := .candidate pkt s.cycle.toNat })

/-! ## The listed events (R394 step 5) -/

/-- The core at which a listed descriptor is defined; none where it is refused. -/
def listedCore (m : List (Nat × Nat)) (bs : List Byte) : Option (Nat × Nat) :=
  let g := field bs 16 4
  if 2 ≤ nameScope (field bs 0 4) then some ((m.headD (0, 0)).2, 0)
  else if nbit (field bs 4 4) 3 || 11 ≤ gidCtx g || !(m.any fun e => e.2 == gidCore g) then none
  else some (gidCore g, gidCtx g)

/-- The front end's request for a core to the home of a name on another device, which answers no context. -/
def askElsewhere (s : State) (c home : Nat) (r : Request) : State :=
  s.toDevice c (homeDev home) (.requestAnswer ((s.dev + 1) * 2 ^ 16 + c) 15 r)

/-- Defines the listed events in order: the state, the entries made, and whether one raised a cause. DESIGN CHOICE (log 32): a definition at a
home on another device goes there as a request, and whether it is refused there is a free pick. -/
def defineListed (p : Nat) (m : List (Nat × Nat)) : List (List Byte) → State → List EvKey → Bool × State × List EvKey
  | [], s, ks => (true, s, ks)
  | bs :: t, s, ks =>
    let n := field bs 0 4
    match listedCore m bs with
    | none => (false, s, ks)
    | some (c, x) =>
      let home := nameHome s c n
      if !nameValid s (some p) n then (false, s, ks)
      else if homeDev home ≠ s.dev then
        let r := (askElsewhere s c home (.evdef 0 bs 0)).used
        if (readDesc s c (gidOf s.dev c x) bs).isNone then (false, s, ks)
        else if s.pick % 2 = 1 then (false, r, ks) else defineListed p m t r (ks ++ [⟨home, n⟩])
      else
        let r := serveEvdef s c x 0 bs 0
        if r.1.trap.isSome then (false, r.2, ks) else defineListed p m t r.2 (ks ++ [evKey s c n])

/-! ## Starting (R394) -/

/-- The control context of a placed core, at a word address (R69). -/
def launchCtx (pkt : List Byte) (pc : Nat) (bsp : Bool) : Ctx :=
  let w := field pkt 72 4
  { Ctx.reset with
      live := true, pc := BitVec.ofNat 64 (pc / 4 * 4), priv := if lpFlag pkt 5 then .s else .u, cclass := BitVec.ofNat 4 (bits w 16 4),
      rescls := BitVec.ofNat 2 (bits w 20 2), asid := BitVec.ofNat 16 (bits w 0 16),
      ptroot := BitVec.ofNat 64 (field pkt 64 8) &&& 0x800FFFFFFFFFF000, wait := if bsp then .phase 0 else .none }

/-- What a launch gives every core: workgroup number in the model, base of its launch domains, map, packet, image header. -/
structure Start where
  part : Nat
  n : Nat
  base : Nat
  pkt : List Byte
  head : List Byte
  map : List (Nat × Nat)
  deriving DecidableEq, Repr

/-- Where an image core starts. -/
def startPc (a : Start) (image : Nat) : Nat := (imgSect a.head 0).2.1 + imgEntry a.head (tget 0 (imgCores a.head) image)

/-- The exchange plan of a bulk-synchronous launch (R199, R200). -/
def startPlan (s : State) (a : Start) : Option Exchange :=
  if lpBsp a.pkt then
    let plan := field a.pkt 32 8
    some ⟨plan, partKey s a.part, field (partBytes s a.part plan 2) 0 2, 0, lpPhase a.pkt, false, [], false, none⟩
  else none

/-- SPLIT = 1 and a half (R240, R406). -/
def halfOf (m : Word) (half : Nat) : Word := (m &&& ~~~0xC0) ||| BitVec.ofNat 64 (0x80 + 0x40 * half)

/-- The matrix configurations of a placed core: a pair's two contexts have a half each. -/
def startMcfg (pair : Bool) (w : Wide) : Wide :=
  let v := { w with gangE := 0, gangJ := 0 }
  if pair then { v with mcfg := halfOf w.mcfg 0, mcfg2 := halfOf w.mcfg 1 } else v

/-- One placed core takes its workgroup; its context is not live yet. Gang occurrences count from the placement (R242). -/
def placeCore (a : Start) (s : State) (e : Nat × Nat) : State :=
  let set := partSet s (some a.part)
  (scrubFor s e.2 a.part).updCore e.2 fun k =>
    let q := k.keepFlags true
    { q with ctxs := [], rr := 0, icache := [], wide := startMcfg (lpPair a.pkt) k.wide, haltPend := false,
             lmem := lmemOf a.head a.map e.2, lbase := BitVec.ofNat 13 a.base,
             sysdom := BitVec.ofNat 13 (match set with | some q => q.1 | none => 0), sysv := set.isSome, run := .running,
             part := some a.part, lastPart := some a.part, wg := some a.n, exch := startPlan s a, image := none, active := true }

/-- The control context of a placed core starts, its latch armed for the first phase occurrence (R199). -/
def startCore (a : Start) (s : State) (e : Nat × Nat) : State :=
  let s1 := s.updCore e.2 fun k =>
    { k.setCtx 0 (launchCtx a.pkt (startPc a e.1) (lpBsp a.pkt)) with endFlags := tdel k.endFlags 0 }
  if lpBsp a.pkt then armLatch s1 (ctxLatch s1 e.2 0) false 0 0 [syncWant 0 (evKey s1 e.2 (lpPhase a.pkt))] else s1

/-- A PAIR launch is parked on the cores of its partner: its control context has not begun (R406). DESIGN CHOICE (log 33): its record begins with
the mailboxes, TVEC, HTVEC, HDELEG and the wide side's registers as they stand in the core, and with no watchpoint; the spec gives a launch no values
of its own for them. -/
def parkCore (a : Start) (s : State) (e : Nat × Nat) : State :=
  let k := s.core e.2
  let m := { capture s e.2 false with
    seq := k.saveSeq, part := a.part, wg := a.n, ctxs := [(0, launchCtx a.pkt (startPc a e.1) (lpBsp a.pkt))], rr := 0,
    lmem := lmemOf a.head a.map e.2, lbase := BitVec.ofNat 13 a.base, wide := { k.wide with queue := [], gangE := 0, gangJ := 0 }, exch := startPlan s a,
    pair := true, banks := [], loc := [], locPoison := [], sidecar := [], tags := [], fifo := [], watches := [], reports := [],
    wpBase := List.replicate 4 0, wpCtl := List.replicate 4 0 }
  let s1 := match k.caddies.getLast? with
    | some b => writeImage s e.2 b (imageHeader s e.2 true (a.n % 65536) m.ctxs k.saveSeq s.time.toNat)
    | none => s
  let s2 := s1.updCore e.2 fun q =>
    { q with parked := some m, saveSeq := q.saveSeq + 1, icache := [], endFlags := tdel q.endFlags 0 }
  if lpBsp a.pkt then
    let l : LatchId := ⟨gidOf s.dev e.2 0, 16 * (a.n + 1)⟩
    let s3 := armLatch s2 l false 0 0 [syncWant 0 (evKey s2 e.2 (lpPhase a.pkt))]
    s3.setLatch l { s3.latch l with st := .dormant }
  else s2

/-- An enabled and empty pool; what it has served and its slots' generations count from bring-up (R225, R226). -/
def freshPool (q : Pool) : Pool := { q with en := true, cerr := false, tasks := [], takes := [] }

/-- Pools are enabled and empty at launch (R230): those of clusters in which no other workgroup runs. -/
def freshPools (s : State) (cs : List Nat) : State :=
  (cs.foldl (fun t c => addOnce t (clusterOf c)) []).foldl (fun t k =>
    if (clusterCores k).any fun c => (t.core c).wg.isSome then t
    else t.setCluster k { t.cluster k with pools := (t.cluster k).pools.map fun p => (p.1, freshPool p.2) }) s

/-- The lowest number from the model's counter on that no live workgroup of the partition has (R393). -/
def freshWg (s : State) (p : Nat) : Nat :=
  ((List.range 65536).find? fun i => !(s.wgs.any fun w => w.2.part == p && w.2.num == (s.nextWg + i) % 65536)).elim s.nextWg
    (s.nextWg + ·)

/-- The launch is over without a workgroup: its record, and its rows are no longer drained. -/
def refuseLaunch (s : State) (c : Cand) (status : Nat) : State :=
  let s1 := putRec s c.q { crec c.pkt status 0 true with bufs := [] }
  s1.setQueue c.q { s1.queue c.q with drained := [] }

/-- What the records of the launch hold. -/
def newWg (a : Start) (q : Nat) (mode : Replay) (log : List LogItem) : Wg :=
  { part := a.part, num := a.n % 65536, map := a.map, queue := q, pkt := a.pkt, ldomBase := a.base, preempt := lpPreempt a.pkt,
    repl := lpRepl a.pkt, pair := lpPair a.pkt, bsp := lpBsp a.pkt, image := lpImage a.pkt, mode := mode, log := log, ended := [],
    saved := false, moving := false, images := [], was := [] }

/-- Deletes entries as EVDEL does, for a core where the home is on another device. -/
def deleteEvents (c : Nat) (s : State) (ks : List EvKey) : State :=
  ks.foldl (fun t k => if homeDev k.home = t.dev then deleteEvent t k else askElsewhere t c k.home (.evdel 0 k.name)) s

/-- The descriptors that a packet lists. -/
def listedDescs (s : State) (a : Start) : List (List Byte) :=
  (List.range (lpNev a.pkt)).map fun i => partBytes s a.part (field a.pkt 48 8 + 80 * i) 80

/-- A recorded item as a replay on other cores meets it: IDs through the maps, launch domains and homes anew (R436). -/
def replayItem (s : State) (a : Start) (m : List (Nat × Nat)) (base : Nat) : LogItem → LogItem
  | .input g k v => .input (newGid s a m g) k v
  | .trap g c pc => .trap (newGid s a m g) c pc
  | .commit e =>
    let d := nameDom e.name
    let n := if base ≤ d ∧ d < base + 16 then ename (nameScope e.name) (d - base + a.base) (nameIndex e.name) else e.name
    if nameScope n ≤ 1 then .commit ⟨homeNum s.dev (gidCore (newGid s a m (gidOf s.dev (homeCore e.home) 0))), n⟩
    else .commit (evKey s (a.map.headD (0, 0)).2 n)
where
  /-- The ID of the image core's new place. -/
  newGid (s : State) (a : Start) (m : List (Nat × Nat)) (g : Gid) : Gid :=
    match m.find? fun e => e.2 == gidCore g with
    | some e => gidOf s.dev ((placed a.map e.1).getD (gidCore g)) (gidCtx g)
    | none => g

/-- The replay mode set up for a launch, and its log (R435, R475 code 5). -/
def launchMode (s : State) (a : Start) : Replay × List LogItem := match tfind s.replayNext a.part with
  | some (.replay, n) => match tfind s.replayLogs (a.part * 65536 + n) with
    | some (m, base, log) => (.replay, log.map (replayItem s a m base))
    | none => (.replay, [])
  | some (r, _) => (r, [])
  | none => (.off, [])

/-- The front end takes part in the first occurrence of a launch's phase event, through the agent of the packet's queue (R199). -/
def frontPhase (s : State) (q : Nat) (ev : EvKey) : State :=
  match s.home ev with
  | none => s
  | some h =>
    if h.occ ≠ 0 ∨ h.st ≠ .waiting ∨ h.front then s
    else
      let u := s.queue q
      let parts := h.desc.parts ++ [(queueLatch s q u.nextSub).gid]
      (s.setHome ev { h with front := true, desc := { h.desc with parts := parts } }).setQueue q
        { u with offers := u.offers ++ [(u.nextSub, ev.name, none)], nextSub := u.nextSub + 1 }

/-- Another device of the partition set refuses the launch's system domains: the members it has recorded differ from the packet's (R449).
DESIGN CHOICE (log 51): which it is, is free; the other device's records are not part of this machine. -/
def refusedElsewhere (s : State) (p : Nat) : Bool := match partOf s p with
  | some q => !q.peers.isEmpty && s.pick % 2 == 1
  | none => false

/-- Steps 3 to 6 of R394 on a map; `host` is the workgroup beside which a PAIR launch is parked. -/
def launchOn (s : State) (c : Cand) (m : List (Nat × Nat)) (host : Option Wg) : State :=
  let h := candHead s c
  let base := if lpSysv c.pkt then lpSysbase c.pkt else newBase s
  let a : Start := ⟨c.part, freshWg s c.part, base, c.pkt, h, m⟩
  let cs := m.map (·.2)
  let doms (t : State) : State := putDomains t s.draws c.part a.n base (lpSysv c.pkt) h m
  if !phaseOk (doms s) c.part c.pkt then refuseLaunch (countHost s 6) c 1
  else if lpSysv c.pkt && (!sysDomainOk s s.draws c.part base h m || refusedElsewhere s c.part) then refuseLaunch s.used c 2
  else
    let s0 := buffersBefore s cs c.pkt
    match relocate (loadSections s0 c.part (lpImage c.pkt) h) c.part (lpImage c.pkt) base h m with
    | none => refuseLaunch s0 c 3
    | some s1 =>
      let s2 := doms s1
      let s3 := if host.isSome then s2 else m.foldl (placeCore a) (freshPools s2 cs)
      let r := defineListed c.part m (listedDescs s3 a) s3 []
      if !r.1 then
        let t := deleteEvents (m.headD (0, 0)).2 r.2.1 r.2.2
        let t1 := { t with ldoms := t.ldoms.filter fun l => l.2.wg != a.n }
        let t2 := if host.isSome then t1 else cs.foldl (fun u n => u.updCore n fun k => { k with wg := none, exch := none }) t1
        refuseLaunch t2 c 4
      else
        let mode := launchMode r.2.1 a
        let t0 : State := { r.2.1 with wgs := tput r.2.1.wgs a.n (newWg a c.q mode.1 mode.2), nextWg := a.n + 1 }
        let t : State := { t0 with replayNext := tdel t0.replayNext c.part, draws := s.draws + 640 }
        let t1 := if host.isSome then m.foldl (parkCore a) t else m.foldl (startCore a) (cs.foldl refresh t)
        let t2 := if lpBsp c.pkt then frontPhase t1 c.q (evKey t1 (m.headD (0, 0)).2 (lpPhase c.pkt)) else t1
        t2.setQueue c.q { t2.queue c.q with stage := .idle, drained := [] }

/-- PLACEMENT (R397): the queue's candidate, if it is the one that is placed next. -/
def execPlacement (q : Nat) (s : State) : Ans :=
  .next (
    match placeNext s with
    | some (c, avail) =>
      if c.q ≠ q ∨ c.wg.isSome then s
      else match pairHost s c with
        | some (_, w) => launchOn s c w.map (some w)
        | none => launchOn s c (pickPlacement s (candHead s c) (lpExact c.pkt) avail) none
    | none => s)

/-! ## The end (R395) -/

/-- The entries of a workgroup's launch domains. -/
def wgEvents (s : State) (n : Nat) : List EvKey :=
  (s.homes.filter fun e => match tfind s.ldoms (nameDom e.1.name) with
    | some l => l.wg == n
    | none => false).map (·.1)

/-- An occurrence of one of them is being delivered. -/
def domainCommits (s : State) (n : Nat) : Bool := (wgEvents s n).any fun e => match s.home e with
  | some h => h.st == .commit
  | none => false

/-- A core is free again; a parked partner of what it ran takes it. Its subscriptions stay: R395 names no unbinding. -/
def freeCore (s : State) (c : Nat) : State :=
  let s1 := s.updCore c fun k => { k with wg := none, exch := none, image := none, haltPend := false }
  if (s1.core c).parked.isSome then swapIn s1 c else s1

/-- A workgroup's PINNED banks are nobody's. -/
def dropPins (n : Nat) (s : State) (c : Nat) : State := s.updCore c fun k => { k with pins := k.pins.filter fun e => e.2 != n }

/-- A launch over several devices still has a workgroup elsewhere when one ends here (R461). DESIGN CHOICE (log 33): whether it has, is free. -/
def keepsDomains (s : State) (w : Wg) : Bool := lpSysv w.pkt && s.pick % 2 == 0

/-- The launch domains of a number and the events defined in them go (R395). -/
def dropDomains (s : State) (n c : Nat) : State :=
  let t := deleteEvents c s (wgEvents s n)
  { t with ldoms := t.ldoms.filter fun l => l.2.wg != n }

/-- The launch domains that outlast their workgroup here and have no event being delivered (R461). -/
def endedDomains (s : State) : List Nat :=
  (s.ldoms.foldl (fun t l => addOnce t l.2.wg) []).filter fun n => (tfind s.wgs n).isNone && !domainCommits s n

/-- Takes a workgroup off: its events go, but for those of a launch over several devices that still has a workgroup elsewhere
(R461), and its cores are free. -/
def dropWg (s : State) (n : Nat) (w : Wg) : State :=
  let s1 := if keepsDomains s w then s.used else dropDomains s.used n (w.cores.headD 0)
  let s2 := if w.saved then w.cores.foldl (dropPins n) s1 else w.cores.foldl freeCore s1
  let logs := if w.mode = .record then tput s2.replayLogs (w.part * 65536 + w.num) (w.map, w.ldomBase, w.log) else s2.replayLogs
  { s2 with wgs := tdel s2.wgs n, replayLogs := logs,
            cores := s2.cores.map fun e => (e.1, { e.2 with tiles := e.2.tiles.filter fun h => h.wg != n + 1 }) }

/-- WORKGROUP_END: the buffers' WB, the record. -/
def endWg (s : State) (n : Nat) (w : Wg) : State :=
  let s1 := buffersAfter s w.cores ((w.pkt.drop 144).take (16 * pkCount w.pkt))
  putRec (dropWg s1 n w) w.queue { crec w.pkt 0 0 false with wg := w.num, bufs := [] }

/-- HALT is complete (R129). -/
def haltDone (s : State) (c : Nat) : Bool :=
  let k := s.core c
  k.run == .running && (k.ctx 0).live && decide ((k.ctx 0).wait = .halt) && !(k.ctxs.any fun e => e.1 != 0 && e.2.live) &&
    k.wide.queue.isEmpty

/-- A context of a workgroup, where its record lies. -/
def wgCtx (s : State) (n c x : Nat) : Ctx :=
  if (s.core c).wg = some n then (s.core c).ctx x
  else match imageAt s c (16 * (n + 1)) with
    | some h => tget Ctx.reset h.2.ctxs x
    | none => Ctx.reset

/-- Items of a replayed log that have not been met, be it by a helper that is not spawned yet (R439). -/
def logLeft (s : State) (n : Nat) (w : Wg) : Bool := w.log.any fun i => match i with
  | .commit _ => true
  | .input g _ _ => own g
  | .trap g _ _ => own g
where
  /-- A context or agent has items of its own that it has not met. -/
  own (g : Gid) : Bool := (if gidCtx g < 11 then (wgCtx s n (gidCore g) (gidCtx g)).logPos else 0) < (ctxItems g w.log).length

/-- The last core of a workgroup ends it, once no event of its domains is being delivered. -/
def lastCore (w : Wg) (c : Nat) : Bool := w.cores.all fun d => d == c || w.ended.contains d

/-- HALT_COMPLETE: the control context ends; the last one ends the workgroup. -/
def execHaltComplete (core : Nat) (s : State) : Ans :=
  .next (
    if !haltDone s core then s
    else
      let s1 := s.updCtx core 0 fun k => { k with live := false, wait := .none, staged := [] }
      match s.wgOf core with
      | none => s1
      | some (n, w) =>
        if lastCore w core then
          (if domainCommits s n && !keepsDomains s w then s
            else if w.mode = .replay ∧ logLeft s n w then s.diverge n w core 5 0 0 0
            else endWg s1 n { w with ended := w.ended ++ [core] })
        else { s1 with wgs := tput s1.wgs n { w with ended := w.ended ++ [core] } })

end Sys2Proof.Machine
end

