-- ==== Sys2Proof/Machine/Preempt.lean ====
section
/-!
DEFINITION. Pre-emption (17_launch_preemption_traps.md R400-R407, R410): context switches, restoration, the resident-pair swap,
re-placement, and uncorrectable errors.
-/

namespace Sys2Proof.Machine

open Sys2Proof

/-! ## Context switches (R404, R405) -/

/-- Writes every dirty sector of a core's L1 back; the copies stay. -/
def cleanL1 (s : State) (c : Nat) : State := (s.core c).l1.foldl (fun t e => writeBack t c e.1) s

/-- A core gives its workgroup up: no context of it is left there, and a STREAM bank is dropped with its tag (R238, R241). -/
def vacate (s : State) (c : Nat) : State :=
  (cleanL1 s c).updCore c fun k =>
    let q := k.keepFlags false
    { q with
             tags := k.tags.filter fun e => !(k.role e.1 == .operand && bankClass k e.1 == 2), ctxs := [], wg := none, exch := none, image := none, haltPend := false, reports := [], run := .running,
             wide := { k.wide with queue := [] } }

/-- The image that a workgroup takes off a core, with SEQ and HALTT of its halt, and where its banks lie. -/
def takeImage (s : State) (c : Nat) (all : Bool) : Image × State :=
  let k := s.core c
  let m := capture s c all
  spillImage s k { m with seq := k.image.elim m.seq (·.seq), haltt := k.image.elim m.haltt (·.haltt) }

/-- OPERAND banks that stay PINNED on a core that a workgroup leaves (R241). -/
def leavePins (n : Nat) (k : Core) : Core :=
  { k with pins := ((List.range 8).map (24 + ·)).foldl (fun t b =>
      if k.role b = .operand ∧ bankClass k b = 1 ∧ (tfind t b).isNone then tput t b n else t) k.pins }

/-- One core of a workgroup is saved off; `all` where PINNED banks are spilled too. -/
def saveOff (n : Nat) (all : Bool) (s : State) (e : Nat × Nat) : State :=
  let r := takeImage (detachSubs s e.2) e.2 all
  let s1 := if all then r.2 else r.2.updCore e.2 (leavePins n)
  let s2 := match tfind s1.wgs n with
    | some w => { s1 with wgs := tput s1.wgs n { w with images := tput w.images e.1 r.1 } }
    | none => s1
  vacate s2 e.2

/-- Saves a workgroup off its cores. -/
def saveWg (s : State) (n : Nat) (w : Wg) (all : Bool) : State :=
  w.map.foldl (saveOff n all) { s with wgs := tput s.wgs n { w with saved := true, images := [] } }

/-- One core of a saved workgroup is filled; one that the debugger had stopped is STOPPED again, and restored with that (R415, R426). -/
def fillCore (w : Wg) (s : State) (e : Nat × Nat) : State := match tfind w.images e.1 with
  | none => s
  | some m =>
    let r := fetchImage s m
    let t := fetchCopy (restoreImage r.2 e.2 r.1) e.2 m
    let u := t.updCore e.2 fun k => { resumeDbg k m .halted with image := none, haltPend := false, restSeq := m.seq, active := true }
    if m.dbg.isSome then u.traceIf e.2 0 9 w.num [BitVec.ofNat 64 m.seq] else u

/-! A parked partner (R406) goes to the save area with the workgroup beside which it is parked when another owner takes the cores, and is
parked there again when that workgroup comes back. -/

/-- Two workgroups are on the same cores. -/
def sameCores (v w : Wg) : Bool := v.map.length == w.map.length && v.cores.all w.cores.contains

/-- A workgroup whose images are those of a parked partner. -/
def savedParked (w : Wg) : Bool := w.saved && !w.images.isEmpty && w.images.all fun m => m.2.pair

/-- The saved workgroup beside which a saved partner stood on the same cores, and the partner of a workgroup. -/
def hostOf (s : State) (n : Nat) (w : Wg) : Option (Nat × Wg) :=
  if savedParked w then s.wgs.find? fun v => v.1 != n && v.2.pair && v.2.saved && !savedParked v.2 && v.2.part == w.part && sameCores v.2 w
  else none
def partnerOf (s : State) (n : Nat) (w : Wg) : Option (Nat × Wg) :=
  s.wgs.find? fun v => v.1 != n && v.2.pair && savedParked v.2 && v.2.part == w.part && sameCores v.2 w

/-- The parked partner of a core joins the saved workgroups, with a copy of its CADDY image (R404). -/
def takeParked (s : State) (c : Nat) : State :=
  let k := s.core c
  match k.parked with
  | none => s
  | some m => match tfind s.wgs m.wg, tfind s.parts m.part with
    | some w, some q =>
      let r := copyImage q k (m, s)
      let i := (w.map.find? fun e => e.2 == c).elim 0 (·.1)
      ({ r.2 with wgs := tput r.2.wgs m.wg { w with saved := true, images := tput w.images i r.1 } }).updCore c fun k =>
        { k with parked := none }
    | _, _ => s

/-- A saved partner is parked again on a core. -/
def parkAgain (w : Wg) (s : State) (e : Nat × Nat) : State := match tfind w.images e.1 with
  | none => s
  | some m => (fetchCopy s e.2 m).updCore e.2 fun k => { k with parked := some { m with places := [] } }

/-- Fills the images of a workgroup on the cores of a map; the cores stand halted until CORE_RESTORE. -/
def fillWg (s : State) (n : Nat) (m : List (Nat × Nat)) : State := match tfind s.wgs n with
  | none => s
  | some w =>
    let s1 := m.foldl (fillCore w) s
    let v := { w with map := m, saved := false, moving := false, images := [] }
    let s2 : State := { s1 with wgs := tput s1.wgs n v }
    match partnerOf s2 n v with
    | some (p, u) =>
      let s3 := u.map.foldl (parkAgain u) s2
      { s3 with wgs := tput s3.wgs p { u with saved := false, images := [] } }
    | none => s2

/-- Whether a core can be saved (R403). -/
def canSave (k : Core) : Bool := k.image.isSome || !k.caddies.isEmpty

/-- A switch is possible: the outgoing workgroup has halted, and the incoming one is saved on cores that it leaves or that are free; a saved
partner comes with the workgroup beside which it was parked. -/
def switchReady (s : State) (out inc : Option (Nat × Wg)) : Bool :=
  (match out with
    | some (_, w) => !w.saved && w.cores.all fun c => quiet s c && canSave (s.core c)
    | none => true) &&
  (match inc with
    | some (n, w) => w.saved && (hostOf s n w).isNone && w.cores.all fun c => vacant (s.core c) || (match out with
        | some (_, v) => v.cores.contains c
        | none => false)
    | none => out.isSome)

/-- CONTEXT_SWITCH (R404). Between owners every bank is spilled and the core is scrubbed (R241, R478). -/
def execContextSwitch (part wg inPart inWg : Nat) (s : State) : Ans :=
  .next (
    let out := wgNamed s part wg
    let inc := wgNamed s inPart inWg
    if !switchReady s out inc then s
    else
      let s1 := match out with
        | some (n, w) =>
          if part = inPart then saveWg s n w false else w.cores.foldl scrub (saveWg (w.cores.foldl takeParked s) n w true)
        | none => match inc with
          | some (_, w) => w.cores.foldl (fun t c => scrubFor t c inPart) s
          | none => s
      match inc with
      | some (n, w) => fillWg s1 n w.map
      | none => s1)

/-- Payloads and tiles that a router holds for what its core runs. -/
def holdsFor (s : State) (c : Nat) : Bool := (s.core c).held.any (fun h => landsNow s h.l) || (s.core c).tiles.any (tileNow (s.core c))

/-- After a switch, no context issues while an answer is owed to one of its core (R404). -/
def answersIn (k : Core) : Bool := k.image.isSome || !(k.ctxs.any fun e => owesAnswer e.2)

/-- CORE_RESTORE (R405): queued payloads land, and the contexts issue. -/
def execCoreRestore (core : Nat) (s : State) : Ans :=
  .next (
    if (s.core core).run ≠ .halted then s
    else
      let t := landHeld s core
      let k := t.core core
      if !answersIn k then t
      else
        (rejoinSubs (t.updCore core fun q => { q with run := .running, image := none, active := true }) core).traceIf core 0 9
          (k.wg.elim 0 (wgNumber s)) [BitVec.ofNat 64 (k.image.elim k.restSeq (·.seq))])

/-! ## The resident-pair swap (R406) -/

/-- A swap is possible: the running workgroup has halted, and its partner is parked on all its cores. -/
def swapReady (s : State) (w : Wg) : Bool := !w.saved && w.cores.all fun c => quiet s c && (s.core c).parked.isSome

/-- RESIDENT_PAIR_SWAP. -/
def execResidentPairSwap (part wg : Nat) (s : State) : Ans :=
  .next (match wgNamed s part wg with
    | some (_, w) => if swapReady s w then w.cores.foldl (fun t c => swapIn (detachSubs t c) c) s else s
    | none => s)

/-! ## Re-placement (R400) -/

/-- A context latch of a workgroup. -/
def ownLatch (s : State) (n : Nat) (l : LatchId) : Bool := gidDev l.gid == s.dev && isCtxLatch l && l.sub / 16 == n + 1

/-- The new ID of a participant. -/
def moveGid (s : State) (m : List (Nat × Nat)) (g : Gid) : Gid :=
  if gidDev g = s.dev then (match placed m (gidCore g) with
    | some c => gidOf s.dev c (gidCtx g)
    | none => g)
  else g

/-- An event moves with a workgroup: it lists a context of it, or lies in one of its domains. The events that the hardware fixes for a gang
and for a pool stay where they are (R190, R225). -/
def movesWith (s : State) (n : Nat) (m : List (Nat × Nat)) (e : EvKey × Home) : Bool :=
  !isGangName e.1.name && !isTakeName e.1.name &&
    (e.2.desc.parts.any (fun g => gidDev g == s.dev && gidCtx g < 11 && (placed m (gidCore g)).isSome) ||
      (match tfind s.ldoms (nameDom e.1.name) with
        | some l => l.wg == n && 4096 ≤ nameDom e.1.name
        | none => false))

/-- The context that a message is an answer to, or a request of: its core, and the asker (R401). -/
def askerOf : Instr → Option (Nat × Nat)
  | .loadDataReturn c x _ => some (c, x)
  | .instructionFetchFill c x _ => some (c, x)
  | .requestAnswer c x _ => some (c, x)
  | .amoAtHome c x _ => some (c, x)
  | .windowAccessAtTarget w => some (w.core, w.ctx)
  | .hostWindowCompletion c x _ => some (c, x)
  | .hostLoadTimeout c x => some (c, x)
  | .weltBind b => some (b.core, b.ctx)
  | .weltUnbind c x _ _ => some (c, x)
  | .cantleOperation c x _ _ _ => some (c, x)
  | _ => none

/-- The same message for a context that has moved to another core. -/
def askerAt (c : Nat) : Instr → Instr
  | .loadDataReturn _ x d => .loadDataReturn c x d
  | .instructionFetchFill _ x pa => .instructionFetchFill c x pa
  | .requestAnswer _ x r => .requestAnswer c x r
  | .amoAtHome _ x r => .amoAtHome c x r
  | .windowAccessAtTarget w => .windowAccessAtTarget { w with core := c }
  | .hostWindowCompletion _ x st => .hostWindowCompletion c x st
  | .hostLoadTimeout _ x => .hostLoadTimeout c x
  | .weltBind b => .weltBind { b with core := c }
  | .weltUnbind _ x rd h => .weltUnbind c x rd h
  | .cantleOperation _ x k t op => .cantleOperation c x k t op
  | i => i

/-- A message for a context of a workgroup goes to its new core. -/
def moveAsker (n : Nat) (m : List (Nat × Nat)) (i : Instr) : Instr := match askerOf i with
  | some (c, x) => if x / 16 = n + 1 then (match placed m c with
      | some d => askerAt d i
      | none => i) else i
  | none => i

/-- The contexts of a workgroup, with their cores: on the cores, or in the images. -/
def wgCtxs (s : State) (w : Wg) : List (Nat × Nat × Ctx) :=
  w.map.flatMap fun e =>
    (if w.saved then ((tfind w.images e.1).map (·.ctxs)).getD [] else (s.core e.2).ctxs).map fun x => (e.2, x.1, x.2)

/-- An answer to a context of a workgroup is still to come from another device or the host: it names the core. -/
def owedOutside (s : State) (n : Nat) (w : Wg) : Bool :=
  ((wgCtxs s w).any fun e => (owesAnswer e.2.2 || e.2.2.stale) &&
    !(s.agenda.any fun i => askerOf i == some (e.1, e.2.1 + 16 * (n + 1)))) ||
  s.latches.any fun l => ownLatch s n l.1 && (match l.2.st with
    | .committed ev => homeDev ev.home != s.dev
    | _ => false)

/-- A move must wait: what another device or the host still sends to an old core of the workgroup would be taken for another's, where a new
core was an old one. Else it is sent on (R400, log 35). -/
def moveBlocked (s : State) (n : Nat) (w : Wg) (there : List Nat) : Bool := there.any w.cores.contains && owedOutside s n w

/-- The new home of an event; one whose new home is on another device stays. -/
def movedKey (s : State) (m : List (Nat × Nat)) (ev : EvKey) : EvKey :=
  if nameScope ev.name ≤ 1 then (match placed m (homeCore ev.home) with
    | some c => ⟨homeNum s.dev c, ev.name⟩
    | none => ev)
  else
    let k := evKey s (m.headD (0, 0)).2 ev.name
    if homeDev k.home = s.dev then k else ev

/-- An entry goes back to WAITING without the workgroup's offers: claims are released, notices cancelled. One in COMMIT goes on. -/
def resetEntry (n : Nat) (s : State) (e : EvKey × Home) : State :=
  let h := e.2
  if h.st = .commit then s
  else
    let s1 := if isEnabled h then
        (releaseClaims s e.1 h).sendAll (h.offers.map fun q => .latchCancel q.latch e.1 q.arm) else s
    s1.setHome e.1 { h with
      st := .waiting, granted := [], late := h.late ++ lateClaim h, offers := h.offers.filter fun o => !ownLatch s n o.latch }

/-- The offers of a workgroup's waiting latches at the events that do not move with it, as event, latch and arm number. -/
def offersLeft (s : State) (n : Nat) (moved : List EvKey) : List (EvKey × LatchId × Nat) :=
  (s.latches.filter fun l => ownLatch s n l.1 && (match l.2.st with
      | .committed _ => false
      | _ => true)).flatMap fun l =>
    (l.2.offers.filter fun o => !moved.contains o.1).map fun o => (o.1, l.1, l.2.arm)

/-- The offer is withdrawn at its home: at once, or by a message where the home is another device's (R184). -/
def withdrawNow (s : State) (o : EvKey × LatchId × Nat) : State :=
  if homeDev o.1.home = s.dev then withdrawOne o.1 o.2.1 o.2.2 false s else s.send (.homeWithdrawal o.1 o.2.1 o.2.2 false)

/-- A message of the event protocol with its keys and its latches renamed; one that carries offers stays as it is. -/
def renameOne (f : EvKey → EvKey) (g : LatchId → LatchId) : Instr → Instr
  | .homeGrant e l a => .homeGrant (f e) (g l) a
  | .homeRefusal e l a => .homeRefusal (f e) (g l) a
  | .homeWoundRequest e l a => .homeWoundRequest (f e) (g l) a
  | .homeWithdrawal e l a c => .homeWithdrawal (f e) (g l) a c
  | .homeDeliveryConfirmed e l a => .homeDeliveryConfirmed (f e) (g l) a
  | .latchEnableNotice l e a st => .latchEnableNotice (g l) (f e) a st
  | .latchCancel l e a => .latchCancel (g l) (f e) a
  | .latchClaim l e a st => .latchClaim (g l) (f e) a st
  | .latchRelease l e a => .latchRelease (g l) (f e) a
  | .latchCommit l e a m =>
    .latchCommit (g l) (f e) a { m with gives := m.gives.map fun d => { d with taker := g d.taker, giver := g d.giver } }
  | .latchRefusal l e a w => .latchRefusal (g l) (f e) a w
  | .latchLastPayloadDelivered l e a => .latchLastPayloadDelivered (g l) (f e) a
  | .payloadLanding e l a d bs who => .payloadLanding (f e) (g l) a d bs who
  | .mailboxDeposit c b v e l a => .mailboxDeposit (if g l = l then c else gidCore (g l).gid) b v (f e) (g l) a
  | i => i

/-- The same of any message: offers that go to one home in one message may go to several. -/
def rename (f : EvKey → EvKey) (g : LatchId → LatchId) : Instr → List Instr
  | .homeOfferArrives home os => os.map fun o => .homeOfferArrives (f ⟨home, o.name⟩).home [{ o with latch := g o.latch }]
  | i => [renameOne f g i]

/-- What a message offers or refuses for a waiting latch of the moved workgroup goes: the offer is withdrawn. -/
def withdrawnMsg (s : State) (n : Nat) : Instr → Instr
  | .homeOfferArrives home os => .homeOfferArrives home (os.filter fun o => !ownLatch s n o.latch)
  | i => i
def refusesOwn (s : State) (n : Nat) : Instr → Bool
  | .latchRefusal l _ _ _ => ownLatch s n l
  | _ => false

/-- An offer with its latch renamed. -/
def renameOffer (g : LatchId → LatchId) (o : OfferMsg) : OfferMsg := { o with latch := g o.latch }

/-- An entry with its latches renamed. -/
def renameHome (g : LatchId → LatchId) (h : Home) : Home :=
  { h with offers := h.offers.map (renameOffer g), granted := h.granted.map g, late := h.late.map fun e => (g e.1, e.2),
           due := h.due.map fun e => (g e.1, e.2), reduce := h.reduce.map fun e => (g e.1, e.2) }

/-- A latch with its keys and latches renamed. -/
def renameLatch (f : EvKey → EvKey) (g : LatchId → LatchId) (m : Latch) : Latch :=
  { m with
      st := match m.st with
        | .claimed e st => .claimed (f e) st
        | .committed e => .committed (f e)
        | t => t
      offers := m.offers.map fun o => (f o.1, renameOffer g o.2), notices := m.notices.map fun o => (f o.1, o.2),
      wound := m.wound.map fun o => (f o.1, o.2) }

/-- What the routers hold for a workgroup goes to its new cores (R185, R403). -/
def moveHeld (s : State) (n : Nat) (m : List (Nat × Nat)) (f : EvKey → EvKey) (g : LatchId → LatchId) : State :=
  let held := (s.cores.flatMap (·.2.held)).filter fun h => ownLatch s n h.l
  let tiles := (s.cores.flatMap (·.2.tiles)).filter fun h => h.wg == n + 1
  let s1 : State := { s with cores := s.cores.map fun e =>
    (e.1, { e.2 with held := (e.2.held.filter fun h => !ownLatch s n h.l).map fun h => { h with ev := f h.ev }
                     tiles := e.2.tiles.filter fun h => h.wg != n + 1 }) }
  let s2 := held.foldl (fun t h => t.updCore (gidCore (g h.l).gid) fun k => { k with held := k.held ++ [{ h with ev := f h.ev, l := g h.l }] }) s1
  tiles.foldl (fun t h =>
    let c := (placed m h.binder).getD h.binder
    t.updCore c fun k => { k with tiles := k.tiles ++ [{ h with binder := c }] }) s2

/-- Replaces keys. -/
def newKey (ks : List (EvKey × EvKey)) (e : EvKey) : EvKey := (kfind ks e).getD e

/-- A cluster's agents under new keys, and kickers under new IDs. -/
def rekeyCluster (s : State) (m : List (Nat × Nat)) (ks : List (EvKey × EvKey)) (k : Cluster) : Cluster :=
  let f := newKey ks
  let cmd (c : CopyCmd) : CopyCmd := { c with kicker := moveGid s m c.kicker }
  { k with
      copy := { k.copy with
        queue := k.copy.queue.map cmd, run := k.copy.run.map fun r => { r with cmd := cmd r.cmd },
        ended := k.copy.ended.map fun e => (f e.1, e.2), refused := k.copy.refused.map f }
      trees := k.trees.map fun t => (t.1, { t.2 with bev := f t.2.bev })
      pools := k.pools.map fun p => (p.1, { p.2 with tasks := p.2.tasks.map fun t => (t.1, { t.2 with cevent := f t.2.cevent }) }) }

/-- Events move with a workgroup (R400): `m` maps old cores to new ones. Its waiting offers are withdrawn everywhere; a latch of it that has
committed moves with it, and so does what is on its way to it (DEDUCED, log 35: R400 speaks of events in WAITING alone). -/
def moveEvents (s : State) (n : Nat) (m : List (Nat × Nat)) : State :=
  let old := s.homes.filter (movesWith s n m)
  let s0 := (offersLeft s n (old.map (·.1))).foldl withdrawNow s
  let s1 := (s0.homes.filter (movesWith s0 n m)).foldl (resetEntry n) s0
  let s2 : State := { s1 with ldoms := s1.ldoms.map fun l =>
    (l.1, if l.2.wg = n then { l.2 with members := (l.2.members.map (moveGid s m)).foldl nadd [] } else l.2) }
  let ks := old.map fun e => (e.1, movedKey s2 m e.1)
  let f := newKey ks
  let g (l : LatchId) : LatchId := if ownLatch s n l then { l with gid := moveGid s m l.gid } else l
  let desc (d : EventDesc) : EventDesc := { d with parts := d.parts.map (moveGid s m), root := moveGid s m d.root }
  let homes := s2.homes.map fun e => match kfind ks e.1 with
    | some k => (k, renameHome g { e.2 with desc := desc e.2.desc })
    | none => (e.1, renameHome g e.2)
  let stays (l : LatchId × Latch) : Bool := !ownLatch s n l.1 || (match l.2.st with
    | .committed _ => true
    | _ => false)
  let latches := (s2.latches.filter stays).map fun l => (g l.1, renameLatch f g l.2)
  let agenda := ((s2.agenda.map (withdrawnMsg s n)).filter fun i => !refusesOwn s n i).flatMap (rename f g)
  let item (i : LogItem) : LogItem := match i with
    | .commit e => .commit (f e)
    | i => i
  let s3 : State := { s2 with
    homes := homes, latches := latches, agenda := agenda, clusters := s2.clusters.map fun k => (k.1, rekeyCluster s m ks k.2)
    wgs := s2.wgs.map fun w => (w.1, { w.2 with log := w.2.log.map item }) }
  moveHeld s3 n m f g

/-- A latch of a context of a workgroup has committed, and its occurrence has not returned. -/
def committedAt (s : State) (n c x : Nat) : Bool := match (s.latch ⟨gidOf s.dev c x, 16 * (n + 1)⟩).st with
  | .committed _ => true
  | _ => false

/-- A context that waited in SELECT, PHASE or GANG executes it again (R184), unless its latch has committed; one that has not begun, because
the first phase occurrence is still to come, waits for that (R199). -/
def againCtx (past committed : Bool) (x : Ctx) : Ctx :=
  if committed then x
  else match x.wait with
    | .select _ _ _ => { x with wait := .none, relDone := false }
    | .phase _ => if past then { x with wait := .none, relDone := false } else x
    | .gang => { x with wait := .none, relDone := false }
    | _ => x

/-- The image of a core that is left, ready for another core. -/
def againImage (s : State) (n c : Nat) (m : Image) : Image :=
  { m with ctxs := m.ctxs.map fun e => (e.1, againCtx (m.exch.elim true (·.past)) (committedAt s n c e.1) e.2) }

/-- A context that waits for the first phase occurrence arms its event again on its new core (R199). -/
def armFirst (n : Nat) (s : State) (c : Nat) : State :=
  let l : LatchId := ⟨gidOf s.dev c 0, 16 * (n + 1)⟩
  match (s.core c).exch, ((s.core c).ctx 0).wait with
  | some e, .phase _ =>
    if e.past ∨ (s.latch l).st ≠ .idle then s
    else
      let t := armLatch s l false 0 0 [syncWant 0 (evKey s c e.phase)]
      t.setLatch l { t.latch l with st := .dormant }
  | _, _ => s

/-- The occurrences that have ended at latches of a saved workgroup while it was stopped have their results (R178, R182). -/
def settleLatches (s : State) (n : Nat) : State :=
  (s.latches.filter fun l => ownLatch s n l.1 && l.2.doneStopped).foldl (fun t l => match l.2.st with
    | .committed ev => onHolder (gidCore l.1.gid) (gidCtx l.1.gid + 16 * (n + 1)) (fun u => returnOccurrence u l.1 ev) t
    | _ => t) s

/-- The workgroup leaves its cores with its PINNED banks; a parked partner takes each core, and halts where it is to move as well. -/
def leaveCores (s : State) (n : Nat) (w : Wg) : State :=
  w.cores.foldl (fun t c => if (t.core c).parked.isSome then
      let u := swapIn t c
      if ((u.wgOf c).any fun e => e.2.moving) then haltCores u [c] else u
    else t) (saveWg s n w true)

/-- A saved workgroup is ready to go to other cores: its results are in, its other waits execute again, its PINNED banks are spilled and
its subscriptions unbound. -/
def readyToMove (s : State) (n : Nat) (w : Wg) : State :=
  let s1 := unbindWg (w.cores.foldl (fun t c => unpin (· == n) c t) (settleLatches s n)) n
  match tfind s1.wgs n with
  | some v => { s1 with wgs := tput s1.wgs n { v with images := v.images.map fun e => (e.1, againImage s1 n ((placed v.map e.1).getD 0) e.2) } }
  | none => s1

/-- Where a core's workgroup has gone since: its old cores, with the new one of each. -/
def wasAfter (m : List (Nat × Nat)) (was : List (Nat × Nat)) : List (Nat × Nat) :=
  (was.map fun e => (e.1, (placed m e.2).getD e.2)) ++ m.filter fun e => !(was.any fun q => q.1 == e.1)

/-- REPLACEMENT (R400): onto the cores that the map gives each old core; an empty map sends the workgroup back to its queue
(R398). Only a launch with REPL is re-placed (R399). DESIGN CHOICE (log 32): where the relocation table, read again, is refused, nothing is
rewritten and the re-placement goes on; R95 does not say. -/
def execReplacement (part wg : Nat) (cores : List (Nat × Nat)) (s : State) : Ans :=
  .next (match wgNamed s part wg with
    | none => s
    | some (n, w) =>
      let now := w.map.filterMap fun e => (placed cores e.2).map fun c => (e.1, c)
      if !w.repl || !w.saved && !(w.cores.all fun c => quiet s c) || moveBlocked s n w (now.map (·.2)) then s
      else
        let s1 := if w.saved then s else leaveCores s n w
        if now.length < w.map.length then
          match tfind s1.wgs n with
          | some v => { s1 with wgs := tput s1.wgs n { v with moving := true } }
          | none => s1
        else
          let s2 := moveEvents (readyToMove s1 n w) n cores
          let s3 := (relocate s2 part w.image w.ldomBase (imageHead s2 part w.image) now).getD s2
          let s4 : State := { s3 with agenda := s3.agenda.map (moveAsker n cores) }
          let s5 := now.foldl (fun t e => scrubFor t e.2 part) s4
          let s6 : State := { s5 with wgs := s5.wgs.map fun v => (v.1, if v.1 = n then { v.2 with was := wasAfter cores v.2.was } else v.2) }
          (now.map (·.2)).foldl (armFirst n) (emptyIcaches (fillWg s6 n now) (now.map (·.2))))

/-- What another device or the host sends to a core that a workgroup has left goes to the core to which it has gone (R400). -/
def sentOn (s : State) (i : Instr) : Instr :=
  let there (n c : Nat) : Nat := match tfind s.wgs n with
    | some w => if w.cores.contains c then c else (placed w.was c).getD c
    | none => c
  let g (l : LatchId) : LatchId :=
    if gidDev l.gid = s.dev ∧ isCtxLatch l ∧ 16 ≤ l.sub then { l with gid := gidOf s.dev (there (l.sub / 16 - 1) (gidCore l.gid)) (gidCtx l.gid) } else l
  let j := renameOne id g i
  match askerOf j with
  | some (c, x) => if c < 576 ∧ 16 ≤ x then askerAt (there (x / 16 - 1) c) j else j
  | none => j

/-! ## Uncorrectable errors (R410, R287) -/

/-- The error's sector is poisoned (R287): in a local bank, a CACHE bank's being a sector of the L1, or at the home. An error in the
state of a copy engine's thread ends its command as an abort does (R329). -/
def poisonedBy (s : State) (core : Nat) (agent : Gid) (reason a : Nat) : State :=
  let k := clusterOf (gidCore agent)
  match reason with
  | 1 =>
    let lo := a % 2 ^ 21
    if (s.core core).role (lo / 65536) = .cache then
      s.updCore core fun k => { k with l1 := k.l1.map fun e => if liesAt lo e then (e.1, { e.2 with pois := true, hurt := true }) else e }
    else s.updCore core fun k => { k with locPoison := nadd k.locPoison (lo / 256) }
  | 2 => { s with memPoison := nadd s.memPoison (a / 256) }
  | 3 => { s with memPoison := nadd s.memPoison (a / 256) }
  | 4 =>
    let g := s.cluster k
    if gidCtx agent = 11 then
      s.setCluster k { g with copy := { g.copy with run := g.copy.run.map fun r => { r with abort := true } } }
    else s
  | _ => s

/-- A context is live where its records are: on its core or in an image (R410). -/
def liveAt (s : State) (core ctx : Nat) : Bool :=
  (isHere s core ctx || (imageAt s core ctx).isSome) && ((lent s core ctx).ctx core (ctx % 16)).live

/-- Where an uncorrectable error is reported: at the context that armed the engine's kick, if it is live; else at the control context of
the core through whose router the engine is reached; else at that of the core that read the sector (R410). -/
def errorTaker (s : State) (core ctx : Nat) (agent : Gid) : Nat × Nat :=
  if liveAt s core ctx then (core, ctx)
  else if agent ≠ 0 ∧ liveAt s (gidCore agent) 0 then (gidCore agent, 0)
  else (core, 0)

/-- UNCORRECTABLE: the sector is poisoned, and the cause waits for the context that it is reported to, in its image where its core is
stopped. -/
def execUncorrectable (core ctx : Nat) (agent : Gid) (access : Access) (reason : Nat) (addr : Word) (s : State) : Ans :=
  .next (
    let a := addr.toNat / 256 * 256
    let cz : Cause :=
      { cause 0x20 (BitVec.ofNat 64 a) with isAsync := true, agent := agent, access := access, reason := reason }
    let d := errorTaker s core ctx agent
    onHolder d.1 d.2 (fun t => t.updCtx d.1 (d.2 % 16) fun k => { k with pend := k.pend ++ [cz] })
      (poisonedBy s core agent reason a))

end Sys2Proof.Machine
end

