-- ==== Sys2Proof/Machine/Debug.lean ====
section
/-!
DEFINITION. The debug block (18_debug_trace_replay.md R412-R418): stops, resumption, steps, and access to the state of a
stopped core.
-/

namespace Sys2Proof.Machine

open Sys2Proof

/-! ## DBGSTAT and DBGCTL (R413, R414) -/

/-- STATE: 0 RUNNING, 1 STOPPING, 2 STOPPED, 3 STEPPING. -/
def dbgState (k : Core) : Nat := match k.run with
  | .stopping _ _ _ => 1
  | .stopped => 2
  | .stepping _ _ => 3
  | _ => 0

def dbgStat (k : Core) : Word :=
  BitVec.ofNat 64 (k.dbg.whyctx * 2 ^ 12 + k.dbg.wp * 2 ^ 10 + (if k.dbg.pois then 2 ^ 9 else 0) + (if k.dbg.err then 2 ^ 8 else 0) +
    k.dbg.why * 16 + dbgState k)

/-- ERR is set: a request or an access was refused. -/
def dbgErr (s : State) (c : Nat) : State := s.updCore c fun k => { k with dbg := { k.dbg with err := true } }

def updDbg (s : State) (c : Nat) (f : Dbg → Dbg) : State := s.updCore c fun k => { k with dbg := f k.dbg }

/-! ## Stops (R415, R416) -/

/-- A request to stop: in RUNNING or STEPPING; a core that a pre-emption halts reads as RUNNING. -/
def haltReq (s : State) (c : Nat) : State := match (s.core c).run with
  | .stopping _ _ _ => dbgErr s c
  | .stopped => dbgErr s c
  | _ => s.updCore c fun k => k.stop 1 0 0

/-- A core is STOPPED with its reason; a STOP record. -/
def stopAt (s : State) (c why whyctx wp : Nat) : State :=
  let s1 := (haltContexts s c).updCore c fun k =>
    { k with run := .stopped, dbg := { k.dbg with why := why, whyctx := whyctx, wp := wp, time := s.time } }
  s1.traceIf c 0 6 why [(s1.ctx c 0).pc]

/-- A pre-emption that came too saves the stopped core as it stands (R415). -/
def stopDone (s : State) (c why whyctx wp : Nat) : State :=
  let t := stopAt s c why whyctx wp
  if (t.core c).haltPend then saveStopped t c else t

/-- STOP_COMPLETE: the latches are DORMANT, the work in flight is resolved and the requests are answered. -/
def execStopComplete (core : Nat) (s : State) : Ans :=
  .next (match (s.core core).run with
    | .stopping why whyctx wp => if stopsNow s core then stopDone s core why whyctx wp else s
    | _ => s)

def execDbgHaltreq (core : Nat) (s : State) : Ans := .next (haltReq s core)

/-- RESUME: in STOPPED; queued payloads land, branches of pipelines rejoin and the contexts issue. A core that a pre-emption has saved stays
halted for it. -/
def dbgResume (s : State) (c : Nat) : State :=
  if (s.core c).run = .stopped then
    (if (s.core c).haltPend then s.updCore c fun k => { k with run := if k.image.isSome then .halted else .halting, haltPend := false }
      else rejoinSubs (landHeld (s.updCore c fun k => { k with run := .running, active := true }) c) c).traceIf c 0 7 0 [(s.ctx c 0).pc]
  else dbgErr s c

def execDbgResume (core : Nat) (s : State) : Ans := .next (dbgResume s core)

/-- STEPCTX. -/
def stepCtx (k : Core) : Nat := bits k.dbg.ctl.toNat 4 4

/-- STEP: in STOPPED, with STEPCTX live. -/
def dbgStep (s : State) (c : Nat) : State :=
  let k := s.core c
  if k.run = .stopped ∧ (k.ctx (stepCtx k)).live then
    landHeld (s.updCore c fun q => { q with run := .stepping (stepCtx k) false, stepWide := false, image := none, active := true }) c
  else dbgErr s c

def execDbgStep (core : Nat) (s : State) : Ans := .next (dbgStep s core)

/-- Waits that end a step as a stop (R417): an instruction that waits for another agent. -/
def stepWaits : Wait → Bool
  | .select _ _ _ => true
  | .phase _ => true
  | .gang => true
  | .mbw _ _ => true
  | .mbr _ _ => true
  | .rand _ => true
  | .halt => true
  | _ => false

/-- Whether a step is over: its instruction has completed or trapped, or it waits. -/
def stepOver (k : Core) : Bool := match k.run with
  | .stepping x issued =>
    stepWaits (k.ctx x).wait || !(k.ctx x).live ||
      (issued && decide ((k.ctx x).wait = .none) && (k.ctx x).recd.isNone && (!k.stepWide || k.wide.queue.isEmpty))
  | _ => false

/-- STEP_COMPLETE (R417): STOPPED with WHY 3; an instruction that waits ends the step as a stop with WHY 1. -/
def execStepComplete (core : Nat) (s : State) : Ans :=
  .next (
    let k := s.core core
    if !stepOver k then s
    else match k.run with
      | .stepping x _ =>
        if stepWaits (k.ctx x).wait then s.updCore core fun q => { q with run := .stopping 1 0 0 } else stopDone s core 3 x 0
      | _ => s)

/-! ## State access (R418) -/

/-- DBGSEL's fields. -/
def selCtx (v : Word) : Nat := bits v.toNat 0 4
def selClass (v : Word) : Nat := bits v.toNat 4 4
def selIndex (v : Word) : Nat := bits v.toNat 8 24

/-- The access is inside the table. -/
def selOk (v : Word) : Bool :=
  let i := selIndex v
  match selClass v with
  | 0 => selCtx v < 11 && i < 32
  | 1 => selCtx v < 11 && i < 4096
  | 2 => selCtx v < 11 && i == 0
  | 3 => i < 16
  | 4 => i < 16
  | 5 => i < 512
  | 6 => i < 8
  | 7 => i < 262144
  | _ => false

/-- A local doubleword in any bank role: a CACHE bank holds the bytes of the L1's sectors (R418, log 58). -/
def dbgLocal (s : State) (c lo : Nat) : List Byte := match bankSector (s.core c) lo with
  | some e => (e.2.bytes.drop (lo % 256)).take 8
  | none => locRead s c lo 8

/-- Writes one, poison staying as it was. DESIGN CHOICE (log 58): the sector's dirty bytes stay those that were stored to. -/
def dbgLocalWrite (s : State) (c lo : Nat) (bs : List Byte) : State := s.updCore c fun k => match bankSector k lo with
  | some e => { k with l1 := tput k.l1 e.1 { e.2 with bytes := e.2.bytes.take (lo % 256) ++ bs ++ e.2.bytes.drop (lo % 256 + 8) } }
  | none => { k with loc := memWrite k.loc lo bs }

/-- The item that DBGSEL chooses. -/
def dbgItem (s : State) (c : Nat) (v : Word) : Word :=
  let k := s.core c
  let x := selCtx v
  let i := selIndex v
  match selClass v with
  | 0 => if (k.ctx x).live then xread (k.ctx x) (BitVec.ofNat 5 i) else 0
  | 1 => if (k.ctx x).live then csrRead s c x i else 0
  | 2 => if (k.ctx x).live then (k.ctx x).pc else 0
  | 3 => if i < 8 then k.wide.ptr.getD i 0 else (k.wide.origin.getD (i - 8) 0).setWidth 64
  | 4 => (k.wide.fmt.getD i 0).setWidth 64
  | 5 => BitVec.ofNat 64 ((k.wide.acc.lanes.getD (2 * i) 0).toNat + 2 ^ 32 * (k.wide.acc.lanes.getD (2 * i + 1) 0).toNat)
  | 6 => mbValue k i
  | _ => wordOf (dbgLocal s c (8 * i))

/-- A class 7 read meets poison. -/
def selPoison (k : Core) (v : Word) : Bool := selClass v == 7 && (match bankSector k (8 * selIndex v) with
  | some e => e.2.pois
  | none => k.locPoison.contains (8 * selIndex v / 256))

/-- A read of DBGDATA: the value and the state after it. -/
def dbgData (s : State) (c : Nat) : Word × State :=
  let k := s.core c
  if k.run ≠ .stopped ∨ !selOk k.dbg.sel then (0, dbgErr s c)
  else
    (dbgItem s c k.dbg.sel, if selPoison k k.dbg.sel then updDbg s c fun d => { d with pois := true } else s)

def execDbgdataRead (core : Nat) (s : State) : Ans :=
  .next (let r := dbgData s core; r.2.emit (.debug core 0x20 r.1))

/-- The shape of ACC as a debugger writes it: a reserved value keeps the field (R24, R28). -/
def accCfgWrite (acc : Acc) (v : Word) : Acc :=
  let n := bits v.toNat 0 5
  { acc with rows := if 1 ≤ n ∧ n ≤ 16 then n else acc.rows, int := v.getLsbD 8 }

/-- A CSR written by the debugger: R24's rules, and no regard to R23's Access column; STATUS.CUR stays, since only a trap, its return and
the creation change the level (R16). DEDUCED (log 53): the fields of a CSR that R23 gives as RO are written whatever the column of their
own table says, and CYCLE and TIME change for the core alone; the roles stay, for they change in three ways only (R37). A CSR that is
computed has nothing to write. -/
def dbgCsr (s : State) (c x a : Nat) (v : Word) : State :=
  let k := s.core c
  if a = 0x200 then s.setCore c { k with cycleAdd := v - s.cycle }
  else if a = 0x201 then s.setCore c { k with timeAdd := v - s.time }
  else if a = 0x211 then
    s.setCore c { k with lmem := v.extractLsb' 48 16, lbase := v.extractLsb' 35 13, sysdom := v.extractLsb' 22 13, sysv := v.getLsbD 21 }
  else if a = 0x212 then s.updCtx c x fun q => { q with evsel := v.setWidth 4 }
  else if a = 0x220 then s.setCore c { k with mbFull := v.setWidth 8 }
  else if a = 0x230 then s.setCore c { k with wide := { k.wide with acc := accCfgWrite k.wide.acc v } }
  else if 0x240 ≤ a ∧ a ≤ 0x24F then
    (if a - 0x240 < k.wide.acc.rows then
      s.setCore c { k with wide := { k.wide with acc := { k.wide.acc with
        st := lset k.wide.acc.st (a - 0x240) (v.setWidth 32 &&& 0xFFFF003F) } } }
    else s)
  else if a = 0x250 ∨ a = 0x251 then s
  else if a = 0x640 then s.updCtx c x fun q => { q with faultcap := v &&& ~~~0x1F00 }
  else if a = 0xA40 then s.updCtx c x fun q => { q with hfaultcap := v &&& ~~~0x1F00 }
  else csrWrite s c x a v

/-- A write of DBGDATA. DESIGN CHOICE (log 53): an item of a context that is not LIVE, which reads as zero, is not written. -/
def dbgDataWrite (s : State) (c : Nat) (v : Word) : State :=
  let k := s.core c
  let sel := k.dbg.sel
  let x := selCtx sel
  let i := selIndex sel
  if k.run ≠ .stopped ∨ !selOk sel then dbgErr s c
  else match selClass sel with
    | 0 => if (k.ctx x).live then s.updCtx c x fun q => xwrite q (BitVec.ofNat 5 i) v else s
    | 1 => if (k.ctx x).live then dbgCsr s c x i v else s
    | 2 =>
      if bits v.toNat 0 2 ≠ 0 then dbgErr s c
      else if (k.ctx x).live then s.updCtx c x fun q => { q with pc := v }
      else s
    | 3 =>
      s.setCore c { k with wide := if i < 8 then (if pMode v = 3 then k.wide else { k.wide with ptr := lset k.wide.ptr i v })
        else { k.wide with origin := lset k.wide.origin (i - 8) (v.setWidth 21) } }
    | 4 =>
      if 4 ≤ i ∧ fmtValid (v.setWidth 32) then s.setCore c { k with wide := { k.wide with fmt := lset k.wide.fmt i (v.setWidth 32) } }
      else s
    | 5 =>
      let ls := lset (lset k.wide.acc.lanes (2 * i) (v.setWidth 32)) (2 * i + 1) ((v >>> 32).setWidth 32)
      s.setCore c { k with wide := { k.wide with acc := { k.wide.acc with lanes := ls } } }
    | 6 => s.setCore c { k with mb := if h : i < 8 then k.mb.set i v else k.mb }
    | _ => dbgLocalWrite s c (8 * i) (bytesOfNat 8 v.toNat)

def execDbgdataWrite (core : Nat) (v : Word) (s : State) : Ans := .next (dbgDataWrite s core v)

/-- DBGSTAT_READ: the read clears POIS and ERR. -/
def dbgStatTake (s : State) (c : Nat) : Word × State :=
  (dbgStat (s.core c), updDbg s c fun d => { d with pois := false, err := false })

def execDbgstatRead (core : Nat) (s : State) : Ans :=
  .next (let r := dbgStatTake s core; r.2.emit (.debug core 8 r.1))

/-! ## Plain registers (R412, R427, R434) -/

/-- A multiple of a period beyond the present cycle. -/
def nextPeriod (s : State) (n : Nat) : Nat := (s.cycle.toNat / 2 ^ n + 1) * 2 ^ n

def traceSper (v : Word) : Nat := bits v.toNat 16 5
def traceCper (v : Word) : Nat := bits v.toNat 28 4

/-- TRCTL after a write (R24, R427). -/
def trctlWrite (old v : Word) : Word :=
  let sp := if traceSper v = 0 ∨ (6 ≤ traceSper v ∧ traceSper v ≤ 30) then traceSper v else traceSper old
  (v &&& 0xF0000FFE) ||| BitVec.ofNat 64 (sp * 2 ^ 16)

/-- DBGCTL's plain fields after a write: STEPCTX above 10 names no context and stays as written. -/
def dbgctlWrite (v : Word) : Word := v &&& 0x3F0

/-- A write of DBGCTL's plain fields, DBGSEL, TRCTL or a counter. -/
def debugWrite (s : State) (c off : Nat) (v : Word) : State :=
  if off = 0 then updDbg s c fun d => { d with ctl := dbgctlWrite v }
  else if off = 0x18 then updDbg s c fun d => { d with sel := v &&& 0xFFFFFFFF }
  else if off = 0x28 then
    updDbg s c fun d =>
      let t := trctlWrite d.trctl v
      { d with trctl := t, sampleAt := nextPeriod s (traceSper t), countAt := nextPeriod s (16 + traceCper t) }
  else if 0x40 ≤ off ∧ off ≤ 0x68 ∧ off % 8 = 0 then
    (if (s.core c).run = .stopped then updDbg s c fun d => { d with counts := lset d.counts ((off - 0x40) / 8) v } else s)
  else s

/-- REGISTER_WRITE (R24): a register without a behaviour of its own. -/
def execRegisterWrite (r : PlainReg) (v : Word) (s : State) : Ans :=
  .next (match r with
    | .queue q off => queueWrite s q off v
    | .debug core off => debugWrite s core off v
    | .host _ => s)

/-- A read of the debug block by offset. -/
def debugRead (s : State) (c off : Nat) : Word × State :=
  let d := (s.core c).dbg
  if off = 0 then (d.ctl, s)
  else if off = 8 then dbgStatTake s c
  else if off = 0x10 then (d.time, s)
  else if off = 0x18 then (d.sel, s)
  else if off = 0x20 then dbgData s c
  else if off = 0x28 then (d.trctl, s)
  else if 0x40 ≤ off ∧ off ≤ 0x68 then (d.counts.getD ((off - 0x40) / 8) 0, s)
  else (0, s)

/-- A write of the debug block by offset: DBGCTL's plain fields first, then the actions it starts. DESIGN CHOICE (log 36): of several W1
bits in one write HALTREQ acts first, then RESUME, then STEP, each on the state that the one before has left. -/
def debugStore (s : State) (c off : Nat) (v : Word) : State :=
  if off = 0 then
    let s1 := debugWrite s c 0 v
    let s2 := if v.getLsbD 0 then haltReq s1 c else s1
    let s3 := if v.getLsbD 1 then dbgResume s2 c else s2
    if v.getLsbD 2 then dbgStep s3 c else s3
  else if off = 0x20 then dbgDataWrite s c v
  else debugWrite s c off v

end Sys2Proof.Machine
end

