-- ==== Sys2Proof/Machine/Fabric.lean ====
section
/-!
DEFINITION. Trowen ports and the timebase (20_dies_devices_links.md R443-R454), and which messages go to another device.
-/

namespace Sys2Proof.Machine

open Sys2Proof

/-- TWPORTn (R445). -/
def portWord (p : Port) : Word :=
  BitVec.ofNat 64 (p.retries % 2 ^ 32 * 2 ^ 32 + p.peer % 4096 * 2 ^ 17 + p.peerPort % 32 * 2 ^ 12 + p.lanes % 16 * 2 ^ 8 + p.state)

/-- The timebase is aligned: the device is the reference, or has a route to it (R453). -/
def aligned (s : State) : Bool := s.dev == Config.refDevice || canLeave s 0 Config.refDevice || canLeave s 1 Config.refDevice

/-- The routes whose last usable port a change took away are reported, and a timebase that has lost its reference (R448, R453, R484). -/
def reportLost (before s : State) : State :=
  let lost := before.dies.flatMap fun d => (d.2.routes.map (·.1)).filter fun dev => canLeave before d.1 dev && !canLeave s d.1 dev
  let t := lost.foldl (fun t dev => t.emit (.routeLost dev)) s
  if aligned before && !aligned s then t.emit .runsFree else t

/-- TIMEBASE_ALIGNMENT (R453): one cycle of the timebase is to add 0, where it is ahead, or 2 in place of 1. The reference does not correct,
nor a device without a route to it. -/
def execTimebaseAlignment (ahead : Bool) (s : State) : Ans :=
  .next (if s.dev = Config.refDevice ∨ !aligned s then s else { s with slew := some ahead })

/-- The ports that carry traffic. -/
def upPorts (s : State) : List Nat := (s.ports.filter fun p => portUp p.2).map (·.1)

/-- The alignment messages of a period of 65,536 cycles, one on every UP port (R453). -/
def sendAlignment (s : State) : State :=
  { (upPorts s).foldl (fun t n => t.emit (.align n s.time)) s with alignSent := s.cycle.toNat / 65536 }

/-- The largest of the widths that some working lanes allow (R444); 0 for none. -/
def widthOf (good : Nat) : Nat := if 8 ≤ good then 8 else if 4 ≤ good then 4 else if 2 ≤ good then 2 else 0

/-- LANE_FAILURE (R444): an UP port that uses the lane trains again; with fewer than two working lanes it goes down. -/
def execLaneFailure (port working : Nat) (s : State) : Ans :=
  .next (
    let p := { s.port port with good := min (s.port port).good working }
    if !portUp p || p.lanes ≤ working then s.setPort port p
    else reportLost s (s.setPort port { p with lanes := 0, state := if working < 2 then 0 else 1 }))

/-- PORT_RETRAIN_COMPLETE: the port is UP and knows its far end: at the largest width of its working lanes where it trained again, at the
8, 4 or 2 lanes that have come up where it was DOWN (R444). -/
def execPortRetrainComplete (port lanes : Nat) (s : State) : Ans :=
  .next (
    let peer := Config.portPeer port
    let p := s.port port
    let ok := if p.state = 0 then lanes == 8 || lanes == 4 || lanes == 2 else lanes != 0 && lanes == widthOf p.good
    if portUp p || !ok then s
    else s.setPort port { p with lanes := lanes, good := if p.state = 0 then lanes else p.good, state := if lanes = 8 then 2 else 3,
                                 peer := peer.1, peerPort := peer.2 })

/-- PORT_DOWN (R447): the routes that used it go over the entry's other ports. -/
def execPortDown (port : Nat) (s : State) : Ans :=
  .next (reportLost s (s.setPort port { s.port port with lanes := 0, state := 0 }))

/-- FLIT_CRC_RETRY (R445). -/
def execFlitCrcRetry (port : Nat) (s : State) : Ans :=
  .next (s.setPort port { s.port port with retries := ((s.port port).retries + 1) % 2 ^ 32 })

end Sys2Proof.Machine
end

