-- ==== Sys2Proof/Machine/Firmware.lean ====
section
/-!
DEFINITION. Firmware update, attestation, power and bring-up (22_front_end_firmware_security.md R479-R485).
-/

namespace Sys2Proof.Machine

open Sys2Proof

/-! ## Update (R479-R481) -/

/-- The updatable components. -/
def updatable (c : Nat) : Bool := c == 2 || c == 3 || c == 4

def setFw (s : State) (f : Firmware) : State := { s with fw := f }

/-- The report of a step. -/
def pldm (s : State) (step comp : Nat) (ok : Bool) : State := s.emit (.pldm step comp ok)

/-- PLDM_PASS_COMPONENT_TABLE: one component per update. -/
def execPldmPassComponentTable (comps : List Nat) (s : State) : Ans :=
  .next (
    let ok := comps.length == 1 && comps.all updatable
    let f := s.fw
    if ok then pldm (setFw s { f with table := comps, stage := .idle, staged := [] }) 1 (comps.headD 0) true else pldm s 1 (comps.headD 0) false)

/-- Asks for the next block of the image: 1,024 to 65,536 bytes, which size is the device's. -/
def askBlock (s : State) : State :=
  let f := s.fw
  (s.emit (.pldmRequest f.staged.length (min (f.size - f.staged.length) (1024 + s.pick % 64513)))).used

/-- PLDM_UPDATE_COMPONENT. -/
def execPldmUpdateComponent (comp size version : Nat) (s : State) : Ans :=
  .next (
    let f := s.fw
    if f.table.contains comp && 1 ≤ size then
      askBlock (pldm (setFw s { f with stage := .transferring, comp := comp, size := size, version := version, staged := [] }) 2 comp true)
    else pldm s 2 comp false)

/-- PLDM_REQUEST_FIRMWARE_DATA: a block arrives and the next one is asked for. -/
def execPldmRequestFirmwareData (data : List Byte) (s : State) : Ans :=
  .next (
    let f := s.fw
    if f.stage ≠ .transferring then s
    else
      let s1 := setFw s { f with staged := f.staged ++ data.take (min 65536 (f.size - f.staged.length)) }
      if s1.fw.staged.length < f.size then askBlock s1 else s1)

/-- PLDM_TRANSFER_COMPLETE. -/
def execPldmTransferComplete (ok : Bool) (s : State) : Ans :=
  .next (
    let f := s.fw
    if f.stage ≠ .transferring then s
    else if ok ∧ f.staged.length = f.size then pldm (setFw s { f with stage := .transferred }) 3 f.comp true
    else pldm (setFw s { f with stage := .idle, staged := [] }) 3 f.comp false)

/-- PLDM_VERIFY_COMPLETE (R480): signature and security version; a failure erases the staged copy. -/
def execPldmVerifyComplete (s : State) : Ans :=
  .next (
    let f := s.fw
    if f.stage ≠ .transferred then s
    else if Config.signatureOk f.staged (shake256 64 f.staged) ∧ Config.minVersion ≤ f.version then
      pldm (setFw s { f with stage := .verified }) 4 f.comp true
    else pldm (setFw s { f with stage := .failed, staged := [] }) 4 f.comp false)

/-- PLDM_APPLY_COMPLETE. -/
def execPldmApplyComplete (s : State) : Ans :=
  .next (
    let f := s.fw
    if f.stage ≠ .verified then pldm s 5 f.comp false
    else pldm (setFw s { f with stage := .applied, pending := tput f.pending f.comp (f.version, f.staged), staged := [] }) 5 f.comp true)

/-- PLDM_ACTIVATE_FIRMWARE (R481, R482): the command processor's activates live and opens a commit window; the others wait for a
package reset. -/
def execPldmActivateFirmware (s : State) : Ans :=
  .next (
    let f := s.fw
    match tfind f.pending 4 with
    | some im =>
      let s1 := setFw s { f with running := tput f.running 4 im, pending := tdel f.pending 4, window := some s.time.toNat }
      pldm { s1 with hostRegs := { s1.hostRegs with activating := true } } 6 4 true
    | none => pldm s 6 f.comp (!f.pending.isEmpty))

/-! ## Attestation (R482) -/

/-- The image that runs as a component. -/
def runningImage (f : Firmware) (c : Nat) : List Byte := match tfind f.running c with
  | some im => im.2
  | none => Config.factoryImage c

/-- The image that an index measures: none where it is empty. -/
def measured (f : Firmware) (i : Nat) : Option (List Byte) :=
  if 1 ≤ i ∧ i ≤ 5 then some (runningImage f i)
  else if 17 ≤ i ∧ i ≤ 19 then
    match tfind f.pending (i - 15) with
    | some im => some im.2
    | none => if f.comp = i - 15 ∧ (f.stage = .transferred ∨ f.stage = .verified) then some f.staged else none
  else none

/-- The measurement. -/
def measurement (f : Firmware) (i : Nat) : List Byte := match measured f i with
  | some im => shake256 64 im
  | none => []

/-- The identity key: what the security controller derives from the configuration record. -/
def identityKey (f : Firmware) : List Byte := Config.identityKey (runningImage f 5)

/-- An answer: the measurement, signed with the identity key. -/
def answerSpdm (s : State) (i : Nat) : State :=
  let m := measurement s.fw i
  (s.emit (.spdm i m (Config.spdmSign s.draws (identityKey s.fw) m))).used

/-- SPDM_REQUEST: held while a commit window is open. -/
def execSpdmRequest (index : Nat) (s : State) : Ans :=
  .next (if s.fw.window.isSome then setFw s { s.fw with held := s.fw.held ++ [index] } else answerSpdm s index)

/-- COMMIT_WINDOW_END: the held requests are answered in order. -/
def execCommitWindowEnd (s : State) : Ans :=
  .next (
    let held := s.fw.held
    let s1 := setFw s { s.fw with window := none, held := [] }
    held.foldl answerSpdm { s1 with hostRegs := { s1.hostRegs with activating := false } })

/-! ## Power and management (R484) -/

/-- POWER_LIMIT_SET: up to 1,600 W; issue is gated under it. -/
def execPowerLimitSet (watts : Nat) (s : State) : Ans := .next (if watts ≤ 1600 then { s with power := watts } else s)

/-- PLDM_PLATFORM_READ: sensors 0 to 17 are the port states (R445), the others readings of the package. -/
def execPldmPlatformRead (sensor : Nat) (s : State) : Ans :=
  .next (
    if sensor < 18 then s.emit (.sensor sensor (portWord (s.port sensor)).toNat)
    else (s.emit (.sensor sensor (Config.sensor sensor s.draws))).used)

/-! ## Package reset (R483, R485) -/

/-- STAGE at a bring-up that ends with a reason: 5 without one. A firmware image is verified in stages 0 and 4. -/
def bringupStage (err pick : Nat) : Nat :=
  if err = 0 then 5
  else if err = 1 ∨ err = 2 then 0
  else if err = 3 then 1
  else if err = 4 then 2
  else if err = 5 then 3
  else if err = 6 then (if pick % 2 = 0 then 0 else 4)
  else 4

/-- The firmware after a package reset: what waited for it is active. -/
def resetFirmware (f : Firmware) : Firmware :=
  { Firmware.reset with running := f.pending.foldl (fun t e => tput t e.1 e.2) f.running }

/-- The end of GDDR 7 (R266). -/
def gddrEnd : Nat := 0x1800000000

/-- The trace rings of a cluster after bring-up: 2 to 64 segments for each stream (R430, R483); where they lie is the implementation's
(log 55). -/
def bootCluster (k : Nat) : Cluster :=
  let ring (st : Nat) : Stream :=
    let r := Config.traceRing k st
    { Stream.reset with base := r.1 % (gddrEnd - (r.2.val + 2) * 2 ^ 20), slots := r.2.val + 2 }
  { Cluster.reset with streams := [(0, ring 0), (1, ring 1)] }

/-- Isastan's ring after bring-up (R474, R483). -/
def bootRing : IsaRing := ⟨Config.isaRing.1 % gddrEnd, Config.isaRing.2 % gddrEnd / 8 * 8, 0⟩

/-- PACKAGE_RESET: every register at its reset value, then bring-up with its result and the device ID. -/
def execPackageReset (err dev : Nat) (s : State) : Ans :=
  .next (
    let e := if err ≤ 7 then err else 0
    { State.reset with
        dev := dev % 4096, fw := resetFirmware s.fw, out := s.out, draws := s.draws + 1,
        clusters := if e = 0 then (List.range 24).map fun k => (k, bootCluster k) else [],
        isaRing := if e = 0 then some bootRing else none,
        hostRegs := { HostRegs.reset with
          device := dev % 4096, booterr := e, stage := bringupStage e s.pick, fault := e != 0, ready := e == 0 } })

end Sys2Proof.Machine
end

