-- ==== Sys2Proof/Machine/Float.lean ====
section
/-!
DEFINITION. Scalar floating point (04_control_instructions.md R116-R120): results under R51-R54, flags ORed into the
context's FFLAGS (R26).
-/

namespace Sys2Proof.Machine

open Sys2Proof

/-- FP32 or FP64 by D (R75). -/
def fmtD (d : BitVec 1) : Fmt := if d = 1 then fp64 else fp32

/-- The code of an operand: an FP32 operand ignores bits [63:32] (R54). -/
def fcode (d : BitVec 1) (v : Word) : Nat := if d = 1 then v.toNat else v.toNat % 2 ^ 32

/-- An operand's exact value. -/
def fval (d : BitVec 1) (v : Word) : Val := decodeCode (fmtD d) (fcode d v)

/-- The running context takes a result and its flags, and moves past its instruction. -/
def State.retF (s : State) (i : Instr) (rd : Reg) (v : Word) (f : FFlags) : State :=
  s.setMe (advance { xwrite s.me rd v with fflags := s.me.fflags ||| f } (byteLen i))

/-- FADD to FDIV: the exact result of two operands, rounded once. -/
def farith (i : Instr) (rd rs1 rs2 : Reg) (d : BitVec 1) (rm : BitVec 3) (op : Rm → Val → Val → Val × FFlags) (s : State) : Ans :=
  let m := rmOf rm s.me.frm
  let r := finish (fmtD d) m false (op m (fval d (xread s.me rs1)) (fval d (xread s.me rs2)))
  .next (s.retF i rd (BitVec.ofNat 64 r.1) r.2)

def execFadd (rd rs1 rs2 : Reg) (d : BitVec 1) (rm : BitVec 3) (s : State) : Ans :=
  farith (.fadd rd rs1 rs2 d rm) rd rs1 rs2 d rm addVal s
def execFsub (rd rs1 rs2 : Reg) (d : BitVec 1) (rm : BitVec 3) (s : State) : Ans :=
  farith (.fsub rd rs1 rs2 d rm) rd rs1 rs2 d rm (fun m a b => addVal m a (negVal b)) s
def execFmul (rd rs1 rs2 : Reg) (d : BitVec 1) (rm : BitVec 3) (s : State) : Ans :=
  farith (.fmul rd rs1 rs2 d rm) rd rs1 rs2 d rm (fun _ a b => mulVal a b) s
def execFdiv (rd rs1 rs2 : Reg) (d : BitVec 1) (rm : BitVec 3) (s : State) : Ans :=
  farith (.fdiv rd rs1 rs2 d rm) rd rs1 rs2 d rm (fun _ a b => divVal a b) s
def execFsqrt (rd rs1 : Reg) (d : BitVec 1) (rm : BitVec 3) (s : State) : Ans :=
  farith (.fsqrt rd rs1 d rm) rd rs1 0 d rm (fun _ a _ => sqrtVal a) s

/-- FMIN to FMAXM: one operand exactly, or the canonical NaN. -/
def fselect (i : Instr) (rd rs1 rs2 : Reg) (d : BitVec 1) (op : Nat) (s : State) : Ans :=
  let r := selectCode (fmtD d) op (fcode d (xread s.me rs1)) (fcode d (xread s.me rs2))
  .next (s.retF i rd (BitVec.ofNat 64 r.1) r.2)

def execFmin (rd rs1 rs2 : Reg) (d : BitVec 1) (s : State) : Ans := fselect (.fmin rd rs1 rs2 d) rd rs1 rs2 d 5 s
def execFmax (rd rs1 rs2 : Reg) (d : BitVec 1) (s : State) : Ans := fselect (.fmax rd rs1 rs2 d) rd rs1 rs2 d 6 s
def execFminm (rd rs1 rs2 : Reg) (d : BitVec 1) (s : State) : Ans := fselect (.fminm rd rs1 rs2 d) rd rs1 rs2 d 7 s
def execFmaxm (rd rs1 rs2 : Reg) (d : BitVec 1) (s : State) : Ans := fselect (.fmaxm rd rs1 rs2 d) rd rs1 rs2 d 8 s

/-- FMA: one rounding under FRM (R117). -/
def execFma (rd rs1 rs2 rs3 : Reg) (d : BitVec 1) (s : State) : Ans :=
  let m := s.me.frm.toNat
  let r := finish (fmtD d) m false (fmaVal m (fval d (xread s.me rs1)) (fval d (xread s.me rs2)) (fval d (xread s.me rs3)))
  .next (s.retF (.fma rd rs1 rs2 rs3 d) rd (BitVec.ofNat 64 r.1) r.2)

def execFcmp (d : BitVec 1) (cond : BitVec 3) (rd rs1 rs2 : Reg) (s : State) : Ans :=
  let r := fcmpCode (fmtD d) cond.toNat (fcode d (xread s.me rs1)) (fcode d (xread s.me rs2))
  .next (s.retF (.fcmp d cond rd rs1 rs2) rd (if r.1 then 1 else 0) r.2)

/-- The format of a kind of FCVT (R119): S, D, W, WU, L, LU. -/
def kindFmt (k : BitVec 3) : Fmt :=
  match k.toNat with
  | 0 => fp32
  | 1 => fp64
  | 2 => int32
  | 3 => uint32
  | 4 => int64
  | _ => uint64

/-- A code as X[rd] holds it: W is sign-extended, the others zero-extended. -/
def kindWord (k : BitVec 3) (code : Nat) : Word := if k = 2 then (BitVec.ofNat 32 code).signExtend 64 else BitVec.ofNat 64 code

def execFcvt (rd rs1 : Reg) (tk fk rm : BitVec 3) (s : State) : Ans :=
  let v := decodeCode (kindFmt fk) ((xread s.me rs1).toNat % 2 ^ (kindFmt fk).width)
  let r := roundCode (kindFmt tk) (rmOf rm s.me.frm) false v
  .next (s.retF (.fcvt rd rs1 tk fk rm) rd (kindWord tk r.1) r.2)

def execFclass (rd rs1 : Reg) (d : BitVec 1) (s : State) : Ans :=
  .next (s.ret (.fclass rd rs1 d) rd (BitVec.ofNat 64 (fclassCode (fmtD d) (fcode d (xread s.me rs1)))))

end Sys2Proof.Machine
end

