-- ==== Sys2Proof/Machine/Matrix.lean ====
section
/-!
DEFINITION. The matrix instructions and the joint array (09_joint_array.md R236-R262; 02_numbers.md R59-R62): queue-entry
checks, loading, spilling and filling operand banks, joining the six MMULs of a gang, and one row broadcast.
-/

namespace Sys2Proof.Machine

open Sys2Proof

/-! ## Matrix configuration (R239, R240) -/

def mcBase (m : Word) : Nat := bits m.toNat 3 3
def mcLen (m : Word) : Nat := bits m.toNat 0 3 + 1

/-- Whether a bank lies in the context's half (R240). -/
def inHalf (m : Word) (b : Nat) : Bool := !m.getLsbD 7 || (if m.getLsbD 6 then 28 ≤ b else b < 28)

/-- A bank that another workgroup has left PINNED may not be used (R241). DEDUCED (log 52): as one outside the half. -/
def mayUse (k : Core) (m : Word) (b : Nat) : Bool := inHalf m b && (tfind k.pins b).isNone

/-- Whether the chain lies in the half. -/
def chainInHalf (m : Word) : Bool := inHalf m (24 + mcBase m) && inHalf m (24 + mcBase m + mcLen m - 1)

/-- Values that MCFG refuses (R256). -/
def mcfgBad (p : Priv) (old v : Word) : Bool :=
  bits v.toNat 24 40 != 0 || (List.range 8).any (fun j => bits v.toNat (8 + 2 * j) 2 == 3) || 7 < mcBase v + mcLen v - 1 ||
    (v.getLsbD 7 && !chainInHalf v) || (p == .u && bits v.toNat 6 2 != bits old.toNat 6 2)

/-- Whether MLDB would accept a format value (R253, R260). -/
def operandFmt (f : Half) : Bool := fmtValid f && fmtKind f ≤ 1 && !(fmtScaled f && fmtBlen f == 32)

/-! ## Queue entry (R253-R257, R261) -/

def execMcfg (rs1 : Reg) (s : State) : Ans :=
  enterPlain (.mcfg rs1) (xread s.me rs1) (fun v => mcfgBad s.me.priv v.mcfg (xread s.me rs1)) s

/-- The lowest-numbered bank of a list that is not OPERAND. -/
def notOperand (k : Core) (bs : List Nat) : Option Nat := bs.find? fun b => k.role b != .operand

/-- BANK_ROLE of a bank. -/
def bankFault (k : Core) (b : Nat) : Cause := wideRole k (b * 65536) .matrix

def execMldb (rs1 rs2 : Reg) (ft : BitVec 4) (bank : BitVec 3) (row0 : BitVec 10) (sc : BitVec 1) (nrm1 : BitVec 10) (s : State) : Ans :=
  let i : Instr := .mldb rs1 rs2 ft bank row0 sc nrm1
  let r := (xread s.me rs1).toNat
  let q := (xread s.me rs2).toNat
  let n := nrm1.toNat + 1
  let b := 24 + bank.toNat
  s.wideEnter i fun v =>
    let f := v.fmt.getD ft.toNat 0
    let l := fmtBlen f
    let scaled := sc == 1 && fmtScaled f && l != 32
    let runs := (r, 64 * n) :: (if sc = 1 then [(q, 128 * (n / l))] else [])
    let k := s.myCore
    if 2 ^ 21 ≤ r ∨ (sc = 1 ∧ 2 ^ 21 ≤ q) ∨ 1024 < row0.toNat + n ∨ 2 ^ 21 < r + 64 * n ∨
        (scaled ∧ 2 ^ 21 < q + 128 * (n / l)) ∨ !mayUse k v.mcfg b ∨ (scaled ∧ (row0.toNat % l ≠ 0 ∨ n % l ≠ 0)) then s.ill i 6
    else if 1 < fmtKind f ∨ (fmtScaled f ∧ l = 32) ∨ (sc = 1 ∧ !fmtScaled f) then s.trap (formatMismatch i)
    else match refusedByte k .scratch runs with
      | some a => s.trap (wideRole k a .matrix)
      | none =>
        if k.role b ≠ .operand then s.trap (bankFault k b)
        else match poisonedByte k runs with
          | some a => s.trap (widePoison a .matrix)
          | none => s.enqueue (s.wentry i (xread s.me rs1) (xread s.me rs2) (runs ++ [(b * 65536, 65536)]))

/-- The chain banks that an MMUL uses (R255). -/
def usedBanks (m : Word) (km1 : BitVec 8) : List Nat := (List.range (mmulBanks km1)).map fun j => 24 + mcBase m + j

/-- The format rules of MMUL (R59, R62, R246, R255). -/
def mmulFits (int : Bool) (w : Word) (f : Half) (pm1 : BitVec 3) (tags : List Half) (K : Nat) : Bool :=
  let b := tags.headD 0
  pMode w != 2 && modeFits w f && fmtKind f ≤ 1 && pm1.toNat == bits f.toNat 4 3 &&
    tags.all (fun t => t == b) && b != 0 &&
    !(fmtScaled f && fmtScaled b && fmtBlen f != fmtBlen b) &&
    (!int || (fmtKind f == 1 && fmtKind b == 1 && !fmtScaled f && !fmtScaled b)) &&
    (!fmtScaled f || K % fmtBlen f == 0) && (!fmtScaled b || K % fmtBlen b == 0)

/-- The bytes of the used chain banks: a poisoned sector anywhere in them counts. -/
def bankRuns (m : Word) (km1 : BitVec 8) : List (Nat × Nat) := (usedBanks m km1).map fun b => (b * 65536, 65536)

def execMmul (d nrm1 : BitVec 4) (pa pm1 : BitVec 3) (z : BitVec 1) (km1 : BitVec 8) (s : State) : Ans :=
  let i : Instr := .mmul d nrm1 pa pm1 z km1
  let n := nrm1.toNat + 1
  let K := mmulK km1
  let pos0 := posOf s.cur.1 == 0
  s.wideEnter i fun v =>
    let k := s.myCore
    let banks := usedBanks v.mcfg km1
    let filling := k.wide.queue.any fun e => match e.i with
      | .mfill _ mask => banks.any fun b => nbit mask.toNat (b - 24)
      | _ => false
    if filling then s.hold .wideFull
    else
      let us := if pos0 then (v.uses (List.replicate n ⟨pa.toNat, K, false⟩)).1 else []
      let f := v.pf pa.toNat
      let aligned := us.all fun u =>
        !fmtScaled u.fmt || wrap ((extAddr u.w u.org 0 : Int) - u.org.toNat) 21 % (fmtBytes u.fmt * fmtBlen u.fmt) == 0
      let aRuns := readRuns' k i us
      let poison := poisonedByte k (aRuns ++ bankRuns v.mcfg km1)
      if v.rows < d.toNat + n ∨ mcLen v.mcfg < mmulBanks km1 ∨ !chainInHalf v.mcfg ∨ !banks.all (mayUse k v.mcfg) ∨ k.wide.gangE = 0 ∨ !aligned then s.ill i 6
      else if !mmulFits v.int (v.p pa.toNat) f pm1 (banks.map fun b => tget 0 v.tags b) K then s.trap (formatMismatch i)
      else match refusedByte k .scratch aRuns with
        | some a => s.trap (wideRole k a .matrix)
        | none =>
          match notOperand k banks, poison with
          | some b, _ => s.trap (bankFault k b)
          | none, some a => s.trap (widePoison a .matrix)
          | none, none =>
            let e := s.wentry i 0 0 (aRuns ++ bankRuns v.mcfg km1)
            let s1 := s.enqueue { e with e := k.wide.gangE, j := k.wide.gangJ, afmt := f }
            s1.updCore s.cur.1 fun q => { q with wide := { q.wide with gangJ := q.wide.gangJ + 1 } }

/-- The matrix status word (R258). -/
def mstatWord (k : Core) : Word :=
  let valid := ((List.range 8).map fun j => if tget 0 k.tags (24 + j) != 0 && k.role (24 + j) == .operand then 2 ^ j else 0).foldl (· + ·) 0
  BitVec.ofNat 64 (valid * 2 ^ 32 + (if k.wide.gmis then 2 ^ 31 else 0) + (if k.wide.mpois then 2 ^ 30 else 0) + bits k.wide.mcfg.toNat 0 24)

/-- MSTAT's value (R257). -/
def mstatValue (sel : BitVec 32) (k : Core) : Word :=
  if sel = 0 then mstatWord k
  else
    let b := 16 + sel.toNat
    if k.role b = .operand then (tget 0 k.tags b).setWidth 64 else 0

/-- The read of the status word clears GMIS and POIS. -/
def mstatClear (sel : BitVec 32) (k : Core) : Core :=
  if sel = 0 then { k with wide := { k.wide with gmis := false, mpois := false } } else k

def execMstat (rd : Reg) (sel : BitVec 32) (s : State) : Ans :=
  let i : Instr := .mstat rd sel
  s.wideEnter i fun _ =>
    if s.myCore.wide.queue.isEmpty then
      (s.ret i rd (mstatValue sel s.myCore)).updCore s.cur.1 (mstatClear sel)
    else (s.queueUp (s.wentry i 0 0 [])).hold .wideVal

/-- The banks of a mask, ascending. -/
def maskBanks (mask : BitVec 8) : List Nat := ((List.range 8).filter fun j => mask.getLsbD j).map (24 + ·)

/-- Where the image of a bank starts (R259). -/
def imageBase (base b : Nat) : Addr := (base + 0x11000 * (b - 24)) % 2 ^ 64

/-- The lowest address of an image that the canonical test refuses (R261). -/
def imageRefused (ea n : Nat) : Nat := if canonical ea && !canonical ((ea + n - 1) % 2 ^ 64) then (ea / 2 ^ 56 + 1) * 2 ^ 56 else ea

/-- The check of the images of a mask under steps 1 and 2 of R112 and its watchpoints (R261), in ascending order. -/
def imageCheck (s : State) (acc : Access) (base : Nat) : List Nat → List Part → Chk
  | [], ps => .ok false ps
  | b :: bs, ps =>
    let ea := imageBase base b
    match checkWatched s s.cur.1 s.me acc ea 0x10810 with
    | .ok true qs => imageCheck s acc base bs (ps ++ qs.map fun q => { q with pa := windowPa s.dev s.cur.1 q.pa })
    | .ok false qs => imageCheck s acc base bs (ps ++ qs)
    | .trap cz => .trap (if cz.code = 0x04 then { cz with tval := BitVec.ofNat 64 (imageRefused ea 0x10810) } else cz)
    | r => r

/-- A part as the pages it lies in: virtual page, physical page, key. -/
def partPages (p : Part) : List (Nat × Nat × Nat) :=
  (pagesOf (p.len / 4096 + 2) p.pa p.len).map fun q => ((p.va + (q.1 - p.pa)) / 4096, q.1 / 4096, p.key)

/-- The bytes of an image that lie in the core's own banks: the context's accesses to them wait for the instruction (R262). -/
def imageRuns (s : State) (ps : List Part) : List (Nat × Nat) := ps.filterMap fun p => match target p.pa with
  | .window dev core loc => if dev = s.dev ∧ core = s.cur.1 then some (loc, p.len) else none
  | _ => none

/-- MSPILL and MFILL at queue entry (R261). -/
def enterImage (i : Instr) (acc : Access) (rs1 : Reg) (mask : BitVec 8) (s : State) : Ans :=
  s.wideEnter i fun v =>
    let a := (xread s.me rs1).toNat
    let banks := maskBanks mask
    if mask = 0 ∨ banks.any (fun b => !mayUse s.myCore v.mcfg b) ∨ a % 4096 ≠ 0 then s.ill i 6
    else match notOperand s.myCore banks with
      | some b => s.trap (bankFault s.myCore b)
      | none =>
        match imageCheck s acc a banks [] with
        | .ok _ ps =>
          let t := banks.foldl (fun t b => traceWatch s.cur.1 s.cur.2 acc (imageBase a b) 0x10810 t) s
          t.enqueue { s.wentry i (xread s.me rs1) 0 ((banks.map fun b => (b * 65536, 65536)) ++ imageRuns s ps) with
            pages := ps.flatMap partPages }
        | r => s.refuse acc r

def execMspill (rs1 : Reg) (mask : BitVec 8) (s : State) : Ans := enterImage (.mspill rs1 mask) .store rs1 mask s
def execMfill (rs1 : Reg) (mask : BitVec 8) (s : State) : Ans := enterImage (.mfill rs1 mask) .load rs1 mask s

/-! ## Loading, spilling, filling (R253, R259, R260) -/

/-- A write of the matrix side to a bank of its core, with its matches (R423). -/
def bankWrite (s : State) (c a : Nat) (bs : List Byte) : State :=
  watchBank (locWrite s c a bs) c a bs.length (gidOf s.dev c 0) .wideWrite none

/-- MLDB executes (R253). -/
def mldbExec (s : State) (c : Nat) (e : WEntry) (ft : BitVec 4) (bank : BitVec 3) (row0 : BitVec 10) (sc : BitVec 1) (nrm1 : BitVec 10) : State :=
  let k := s.core c
  let b := 24 + bank.toNat
  let n := nrm1.toNat + 1
  let f := k.wide.fmt.getD ft.toNat 0
  let l := fmtBlen f
  let s1 := bankWrite s c (b * 65536 + 64 * row0.toNat) (memRead k.loc (e.v1.toNat % 2 ^ 21) (64 * n))
  let put (m : Memory) (j q : Nat) : Memory :=
    memWrite m (b * 2048 + 32 * q + 2 * (row0.toNat / l + j)) (memRead k.loc (e.v2.toNat % 2 ^ 21 + 128 * j + 2 * q) 2)
  s1.updCore c fun t =>
    { t with tags := tput t.tags b f,
             sidecar := if sc = 1 then
               (List.range (n / l)).foldl (fun m j => (List.range 64).foldl (fun m q => put m j q) m) t.sidecar else t.sidecar }

/-- The place of a byte of an image among the pinned pages. -/
def pagePlace (pages : List (Nat × Nat × Nat)) (va : Nat) : Option (Nat × Nat) :=
  (pages.find? fun p => p.1 == va / 4096).map fun p => (p.2.1 * 4096 + va % 4096, p.2.2)

/-- Runs of a range cut at 256-byte boundaries. -/
def cutRuns (va n : Nat) : List (Nat × Nat) := sectorRuns (n / 256 + 2) va n

/-- Writes a run of an image, as a store of the control context that is performed at once; a poisoned source sector
makes its 256 bytes poisoned (R260, R262). -/
def spillRun (c : Nat) (pages : List (Nat × Nat × Nat)) (s : State) (va : Nat) (bs : List Byte) (pois : Bool) : State :=
  match pagePlace pages va with
  | none => s
  | some (pa, key) =>
    match target pa with
    | .gddr =>
      let s1 := homeWrite (homeTouch (dropSector s c (pa / 256)) key (pa / 1024) (s.ctx c 0)) key pa bs
      let s2 := watchHome s1 pa bs.length (gidOf s.dev c 0) .remoteStore (some c)
      if pois then { s2 with memPoison := nadd s2.memPoison (pa / 256) } else s2
    | .window dev core loc =>
      if dev = s.dev then
        let s1 := remoteWrite s core loc bs (gidOf s.dev c 0) .remoteStore (some c)
        if pois then stainBank core loc bs.length s1 else s1
      else
        let w (op : WinOp) (t : State) : State := t.toDevice c dev (.windowAccessAtTarget ⟨s.dev, c, 0, pa, bs.length, op⟩)
        if pois then w .stain (w (.store bs) s) else w (.store bs) s
    | .host =>
      let s1 := s.emit (.hostStore (pa % 2 ^ 48) bs)
      if pois then s1.emit (.hostStain (pa % 2 ^ 48) bs.length) else s1
    | .none => s

def spillRuns (c : Nat) (pages : List (Nat × Nat × Nat)) (pois : Nat → Bool) (base : Nat) : List (Nat × Nat) → List Byte → State → State
  | [], _, s => s
  | (va, n) :: t, bs, s =>
    spillRuns c pages pois base t (bs.drop n) (spillRun c pages s va (bs.take n) (pois (va - base)))

/-- MSPILL executes for one bank. -/
def spillBank (c : Nat) (e : WEntry) (s : State) (b : Nat) : State :=
  let base := imageBase e.v1.toNat b
  let k := s.core c
  spillRuns c e.pages (fun off => off < 65536 && k.locPoison.contains ((b * 65536 + off) / 256)) base (cutRuns base 0x10810)
    (bankImage k b) s

/-- Reads a run of an image: bytes, whether a sector read is poisoned, the state after it. What the host or another
device answers, and whether with poison, is free (log 9). -/
def fillRun (c : Nat) (pages : List (Nat × Nat × Nat)) (s : State) (va n : Nat) : List Byte × Bool × State :=
  match pagePlace pages va with
  | none => (List.replicate n 0, false, s)
  | some (pa, key) =>
    let free := (List.range n).map fun i => Config.imageByte c s.draws (va + i)
    match target pa with
    | .gddr =>
      let s1 := homeTouch (dropSector s c (pa / 256)) key (pa / 1024) (s.ctx c 0)
      let r := homeRead s1 key pa n
      (r.1, s1.memPoison.contains (pa / 256), r.2)
    | .window dev core loc =>
      if dev = s.dev then
        (windowBytes s core loc n, (s.core core).role (loc / 65536) == .scratch && (s.core core).locPoison.contains (loc / 256),
          countRefused s core loc n)
      else (free, s.pick % 2 == 1, s.used)
    | _ => (free, s.pick % 2 == 1, s.used)

def fillRuns (c : Nat) (pages : List (Nat × Nat × Nat)) : List (Nat × Nat) → State → List Byte × Bool × State
  | [], s => ([], false, s)
  | (va, n) :: t, s =>
    let r := fillRun c pages s va n
    let q := fillRuns c pages t r.2.2
    (r.1 ++ q.1, r.2.1 || q.2.1, q.2.2)

/-- MFILL executes for one bank (R260). -/
def fillBank (c : Nat) (e : WEntry) (s : State) (b : Nat) : State :=
  let base := imageBase e.v1.toNat b
  let r := fillRuns c e.pages (cutRuns base 0x10810) s
  let bs := r.1
  let tag : Half := BitVec.ofNat 32 (field bs 0x10800 4)
  let bad := r.2.1 || field bs 0x10804 12 != 0 || !operandFmt tag
  (bankWrite r.2.2 c (b * 65536) (bs.take 65536)).updCore c fun k =>
    { k with sidecar := memWrite k.sidecar (b * 2048) ((bs.drop 65536).take 2048),
             tags := if bad then tdel k.tags b else tput k.tags b tag,
             wide := { k.wide with mpois := k.wide.mpois || r.2.1 } }

/-- Whether the control context has a store of its own still buffered to a page of an image (R262). -/
def imageBusy (k : Core) (e : WEntry) : Bool :=
  k.stbuf.any fun q => q.ctx == 0 && e.pages.any fun p => p.2.1 == q.pa / 4096

/-! ## The head of the queue (R131) -/

/-- Whether the head of a core's queue can execute as one step of WIDE_EXECUTE. -/
def wideReady (s : State) (c : Nat) : Bool :=
  wideRuns (s.core c) && match (s.core c).wide.queue.head? with
    | some e => match e.i with
      | .rep _ _ _ _ => false
      | .mmul _ _ _ _ _ _ => false
      | .mspill _ _ => !imageBusy (s.core c) e
      | .mfill _ _ => !imageBusy (s.core c) e
      | i => !isWForm i || wReady s c i
    | none => false

/-- Executes an entry other than REP and MMUL. -/
def entryExec (s : State) (c : Nat) (e : WEntry) : State :=
  let s := if isWForm e.i then s else wideCycles s c
  match e.i with
  | .mcfg _ => s.updCore c fun k => { k with wide := { k.wide with mcfg := e.v1 } }
  | .mldb _ _ ft bank row0 sc nrm1 => mldbExec s c e ft bank row0 sc nrm1
  | .mstat rd sel => (wideArrive s c e.i rd (mstatValue sel (s.core c))).updCore c (mstatClear sel)
  | .mspill _ mask => (maskBanks mask).head?.elim s (spillBank c e s)
  | .mfill _ mask => (maskBanks mask).head?.elim s (fillBank c e s)
  | i => if isWForm i then wExec s c i (wideRm i e.rm) else wctlExec s c e

/-- The mask without its lowest bank. -/
def maskRest (mask : BitVec 8) : BitVec 8 := match (maskBanks mask).head? with
  | some b => mask &&& ~~~(1#8 <<< (b - 24))
  | none => mask

/-- What is left of an entry when it has executed: an MSPILL or MFILL does one bank at a time, and keeps the mask bits of the banks not
done yet, which a stop leaves saved (R161, R401). -/
def entryRest (e : WEntry) : Option WEntry :=
  let rest (mask : BitVec 8) (f : BitVec 8 → Instr) : Option WEntry :=
    let m := maskRest mask
    if m = 0 then none
    else some { e with i := f m, runs := ((maskBanks m).map fun b => (b * 65536, 65536)) ++ e.runs.filter fun q => q.2 != 65536 }
  match e.i with
  | .mspill rs mask => rest mask (.mspill rs)
  | .mfill rs mask => rest mask (.mfill rs)
  | _ => none

/-- WIDE_EXECUTE: the head of a core's queue executes and leaves it. -/
def execWideExecute (core : Nat) (s : State) : Ans :=
  .next (
    match wideReady s core, (s.core core).wide.queue.head? with
    | true, some e => match entryRest e with
      | some q => (setHead (entryExec s core e) core q).updCore core fun k => k.wakeIf fun w => match w with
        | .overlap _ _ _ => true
        | _ => false
      | none => popHead (entryExec s core e) core
    | _, _ => s)

/-! ## The inner accumulator (R59, R62) -/

/-- One product of a block: significand and exponent, for finite operands. -/
def finProduct (A B : Fmt) (p : Nat × Nat) : Int × Int :=
  let a := sigExp A p.1
  let b := sigExp B p.2
  (a.1 * b.1, a.2 + b.2)

/-- The sign of an infinite product: none, or one of its sign. -/
def infProduct (A B : Fmt) (p : Nat × Nat) : Option Bool :=
  match decodeCode A p.1, decodeCode B p.2 with
  | .inf m, x => some (m != signOf x)
  | x, .inf n => some (signOf x != n)
  | _, _ => none

/-- A NaN among the elements, or ∞ × 0. -/
def badProduct (A B : Fmt) (p : Nat × Nat) : Bool :=
  match decodeCode A p.1, decodeCode B p.2 with
  | .nan _, _ => true
  | _, .nan _ => true
  | .inf _, x => isZero x
  | x, .inf _ => isZero x
  | _, _ => false

/-- floor(q × 2^e) and whether it is exact. -/
def floorShift (q e : Int) : Int × Bool :=
  if 0 ≤ e then (q * (2 ^ e.toNat : Nat), true)
  else let d : Int := (2 ^ (-e).toNat : Nat); (q / d, q % d == 0)

/-- A lane with what its row's status word gains: the flags, and whether the window saturated. -/
structure LaneAcc where
  lane : Half
  flags : FFlags
  ovi : Nat
  deriving DecidableEq, Repr

/-- Clamps the window (R59). -/
def clampWindow (v : Int) : Int × Nat :=
  if 8388607 < v then (8388607, 1) else if v < -8388607 then (-8388607, 1) else (v, 0)

/-- The contribution of one block to an FP32 lane (R59). DESIGN CHOICE (log 48): where the products cancel and S is 0, V is +0, so the sum
with a lane of -0 is +0 except under RDN; the spec gives V no sign there. -/
def blockFp (A B : Fmt) (rm : Rm) (sa sb : Nat) (ps : List (Nat × Nat)) (t : LaneAcc) : LaneAcc :=
  if zeroBlock sa || zeroBlock sb then t
  else
    let infs := ps.filterMap (infProduct A B)
    if ps.any (badProduct A B) || (infs.contains true && infs.contains false) then { t with lane := 0x7FC00000, flags := t.flags ||| nv }
    else match infs.head? with
    | some neg =>
      let r := fpLane rm 0 (addVal rm (fpv t.lane) (.inf neg))
      { t with lane := r.1, flags := t.flags ||| r.2 }
    | none =>
      let fs := (ps.map (finProduct A B)).filter fun p => p.1 != 0
      match (fs.map (·.2)).max? with
      | none => t
      | some ref =>
        let ts := fs.map fun p => floorShift p.1 (p.2 - ref + 1)
        let (w, o) := clampWindow ((ts.map (·.1)).foldl (· + ·) 0)
        let k : Nat := (16 + bits sa 0 4) * (16 + bits sb 0 4)
        let x : Int := signed (bits sa 4 12) 12 + signed (bits sb 4 12) 12 - 8 + ref - 1
        let r := fpLane rm 0 (addVal rm (fpv t.lane) (.fin (decide (w < 0)) (w.natAbs * k) 1 x))
        { lane := r.1, ovi := t.ovi + o,
          flags := t.flags ||| r.2 ||| (if ts.all (·.2) then 0 else nx) }

/-- The contribution of one block to an INT32 lane (R62). -/
def blockInt (A B : Fmt) (ps : List (Nat × Nat)) (t : LaneAcc) : LaneAcc :=
  let (w, o) := clampWindow (ps.foldl (fun n p => n + (finProduct A B p).1) 0)
  let r := intLane (t.lane.toInt + w)
  { lane := r.1, flags := t.flags ||| r.2, ovi := t.ovi + o }

/-! ## Joining and broadcasting (R242-R249) -/

/-- The MMUL at the head of a core's queue, with its fields. -/
structure Head where
  e : WEntry
  d : Nat
  n : Nat
  pa : Nat
  z : Bool
  pm1 : Nat
  km1 : BitVec 8
  deriving DecidableEq, Repr

def mmulHead (k : Core) : Option Head :=
  match k.wide.queue.head? with
  | some e => match e.i with
    | .mmul d nrm1 pa pm1 z km1 => some ⟨e, d.toNat, nrm1.toNat + 1, pa.toNat, z == 1, pm1.toNat, km1⟩
    | _ => none
  | none => none

/-- The heads of the six cores of a gang, by position, where all six are MMULs of wide sides that run. -/
def gangHeads (s : State) (g : Nat) : Option (List Head) :=
  let hs := (List.range 6).filterMap fun p => let k := s.core (gangCore g p); if wideRuns k then mmulHead k else none
  if hs.length = 6 then some hs else none

def allSame {α : Type} [DecidableEq α] : List α → Bool
  | [] => true
  | a :: t => t.all fun b => decide (b = a)

/-- Whether the six MMULs can join: equal numbers, none joined yet. -/
def joinReady (s : State) (g : Nat) : Bool :=
  match gangHeads s g with
  | some hs => allSame (hs.map fun h => (h.e.e, h.e.j)) && hs.all fun h => !h.e.joined
  | none => false

/-- The shape word (R244). -/
def Head.shape (h : Head) : Nat × Nat × Nat × Half := (h.n, mmulK h.km1, h.pm1, h.e.afmt)

/-- Zeroes the rows of a .Z product (R247). -/
def zeroRows (a : Acc) (d : Nat) : Nat → Acc
  | 0 => a
  | n + 1 => rowFresh (setRow (zeroRows a d n) (d + n) (List.replicate 64 0)) (d + n)

/-- A core's MMUL joins. -/
def joinCore (k : Core) (h : Head) : Core :=
  { k with wide := { k.wide with
      acc := if h.z then zeroRows k.wide.acc h.d h.n else k.wide.acc,
      queue := { h.e with joined := true } :: k.wide.queue.tail } }

/-- The pointer of position 0 after m row uses. -/
def stepPa (k : Core) (pa m : Nat) : Core :=
  { k with wide := { k.wide with ptr := (k.view.useN ⟨pa, 0, false⟩ m).ptr } }

/-- MMUL_JOIN (R243, R244). -/
def execMmulJoin (g : Nat) (s : State) : Ans :=
  .next (
    match joinReady s g, gangHeads s g with
    | true, some hs =>
      if allSame (hs.map Head.shape) then
        hs.zipIdx.foldl (fun t h => t.updCore (gangCore g h.2) fun k => joinCore k h.1) s
      else
        hs.zipIdx.foldl (fun t h =>
          let c := gangCore g h.2
          popHead (t.updCore c fun k =>
            let k1 := if h.2 = 0 then stepPa k h.1.pa h.1.n else k
            { k1 with wide := { k1.wide with gmis := true } }) c) s
    | _, _ => s)

/-- Whether a joined product can broadcast its next row: all six joined and at one row. -/
def rowReady (s : State) (g : Nat) : Bool :=
  match gangHeads s g with
  | some hs => hs.all (fun h => h.e.joined) && allSame (hs.map fun h => (h.e.e, h.e.j, h.e.row))
  | none => false

/-- The A row at position 0: its codes and the scale of each block (0x0000 where A is unscaled). -/
def aRow (k : Core) (h : Head) (L : Nat) : List Nat × List Nat :=
  let K := mmulK h.km1
  let u : RUse := ⟨k.view.p h.pa, k.view.org h.pa, h.e.afmt, K, false, 0⟩
  (useCodes k u, (List.range ((K + L - 1) / L)).map fun b => if fmtScaled u.fmt then useScale k u (b * L) else 0)

/-- Element (k, l) of a slice's B, and the scale of K-row k of column l. -/
def bElem (k : Core) (base i l : Nat) : Nat := (memByte k.loc ((24 + base + i / 1024) * 65536 + 64 * (i % 1024) + l)).toNat
def bScale (k : Core) (base i l L : Nat) : Nat :=
  natOfBytes (memRead k.sidecar ((24 + base + i / 1024) * 2048 + 32 * l + 2 * (i % 1024 / L)) 2)

/-- The block length (R246). -/
def mmulL (fa fb : Half) : Nat := if fmtScaled fa then fmtBlen fa else if fmtScaled fb then fmtBlen fb else 256

/-- A lane takes its blocks in ascending order (R60). -/
def laneBlocks (k : Core) (fa fb : Half) (rm : Rm) (base l L K : Nat) (codes scales : List Nat) : Nat → LaneAcc → LaneAcc
  | 0, t => t
  | n + 1, t =>
    let t1 := laneBlocks k fa fb rm base l L K codes scales n t
    let A := fmtOf fa
    let B := fmtOf fb
    let ps := ((codes.drop (n * L)).take L).zipIdx.map fun q =>
      (q.1 % 2 ^ A.width, bElem k base (n * L + q.2) l % 2 ^ B.width)
    if k.wide.acc.int then blockInt A B ps t1
    else blockFp A B rm (scales.getD n 0) (if fmtScaled fb then bScale k base (n * L) l L else 0) ps t1

/-- The status word of a row after a product's row (R29, R247). -/
def rowStatus (old : Half) (f : FFlags) (ovi : Nat) : Half :=
  let v := old.toNat
  BitVec.ofNat 32 (min 65535 (bits v 16 16 + ovi) * 65536 + (if nbit v 5 || 0 < ovi then 32 else 0) + ((BitVec.ofNat 5 v) ||| f).toNat)

/-- One slice adds one row (R247). -/
def sliceRow (s : State) (c : Nat) (h : Head) (codes scales : List Nat) (L : Nat) : State :=
  let k := s.core c
  let base := mcBase k.wide.mcfg
  let fb := tget 0 k.tags (24 + base)
  let K := mmulK h.km1
  let r := h.d + h.e.row
  let ls := (accRow k.wide.acc r).zipIdx.map fun q =>
    laneBlocks k h.e.afmt fb h.e.rm base q.2 L K codes scales ((K + L - 1) / L) ⟨q.1, 0, 0⟩
  let f := (ls.map (·.flags)).foldl (· ||| ·) 0
  let o := (ls.map (·.ovi)).foldl (· + ·) 0
  let s1 := s.updCore c fun k =>
    let a := setRow k.wide.acc r (ls.map (·.lane))
    { k with wide := { k.wide with acc := { a with st := lset a.st r (rowStatus (a.st.getD r 0) f o) } } }
  wideCycles (count (s1.updCtx c 0 fun x => x.orFlags s.cycle f) c 3 1) c

/-- MMUL_ROW_BROADCAST (R245, R247, R249): one A row in all six slices; after the last one the MMULs complete. -/
def execMmulRowBroadcast (g : Nat) (s : State) : Ans :=
  .next (
    match rowReady s g, gangHeads s g with
    | true, some hs =>
      match hs with
      | h0 :: _ =>
        let k0 := s.core (gangCore g 0)
        let fb (p : Nat) : Half := let k := s.core (gangCore g p); tget 0 k.tags (24 + mcBase k.wide.mcfg)
        let s1 := hs.zipIdx.foldl (fun t h =>
          let L := mmulL h0.e.afmt (fb h.2)
          let a := aRow k0 h0 L
          let c := gangCore g h.2
          let t1 := sliceRow t c h.1 a.1 a.2 L
          let t2 := if h.2 = 0 then t1.updCore c fun k => stepPa k h0.pa 1 else t1
          if h.1.e.row + 1 < h.1.n then setHead t2 c { h.1.e with row := h.1.e.row + 1 } else popHead t2 c) s
        s1
      | [] => s
    | _, _ => s)

end Sys2Proof.Machine
end

