-- ==== Sys2Proof/Machine/Trace.lean ====
section
/-!
DEFINITION. Trace and replay (18_debug_trace_replay.md R426-R440): samples, counters, segments, the power-gate, and the end of
a replay log.
-/

namespace Sys2Proof.Machine

open Sys2Proof

/-! ## SAMPLE and COUNT (R427) -/

/-- The state of a context in a SAMPLE. -/
def sampleState (w : Wait) : Nat := match w with
  | .select _ _ _ => 1
  | .phase _ => 1
  | .gang => 1
  | .mbw _ _ => 2
  | .mbr _ _ => 2
  | .fetch _ _ => 3
  | .walk _ a => if a = .fetch then 3 else 4
  | .wideFull => 5
  | .rand _ => 6
  | .halt => 6
  | _ => 4

/-- The core has issued in the cycle of its next SAMPLE. -/
def issuedThen (k : Core) : Bool := k.issuedAt == some (BitVec.ofNat 64 k.dbg.sampleAt)

/-- The cycle of a core's next SAMPLE is over: nothing of it is still to issue, and nothing of a later one issues before the record is made. -/
def samplePast (s : State) (c : Nat) : Bool :=
  let d := (s.core c).dbg
  traceSper d.trctl != 0 && d.sampleAt < s.cycle.toNat

/-- A SAMPLE is due: its cycle is over, or the core has issued in it. -/
def sampleDue (s : State) (c : Nat) : Bool :=
  let k := s.core c
  samplePast s c || (traceSper k.dbg.trctl != 0 && issuedThen k && decide (k.dbg.sampleAt ≤ s.cycle.toNat))

/-- TRACE_SAMPLE: the context that issued in the sample's cycle, or the control context if none issued. Each period has its record. -/
def execTraceSample (core : Nat) (s : State) : Ans :=
  .next (
    let k := s.core core
    let d := k.dbg
    let last := (k.rr + 10) % 11
    let hit := issuedThen k
    let x := if hit then last else 0
    let s1 := s.traceIf core x 2 (if hit then 0 else sampleState (k.ctx 0).wait) [(k.ctx x).pc, BitVec.ofNat 64 d.sampleAt]
    updDbg s1 core fun d => { d with sampleAt := d.sampleAt + 2 ^ traceSper d.trctl })

/-- A COUNT record is due. -/
def countDue (s : State) (c : Nat) : Bool :=
  let d := (s.core c).dbg
  traceCper d.trctl != 0 && d.countAt ≤ s.cycle.toNat

def execTraceCountRecord (core : Nat) (s : State) : Ans :=
  .next (updDbg (s.traceIf core 0 10 0 (s.core core).dbg.counts) core fun d =>
    { d with countAt := d.countAt + 2 ^ (16 + traceCper d.trctl) })

/-! ## Segments (R430-R433) -/

/-- A record as bytes (R426). -/
def recData (r : TraceRec) : List Byte :=
  let n := recBytes r
  let head := bytesOfNat 8 r.time ++
    bytesOfNat 8 (r.ty * 2 ^ 58 + (if n = 64 then 2 ^ 57 else 0) + r.gid % 2 ^ 26 * 2 ^ 26 + r.arg % 2 ^ 26)
  (head ++ (r.payload.flatMap fun (w : Word) => bytesOfNat 8 w.toNat) ++ List.replicate 64 0).take n

/-- The bytes of a segment up to its digest. DESIGN CHOICE (log 37): TIME and GID of the PAD records that fill it are 0. -/
def segBody (s : State) (k st : Nat) (m : Stream) : List Byte :=
  let recs := m.recs.flatMap recData
  bytesOfNat 8 m.seq ++ bytesOfNat 4 (st * 2 ^ 17 + s.dev * 32 + k) ++ bytesOfNat 4 m.ovw ++
    bytesOfNat 8 ((m.recs.head?).elim 0 (·.time)) ++ bytesOfNat 8 m.lossAt ++ List.replicate 32 0 ++
    (recs ++ List.replicate (segmentRoom - recs.length) 0) ++
    bytesOfNat 8 m.seq ++ bytesOfNat 8 ((m.recs.getLast?).elim 0 (·.time)) ++ m.prev ++ List.replicate (48 - m.prev.length) 0

def stream (s : State) (k st : Nat) : Stream := tget Stream.reset (s.cluster k).streams st
def setStream (s : State) (k st : Nat) (m : Stream) : State :=
  s.setCluster k { s.cluster k with streams := tput (s.cluster k).streams st m }

/-- There is a slot to go on in: stream 1 never overwrites (R440). -/
def canSeal (m : Stream) (st : Nat) : Bool := m.slots != 0 && !m.recs.isEmpty && (st == 0 || m.sealed.length + 1 < m.slots)

/-- Drains the buffers of a cluster. -/
def drainCluster (s : State) (k : Nat) : State := (clusterCores k).foldl (fun t c => t.drainTrace c) s

/-- Seals the open segment and opens the next: in a free slot, or in that of the oldest unsent segment, which is lost (R432). -/
def sealStream (s : State) (k st : Nat) : State :=
  let m := stream s k st
  let body := segBody s k st m
  let digest := shake256 32 body
  let pa := m.base + m.slot * 2 ^ 20
  let s1 := (homeWrite s 0 pa (body ++ digest ++ List.replicate 32 0)).emit (.segment k st m.seq pa)
  let all := m.sealed ++ [(m.slot, m.seq)]
  let lost := m.slots ≤ all.length
  let left := if lost then all.drop 1 else all
  let next := ((List.range m.slots).find? fun i => !left.any fun e => e.1 == i).getD 0
  drainCluster (setStream s1 k st
    { m with seq := m.seq + 1, ovw := if lost then min (2 ^ 32 - 1) (m.ovw + 1) else m.ovw, recs := [], lossAt := (s.cluster k).loss,
             prev := digest, sealed := left, slot := next }) k

/-- The open segment of a stream is full: the next record of the buffer does not fit. -/
def sealDue (s : State) (k st : Nat) : Bool :=
  let m := stream s k st
  canSeal m st && (match (s.cluster k).buffer.find? fun r => streamOf r == st with
    | some r => segmentRoom < recsBytes m.recs + recBytes r
    | none => false)

def execSegmentSeal (cluster stream : Nat) (s : State) : Ans :=
  .next (if sealDue s cluster stream then sealStream s cluster stream else s)

/-- Seals what is open, where it may. -/
def flushStream (s : State) (k st : Nat) : State := if canSeal (stream s k st) st then sealStream s k st else s
def flushTrace (s : State) (k : Nat) : State := flushStream (flushStream (drainCluster s k) k 0) k 1

/-- SEGMENT_WRITE_ACK: the slot of the oldest unsent segment is free. -/
def execSegmentWriteAck (cluster st : Nat) (s : State) : Ans :=
  .next (
    let m := stream s cluster st
    drainCluster (setStream s cluster st { m with sealed := m.sealed.drop 1 }) cluster)

/-- The LOSS record with the TIME of a power-gate (R433). -/
def gateLoss (s : State) (k lost time : Nat) : TraceRec :=
  ⟨s.time.toNat, 11, gidOf s.dev (firstCore k) 0, 0, [BitVec.ofNat 64 lost, BitVec.ofNat 64 time]⟩

/-- POWER_GATE: the open segments are sealed, twice, so that what the buffers drain into the next ones is sealed too; the records left are
lost. -/
def execPowerGate (cluster : Nat) (s : State) : Ans :=
  .next (
    let s1 := flushTrace (flushTrace s cluster) cluster
    let left := (s1.cluster cluster).buffer.length + ((clusterCores cluster).map fun c => (s1.core c).enc.length).foldl (· + ·) 0
    let s2 := (clusterCores cluster).foldl (fun t c => t.updCore c fun k => { k with enc := [] }) s1
    let g := s2.cluster cluster
    let m := tget Stream.reset g.streams 0
    let t := s.time.toNat
    let streams := if m.slots = 0 then g.streams else tput g.streams 0 { m with recs := m.recs ++ [gateLoss s cluster left t] }
    s2.setCluster cluster
      { g with buffer := [], loss := g.loss + left, streams := streams, gated := if m.slots = 0 then some t else none })

/-- A staging ring is set up (R430): an empty ring, whose first segment opens with the LOSS record of a power-gate. -/
def setupStream (s : State) (k st base slots : Nat) : State :=
  let g := s.cluster k
  let m := tget Stream.reset g.streams st
  let recs := match g.gated with
    | some t => if st = 0 then [gateLoss s k g.loss t] else []
    | none => []
  drainCluster (s.setCluster k
    { g with gated := if st = 0 then none else g.gated,
             streams := tput g.streams st { m with base := base, slots := slots, recs := recs ++ m.recs, sealed := [], slot := 0,
                                                   lossAt := g.loss } }) k

/-! ## The end of a replay log (R439) -/

/-- The log of a replayed workgroup has ended. -/
def logEnded (s : State) (n : Nat) (w : Wg) : Bool := decide (w.mode = .replay) && !w.saved && !logLeft s n w

/-- REPLAY_LOG_END: every core of the workgroup stops with WHY 6. -/
def execReplayLogEnd (part wg : Nat) (s : State) : Ans :=
  .next (match wgNamed s part wg with
    | some (n, w) => if logEnded s n w then stopCores 6 w.cores { s with wgs := tput s.wgs n { w with mode := .off } } else s
    | none => s)

end Sys2Proof.Machine
end

