-- ==== Sys2Proof/Machine/Probe.lean ====
section
/-!
DEFINITION. The coloured probe and the detection of stalls (06_events_and_execution.md R191-R194; 17_launch_preemption_traps.md
R410, R411).
-/

namespace Sys2Proof.Machine

open Sys2Proof

/-! ## Which probes circle (R192) -/

/-- The number of a domain's probe, and its scope and domain. -/
def probeId (scope dom : Nat) : Nat := scope * 2 ^ 13 + dom
def probeScope (i : Nat) : Nat := i / 2 ^ 13
def probeDom (i : Nat) : Nat := i % 2 ^ 13

/-- The probes: one for each launch domain, and for each structural domain that has a phase event. -/
def probeIds (s : State) : List Nat :=
  (s.homes.filter fun h => isPhaseName s h.1.name).foldl (fun t h => nadd t (probeId (nameScope h.1.name) (nameDom h.1.name)))
    (s.ldoms.foldl (fun t l => if l.2.running && l.2.scope != 0 then nadd t (probeId l.2.scope l.1) else t) [])

/-- The partition of a domain. -/
def domPart (s : State) (scope dom : Nat) : Option Nat := match tfind s.ldoms dom with
  | some l => some l.part
  | none => (s.parts.find? fun p => domainValid s (some p.1) scope dom).map (·.1)

/-- The member routers on this device, in ascending order. -/
def probeMembers (s : State) (i : Nat) : List Nat :=
  let c := match domPart s (probeScope i) (probeDom i) with
    | some p => (partCores s p).headD 0
    | none => 0
  ((domMembers s c (probeScope i) (probeDom i)).filter fun g => gidDev g == s.dev).map gidCore

/-- A probe that has not begun. -/
def newProbe (i : Nat) : Probe := ⟨probeScope i, probeDom i, [], 0, false, 0, [], true, false, false⟩

/-! ## Stalls (R194, R411) -/

/-- A wait for an occurrence: in SELECT, or in PHASE or GANG, which wait in SELECT for this (R220). -/
def waitsSelect : Wait → Bool
  | .select _ _ _ => true
  | .phase _ => true
  | .gang => true
  | _ => false

/-- The latches on which a context of a core waits: its own, and those of the exchange sequencer for the control context in PHASE. -/
def waitLatches (s : State) (c x : Nat) : List LatchId :=
  ctxLatch s c x :: match x, (s.core c).exch with
    | 0, some e => e.left.map (exchLatch s c)
    | _, _ => []

/-- Every live context of a core waits in SELECT, and no latch of one holds an enable notice. -/
def coreStill (s : State) (c : Nat) : Bool :=
  (s.core c).ctxs.all fun e => !e.2.live ||
    (waitsSelect e.2.wait && (waitLatches s c e.1).all fun l => (s.latch l).notices.isEmpty)

/-- The blocked offers of cores: ID, name, direction, by ID and then slot. -/
def blockedOffers (s : State) (cs : List Nat) : List (Gid × Nat × Dir) :=
  cs.flatMap fun c => (s.core c).ctxs.flatMap fun e =>
    if e.2.live then (waitLatches s c e.1).flatMap fun l => (s.latch l).offers.map fun o => (gidOf s.dev c e.1, o.1.name, o.2.dir)
    else []

def dirCode : Dir → Nat
  | .sync => 0
  | .give => 1
  | .take => 2
  | .both => 3

/-- The STALL record. -/
def stallRecord (s : State) (i : Nat) (os : List (Gid × Nat × Dir)) : List Byte :=
  bytesOfNat 4 (ename (probeScope i) (probeDom i) 0) ++
    bytesOfNat 4 ((if 4094 < os.length then 2 ^ 31 else 0) + min os.length 4094) ++ bytesOfNat 8 s.time.toNat ++
    (os.take 4094).flatMap fun o => bytesOfNat 8 (o.2.1 * 2 ^ 32 + dirCode o.2.2 * 2 ^ 26 + o.1)

/-- STALL is raised: the record in its slot, and the cause at the lead core. -/
def raiseStall (s : State) (i : Nat) (cs : List Nat) : State :=
  match domPart s (probeScope i) (probeDom i) with
  | none => s
  | some p => match tfind s.parts p with
    | none => s
    | some q =>
      let pa := q.spill.1 + q.spill.2 - 65536 + q.stalls % 2 * 32768
      let s1 := homeWrite s q.key pa (stallRecord s i (blockedOffers s cs))
      let s2 : State := { s1 with parts := tput s1.parts p { q with stalls := q.stalls + 1 } }
      s2.updCtx q.lead 0 fun k => { k with pend := k.pend ++ [{ cause 0x22 (BitVec.ofNat 64 pa) with isAsync := true }] }

/-! ## A visit (R192, R193) -/

/-- The events of the domain that are enabled now. -/
def domEnabled (s : State) (i : Nat) : List (EvKey × Stamp) :=
  s.homes.filterMap fun h =>
    if nameScope h.1.name = probeScope i ∧ nameDom h.1.name = probeDom i ∧ isEnabled h.2 then h.2.stamp.map fun t => (h.1, t)
    else none

/-- A drained circuit releases the events that were enabled when it began and have been since. -/
def markDrained (s : State) (es : List (EvKey × Stamp)) : State :=
  es.foldl (fun t e => match t.home e.1 with
    | some h => if isEnabled h && h.stamp == some e.2 then t.setHome e.1 { h with drained := true } else t
    | none => t) s

/-- A core of the domain is being stopped or is stopped (R416). -/
def anyStopped (s : State) (cs : List Nat) : Bool := cs.any fun c => match (s.core c).run with
  | .stopped => true
  | .stopping _ _ _ => true
  | _ => false

/-- A domain has members on other devices: the probe goes round their routers too (R192, R451). -/
def farDomain (s : State) (i : Nat) : Bool :=
  let c := match domPart s (probeScope i) (probeDom i) with
    | some p => (partCores s p).headD 0
    | none => 0
  (domMembers s c (probeScope i) (probeDom i)).any fun g => gidDev g != s.dev

/-- What a circuit has met on other devices: nothing where the domain has no member there, else free (log 23). -/
def metFar (s : State) (i : Nat) : Int × Bool × Bool := if farDomain s i then Config.farRouters s.draws else (0, false, true)

/-- The end of a circuit. -/
def endCircuit (s : State) (i : Nat) (p : Probe) : State :=
  let cs := p.members
  let far := metFar s i
  let drained := !p.black && !far.2.1 && p.sum + far.1 == 0
  let quiet := drained && p.still && far.2.2 && cs.all (coreStill s)
  let s1 := if drained then markDrained s p.enabled else s
  let hit := quiet && p.quiet && !p.stalled && !anyStopped s cs && !(blockedOffers s cs).isEmpty
  let s2 := if hit then raiseStall s1 i cs else s1
  let q := { p with
    members := probeMembers s2 i, pos := 0, black := false, sum := 0, enabled := domEnabled s2 i, still := true, quiet := quiet,
    stalled := p.stalled || hit }
  { s2 with probes := tput s2.probes i q }

/-- What a router's count adds to a probe's sum: traffic with routers outside the domain counts until it is complete (R192). -/
def countAt (members : List Nat) (k : Core) : Int :=
  ((k.edge.filter fun e => !members.contains e.1).map (·.2)).foldl (· - ·) k.sent

/-- PROBE_ROUTER_VISIT: the probe visits the next router of its circuit. -/
def execProbeRouterVisit (probe : Nat) (s : State) : Ans :=
  .next (
    let p := match tfind s.probes probe with
      | some p => p
      | none => { newProbe probe with members := probeMembers s probe, enabled := domEnabled s probe }
    match p.members[p.pos]? with
    | none => endCircuit s probe p
    | some c =>
      let k := s.core c
      let q := { p with pos := p.pos + 1, black := p.black || k.active, sum := p.sum + countAt p.members k, still := p.still && coreStill s c }
      let s1 := s.setCore c { k with active := false }
      if q.pos < q.members.length then { s1 with probes := tput s1.probes probe q } else endCircuit s1 probe q)

end Sys2Proof.Machine
end

