-- ==== Sys2Proof/Machine/Partitions.lean ====
section
/-!
DEFINITION. Partitions and configuration requests (22_front_end_firmware_security.md R473-R478): the requests of the rings, with
the status written into each record, partition boot and the end of a partition.
-/

namespace Sys2Proof.Machine

open Sys2Proof

/-! ## Records (R474) -/

/-- Writes the status byte of a record: 1 done, 2 refused. One more record of its ring has been handled. -/
def answerRef (s : State) (r : CfgRef) (ok : Bool) : State :=
  let t := homeWrite s r.key (r.addr + 1) [if ok then 1 else 2]
  if r.owner = 0 then { t with isaRing := t.isaRing.map fun q => { q with handled := (q.handled + 1) % 2 ^ 64 } }
  else match tfind t.parts (r.owner - 1) with
    | some q => { t with parts := tput t.parts (r.owner - 1) { q with handled := (q.handled + 1) % 2 ^ 64 } }
    | none => t

/-- The tail count that a requester has stored to its ring's doorbell differs from what has been handled: there is a record to handle. Owner 33,
the trace service, has no ring. -/
def ringHas (s : State) (owner : Nat) : Bool :=
  if owner = 33 then true
  else if owner = 0 then (match s.isaRing with
    | some q => natOfBytes (homeBytes s 0 q.bell 8) != q.handled
    | none => false)
  else match tfind s.parts (owner - 1) with
    | some q => natOfBytes (homeBytes s q.key q.bell 8) != q.handled
    | none => false

/-- A request of H: does what it asks where it is allowed. -/
def hRequest (s : State) (r : CfgRef) (ok : Bool) (f : State → State) : State :=
  if r.owner = 0 ∧ ok then answerRef (f s) r true else answerRef s r false

/-- The requester owns a resource of a partition: Isastan, or the partition itself. -/
def ownsPart (r : CfgRef) (p : Nat) : Bool := r.owner == 0 || r.owner == p + 1

/-! ## Create and destroy (R473, R475-R477) -/

/-- The words of a region register keep their reserved bits zero (R268). -/
def regionW0 (v : Word) : Word := v &&& 0x83FFFFFFFFFFF007
def regionW1 (v : Word) : Word := v &&& 0x000FFFFFFFFFF000

def setRegion (s : State) (k n : Nat) (w0 w1 : Word) : State :=
  s.setCluster k { s.cluster k with regions := tput (s.cluster k).regions n (regionW0 w0, regionW1 w1) }

/-- Nothing of a list is held by another partition. -/
def unshared (s : State) (p : Nat) (f : Partition → List Nat) (xs : List Nat) : Bool :=
  s.parts.all fun q => q.1 == p || !(xs.any fun x => (f q.2).contains x)

/-- A create request that the rules allow. -/
def createOk (s : State) (p : PartSpec) : Bool :=
  (tfind s.parts p.part).isNone && p.part < 32 && !p.clusters.isEmpty && p.clusters.all (· < 24) &&
    unshared s p.part (·.clusters) p.clusters && !p.classes.isEmpty && p.classes.all (· < 16) &&
    unshared s p.part (·.classes) p.classes && 1 ≤ p.key && p.key < 64 && (s.parts.all fun q => q.2.key != p.key) &&
    p.queues.all (· < 64) && unshared s p.part (·.queues) p.queues && 2 ^ 20 ≤ p.spill.2 &&
    (p.regions.all fun r => p.clusters.contains r.1 && r.2.1.toNat < 2 ^ 64) &&
    p.clusters.all fun k => (p.regions.filter fun r => r.1 == k).length ≤ 8

/-- The core of lowest global ID among clusters. -/
def leadOf (ks : List Nat) : Nat := ks.foldl (fun c k => min c (firstCore k)) 575

/-- The system image's context: at S, with the ring's address in X2; bits [1:0] of the PC are always zero (R69). -/
def bootCtx (p : PartSpec) : Ctx :=
  xwrite { Ctx.reset with live := true, pc := p.entry &&& ~~~3, priv := .s, cclass := BitVec.ofNat 4 (p.classes.headD 0) } 2
    (BitVec.ofNat 64 p.ring)

/-- Gives a queue to a partition. -/
def giveQueue (p : Nat) (s : State) (q : Nat) : State := s.setQueue q { s.queue q with en := true, part := p }

/-- PARTITION_BOOT (R476). -/
def bootPartition (s : State) (p : PartSpec) : State :=
  let lead := leadOf p.clusters
  let s1 := (p.clusters.flatMap clusterCores).foldl scrub s
  let s2 := (p.regions.zipIdx).foldl (fun t r =>
    let n := ((p.regions.take r.2).filter fun q => q.1 == r.1.1).length
    setRegion t r.1.1 n r.1.2.1 r.1.2.2) s1
  let s3 : State := { s2 with
    keyGen := tput s2.keyGen p.key (tget 0 s2.keyGen p.key + 1),
    parts := tput s2.parts p.part
      ⟨p.clusters, p.classes, p.key, p.queues, p.hostRanges, p.spill, p.save, p.ring, p.bell, lead, p.set, p.peers, 0, 0⟩ }
  (p.queues.foldl (giveQueue p.part) s3).updCore lead fun k =>
    let q := k.keepFlags true
    { q with ctxs := [(0, bootCtx p)], endFlags := tdel q.endFlags 0, rr := 0, part := some p.part, lastPart := some p.part, run := .running,
             sysdom := BitVec.ofNat 13 (p.set.elim 0 (·.1)), sysv := p.set.isSome, hdeleg := k.hdeleg ||| ((1 : Word) <<< (0x22 : Nat)) }

/-- CREATE_PARTITION. -/
def execCreatePartition (ref : CfgRef) (p : PartSpec) (s : State) : Ans :=
  .next (hRequest s ref (createOk s p) fun t => bootPartition t p)

/-- The lines of a key go without write-back, in the LLC and in the L1s, and with them the exact sums that they hold (R309, R477). -/
def dropKeyLines (s : State) (key : Nat) : State :=
  { s with llc := s.llc.filter fun l => l.2.key != key,
           fsums := s.fsums.filter fun e => (tget (0, 0) s.keyTag (e.1 / 256)).1 != key,
           cores := s.cores.map fun c => (c.1, { c.2 with l1 := c.2.l1.filter fun e => e.2.key != key }) }

/-- A message to a home, or a fill, under a key. -/
def underKey (key : Nat) : Instr → Bool
  | .updPartialCombine m => m.key == key
  | .amoAtHome _ _ r => r.key == key
  | .l1SectorFill _ _ k => k == key
  | .llcFill _ k _ _ => k == key
  | _ => false

/-- Stores of a core under a key that its router counts: straight to the home, and partials on their way (R191). -/
def countedUnder (s : State) (key c : Nat) : Nat :=
  ((s.core c).stbuf.filter fun e => e.direct && isGddr e.pa && e.key == key).length + (s.agenda.filter fun i => match i with
    | .updPartialCombine m => m.core == c && m.key == key
    | _ => false).length

/-- Stores, partials and fills under a destroyed key that are in flight are discarded (R477). -/
def dropKeyWork (s : State) (key : Nat) : State :=
  { s with agenda := s.agenda.filter fun i => !underKey key i,
           cores := s.cores.map fun c => (c.1, { c.2 with
             stbuf := c.2.stbuf.filter fun e => !(isGddr e.pa && e.key == key),
             sent := c.2.sent - (countedUnder s key c.1 : Nat) }) }

/-- The contexts of a partition's clusters offer nothing more. -/
def idleClusters (s : State) (ks : List Nat) : State :=
  (s.latches.filter fun l => gidDev l.1.gid == s.dev && isCtxLatch l.1 && ks.contains (clusterOf (gidCore l.1.gid))).foldl
    (fun t l => idleLatch t l.1) s

/-- DESTROY_PARTITION (R477): the key is gone, its lines too, and every workgroup ends without a record. -/
def destroy (s : State) (p : Nat) (q : Partition) : State :=
  let s0 := idleClusters { s with keyGen := tput s.keyGen q.key (tget 0 s.keyGen q.key + 1) } q.clusters
  let s1 := dropKeyLines (dropKeyWork s0 q.key) q.key
  let s2 := (s1.wgs.filter fun w => w.2.part == p).foldl (fun t w => match tfind t.wgs w.1 with
    | some v => dropWg t w.1 v
    | none => t) s1
  let s3 := (q.clusters.flatMap clusterCores).foldl (fun t c => t.updCore c fun k =>
    let q := k.keepFlags true
    { q with ctxs := [], wg := none, part := none, image := none, parked := none, exch := none, run := .running }) s2
  let s4 := q.queues.foldl (fun t n => t.setQueue n { t.queue n with en := false, part := 0, stage := .idle, recs := [], offers := [],
                                                                     drained := [] }) s3
  dropKeyLines { s4 with parts := tdel s4.parts p } q.key

def execDestroyPartition (ref : CfgRef) (part : Nat) (s : State) : Ans :=
  .next (match tfind s.parts part with
    | some q => hRequest s ref true fun t => destroy t part q
    | none => hRequest s ref false id)

/-! ## The other requests (R475) -/

/-- WRITE_REGION_REGISTER. -/
def execWriteRegionRegister (ref : CfgRef) (cluster n : Nat) (w0 w1 : Word) (s : State) : Ans :=
  .next (hRequest s ref (cluster < 24 && n < 8) fun t => setRegion t cluster n w0 w1)

/-- The sum of the quotas after an assignment (R282). -/
def quotaSum (t : Tbl Nat) : Nat := (t.map (·.2)).foldl (· + ·) 0
def newQuotas (s : State) (a : AssignSpec) : Tbl Nat := a.quotas.foldl (fun t q => tput t q.1 q.2) s.quotas

/-- An assignment that the rules allow. -/
def assignOk (s : State) (a : AssignSpec) : Bool :=
  (tfind s.parts a.part).isSome && !a.classes.isEmpty && a.classes.all (· < 16) && unshared s a.part (·.classes) a.classes &&
    a.quotas.all (fun q => a.classes.contains q.1) && quotaSum (newQuotas s a) ≤ 16 &&
    a.queues.all (fun q => q.1 < 64 && 1 ≤ q.2.1 && q.2.1 ≤ 65535 && q.2.2 ≤ 3) &&
    unshared s a.part (·.queues) (a.queues.map (·.1))

/-- The lines of classes that a partition loses go (R283). -/
def dropClasses (s : State) (cs : List Nat) : State :=
  (s.llc.filter fun l => cs.contains l.2.cls).foldl (fun t l =>
    settle { t with llc := tdel t.llc l.1 } (l.1 * 1024) 1024) s

/-- ASSIGN_RESOURCES: classes with quotas, queues with ageing time and priority, host ranges. -/
def assign (s : State) (a : AssignSpec) : State :=
  match tfind s.parts a.part with
  | none => s
  | some q =>
    let s1 := dropClasses s (q.classes.filter fun c => !a.classes.contains c)
    let s2 : State := { s1 with
      quotas := newQuotas s1 a,
      parts := tput s1.parts a.part { q with classes := a.classes, queues := a.queues.map (·.1), hostRanges := a.hostRanges } }
    let s3 := (q.queues.filter fun n => !(a.queues.any fun e => e.1 == n)).foldl (fun t n =>
      t.setQueue n { t.queue n with en := false }) s2
    a.queues.foldl (fun t e => t.setQueue e.1 { t.queue e.1 with en := true, part := a.part, age := e.2.1, prio := e.2.2 }) s3

def execAssignResources (ref : CfgRef) (a : AssignSpec) (s : State) : Ans :=
  .next (hRequest s ref (assignOk s a) fun t => assign t a)

/-- The replay mode of a code. -/
def replayOf (n : Nat) : Replay := if n = 1 then .record else if n = 2 then .replay else .off

/-- A ring that a request may set up, and a replay mode. -/
def traceOk (s : State) (t : TraceSpec) : Bool :=
  (t.slots == 0 || (t.cluster < 24 && t.stream < 2 && 2 ≤ t.slots && t.slots ≤ 64 && t.base + t.slots * 2 ^ 20 ≤ 96 * 2 ^ 30)) &&
    (match t.wg with
      | some (p, mode, _) => (tfind s.parts p).isSome && mode ≤ 2
      | none => true)

/-- SETUP_TRACE_REPLAY (R430, R435). -/
def execSetupTraceReplay (ref : CfgRef) (t : TraceSpec) (s : State) : Ans :=
  .next (hRequest s ref (traceOk s t) fun u =>
    let u1 := if t.slots = 0 then u else setupStream u t.cluster t.stream t.base t.slots
    match t.wg with
    | some (p, mode, n) => { u1 with replayNext := tput u1.replayNext p (replayOf mode, n) }
    | none => u1)

/-- WRITE_ROUTING_TABLE (R446): up to four ports; none takes the entry away. -/
def execWriteRoutingTable (ref : CfgRef) (die dest : Nat) (ports : List Nat) (s : State) : Ans :=
  .next (hRequest s ref (die < 2 && dest < 4096 && ports.length ≤ 4 && ports.all (· < 18)) fun t =>
    reportLost t (t.setDie die { t.die die with routes := if ports.isEmpty then tdel (t.die die).routes dest else tput (t.die die).routes dest ports }))

/-- PREEMPT_WORKGROUP_REQUEST (R401): of Isastan, or of the workgroup's own partition. -/
def execPreemptWorkgroupRequest (ref : CfgRef) (part wg : Nat) (s : State) : Ans :=
  .next (match wgNamed s part wg with
    | some (_, w) => if ownsPart ref part ∧ !w.saved then answerRef (haltCores s w.cores) ref true else answerRef s ref false
    | none => answerRef s ref false)

/-- The requester may reach a debug block: Isastan, the core's partition, and the trace service for TRCTL alone. -/
def debugAllowed (s : State) (r : CfgRef) (core off : Nat) : Bool :=
  core < 576 && off < 128 && off % 8 == 0 &&
    (r.owner == 0 || (r.owner == 33 && off == 0x28) || (match clusterPart s (clusterOf core) with
      | some p => r.owner == p + 1
      | none => false))

/-- DEBUG_BLOCK_REQUEST (R412): a read, whose value goes out, or a write. -/
def execDebugBlockRequest (ref : CfgRef) (core off : Nat) (wr : Option Word) (s : State) : Ans :=
  .next (
    if !debugAllowed s ref core off then answerRef s ref false
    else match wr with
      | some v => answerRef (debugStore s core off v) ref true
      | none => let r := debugRead s core off; answerRef (r.2.emit (.debug core off r.1)) ref true)

/-- FLUSH_TRACE_REQUEST (R431). -/
def execFlushTraceRequest (ref : CfgRef) (cluster : Nat) (s : State) : Ans :=
  .next (
    if cluster < 24 && (ref.owner == 0 || ref.owner == 33 || (match clusterPart s cluster with
        | some p => ref.owner == p + 1
        | none => false))
    then answerRef (flushTrace s cluster) ref true else answerRef s ref false)

end Sys2Proof.Machine
end

