-- ==== Sys2Proof/Machine/System.lean ====
section
/-!
DEFINITION. The system instructions (04_control_instructions.md R125-R130).
-/

namespace Sys2Proof.Machine

open Sys2Proof

def execNop (s : State) : Ans := .next (s.pass .nop)

/-- The X registers that differ, with their new values. -/
def changedX (old new : Vector Word 32) : List (Nat × Word) :=
  (old.toList.zip new.toList).zipIdx.filterMap fun e => if e.1.1 = e.1.2 then none else some (e.2, e.1.2)

/-- One X register that a handler changed goes to the log, as index and value (R435 kind 7). -/
def logX (c x : Nat) (s : State) (e : Nat × Word) : State := (s.input c x (7 + 16 * e.1) e.2).2

/-- The logged changes that come next are applied (R436); `f` bounds them. -/
def replayX (c x : Nat) : Nat → State → State
  | 0, s => s
  | f + 1, s =>
    match s.wgOf c with
    | none => s
    | some (_, w) => match (ctxItems (gidOf s.dev c x) w.log)[(s.ctx c x).logPos]? with
      | some (.input _ k v) =>
        if k % 16 = 7 then
          replayX c x f (s.updCtx c x fun q =>
            { xwrite q (BitVec.ofNat 5 (k / 16)) v with logPos := q.logPos + 1 })
        else s
      | _ => s

/-- The return to U from a logged trap (R435, R436). -/
def eretLog (s : State) : State :=
  match s.wgOf s.cur.1, s.me.priv with
  | some (_, w), .u => match w.mode with
    | .off => s
    | .record => match s.me.trapX with
      | some old =>
        (changedX old s.me.x).foldl (logX s.cur.1 s.cur.2) (s.setMe { s.me with trapX := none })
      | none => s
    | .replay => replayX s.cur.1 s.cur.2 31 s
  | _, _ => s

/-- A handler at a level has returned: a fault into that level whose handler went elsewhere is logged now (R437). -/
def faultLog (level : Priv) (s : State) : State :=
  if (s.wgOf s.cur.1).all (·.2.mode == .off) then s
  else match tfind s.me.faults level.code with
    | none => s
    | some (code, pc, old) =>
      let t := s.setMe { s.me with faults := tdel s.me.faults level.code }
      if s.me.pc = pc then t else t.checkTrap s.cur.1 s.cur.2 code pc old

/-- ERET (R21, R126); in U it is illegal. -/
def execEret (s : State) : Ans :=
  .next (match s.me.priv with
    | .u => s.ill .eret 6
    | p => if s.replayFull s.cur.1 then s.hold .replay else eretLog (faultLog p (s.setMe (leaveTrap s.me))))

/-- BRK: a stop with WHY 2 under BRKSTOP, else BREAKPOINT (R127). -/
def execBrk (s : State) : Ans :=
  .next (if s.myCore.dbg.ctl.getLsbD 8 then s.stopFor 2 0 else s.trap (cause 0x03 s.me.pc))

/-- TRAP: SYSTEM_CALL with the code in TVAL (R128). -/
def execTrap (code : BitVec 12) (s : State) : Ans := .next (s.trap (cause 0x0D (code.setWidth 64)))

/-- HALT, step 1: the control context stops issuing (R129). -/
def execHalt (s : State) : Ans := .next (if s.cur.2 ≠ 0 then s.ill .halt 6 else s.hold .halt)

/-- The entropy of a RAND: fresh bits, an input of the replay log (R130, R435); whether the source then still holds
64 bits is free. -/
def randTake (s : State) (c x : Nat) : Word × State :=
  let v := Config.entropy s.draws
  let s1 := (s.updCore c fun k => { k with entropy := s.pick % 2 == 0 }).used
  s1.input c x 3 v

/-- RAND: 64 fresh bits, or a wait for them (R130). -/
def execRand (rd : Reg) (s : State) : Ans :=
  .next (
    if s.replayFull s.cur.1 then s.hold .replay
    else if !s.myCore.entropy then s.hold (.rand rd)
    else let r := randTake s s.cur.1 s.cur.2; r.2.ret (.rand rd) rd r.1)

/-- RAND_ENTROPY_READY: the source holds 64 bits again, and a waiting RAND completes (R130). -/
def execRandEntropyReady (core ctx : Nat) (s : State) : Ans :=
  .next (
    match (s.ctx core ctx).wait with
    | .rand rd =>
      let r := randTake s core ctx
      r.2.updCtx core ctx fun k => { advance (xwrite k rd r.1) 4 with wait := .none }
    | _ => s.updCore core fun k => { k with entropy := true })

end Sys2Proof.Machine
end

