-- ==== Sys2Proof/Machine/Dispatch.lean ====
section
/-!
DEFINITION. The meaning of every instruction: one arm per constructor, each one call.
-/

namespace Sys2Proof.Machine

open Sys2Proof

def exec (i : Instr) (s : State) : Host.Outcome State Fault Refusal :=
  match i with
  | .add rd rs1 rs2 => Sys2Proof.Machine.execAdd rd rs1 rs2 s
  | .sub rd rs1 rs2 => Sys2Proof.Machine.execSub rd rs1 rs2 s
  | .and rd rs1 rs2 => Sys2Proof.Machine.execAnd rd rs1 rs2 s
  | .or rd rs1 rs2 => Sys2Proof.Machine.execOr rd rs1 rs2 s
  | .xor rd rs1 rs2 => Sys2Proof.Machine.execXor rd rs1 rs2 s
  | .andn rd rs1 rs2 => Sys2Proof.Machine.execAndn rd rs1 rs2 s
  | .shl rd rs1 rs2 => Sys2Proof.Machine.execShl rd rs1 rs2 s
  | .shr rd rs1 rs2 => Sys2Proof.Machine.execShr rd rs1 rs2 s
  | .sar rd rs1 rs2 => Sys2Proof.Machine.execSar rd rs1 rs2 s
  | .rot rd rs1 rs2 => Sys2Proof.Machine.execRot rd rs1 rs2 s
  | .min rd rs1 rs2 => Sys2Proof.Machine.execMin rd rs1 rs2 s
  | .max rd rs1 rs2 => Sys2Proof.Machine.execMax rd rs1 rs2 s
  | .minu rd rs1 rs2 => Sys2Proof.Machine.execMinu rd rs1 rs2 s
  | .maxu rd rs1 rs2 => Sys2Proof.Machine.execMaxu rd rs1 rs2 s
  | .mul rd rs1 rs2 => Sys2Proof.Machine.execMul rd rs1 rs2 s
  | .mulh rd rs1 rs2 => Sys2Proof.Machine.execMulh rd rs1 rs2 s
  | .mulhu rd rs1 rs2 => Sys2Proof.Machine.execMulhu rd rs1 rs2 s
  | .div rd rs1 rs2 => Sys2Proof.Machine.execDiv rd rs1 rs2 s
  | .divu rd rs1 rs2 => Sys2Proof.Machine.execDivu rd rs1 rs2 s
  | .rem rd rs1 rs2 => Sys2Proof.Machine.execRem rd rs1 rs2 s
  | .remu rd rs1 rs2 => Sys2Proof.Machine.execRemu rd rs1 rs2 s
  | .cmp cond rd rs1 rs2 => Sys2Proof.Machine.execCmp cond rd rs1 rs2 s
  | .sel rd rc rs1 rs2 => Sys2Proof.Machine.execSel rd rc rs1 rs2 s
  | .clz rd rs1 => Sys2Proof.Machine.execClz rd rs1 s
  | .ctz rd rs1 => Sys2Proof.Machine.execCtz rd rs1 s
  | .popc rd rs1 => Sys2Proof.Machine.execPopc rd rs1 s
  | .bext rd rs1 rs2 => Sys2Proof.Machine.execBext rd rs1 rs2 s
  | .bins rd rs1 rs2 => Sys2Proof.Machine.execBins rd rs1 rs2 s
  | .movi rd imm => Sys2Proof.Machine.execMovi rd imm s
  | .moviLit rd lit => Sys2Proof.Machine.execMoviLit rd lit s
  | .addi rd rs1 imm => Sys2Proof.Machine.execAddi rd rs1 imm s
  | .addiLit rd rs1 lit => Sys2Proof.Machine.execAddiLit rd rs1 lit s
  | .andi rd rs1 imm => Sys2Proof.Machine.execAndi rd rs1 imm s
  | .andiLit rd rs1 lit => Sys2Proof.Machine.execAndiLit rd rs1 lit s
  | .ori rd rs1 imm => Sys2Proof.Machine.execOri rd rs1 imm s
  | .oriLit rd rs1 lit => Sys2Proof.Machine.execOriLit rd rs1 lit s
  | .xori rd rs1 imm => Sys2Proof.Machine.execXori rd rs1 imm s
  | .xoriLit rd rs1 lit => Sys2Proof.Machine.execXoriLit rd rs1 lit s
  | .shli rd rs1 sh => Sys2Proof.Machine.execShli rd rs1 sh s
  | .shri rd rs1 sh => Sys2Proof.Machine.execShri rd rs1 sh s
  | .sari rd rs1 sh => Sys2Proof.Machine.execSari rd rs1 sh s
  | .br cond rs1 off => Sys2Proof.Machine.execBr cond rs1 off s
  | .loop rs1 off => Sys2Proof.Machine.execLoop rs1 off s
  | .jmp off => Sys2Proof.Machine.execJmp off s
  | .jmpLit lit => Sys2Proof.Machine.execJmpLit lit s
  | .call rd off => Sys2Proof.Machine.execCall rd off s
  | .callLit rd lit => Sys2Proof.Machine.execCallLit rd lit s
  | .jr rd rs1 => Sys2Proof.Machine.execJr rd rs1 s
  | .ret => Sys2Proof.Machine.execRet s
  | .ld sz rt rb disp => Sys2Proof.Machine.execLd sz rt rb disp s
  | .ldLit sz rt rb lit => Sys2Proof.Machine.execLdLit sz rt rb lit s
  | .st sz rt rb disp => Sys2Proof.Machine.execSt sz rt rb disp s
  | .stLit sz rt rb lit => Sys2Proof.Machine.execStLit sz rt rb lit s
  | .ldp rt rb disp => Sys2Proof.Machine.execLdp rt rb disp s
  | .ldpLit rt rb lit => Sys2Proof.Machine.execLdpLit rt rb lit s
  | .stp rt rb disp => Sys2Proof.Machine.execStp rt rb disp s
  | .stpLit rt rb lit => Sys2Proof.Machine.execStpLit rt rb lit s
  | .pref hint rb disp => Sys2Proof.Machine.execPref hint rb disp s
  | .prefLit hint rb lit => Sys2Proof.Machine.execPrefLit hint rb lit s
  | .amo rt rb sz rv aop => Sys2Proof.Machine.execAmo rt rb sz rv aop s
  | .upd rb sz rv aop => Sys2Proof.Machine.execUpd rb sz rv aop s
  | .fadd rd rs1 rs2 d rm => Sys2Proof.Machine.execFadd rd rs1 rs2 d rm s
  | .fsub rd rs1 rs2 d rm => Sys2Proof.Machine.execFsub rd rs1 rs2 d rm s
  | .fmul rd rs1 rs2 d rm => Sys2Proof.Machine.execFmul rd rs1 rs2 d rm s
  | .fdiv rd rs1 rs2 d rm => Sys2Proof.Machine.execFdiv rd rs1 rs2 d rm s
  | .fsqrt rd rs1 d rm => Sys2Proof.Machine.execFsqrt rd rs1 d rm s
  | .fmin rd rs1 rs2 d => Sys2Proof.Machine.execFmin rd rs1 rs2 d s
  | .fmax rd rs1 rs2 d => Sys2Proof.Machine.execFmax rd rs1 rs2 d s
  | .fminm rd rs1 rs2 d => Sys2Proof.Machine.execFminm rd rs1 rs2 d s
  | .fmaxm rd rs1 rs2 d => Sys2Proof.Machine.execFmaxm rd rs1 rs2 d s
  | .fma rd rs1 rs2 rs3 d => Sys2Proof.Machine.execFma rd rs1 rs2 rs3 d s
  | .fcmp d cond rd rs1 rs2 => Sys2Proof.Machine.execFcmp d cond rd rs1 rs2 s
  | .fcvt rd rs1 tk fk rm => Sys2Proof.Machine.execFcvt rd rs1 tk fk rm s
  | .fclass rd rs1 d => Sys2Proof.Machine.execFclass rd rs1 d s
  | .csrr rd csr => Sys2Proof.Machine.execCsrr rd csr s
  | .csrw rd csr rs1 => Sys2Proof.Machine.execCsrw rd csr rs1 s
  | .csrs rd csr rs1 => Sys2Proof.Machine.execCsrs rd csr rs1 s
  | .csrc rd csr rs1 => Sys2Proof.Machine.execCsrc rd csr rs1 s
  | .mbw n rs1 => Sys2Proof.Machine.execMbw n rs1 s
  | .mbr rd n => Sys2Proof.Machine.execMbr rd n s
  | .mbq rd n => Sys2Proof.Machine.execMbq rd n s
  | .nop => Sys2Proof.Machine.execNop s
  | .eret => Sys2Proof.Machine.execEret s
  | .brk => Sys2Proof.Machine.execBrk s
  | .halt => Sys2Proof.Machine.execHalt s
  | .rand rd => Sys2Proof.Machine.execRand rd s
  | .trap code => Sys2Proof.Machine.execTrap code s
  | .vlda d a rm sat => Sys2Proof.Machine.execVlda d a rm sat s
  | .vsta sr a rm sat => Sys2Proof.Machine.execVsta sr a rm sat s
  | .vadd d sr b rm sat => Sys2Proof.Machine.execVadd d sr b rm sat s
  | .vsub d sr b rm sat => Sys2Proof.Machine.execVsub d sr b rm sat s
  | .vmul d sr b rm sat => Sys2Proof.Machine.execVmul d sr b rm sat s
  | .vfma d sr a b rm sat => Sys2Proof.Machine.execVfma d sr a b rm sat s
  | .vfms d sr a b rm sat => Sys2Proof.Machine.execVfms d sr a b rm sat s
  | .vmax d sr b => Sys2Proof.Machine.execVmax d sr b s
  | .vmin d sr b => Sys2Proof.Machine.execVmin d sr b s
  | .vabs d sr => Sys2Proof.Machine.execVabs d sr s
  | .vneg d sr => Sys2Proof.Machine.execVneg d sr s
  | .vclamp d sr a b => Sys2Proof.Machine.execVclamp d sr a b s
  | .vscale d sr b rm sat => Sys2Proof.Machine.execVscale d sr b rm sat s
  | .vdot d sr a b rm sat => Sys2Proof.Machine.execVdot d sr a b rm sat s
  | .vand d sr b => Sys2Proof.Machine.execVand d sr b s
  | .vor d sr b => Sys2Proof.Machine.execVor d sr b s
  | .vxor d sr b => Sys2Proof.Machine.execVxor d sr b s
  | .vshl d sr b => Sys2Proof.Machine.execVshl d sr b s
  | .vshr d sr b arith => Sys2Proof.Machine.execVshr d sr b arith s
  | .vsel d sr b n peek => Sys2Proof.Machine.execVsel d sr b n peek s
  | .vcmp n sr b cond => Sys2Proof.Machine.execVcmp n sr b cond s
  | .vperm d sr b => Sys2Proof.Machine.execVperm d sr b s
  | .vshuf d sr pat => Sys2Proof.Machine.execVshuf d sr pat s
  | .viota d => Sys2Proof.Machine.execViota d s
  | .vred n sr op => Sys2Proof.Machine.execVred n sr op s
  | .vbcast d n peek => Sys2Proof.Machine.execVbcast d n peek s
  | .vcvt sr b rm sat => Sys2Proof.Machine.execVcvt sr b rm sat s
  | .vcvtAuto sr b rm sat => Sys2Proof.Machine.execVcvtAuto sr b rm sat s
  | .vexp2 d sr => Sys2Proof.Machine.execVexp2 d sr s
  | .vlog2 d sr => Sys2Proof.Machine.execVlog2 d sr s
  | .vrcp d sr => Sys2Proof.Machine.execVrcp d sr s
  | .vrsq d sr => Sys2Proof.Machine.execVrsq d sr s
  | .vtanh d sr => Sys2Proof.Machine.execVtanh d sr s
  | .vsig d sr => Sys2Proof.Machine.execVsig d sr s
  | .pset n rs1 => Sys2Proof.Machine.execPset n rs1 s
  | .padd n rs1 => Sys2Proof.Machine.execPadd n rs1 s
  | .pget rd n => Sys2Proof.Machine.execPget rd n s
  | .fset n rs1 => Sys2Proof.Machine.execFset n rs1 s
  | .fget rd n => Sys2Proof.Machine.execFget rd n s
  | .acccfg rs1 => Sys2Proof.Machine.execAcccfg rs1 s
  | .acccfgKeep rs1 => Sys2Proof.Machine.execAcccfgKeep rs1 s
  | .accsw => Sys2Proof.Machine.execAccsw s
  | .rep cnt ni rowstep ptrstep => Sys2Proof.Machine.execRep cnt ni rowstep ptrstep s
  | .evdef rd rs1 => Sys2Proof.Machine.execEvdef rd rs1 s
  | .evdel rd rs1 => Sys2Proof.Machine.execEvdel rd rs1 s
  | .evstat rd rs1 rs2 => Sys2Proof.Machine.execEvstat rd rs1 rs2 s
  | .offerSync rn => Sys2Proof.Machine.execOfferSync rn s
  | .offerGive rn rg => Sys2Proof.Machine.execOfferGive rn rg s
  | .offerTake rt rn => Sys2Proof.Machine.execOfferTake rt rn s
  | .offerBoth rt rn rg => Sys2Proof.Machine.execOfferBoth rt rn rg s
  | .wdraw slot => Sys2Proof.Machine.execWdraw slot s
  | .wdrawAll => Sys2Proof.Machine.execWdrawAll s
  | .selectNb rd => Sys2Proof.Machine.execSelectNb rd s
  | .selectT rd => Sys2Proof.Machine.execSelectT rd s
  | .selectNbLimit rd lit => Sys2Proof.Machine.execSelectNbLimit rd lit s
  | .selectTLimit rd lit => Sys2Proof.Machine.execSelectTLimit rd lit s
  | .phase rd => Sys2Proof.Machine.execPhase rd s
  | .gang => Sys2Proof.Machine.execGang s
  | .spawn rd rs1 rs2 => Sys2Proof.Machine.execSpawn rd rs1 rs2 s
  | .hend => Sys2Proof.Machine.execHend s
  | .take rs1 rs2 => Sys2Proof.Machine.execTake rs1 rs2 s
  | .done rs1 rs2 => Sys2Proof.Machine.execDone rs1 rs2 s
  | .poolcfg rd rs1 rs2 => Sys2Proof.Machine.execPoolcfg rd rs1 rs2 s
  | .poolput rd rs1 rs2 => Sys2Proof.Machine.execPoolput rd rs1 rs2 s
  | .domset rs1 => Sys2Proof.Machine.execDomset rs1 s
  | .fifobind rs3 rs1 rs2 => Sys2Proof.Machine.execFifobind rs3 rs1 rs2 s
  | .mldb rs1 rs2 ft bank row0 sc nrm1 => Sys2Proof.Machine.execMldb rs1 rs2 ft bank row0 sc nrm1 s
  | .mmul d nrm1 pa pm1 z km1 => Sys2Proof.Machine.execMmul d nrm1 pa pm1 z km1 s
  | .mcfg rs1 => Sys2Proof.Machine.execMcfg rs1 s
  | .mstat rd sel => Sys2Proof.Machine.execMstat rd sel s
  | .mspill rs1 mask => Sys2Proof.Machine.execMspill rs1 mask s
  | .mfill rs1 mask => Sys2Proof.Machine.execMfill rs1 mask s
  | .fenceL => Sys2Proof.Machine.execFenceL s
  | .cflush depth rs1 => Sys2Proof.Machine.execCflush depth rs1 s
  | .cinv depth rs1 => Sys2Proof.Machine.execCinv depth rs1 s
  | .cinvI rs1 => Sys2Proof.Machine.execCinvI rs1 s
  | .czero rs1 => Sys2Proof.Machine.execCzero rs1 s
  | .bankrole rd rs1 rs2 => Sys2Proof.Machine.execBankrole rd rs1 rs2 s
  | .tlbiAll part => Sys2Proof.Machine.execTlbiAll part s
  | .tlbiAsid part rs2 => Sys2Proof.Machine.execTlbiAsid part rs2 s
  | .tlbiPage part rs1 rs2 => Sys2Proof.Machine.execTlbiPage part rs1 rs2 s
  | .tlbiVa part rs1 => Sys2Proof.Machine.execTlbiVa part rs1 s
  | .wpset n rs1 rs2 => Sys2Proof.Machine.execWpset n rs1 rs2 s
  | .fifoadv rd rs1 rs2 => Sys2Proof.Machine.execFifoadv rd rs1 rs2 s
  | .layreg acc rd rs1 => Sys2Proof.Machine.execLayreg acc rd rs1 s
  | .layregLit acc rd lit => Sys2Proof.Machine.execLayregLit acc rd lit s
  | .layrel rd rs1 => Sys2Proof.Machine.execLayrel rd rs1 s
  | .copy rm sat rd rs1 rs2 rs3 => Sys2Proof.Machine.execCopy rm sat rd rs1 rs2 rs3 s
  | .copyFirst rm sat rd rs1 rs2 rs3 lit => Sys2Proof.Machine.execCopyFirst rm sat rd rs1 rs2 rs3 lit s
  | .cstat rd rs1 => Sys2Proof.Machine.execCstat rd rs1 s
  | .cstatAbort rd rs1 => Sys2Proof.Machine.execCstatAbort rd rs1 s
  | .pbind rd rs1 => Sys2Proof.Machine.execPbind rd rs1 s
  | .punbind rd rs1 => Sys2Proof.Machine.execPunbind rd rs1 s
  | .pstat rd rs1 rs2 => Sys2Proof.Machine.execPstat rd rs1 rs2 s
  | .permit rt rs1 rs2 => Sys2Proof.Machine.execPermit rt rs1 rs2 s
  | .rescls cls rd rs1 => Sys2Proof.Machine.execRescls cls rd rs1 s
  | .tcfgNew rd rs1 rs2 => Sys2Proof.Machine.execTcfgNew rd rs1 rs2 s
  | .tcfgNewLit rd rs2 lit => Sys2Proof.Machine.execTcfgNewLit rd rs2 lit s
  | .tcfgGrow rd rs1 rs2 => Sys2Proof.Machine.execTcfgGrow rd rs1 rs2 s
  | .tcfgGrowLit rd rs2 lit => Sys2Proof.Machine.execTcfgGrowLit rd rs2 lit s
  | .tcfgDel rd rs2 => Sys2Proof.Machine.execTcfgDel rd rs2 s
  | .troot rd rs1 rs2 => Sys2Proof.Machine.execTroot rd rs1 rs2 s
  | .tdesc rd rs1 => Sys2Proof.Machine.execTdesc rd rs1 s
  | .texp rd rs1 rs2 rs3 k => Sys2Proof.Machine.execTexp rd rs1 rs2 rs3 k s
  | .texpTerm rd rs1 rs2 => Sys2Proof.Machine.execTexpTerm rd rs1 rs2 s
  | .tback rd rs1 rs2 rs3 => Sys2Proof.Machine.execTback rd rs1 rs2 rs3 s
  | .tbackVlo rd rs1 rs2 => Sys2Proof.Machine.execTbackVlo rd rs1 rs2 s
  | .tbatch rd rs1 => Sys2Proof.Machine.execTbatch rd rs1 s
  | .treuse rd rs1 rs2 => Sys2Proof.Machine.execTreuse rd rs1 rs2 s
  | .treadStats rd rs1 rs2 => Sys2Proof.Machine.execTreadStats rd rs1 rs2 s
  | .treadLinks rd rs1 rs2 => Sys2Proof.Machine.execTreadLinks rd rs1 rs2 s
  | .treadTree rd rs1 => Sys2Proof.Machine.execTreadTree rd rs1 s
  | .packageReset err dev => Sys2Proof.Machine.execPackageReset err dev s
  | .instructionFetchFill core ctx pa => Sys2Proof.Machine.execInstructionFetchFill core ctx pa s
  | .loadDataReturn core ctx data => Sys2Proof.Machine.execLoadDataReturn core ctx data s
  | .randEntropyReady core ctx => Sys2Proof.Machine.execRandEntropyReady core ctx s
  | .mbwComplete core ctx => Sys2Proof.Machine.execMbwComplete core ctx s
  | .mbrComplete core ctx => Sys2Proof.Machine.execMbrComplete core ctx s
  | .mailboxDeposit core mb v ev l arm => Sys2Proof.Machine.execMailboxDeposit core mb v ev l arm s
  | .requestAnswer core ctx r => Sys2Proof.Machine.execRequestAnswer core ctx r s
  | .haltComplete core => Sys2Proof.Machine.execHaltComplete core s
  | .asyncTrapEntry core ctx => Sys2Proof.Machine.execAsyncTrapEntry core ctx s
  | .uncorrectable core ctx agent access reason addr => Sys2Proof.Machine.execUncorrectable core ctx agent access reason addr s
  | .wideExecute core => Sys2Proof.Machine.execWideExecute core s
  | .repPass core => Sys2Proof.Machine.execRepPass core s
  | .mmulJoin g => Sys2Proof.Machine.execMmulJoin g s
  | .mmulRowBroadcast g => Sys2Proof.Machine.execMmulRowBroadcast g s
  | .homeOfferArrives home offers => Sys2Proof.Machine.execHomeOfferArrives home offers s
  | .homeGrant ev l arm => Sys2Proof.Machine.execHomeGrant ev l arm s
  | .homeRefusal ev l arm => Sys2Proof.Machine.execHomeRefusal ev l arm s
  | .homeWoundRequest ev l arm => Sys2Proof.Machine.execHomeWoundRequest ev l arm s
  | .homeWithdrawal ev l arm commit => Sys2Proof.Machine.execHomeWithdrawal ev l arm commit s
  | .homeRetryTime ev => Sys2Proof.Machine.execHomeRetryTime ev s
  | .homeDeliveryConfirmed ev l arm => Sys2Proof.Machine.execHomeDeliveryConfirmed ev l arm s
  | .latchEnableNotice l ev arm st => Sys2Proof.Machine.execLatchEnableNotice l ev arm st s
  | .latchCancel l ev arm => Sys2Proof.Machine.execLatchCancel l ev arm s
  | .latchClaim l ev arm st => Sys2Proof.Machine.execLatchClaim l ev arm st s
  | .latchRelease l ev arm => Sys2Proof.Machine.execLatchRelease l ev arm s
  | .latchCommit l ev arm told => Sys2Proof.Machine.execLatchCommit l ev arm told s
  | .latchLimitExpiry l => Sys2Proof.Machine.execLatchLimitExpiry l s
  | .latchStop l => Sys2Proof.Machine.execLatchStop l s
  | .latchResume l => Sys2Proof.Machine.execLatchResume l s
  | .latchRefusal l ev arm why => Sys2Proof.Machine.execLatchRefusal l ev arm why s
  | .latchLastPayloadDelivered l ev arm => Sys2Proof.Machine.execLatchLastPayloadDelivered l ev arm s
  | .spillPoll l => Sys2Proof.Machine.execSpillPoll l s
  | .payloadLanding ev l arm dst data giver => Sys2Proof.Machine.execPayloadLanding ev l arm dst data giver s
  | .standingAgentOffer l => Sys2Proof.Machine.execStandingAgentOffer l s
  | .probeRouterVisit probe => Sys2Proof.Machine.execProbeRouterVisit probe s
  | .storeAck core ctx => Sys2Proof.Machine.execStoreAck core ctx s
  | .releaseComplete core ctx => Sys2Proof.Machine.execReleaseComplete core ctx s
  | .l1SectorFill core sector key => Sys2Proof.Machine.execL1SectorFill core sector key s
  | .llcFill line key cls rcls => Sys2Proof.Machine.execLlcFill line key cls rcls s
  | .amoAtHome core ctx r => Sys2Proof.Machine.execAmoAtHome core ctx r s
  | .updPartialCombine m => Sys2Proof.Machine.execUpdPartialCombine m s
  | .pageWalk core ctx va access => Sys2Proof.Machine.execPageWalk core ctx va access s
  | .windowAccessAtTarget w => Sys2Proof.Machine.execWindowAccessAtTarget w s
  | .hostWindowCompletion core ctx st => Sys2Proof.Machine.execHostWindowCompletion core ctx st s
  | .hostLoadTimeout core ctx => Sys2Proof.Machine.execHostLoadTimeout core ctx s
  | .bankRoleChangeComplete core => Sys2Proof.Machine.execBankRoleChangeComplete core s
  | .copyCommandRun cluster => Sys2Proof.Machine.execCopyCommandRun cluster s
  | .copyCompletionOffer cluster => Sys2Proof.Machine.execCopyCompletionOffer cluster s
  | .pipelineStageProduce die entry => Sys2Proof.Machine.execPipelineStageProduce die entry s
  | .permitAgentOffer die sub => Sys2Proof.Machine.execPermitAgentOffer die sub s
  | .weltBind b => Sys2Proof.Machine.execWeltBind b s
  | .weltUnbind core ctx rd handle => Sys2Proof.Machine.execWeltUnbind core ctx rd handle s
  | .cantleOperation core ctx cluster tree op => Sys2Proof.Machine.execCantleOperation core ctx cluster tree op s
  | .batchOffer cluster tree => Sys2Proof.Machine.execBatchOffer cluster tree s
  | .reclamationFree cluster tree node => Sys2Proof.Machine.execReclamationFree cluster tree node s
  | .launchPacket q pkt => Sys2Proof.Machine.execLaunchPacket q pkt s
  | .poolPacket q pkt => Sys2Proof.Machine.execPoolPacket q pkt s
  | .waitPacket q pkt => Sys2Proof.Machine.execWaitPacket q pkt s
  | .signalPacket q pkt => Sys2Proof.Machine.execSignalPacket q pkt s
  | .copyPacket q pkt src => Sys2Proof.Machine.execCopyPacket q pkt src s
  | .bindPacket q pkt => Sys2Proof.Machine.execBindPacket q pkt s
  | .bindReleasePacket q pkt => Sys2Proof.Machine.execBindReleasePacket q pkt s
  | .completionRecordWrite q => Sys2Proof.Machine.execCompletionRecordWrite q s
  | .hostApertureAccess a => Sys2Proof.Machine.execHostApertureAccess a s
  | .placement q => Sys2Proof.Machine.execPlacement q s
  | .gangDrain q => Sys2Proof.Machine.execGangDrain q s
  | .gangCompaction q => Sys2Proof.Machine.execGangCompaction q s
  | .preemptionRequest part wg => Sys2Proof.Machine.execPreemptionRequest part wg s
  | .coreHalted core => Sys2Proof.Machine.execCoreHalted core s
  | .contextSwitch part wg inPart inWg => Sys2Proof.Machine.execContextSwitch part wg inPart inWg s
  | .coreRestore core => Sys2Proof.Machine.execCoreRestore core s
  | .residentPairSwap part wg => Sys2Proof.Machine.execResidentPairSwap part wg s
  | .replacement part wg cores => Sys2Proof.Machine.execReplacement part wg cores s
  | .createPartition ref p => Sys2Proof.Machine.execCreatePartition ref p s
  | .destroyPartition ref part => Sys2Proof.Machine.execDestroyPartition ref part s
  | .writeRegionRegister ref cluster n w0 w1 => Sys2Proof.Machine.execWriteRegionRegister ref cluster n w0 w1 s
  | .assignResources ref a => Sys2Proof.Machine.execAssignResources ref a s
  | .setupTraceReplay ref t => Sys2Proof.Machine.execSetupTraceReplay ref t s
  | .writeRoutingTable ref die dest ports => Sys2Proof.Machine.execWriteRoutingTable ref die dest ports s
  | .preemptWorkgroupRequest ref part wg => Sys2Proof.Machine.execPreemptWorkgroupRequest ref part wg s
  | .debugBlockRequest ref core off wr => Sys2Proof.Machine.execDebugBlockRequest ref core off wr s
  | .flushTraceRequest ref cluster => Sys2Proof.Machine.execFlushTraceRequest ref cluster s
  | .dbgHaltreq core => Sys2Proof.Machine.execDbgHaltreq core s
  | .dbgResume core => Sys2Proof.Machine.execDbgResume core s
  | .dbgStep core => Sys2Proof.Machine.execDbgStep core s
  | .stopComplete core => Sys2Proof.Machine.execStopComplete core s
  | .stepComplete core => Sys2Proof.Machine.execStepComplete core s
  | .dbgdataRead core => Sys2Proof.Machine.execDbgdataRead core s
  | .dbgdataWrite core v => Sys2Proof.Machine.execDbgdataWrite core v s
  | .dbgstatRead core => Sys2Proof.Machine.execDbgstatRead core s
  | .registerWrite r v => Sys2Proof.Machine.execRegisterWrite r v s
  | .traceSample core => Sys2Proof.Machine.execTraceSample core s
  | .traceCountRecord core => Sys2Proof.Machine.execTraceCountRecord core s
  | .segmentSeal cluster stream => Sys2Proof.Machine.execSegmentSeal cluster stream s
  | .segmentWriteAck cluster stream => Sys2Proof.Machine.execSegmentWriteAck cluster stream s
  | .powerGate cluster => Sys2Proof.Machine.execPowerGate cluster s
  | .replayLogEnd part wg => Sys2Proof.Machine.execReplayLogEnd part wg s
  | .timebaseAlignment ahead => Sys2Proof.Machine.execTimebaseAlignment ahead s
  | .laneFailure port working => Sys2Proof.Machine.execLaneFailure port working s
  | .portRetrainComplete port lanes => Sys2Proof.Machine.execPortRetrainComplete port lanes s
  | .portDown port => Sys2Proof.Machine.execPortDown port s
  | .flitCrcRetry port => Sys2Proof.Machine.execFlitCrcRetry port s
  | .pldmPassComponentTable comps => Sys2Proof.Machine.execPldmPassComponentTable comps s
  | .pldmUpdateComponent comp size version => Sys2Proof.Machine.execPldmUpdateComponent comp size version s
  | .pldmRequestFirmwareData data => Sys2Proof.Machine.execPldmRequestFirmwareData data s
  | .pldmTransferComplete ok => Sys2Proof.Machine.execPldmTransferComplete ok s
  | .pldmVerifyComplete => Sys2Proof.Machine.execPldmVerifyComplete s
  | .pldmApplyComplete => Sys2Proof.Machine.execPldmApplyComplete s
  | .pldmActivateFirmware => Sys2Proof.Machine.execPldmActivateFirmware s
  | .commitWindowEnd => Sys2Proof.Machine.execCommitWindowEnd s
  | .spdmRequest index => Sys2Proof.Machine.execSpdmRequest index s
  | .powerLimitSet watts => Sys2Proof.Machine.execPowerLimitSet watts s
  | .pldmPlatformRead sensor => Sys2Proof.Machine.execPldmPlatformRead sensor s
  | .qtailDoorbellWrite q v => Sys2Proof.Machine.execQtailDoorbellWrite q v s
  | .postedWriteErrorMessage => Sys2Proof.Machine.execPostedWriteErrorMessage s

end Sys2Proof.Machine
end

