-- ==== Sys2Proof/Machine/Sched.lean ====
section
/-!
DEFINITION. What may happen next: which messages can be delivered, which completions are due, which contexts can issue
(R164, R165), which copies a cache may drop; what each of these does; and the passing of time.
-/

namespace Sys2Proof.Machine

open Sys2Proof

/-! ## The moves -/

/-- A completion that the machine reaches by itself. -/
inductive Due where
  | mbw (core ctx : Nat)
  | mbr (core ctx : Nat)
  | rand (core ctx : Nat)
  | halt (core : Nat)
  | half (core ctx : Nat)
  | walks (core ctx : Nat)
  | late (core : Nat)
  | trapEntry (core : Nat)
  | async (core ctx : Nat)
  | wide (core : Nat)
  | rep (core : Nat)
  | join (gang : Nat)
  | row (gang : Nat)
  | retry (ev : EvKey)
  | expiry (l : LatchId)
  | latchStop (l : LatchId)
  | latchResume (l : LatchId)
  | poll (l : LatchId)
  | agent (l : LatchId)
  | probe (n : Nat)
  | released (core ctx : Nat)
  | storeAck (core ctx : Nat)
  | flush (core ctx : Nat)
  | role (core : Nat)
  | copyRun (cluster : Nat)
  | copyDone (cluster : Nat)
  | produce (die entry : Nat)
  | permit (die sub : Nat)
  | batch (cluster tree : Nat)
  | reclaim (cluster tree node : Nat)
  | record (q : Nat)
  | place (q : Nat)
  | drain (q : Nat)
  | compact (q : Nat)
  | halted (core : Nat)
  | restore (core : Nat)
  | move (part wg : Nat) (cores : List (Nat × Nat))
  | stopped (core : Nat)
  | stepped (core : Nat)
  | sample (core : Nat)
  | countRec (core : Nat)
  | seal (cluster stream : Nat)
  | logEnd (part wg : Nat)
  | commitWindow
  /-- The alignment messages of a period (R453). -/
  | align
  /-- A message that its sender has held leaves for its device (R448). -/
  | leave (n : Nat)
  /-- Launch domains that have outlasted their workgroup end (R461). -/
  | domains (n : Nat)
  deriving DecidableEq, Repr

/-- A possible next step. -/
inductive Move where
  /-- A context issues the instruction at its PC. -/
  | issue (core ctx : Nat)
  /-- The message at this place of the agenda is delivered. -/
  | deliver (n : Nat)
  | due (d : Due)
  /-- A cache drops a copy it need not keep: an L1 line, a translation, the walk cache. -/
  | dropLine (core line : Nat)
  | dropTlb (cluster n : Nat)
  | dropWalk (cluster : Nat)
  deriving DecidableEq, Repr

/-! ## Issue (R164, R165) -/

/-- Whether a core issues instructions, from a context of it: a step issues one (R417), and a stop lets an answered request end (R207). -/
def issuing (k : Core) (x : Nat) : Bool := match k.run with
  | .running => true
  | .stepping y issued => x == y && (!issued || (k.ctx x).recd.isSome)
  | .stopping _ _ _ => (k.ctx x).recd.isSome
  | .halting => (k.ctx x).recd.isSome
  | _ => false

/-- Waits after which the instruction executes again from its start. -/
def retries : Wait → Bool
  | .fetch _ _ => true
  | .half => true
  | .stale => true
  | .walks _ => true
  | .walk _ _ => true
  | .fill _ => true
  | .data _ _ => true
  | .wideFull => true
  | .overlap _ _ _ => true
  | .release => true
  | .stbuf => true
  | .role _ => true
  | .fifoAcc _ => true
  | .replay => true
  | _ => false

/-- An instruction whose answer comes back as data that it then stores. -/
def isRecordForm : Instr → Bool
  | .evstat _ _ _ => true
  | .pstat _ _ _ => true
  | _ => false

/-- An instruction has been issued: COUNT0 (R434), and a step has its instruction (R417). One that must execute again has not
issued yet. -/
def countIssue (c x : Nat) (again : Bool) (s : State) : State :=
  if again || retries (s.ctx c x).wait || (s.ctx c x).half.isSome then s
  else (count s c 0 1).updCore c fun k => k.stepped x

/-- A stepped instruction has gone into the wide queue, which held `n` (R417). -/
def noteWide (c n : Nat) (s : State) : State :=
  if n < (s.core c).wide.queue.length then s.updCore c fun k => { k with stepWide := true } else s

/-- The state in which a context issues: it is the running one, the next search starts after it, the core has issued in this cycle
(R165), and what was left of misaligned local stores is performed (R113). -/
def atIssue (c x : Nat) (s : State) : State :=
  ({ performLate c s with cur := (c, x) } : State).updCore c fun k => { k with rr := (x + 1) % 11, issuedAt := some s.cycle }

/-- The words fetched outside the caches belong to one execution of an instruction (R267). -/
def dropFetched (c x : Nat) (s : State) : State :=
  if retries (s.ctx c x).wait || (s.ctx c x).fetched.isEmpty then s else s.updCtx c x fun k => { k with fetched := [] }

/-- What follows an outcome. -/
def andThen (f : State → State) : Ans → Ans
  | .next s => .next (f s)
  | .fault r => .fault r
  | .refused r => .refused r

/-- ILLEGAL_INSTRUCTION for words that no instruction has (R79). -/
def illegalWords (w : Half) (item : Nat) : Cause := { cause 0x02 (w.setWidth 64) with reason := item }

/-- A context issues: its words are fetched, decoded and executed, or a fetch fault or an illegal pattern is trapped.
`run` is what executes an instruction. -/
def issueWith (run : Instr → State → Ans) (c x : Nat) (s : State) : Ans :=
  let s0 := atIssue c x s
  match fetchInstr s0 c x with
  | .trap cz => .next (s0.trapAt c x cz)
  | .wait w msgs => .next ((s0.hold w).sendAll msgs)
  | .words ws s1 =>
    match decodeList ws with
    | .illegal item => .next (countIssue c x false (s1.trapAt c x (illegalWords (ws.getD 0 0) item)))
    | .ok i => andThen (fun t => noteWide c (s1.core c).wide.queue.length (dropFetched c x
        (countIssue c x (isRecordForm i && (s1.ctx c x).recd.isSome) t))) (run i s1)

/-! ## Messages -/

/-- The device a message of the event protocol goes to (R455). -/
def targetDev (s : State) : Instr → Nat
  | .homeOfferArrives home _ => homeDev home
  | .homeGrant ev _ _ => homeDev ev.home
  | .homeRefusal ev _ _ => homeDev ev.home
  | .homeWoundRequest ev _ _ => homeDev ev.home
  | .homeWithdrawal ev _ _ _ => homeDev ev.home
  | .homeDeliveryConfirmed ev _ _ => homeDev ev.home
  | .latchEnableNotice l _ _ _ => gidDev l.gid
  | .latchCancel l _ _ => gidDev l.gid
  | .latchClaim l _ _ _ => gidDev l.gid
  | .latchRelease l _ _ => gidDev l.gid
  | .latchCommit l _ _ _ => gidDev l.gid
  | .latchRefusal l _ _ _ => gidDev l.gid
  | .latchLastPayloadDelivered l _ _ => gidDev l.gid
  | .payloadLanding _ l _ _ _ _ => gidDev l.gid
  | _ => s.dev

/-- Messages with one non-empty channel are handled in the order in which they were sent: between a latch and a home in each
direction (R178, R181), from a context to a window target (R288), from a core to the home of a sector (R308, R309), the requests of one
ring (R474), and the packets of one queue (R469). -/
def channel : Instr → List Nat
  | .homeOfferArrives home os => match os with
    | o :: _ => [1, home, o.latch.gid, o.latch.sub]
    | [] => []
  | .homeGrant ev l _ => [1, ev.home, l.gid, l.sub]
  | .homeRefusal ev l _ => [1, ev.home, l.gid, l.sub]
  | .homeWoundRequest ev l _ => [1, ev.home, l.gid, l.sub]
  | .homeWithdrawal ev l _ _ => [1, ev.home, l.gid, l.sub]
  | .homeDeliveryConfirmed ev l _ => [1, ev.home, l.gid, l.sub]
  | .latchEnableNotice l ev _ _ => [2, ev.home, l.gid, l.sub]
  | .latchCancel l ev _ => [2, ev.home, l.gid, l.sub]
  | .latchClaim l ev _ _ => [2, ev.home, l.gid, l.sub]
  | .latchRelease l ev _ => [2, ev.home, l.gid, l.sub]
  | .latchCommit l ev _ _ => [2, ev.home, l.gid, l.sub]
  | .latchRefusal l ev _ _ => [2, ev.home, l.gid, l.sub]
  | .latchLastPayloadDelivered l ev _ => [2, ev.home, l.gid, l.sub]
  | .windowAccessAtTarget w => [3, w.dev, w.core, w.ctx, w.pa / 2 ^ 21]
  | .updPartialCombine m => [4, m.core, m.sector]
  | .amoAtHome core _ r => [4, core, r.pa / 256]
  | .createPartition ref _ => [5, ref.owner]
  | .destroyPartition ref _ => [5, ref.owner]
  | .writeRegionRegister ref _ _ _ _ => [5, ref.owner]
  | .assignResources ref _ => [5, ref.owner]
  | .setupTraceReplay ref _ => [5, ref.owner]
  | .writeRoutingTable ref _ _ _ => [5, ref.owner]
  | .preemptWorkgroupRequest ref _ _ => [5, ref.owner]
  | .debugBlockRequest ref _ _ _ => [5, ref.owner]
  | .flushTraceRequest ref _ => [5, ref.owner]
  | .launchPacket q _ => [6, q]
  | .poolPacket q _ => [6, q]
  | .waitPacket q _ => [6, q]
  | .signalPacket q _ => [6, q]
  | .copyPacket q _ _ => [6, q]
  | .bindPacket q _ => [6, q]
  | .bindReleasePacket q _ => [6, q]
  | _ => []

/-- The router of a home, of a latch and of a home slice, as device and number: cores below 576, the homes of gangs from 576 on, the slices
from 1,024 on (R170, R281). -/
def homeAt (home : Nat) : Nat × Nat := (homeDev home, homeCore home)
def latchAt (l : LatchId) : Nat × Nat := (gidDev l.gid, gidCore l.gid)
def sliceAt (s : State) (pa : Addr) : Nat × Nat := (s.dev, 1024 + homeSlice pa)

/-- The die of such a number. -/
def routerDie (n : Nat) : Nat := if n < 576 then coreDie n else if n < 1024 then coreDie (gangCore (n - 576) 0) else (n - 1024) / 64

/-- Where a message comes from and where it goes to, as far as it says so. -/
def ends (s : State) : Instr → Option ((Nat × Nat) × (Nat × Nat))
  | .homeOfferArrives home os => os.head?.map fun o => (latchAt o.latch, homeAt home)
  | .homeGrant ev l _ => some (latchAt l, homeAt ev.home)
  | .homeRefusal ev l _ => some (latchAt l, homeAt ev.home)
  | .homeWoundRequest ev l _ => some (latchAt l, homeAt ev.home)
  | .homeWithdrawal ev l _ _ => some (latchAt l, homeAt ev.home)
  | .homeDeliveryConfirmed ev l _ => some (latchAt l, homeAt ev.home)
  | .latchEnableNotice l ev _ _ => some (homeAt ev.home, latchAt l)
  | .latchCancel l ev _ => some (homeAt ev.home, latchAt l)
  | .latchClaim l ev _ _ => some (homeAt ev.home, latchAt l)
  | .latchRelease l ev _ => some (homeAt ev.home, latchAt l)
  | .latchCommit l ev _ _ => some (homeAt ev.home, latchAt l)
  | .latchRefusal l ev _ _ => some (homeAt ev.home, latchAt l)
  | .latchLastPayloadDelivered l ev _ => some (homeAt ev.home, latchAt l)
  | .payloadLanding _ l _ _ _ who => some ((gidDev who, gidCore who), latchAt l)
  | .requestAnswer c _ r => match r with
    | .answer _ => none
    | .watched _ _ => none
    | .matched _ _ _ _ _ _ => none
    | r => some ((askDev s c, askCore c), (s.dev, requestHome s (askCore c) r))
  | .windowAccessAtTarget w => match target w.pa with
    | .window dev core _ => some ((w.dev, w.core), (dev, core))
    | _ => none
  | .updPartialCombine m => some ((s.dev, m.core), sliceAt s (m.sector * 256))
  | .amoAtHome core _ r => some ((s.dev, core), sliceAt s r.pa)
  | .l1SectorFill core sec _ => some (sliceAt s (sec * 256), (s.dev, core))
  | .instructionFetchFill core _ pa => if isGddr pa then some (sliceAt s pa, (s.dev, core)) else none
  | _ => none

/-- The path of a message that goes to another die or device: what takes one path arrives in the order sent (R443, R447). -/
def path (s : State) (i : Instr) : List (List Nat) := match ends s i with
  | some ((d1, n1), (d2, n2)) => if d1 ≠ d2 ∨ routerDie n1 ≠ routerDie n2 then [[7, d1, n1, d2, n2]] else []
  | none => []

/-- A payload that cannot land is held back with the stream behind it (R185, R443); other messages that must wait have arrived. -/
def holdsPath : Instr → Bool
  | .payloadLanding _ _ _ _ _ _ => true
  | _ => false

/-- The ring of a configuration request: its owner (R474). -/
def ringOf (i : Instr) : Option Nat := match channel i with
  | [5, o] => some o
  | _ => none

/-- The instruction of opcodes 0x30-0x35 that the wide side of a core can execute now, be it of the queue or of a REP's body. -/
def wideNext (s : State) (c : Nat) : Option Instr :=
  if wideReady s c then ((s.core c).wide.queue.head?).map (·.i) else if repReady s c then repNext (s.core c) else none

/-- A wide write to a mailbox can execute: it comes before a deposit (R36). -/
def wideFills (s : State) (c n : Nat) : Bool := (wideNext s c).bind wMbWrite == some n

/-- The commit of an event is still on its way to a latch: what it takes lands after it. -/
def claimedBy (s : State) (l : LatchId) (ev : EvKey) : Bool := match (s.latch l).st with
  | .claimed e _ => e == ev
  | _ => false

/-- An earlier request of the same tree stands at its Cantle and waits (R366). -/
def treeHeld (s : State) (k n : Nat) (i : Instr) : Bool :=
  match s.agenda.find? fun j => match j with
    | .cantleOperation _ _ k' n' _ => k' == k && n' == n
    | _ => false with
  | some j => j != i && (match j with
    | .cantleOperation _ _ _ _ op => treeWaits s k n op
    | _ => false)
  | none => false

/-- Whether a message can be delivered now. One that must wait where it is handled stays in the agenda. -/
def deliverable (s : State) (i : Instr) : Bool :=
  if targetDev s i ≠ s.dev then true
  else match i with
  | .requestAnswer c x r => !requestWaits (lent s c x) c r
  | .weltUnbind c x _ h => !unbindWaits (lent s c x) c x h
  | .cantleOperation _ _ k n op => !treeWaits s k n op && !treeHeld s k n i
  | .l1SectorFill c sec _ => !fillWaits s c sec
  | .homeOfferArrives home os => !offersWait s home os
  | .latchCommit l _ _ _ => tileRoom s l
  | .payloadLanding ev l arm dst data who =>
    l.sub == 0xFFFF || l.sub == 0xFFFE || (!claimedBy s l ev && (!routerHolds s l || heldBytes (s.core (gidCore l.gid)) + data.length ≤ 16384) &&
      !(fromOutside s ⟨ev, l, arm, dst, data, who⟩ && s.replayFull (gidCore l.gid)))
  | .homeGrant ev _ _ => match s.entry ev with
    | some h => !commitFull s h.offers
    | none => true
  | .hostWindowCompletion c _ _ => !s.replayFull c
  | .hostApertureAccess a => a.regs || a.data.isNone || !(match hostOwner s a.off a.len with
    | some e => logsFull s e.1
    | none => false)
  | .mailboxDeposit c mb _ _ l _ =>
    !mbFullAt (s.core c) mb && !waitsMbw (s.core c) mb && !wideFills s c mb && !routerHolds s l
  | .contextSwitch p w ip iw => switchReady s (wgNamed s p w) (wgNamed s ip iw)
  | .residentPairSwap p w => match wgNamed s p w with
    | some e => swapReady s e.2
    | none => true
  | .launchPacket q _ => mayTake s q
  | .poolPacket q _ => mayTake s q
  | .waitPacket q _ => mayTake s q
  | .signalPacket q _ => mayTake s q
  | .copyPacket q _ _ => mayTake s q && !logsFull s (s.queue q).part
  | .bindPacket q _ => mayTake s q
  | .bindReleasePacket q _ => mayTake s q
  | i => match ringOf i with
    | some o => ringHas s o
    | none => true

/-- The messages of a list that can be delivered: the first of each channel and of each path. `seen` is what earlier messages hold back. -/
def deliveriesFrom (s : State) : List Instr → Nat → List (List Nat) → List Move
  | [], _, _ => []
  | j :: t, n, seen =>
    let i := sentOn s j
    let chs := (if (channel i).isEmpty then [] else [channel i])
    let way := path s i
    let go := deliverable s i
    let rest := deliveriesFrom s t (n + 1) (chs ++ (if go || holdsPath i then way else []) ++ seen)
    if go && !((chs ++ way).any seen.contains) then .deliver n :: rest else rest

/-- The core whose router sends a message that goes to another device. -/
def senderOf (s : State) (i : Instr) : Nat := match ends s i with
  | some ((_, n), _) => if n < 576 then n else 0
  | none => 0

/-- A message leaves the agenda and is handled, or leaves for its device. -/
def deliverWith (run : Instr → State → Ans) (n : Nat) (s : State) : Ans :=
  match s.agenda[n]? with
  | none => .next s
  | some j =>
    let i := sentOn s j
    let s1 : State := { s with agenda := s.agenda.eraseIdx n }
    if targetDev s i ≠ s.dev then .next (s1.toDevice (senderOf s i) (targetDev s i) i) else run i s1

/-! ## Completions of a core -/

/-- The first context that waits in MBR on a mailbox, in round-robin order (R36). -/
def firstMbr (k : Core) (n : Nat) : Nat → Nat → Option Nat
  | 0, _ => none
  | f + 1, x => match (k.ctx (x % 11)).wait with
    | .mbr m _ => if m = n then some (x % 11) else firstMbr k n f (x + 1)
    | _ => firstMbr k n f (x + 1)

/-- A VSEL or VBCAST .PEEK that can execute reads a full mailbox before it is emptied (R137). -/
def widePeeks (s : State) (c n : Nat) : Bool := (wideNext s c).bind wMbRead == some (n, true)

/-- A context's core runs it. -/
def runs (k : Core) (x : Nat) : Bool := match k.run with
  | .running => true
  | .stepping y _ => x == y
  | _ => false

/-- A context can take an asynchronous cause now (R18, R208). -/
def asyncDue (s : State) (c x : Nat) : Bool :=
  let k := s.core c
  let v := k.ctx x
  runs k x && v.live && !v.capturing && abandonable v.wait && v.rdata.isNone && v.recd.isNone && !v.relDone && (nextCause s c x).isSome &&
    (x != 0 || !midPass k) && (match v.wait with
      | .select _ _ _ => !(s.latch (ctxLatch s c x)).causePend
      | .phase _ => !(s.latch (ctxLatch s c x)).causePend && (k.exch.elim true (·.past))
      | .gang => !(s.latch (ctxLatch s c x)).causePend
      | _ => true)

/-- Another context of the core stands between the two parts of a load of the local window (R98). -/
def halfway (k : Core) (x : Nat) : Bool := k.ctxs.any fun e => e.1 != x && e.2.live && e.2.half.isSome && decide (e.2.wait = .none)

/-- Whether a context may issue (R164). A cause that it can take is taken first (R18). -/
def ready (s : State) (c x : Nat) : Bool :=
  let k := s.core c
  issuing k x && (k.ctx x).live && decide ((k.ctx x).wait = .none) && !asyncDue s c x && !halfway k x

/-- The next ready context from the one after the last that issued (R165). -/
def nextReady (s : State) (c : Nat) : Nat → Nat → Option Nat
  | 0, _ => none
  | n + 1, x => if ready s c (x % 11) then some (x % 11) else nextReady s c n (x + 1)

/-- One issue for each core that has a ready context and has not issued in this cycle (R165); a SAMPLE of an earlier cycle is made first
(R427). -/
def issues (s : State) : List Move :=
  s.cores.filterMap fun e => if e.2.issuedAt = some s.cycle ∨ samplePast s e.1 then none else (nextReady s e.1 11 e.2.rr).map fun x => .issue e.1 x

/-- What is due at a context. -/
def ctxDue (s : State) (c x : Nat) : List Due :=
  let k := s.core c
  let v := k.ctx x
  (match v.wait with
    | .mbw n _ => if runs k x && !mbFullAt k n then [.mbw c x] else []
    | .mbr n _ => if runs k x && mbFullAt k n && firstMbr k n 11 k.rr == some x && !widePeeks s c n then [.mbr c x] else []
    | .rand _ => if runs k x && !s.replayFull c then [.rand c x] else []
    | .halt => if haltDone s c then [.halt c] else []
    | .half => if runs k x then [.half c x] else []
    | .walks ws => if runs k x && !ws.any (inWalk s) then [.walks c x] else []
    | .trapping _ => if runs k x && !midPass k then [.trapEntry c] else []
    | .release => if releaseOk (releaseSend s c x) c x then [.released c x] else []
    | .storeAcks _ _ => if runs k x && releaseOk (releaseSend s c x) c x then [.released c x] else []
    | _ => []) ++
  (if asyncDue s c x then [.async c x] else []) ++
  (if (oldestDirect s c x).isSome then [.storeAck c x] else []) ++ (if wantsFlush s c x then [.flush c x] else [])

/-- What is due at a core. -/
def coreDue (s : State) (c : Nat) : List Due :=
  let k := s.core c
  (k.ctxs.flatMap fun e => ctxDue s c e.1) ++
  (if k.late.isEmpty then [] else [.late c]) ++
  (if wideReady s c then [.wide c] else []) ++
  (if repReady s c then [.rep c] else []) ++
  (if k.roleChange.isSome && roleDrained s c then [.role c] else []) ++
  (match k.run with
    | .halting => if haltsNow s c then [.halted c] else []
    | .stopped => if savesNow s c then [.halted c] else []
    | .stopping _ _ _ => if stopsNow s c then [.stopped c] else []
    | .stepping _ _ => if stepOver k then [.stepped c] else []
    | .halted => if !(k.held.any fun h => landsNow s h.l && fromOutside s h && s.replayFull c) && k.image.isNone && !k.caddies.isEmpty && k.wg.isSome && (answersIn k || holdsFor s c) then [.restore c] else []
    | _ => []) ++
  (if sampleDue s c then [.sample c] else []) ++ (if countDue s c then [.countRec c] else [])

/-- What is due at a gang. -/
def gangDue (s : State) (g : Nat) : List Due :=
  (if joinReady s g then [.join g] else []) ++ (if rowReady s g then [.row g] else [])

/-- The gangs with a core that has a wide queue. -/
def busyGangs (s : State) : List Nat :=
  s.cores.foldl (fun t e => if e.2.wide.queue.isEmpty then t else nadd t (gangOf e.1)) []

/-! ## Completions of the event protocol -/

/-- The limit of a latch has run out (R178). In a replay a wait ends so only where its log says so, and then at once (R436). -/
def limitDue (s : State) (l : LatchId) (m : Latch) : Bool :=
  let passed := m.limit != 0 && m.armedAt + m.limit ≤ s.cycle.toNat
  if !isCtxLatch l || l.sub % 16 != 0 || !latchNow s l then passed
  else match s.wgOf (gidCore l.gid) with
    | some (_, w) =>
      if w.mode = .replay then (match waitItem s (gidCore l.gid) (gidCtx l.gid) with
        | some (.input _ 4 _) => true
        | some (.trap _ 0x11 pc) => pc == (s.ctx (gidCore l.gid) (gidCtx l.gid)).pc
        | _ => false)
      else passed && !s.replayFull (gidCore l.gid)
    | none => passed

/-- What is due at a latch. -/
def latchDue (s : State) (l : LatchId) (m : Latch) : List Due :=
  let held := match m.st with
    | .armed => true
    | .claimed _ _ => true
    | .dormant => true
    | _ => false
  let k := s.core (gidCore l.gid)
  let mine := isCtxLatch l && gidDev l.gid == s.dev && latchNow s l
  (if held && !m.expPend && limitDue s l m then [.expiry l] else []) ++
  (match m.pollAt with
    | some t => if m.st == .armed && decide (t ≤ s.cycle.toNat) then [.poll l] else []
    | none => []) ++
  (if !mine then []
    else
      let stop := match m.st with
        | .armed => true
        | .claimed _ _ => !m.stopPend
        | _ => false
      let back := match m.st with
        | .dormant => true
        | .committed _ => m.doneStopped
        | _ => false
      match k.run with
      | .running => if back then [.latchResume l] else []
      | .stepping x _ =>
        if x = gidCtx l.gid then (if back then [.latchResume l] else []) else if stop then [.latchStop l] else []
      | .halting => if stop then [.latchStop l] else []
      | .stopping _ _ _ => if stop then [.latchStop l] else []
      | _ => [])

/-- An event in BACKOFF whose retry time has come, with all its offers (R182). -/
def retryDue (s : State) (ev : EvKey) (h : Home) : List Due :=
  if h.st == .backoff && !h.spilled && decide (h.retryAt ≤ s.cycle.toNat) && allPresent h then [.retry ev] else []

/-- The router of a core holds a message for another device: its agents are held back (R448). -/
def heldBack (s : State) (c : Nat) : Bool := s.links.any fun e => e.1 == c

/-- The held messages that can leave: the oldest of each core and device. -/
def leaves (s : State) : List (Nat × Nat × Instr) → Nat → List (Nat × Nat) → List Due
  | [], _, _ => []
  | (c, dev, _) :: t, n, seen =>
    let rest := leaves s t (n + 1) ((c, dev) :: seen)
    if !seen.contains (c, dev) && canLeave s (coreDie c) dev then .leave n :: rest else rest

/-- A held message leaves for its device. -/
def leaveLink (n : Nat) (s : State) : State := match s.links[n]? with
  | some (_, dev, m) => ({ s with links := s.links.eraseIdx n } : State).emit (.device dev m)
  | none => s

/-- The completion by which an agent's latch is armed again (R188, R333, R344, R372). -/
def agentDue (l : LatchId) : Due :=
  let core := gidCore l.gid
  let k := clusterOf core
  if gidCtx l.gid = 11 ∧ l.sub ≠ 0 then (if isBatchSub l.sub then .batch k (l.sub - 2 ^ 33) else .copyDone k)
  else if gidCtx l.gid = 12 then .permit (coreDie core) (l.sub / 2)
  else .agent l

/-! ## Completions of clusters, dies and the front end -/

def clusterDue (s : State) (k : Nat) (g : Cluster) : List Due :=
  (if heldBack s (firstCore k) then [] else match g.copy.run with
    | some r => if r.ended.isNone then [.copyRun k] else if g.copy.owed = 0 then [.copyDone k] else []
    | none => if g.copy.queue.isEmpty then [] else [.copyRun k]) ++
  (g.trees.flatMap fun t => t.2.reclaim.map fun n => .reclaim k t.1 n) ++
  (if sealDue s k 0 then [.seal k 0] else []) ++ (if sealDue s k 1 then [.seal k 1] else [])

def dieDue (d : Nat) (v : Die) : List Due :=
  v.entries.filterMap fun e => if canProduce v e.1 then some (.produce d e.1) else none

/-- The placement of a workgroup that moves (R398, R400), as old and new cores: on the cores its queue's candidates may take, and
its own that are not drained; back to its queue where it does not fit. -/
def moveOf (s : State) (n : Nat) (w : Wg) : List Due :=
  let c : Cand := ⟨some n, w.queue, w.part, w.pkt, 0⟩
  let h := candHead s c
  let onto (avail : List Nat) : List (Nat × Nat) :=
    let m := pickPlacement s h (lpExact w.pkt) avail
    w.map.filterMap fun e => (placed m e.1).map fun d => (e.2, d)
  let go (t : List (Nat × Nat)) : List Due := if moveBlocked s n w (t.map (·.2)) then [] else [.move w.part w.num t]
  if !w.moving || !w.repl || (!w.saved && !(w.cores.all fun d => (s.core d).wg == some n)) then []
  else if w.saved then
    match placeNext s with
    | some (d, avail) => if d.wg = some n then go (onto avail) else []
    | none => []
  else if !(w.cores.all fun d => quiet s d) then []
  else
    let own := w.cores.filter fun d => !(drainedFor s none).contains (gangOf d)
    let avail := own.foldl nadd (eligible s c)
    go (if fits h (lpExact w.pkt) avail then onto avail else [])

def queueDue (s : State) (q : Nat) (u : Queue) : List Due :=
  (match u.recs with
    | r :: _ => if recRoom u || !r.bufs.isEmpty then [.record q] else []
    | [] => []) ++
  (match candOf (q, u) with
    | some c => (if drainDue s c then [.drain q] else []) ++ (if compactionDue s c then [.compact q] else [])
    | none => [])

def placeDue (s : State) : List Due := match placeNext s with
  | some (c, _) => if c.wg.isNone then [.place c.q] else []
  | none => []

/-- Everything that is due. -/
def allDue (s : State) : List Due :=
  (s.cores.flatMap fun e => coreDue s e.1) ++ ((busyGangs s).flatMap (gangDue s)) ++
  (s.latches.flatMap fun e => latchDue s e.1 e.2) ++ (s.homes.flatMap fun e => retryDue s e.1 e.2) ++
  ((staleAgents s).filter fun l => !heldBack s (gidCore l.gid)).map agentDue ++ (probeIds s).map .probe ++
  (s.clusters.flatMap fun e => clusterDue s e.1 e.2) ++ (s.dies.flatMap fun e => dieDue e.1 e.2) ++
  (s.queues.flatMap fun e => queueDue s e.1 e.2) ++ placeDue s ++
  (s.wgs.flatMap fun e => moveOf s e.1 e.2 ++ (if logEnded s e.1 e.2 then [.logEnd e.2.part e.2.num] else [])) ++
  (if s.fw.window.isSome then [.commitWindow] else []) ++ leaves s s.links 0 [] ++ (endedDomains s).map .domains ++
  (if s.cycle.toNat / 65536 ≠ s.alignSent ∧ !(upPorts s).isEmpty then [.align] else [])

/-- What a completion does. -/
def runDue (d : Due) (s : State) : Ans := match d with
  | .mbw c x => execMbwComplete c x s
  | .mbr c x => execMbrComplete c x s
  | .rand c x => execRandEntropyReady c x s
  | .halt c => execHaltComplete c s
  | .half c x => .next (s.wake c x)
  | .walks c x => .next (walksOver c x s)
  | .late c => .next (performLate c s)
  | .trapEntry c => .next (enterTrapping c s)
  | .async c x => execAsyncTrapEntry c x s
  | .wide c => execWideExecute c s
  | .rep c => execRepPass c s
  | .join g => execMmulJoin g s
  | .row g => execMmulRowBroadcast g s
  | .retry ev => execHomeRetryTime ev s
  | .expiry l => execLatchLimitExpiry l s
  | .latchStop l => execLatchStop l s
  | .latchResume l => execLatchResume l s
  | .poll l => execSpillPoll l s
  | .agent l => execStandingAgentOffer l s
  | .probe n => execProbeRouterVisit n s
  | .released c x => execReleaseComplete c x s
  | .storeAck c x => execStoreAck c x s
  | .flush c x => .next (sendFlush s c x)
  | .role c => execBankRoleChangeComplete c s
  | .copyRun k => execCopyCommandRun k s
  | .copyDone k => execCopyCompletionOffer k s
  | .produce d e => execPipelineStageProduce d e s
  | .permit d u => execPermitAgentOffer d u s
  | .batch k t => execBatchOffer k t s
  | .reclaim k t n => execReclamationFree k t n s
  | .record q => execCompletionRecordWrite q s
  | .place q => execPlacement q s
  | .drain q => execGangDrain q s
  | .compact q => execGangCompaction q s
  | .halted c => execCoreHalted c s
  | .restore c => execCoreRestore c s
  | .move p w m => execReplacement p w m s
  | .stopped c => execStopComplete c s
  | .stepped c => execStepComplete c s
  | .sample c => execTraceSample c s
  | .countRec c => execTraceCountRecord c s
  | .seal k st => execSegmentSeal k st s
  | .logEnd p w => execReplayLogEnd p w s
  | .commitWindow => execCommitWindowEnd s
  | .align => .next (sendAlignment s)
  | .leave n => .next (leaveLink n s)
  | .domains n => .next (if (endedDomains s).contains n then dropDomains s n 0 else s)

/-! ## Dropped copies (R275, R295) -/

/-- The copies a cache may drop. DESIGN CHOICE (log 14): the instruction cache (R42) gives no replacement rule, and the model keeps its words until
they are invalidated. -/
def drops (s : State) : List Move :=
  (s.cores.flatMap fun e => (e.2.l1.foldl (fun t q => nadd t (q.1 / 4)) []).map fun l => .dropLine e.1 l) ++
  (s.clusters.flatMap fun e =>
    ((List.range e.2.tlb.length).map fun n => .dropTlb e.1 n) ++ (if e.2.walkCache.isEmpty then [] else [.dropWalk e.1]))

/-! ## All moves, and time -/

/-- The latch whose input (R178) a move is, and the place of its kind in R179's order: commit or release, claim, limit expiry, stop; 4 for
the inputs that have no place in it. -/
def inputOf (s : State) : Move → Option (LatchId × Nat)
  | .deliver n => match s.agenda[n]? with
    | some (.latchCommit l _ _ _) => some (l, 0)
    | some (.latchRelease l _ _) => some (l, 0)
    | some (.latchClaim l _ _ _) => some (l, 1)
    | some (.latchEnableNotice l _ _ _) => some (l, 4)
    | some (.latchCancel l _ _) => some (l, 4)
    | some (.latchRefusal l _ _ _) => some (l, 4)
    | some (.latchLastPayloadDelivered l _ _) => some (l, 4)
    | _ => none
  | .due (.expiry l) => some (l, 2)
  | .due (.latchStop l) => some (l, 3)
  | .due (.latchResume l) => some (l, 4)
  | .due (.poll l) => some (l, 4)
  | _ => none

/-- An input of kind `r` goes before one of kind `q` in a cycle, be it that the messages on their way have come in it or not: then
only the latch's own inputs meet. -/
def goesFirst (came : Bool) (r q : Nat) : Bool := 4 ≤ r || 4 ≤ q || if came then r ≤ q else (r + 2) % 4 ≤ (q + 2) % 4

/-- A latch handles one input in a cycle; of those that meet in it, in R179's order (log 50). Whether messages on their way have come in this
cycle is free. -/
def inOrder (s : State) (ms : List Move) : List Move :=
  let ins := ms.filterMap (inputOf s)
  ms.filter fun m => match inputOf s m with
    | none => true
    | some (l, r) => (s.latch l).inAt != some s.cycle && ins.all fun q => q.1 != l || goesFirst (Config.arrived s.draws) r q.2

/-- Every move that is possible. -/
def moves (s : State) : List Move :=
  inOrder s (issues s ++ deliveriesFrom s s.agenda 0 [] ++ (allDue s).map .due ++ drops s)

/-- A latch that is in use has handled its input of the cycle (R179). -/
def noteInput (m : Option (LatchId × Nat)) (now : Word) (s : State) : State := match m with
  | none => s
  | some (l, _) => match kfind s.latches l with
    | some v => s.setLatch l { v with inAt := some now }
    | none => s

/-- Takes a move; `run` is what executes an instruction. -/
def takeMove (run : Instr → State → Ans) (m : Move) (s : State) : Ans := match m with
  | .issue c x => issueWith run c x s
  | .deliver n => deliverWith run n s
  | .due d => runDue d s
  | .dropLine c l => .next (evictLine s c l)
  | .dropTlb k n => .next (s.setCluster k { s.cluster k with tlb := (s.cluster k).tlb.eraseIdx n })
  | .dropWalk k => .next (s.setCluster k { s.cluster k with walkCache := [] })

/-- Contexts of a core that wait in SELECT, PHASE or GANG. -/
def waitingCount (k : Core) : Nat := (k.ctxs.filter fun e => e.2.live && (match e.2.wait with
  | .select _ _ _ => true
  | .phase _ => true
  | .gang => true
  | _ => false)).length

/-- COUNT1 of every core after some cycles (R434). -/
def countWaits (n : Nat) : Tbl Core → Tbl Core
  | [] => []
  | (c, k) :: t =>
    (c, if waitingCount k = 0 then k
      else { k with dbg := { k.dbg with
        counts := lset k.dbg.counts 1 (k.dbg.counts.getD 1 0 + BitVec.ofNat 64 (n * waitingCount k)) } }) :: countWaits n t

/-- A correction of the timebase falls into the next `n` cycles: 64 cycles after the latest one at the earliest (R453). -/
def slews (n : Nat) (s : State) : Bool := n != 0 && s.slew.isSome && s.slewAt.all fun a => a + 64 ≤ s.cycle.toNat + n

/-- `n` cycles pass (R1, R25, R434), with a correction of the timebase where one falls into them. -/
def pass (n : Nat) (s : State) : State :=
  let t := if slews n s then (if s.slew = some true then n - 1 else n + 1) else n
  { s with
      cycle := s.cycle + BitVec.ofNat 64 n, time := s.time + BitVec.ofNat 64 t, slew := if slews n s then none else s.slew,
      slewAt := if slews n s then some (s.cycle.toNat + n) else s.slewAt, cores := countWaits n s.cores }

/-- Time passes after a move: moves of different units may fall into one cycle (log 2). -/
def tick (s : State) : State := { pass (Config.elapsed s.draws) s with draws := s.draws + 1, flagLog := flagNote s }

/-- Nothing else happens: at least one cycle passes. -/
def idle (s : State) : State := { pass (1 + Config.elapsed s.draws) s with draws := s.draws + 1, flagLog := flagNote s }

/-- The move that is taken: the only one, or a free pick among several (log 2). -/
def chosen (s : State) : List Move → Option (Move × State)
  | [] => none
  | [m] => some (m, s)
  | ms => (ms[s.pick % ms.length]?).map fun m => (m, s.used)

/-- One step; `run` is what executes an instruction. Without a move, time passes. -/
def stepWith (run : Instr → State → Ans) (s : State) : Ans :=
  match chosen s (moves s) with
  | none => .next (idle s)
  | some (m, t) => andThen (fun u => tick (noteInput (inputOf t m) t.cycle u)) (takeMove run m t)

/-! ## A machine with one instruction to issue -/

/-- The words of an instruction in memory and in a core's instruction cache. -/
def putWords (c : Nat) : List Half → Nat → State → State
  | [], _, s => s
  | w :: ws, a, s =>
    putWords c ws (a + 4) (({ s with mem := memWrite s.mem a (bytesOfNat 4 w.toNat) } : State).updCore c fun k =>
      { k with icache := tput k.icache (a / 4) (0, w) })

/-- A context that can issue at level H, where virtual addresses are physical (R289). -/
def startCtx (x : Ctx) : Ctx :=
  { x with live := true, priv := .h, wait := .none, rdata := none, recd := none, half := none, capturing := false, fetched := [],
            pend := [], pc := BitVec.ofNat 64 (x.pc.toNat % 2 ^ 20 / 4 * 4) }

/-- Core 0 alone, running its control context; nothing waits anywhere. -/
def oneCore (s : State) : State :=
  let k := s.core 0
  let k1 : Core := { k with
    ctxs := [(0, startCtx (k.ctx 0))], run := .running, roleChange := none, reports := [], stbuf := [], late := [], l1 := [], issuedAt := none, wg := none,
    exch := none, parked := none }
  { s with
    cores := [(0, { k1 with wide := { k.wide with queue := [] }, dbg := { k.dbg with trctl := 0 } })],
    latches := [], homes := [], ldoms := [], clusters := [], dies := [], queues := [], wgs := [], agenda := [], links := [], ports := [], farWatches := [],
    keyTag := [], fw := { s.fw with window := none } }

/-- The words that bits in the numbering of the opcode table stand for. -/
def tableWords (nbits w : Nat) : List Half :=
  (List.range 5).map fun k => wordOfBytes ((bytesOfNat 20 (w % 2 ^ nbits)).drop (4 * k))

end Sys2Proof.Machine
end

