-- ==== Sys2Proof/Machine/Step.lean ====
section
/-!
DEFINITION. One step of the machine (Sched.lean says which moves are possible and what each does), and a machine whose
next step issues a given instruction.
-/

namespace Sys2Proof.Machine

open Sys2Proof

/-- One step: one of the possible moves, the choice among several being free; then time passes. -/
def step (s : State) : Host.Outcome State Fault Refusal := stepWith exec s

/-- Core 0 issues next, from its control context at level H, the instruction whose bits are `w` in the opcode table's numbering,
stored at the context's PC in memory and in the instruction cache; no other move is possible. It stands for a launch (log 4). -/
def State.withFetchWord (s : State) (nbits w : Nat) : State :=
  putWords 0 (tableWords nbits w) ((oneCore s).ctx 0 0).pc.toNat (oneCore s)

end Sys2Proof.Machine
end

