-- ==== Sys2Proof/Safety.lean ====
section
/-!
DEFINITION. The words in which claims about the machine are stated: a run that never stops, memory in its canonical form,
and what a step of one context leaves alone.
-/

namespace Sys2Proof.Machine

open Sys2Proof

/-! ## Runs -/

/-- The machine goes on: its next step is neither a fault nor a refusal. -/
def GoesOn (s : State) : Prop := ∃ t, step s = .next t

/-- `t` is the state after `n` steps from `s`. -/
def After : Nat → State → State → Prop
  | 0, s, t => t = s
  | n + 1, s, t => ∃ u, step s = .next u ∧ After n u t

/-- A run of any length stays in states with a property. -/
def Always (p : State → Prop) (s : State) : Prop := ∀ n t, After n s t → p t

/-! ## Memory -/

/-- GDDR 7 is listed in the canonical form: equal contents are equal data. -/
def MemCanonical (s : State) : Prop := Memory.wf s.mem = true

/-- The byte of a core's local space. -/
def locByte (s : State) (c a : Nat) : Byte := memByte (s.core c).loc a

/-! ## Frames -/

/-- All that a state holds beside its cores: memory, events, latches, engines, messages, time. -/
def State.shared (s : State) : State := { s with cores := [] }

/-- All that a core holds beside its contexts: banks, mailboxes, wide side, caches, debug block. -/
def Core.shell (k : Core) : Core := { k with ctxs := [] }

/-- Outside the cores nothing has changed. -/
def SameShared (s t : State) : Prop := t.shared = s.shared

/-- Outside one context nothing has changed: every other context of every core, all that the cores hold beside their
contexts, and everything shared, memory with it. -/
def OnlyCtx (c x : Nat) (s t : State) : Prop :=
  SameShared s t ∧ (∀ d, (t.core d).shell = (s.core d).shell) ∧
    ∀ d y, d ≠ c ∨ y ≠ x → t.ctx d y = s.ctx d y

/-- A context whose X registers and PC alone have changed: rd holds `v` (X0 ignores the write, R15), the PC is `pc`. -/
def WritesReg (k k' : Ctx) (rd : Reg) (v pc : Word) : Prop :=
  (∀ q, xread k' q = if q = rd ∧ rd ≠ 0 then v else xread k q) ∧ k'.pc = pc ∧ ({ k' with x := k.x, pc := k.pc } : Ctx) = k

/-- Executing `i` in `s` gives a next state in which the running context has `v` in rd and has moved on by `n` bytes; nothing else
has changed. -/
def Gives (i : Instr) (s : State) (rd : Reg) (v : Word) (n : Nat) : Prop :=
  ∃ t, exec i s = .next t ∧ OnlyCtx s.cur.1 s.cur.2 s t ∧
    WritesReg s.me (t.ctx s.cur.1 s.cur.2) rd v (s.me.pc + BitVec.ofNat 64 n)

/-- As `Gives`, with flags ORed into FFLAGS and nothing else beside. -/
def GivesF (i : Instr) (s : State) (rd : Reg) (v : Word) (fl : BitVec 5) (n : Nat) : Prop :=
  ∃ t, exec i s = .next t ∧ OnlyCtx s.cur.1 s.cur.2 s t ∧
    WritesReg { s.me with fflags := s.me.fflags ||| fl } (t.ctx s.cur.1 s.cur.2) rd v (s.me.pc + BitVec.ofNat 64 n)

/-- Executing `i` in `s` gives a next state in which the running context has become `k`; nothing else has changed. -/
def Becomes (i : Instr) (s : State) (k : Ctx) : Prop :=
  ∃ t, exec i s = .next t ∧ OnlyCtx s.cur.1 s.cur.2 s t ∧ t.ctx s.cur.1 s.cur.2 = k

/-- Executing `i` in `s` gives a next state in which core `c` has become `k` beside its contexts and its context `x` has become `w`;
every other context, every other core and everything shared is as before. -/
def SetsCore (i : Instr) (s : State) (c : Nat) (k : Core) (x : Nat) (w : Ctx) : Prop :=
  ∃ t, exec i s = .next t ∧ SameShared s t ∧ (t.core c).shell = k ∧ t.ctx c x = w ∧ (∀ y, y ≠ x → t.ctx c y = s.ctx c y) ∧
    ∀ d, d ≠ c → t.core d = s.core d

/-- Executing `i` in `s` raises a cause in the running context, with all that a trap entry does (R19) and nothing else. -/
def Traps (i : Instr) (s : State) (c : Cause) : Prop := exec i s = .next (s.trap c)

/-- No replay log is kept or replayed for the workgroup that core `c` runs (R435). -/
def Unlogged (s : State) (c : Nat) : Prop := ∀ n w, s.wgOf c = some (n, w) → w.mode = .off

/-! ## Accesses that pass the checks of R112 -/

/-- No watchpoint of the core is enabled (R419): neither RD nor WR is set. -/
def Unwatched (k : Core) : Prop := ∀ v ∈ k.wpCtl, v.toNat % 4 = 0

/-- The running context may access `n` bytes at virtual address `ea`, which is byte `lo` of its core's local space: the banks are SCRATCH,
or CADDY at level H (R39), none is changing its role, no watchpoint is set and no wide instruction is queued. -/
def LocalOpen (s : State) (ea : Word) (lo n : Nat) : Prop :=
  ea.toNat = 0xFFFFFFFFFFE00000 + lo ∧ 0 < n ∧ lo + n ≤ 2 ^ 21 ∧
  (∀ b, b < 32 → lo / 65536 ≤ b → b ≤ (lo + n - 1) / 65536 →
    s.myCore.role b = .scratch ∨ (s.myCore.role b = .caddy ∧ s.me.priv = .h)) ∧
  s.myCore.roleChange = none ∧ Unwatched s.myCore ∧ s.myCore.wide.queue = []

/-- An access of `n` bytes at `ea` is performed as one (R113): it is aligned, or it crosses no 16-byte boundary. -/
def AtOnce (ea : Word) (n : Nat) : Prop := ea.toNat % n = 0 ∨ ea.toNat % 16 + n ≤ 16

/-- No sector of these local bytes is poisoned. -/
def LocalClean (s : State) (lo n : Nat) : Prop := ∀ q ∈ s.myCore.locPoison, q < lo / 256 ∨ (lo + n - 1) / 256 < q

/-- The running context, at level H, may access `n` bytes of GDDR 7 at address `ea` (R289: virtual is physical at H), in one sector of
256 bytes; no watchpoint is set, nothing waits in the store buffer, no wide instruction is queued. -/
def GddrOpen (s : State) (ea : Word) (n : Nat) : Prop :=
  s.me.priv = .h ∧ ea.toNat + n ≤ 0x1800000000 ∧ 0 < n ∧ ea.toNat / 256 = (ea.toNat + n - 1) / 256 ∧
  Unwatched s.myCore ∧ s.myCore.stbuf = [] ∧ s.myCore.wide.queue = []

/-- The L1 of the running core holds the sector of an address as `t`: filled, for key ID 0, not poisoned, not in the update-only
state; and the bank of its way is still a cache bank. -/
def HoldsSector (s : State) (ea : Word) (t : Sector) : Prop :=
  tfind s.myCore.l1 (ea.toNat / 256) = some t ∧ t.upd = none ∧ t.key = 0 ∧ t.pois = false ∧ s.myCore.hasL1 = true

/-- Nothing of the running context is left to send (R305): no store unacknowledged, none buffered, no partial on its way, and no queued
wide instruction before it has bytes still to read or write. -/
def NothingOwed (s : State) : Prop :=
  s.me.released = [] ∧ s.me.owed = 0 ∧ (∀ e ∈ s.myCore.stbuf, e.ctx ≠ s.cur.2) ∧
  (∀ i ∈ s.agenda, isPartialOf s.cur.1 i = false) ∧ ∀ e ∈ s.myCore.wide.queue, (comesBefore s.cur.2 e && touchesBytes e) = false

/-- The L1 of a core holds no update-only partial, and none of its partials is on its way (R309). -/
def NoPartials (s : State) : Prop :=
  (∀ e ∈ s.myCore.l1, e.2.upd = none) ∧ ∀ i ∈ s.agenda, isPartialOf s.cur.1 i = false

/-- No atomic operation of the running core is on its way to its home (R308). -/
def NoAmos (s : State) : Prop := ∀ sec, amoOut s s.cur.1 sec = false

/-- Executing `i` in `s` gives a next state in which the message `m` is on its way and the running context has become `k`; nothing else has
changed. -/
def Asks (i : Instr) (s : State) (m : Instr) (k : Ctx) : Prop :=
  ∃ t, exec i s = .next t ∧ t.agenda = s.agenda ++ [m] ∧ OnlyCtx s.cur.1 s.cur.2 s { t with agenda := s.agenda } ∧
    t.ctx s.cur.1 s.cur.2 = k

/-- Executing `i` in `s` stores `bs` at local address `lo`, and the running context becomes `k`. Every other byte of every local
space keeps its value, and so do memory and everything else; poison leaves the sectors stored whole (R410). -/
def StoresLocalTo (i : Instr) (s : State) (lo : Nat) (bs : List Byte) (k : Ctx) : Prop :=
  ∃ t, exec i s = .next t ∧ SameShared s t ∧
    (∀ a, locByte t s.cur.1 a = if lo ≤ a ∧ a < lo + bs.length then bs.getD (a - lo) 0 else locByte s s.cur.1 a) ∧
    (∀ q, q ∈ (t.core s.cur.1).locPoison ↔ q ∈ s.myCore.locPoison ∧ ¬(lo ≤ q * 256 ∧ q * 256 + 256 ≤ lo + bs.length)) ∧
    ({ (t.core s.cur.1).shell with loc := [], locPoison := [] } : Core) = { s.myCore.shell with loc := [], locPoison := [] } ∧
    t.ctx s.cur.1 s.cur.2 = k ∧
    ∀ d y, d ≠ s.cur.1 ∨ y ≠ s.cur.2 → t.ctx d y = s.ctx d y ∧ (d ≠ s.cur.1 → t.core d = s.core d)

/-- The same where the context only moves past the instruction's `n` bytes. -/
def StoresLocal (i : Instr) (s : State) (lo : Nat) (bs : List Byte) (n : Nat) : Prop :=
  StoresLocalTo i s lo bs { s.me with pc := s.me.pc + BitVec.ofNat 64 n }

end Sys2Proof.Machine
end

