-- ==== Sys2Proof/WellFormed.lean ====
section
/-!
DEFINITION. Which instructions are well formed: the field values that R75, R77 and the entries reserve are refused,
and a machine event names units that exist (R1, R6, R7, R9).
-/

namespace Sys2Proof

/-- The check of an instruction's operands. -/
def wellFormed : Instr → Bool
  | .add _ _ _ => true
  | .sub _ _ _ => true
  | .and _ _ _ => true
  | .or _ _ _ => true
  | .xor _ _ _ => true
  | .andn _ _ _ => true
  | .shl _ _ _ => true
  | .shr _ _ _ => true
  | .sar _ _ _ => true
  | .rot _ _ _ => true
  | .min _ _ _ => true
  | .max _ _ _ => true
  | .minu _ _ _ => true
  | .maxu _ _ _ => true
  | .mul _ _ _ => true
  | .mulh _ _ _ => true
  | .mulhu _ _ _ => true
  | .div _ _ _ => true
  | .divu _ _ _ => true
  | .rem _ _ _ => true
  | .remu _ _ _ => true
  | .cmp cond _ _ _ => cond.toNat ≤ 5
  | .sel _ _ _ _ => true
  | .clz _ _ => true
  | .ctz _ _ => true
  | .popc _ _ => true
  | .bext _ _ _ => true
  | .bins _ _ _ => true
  | .movi _ _ => true
  | .moviLit _ _ => true
  | .addi _ _ _ => true
  | .addiLit _ _ _ => true
  | .andi _ _ _ => true
  | .andiLit _ _ _ => true
  | .ori _ _ _ => true
  | .oriLit _ _ _ => true
  | .xori _ _ _ => true
  | .xoriLit _ _ _ => true
  | .shli _ _ _ => true
  | .shri _ _ _ => true
  | .sari _ _ _ => true
  | .br cond _ _ => cond.toNat ≤ 5
  | .loop rs1 _ => rs1 != 0
  | .jmp _ => true
  | .jmpLit _ => true
  | .call _ _ => true
  | .callLit _ _ => true
  | .jr _ _ => true
  | .ret => true
  | .ld sz _ _ _ => sz != 7
  | .ldLit sz _ _ _ => sz != 7
  | .st sz _ _ _ => sz.toNat ≤ 3
  | .stLit sz _ _ _ => sz.toNat ≤ 3
  | .ldp rt _ _ => evenReg rt
  | .ldpLit rt _ _ => evenReg rt
  | .stp rt _ _ => evenReg rt
  | .stpLit rt _ _ => evenReg rt
  | .pref hint _ _ => hint.toNat ≤ 2
  | .prefLit hint _ _ => hint.toNat ≤ 2
  | .amo rt _ sz rv aop => amoOk rt sz rv aop
  | .upd _ sz rv aop => updOk sz rv aop
  | .fadd _ _ _ _ rm => rmOk rm
  | .fsub _ _ _ _ rm => rmOk rm
  | .fmul _ _ _ _ rm => rmOk rm
  | .fdiv _ _ _ _ rm => rmOk rm
  | .fsqrt _ _ _ rm => rmOk rm
  | .fmin _ _ _ _ => true
  | .fmax _ _ _ _ => true
  | .fminm _ _ _ _ => true
  | .fmaxm _ _ _ _ => true
  | .fma _ _ _ _ _ => true
  | .fcmp _ cond _ _ _ => cond.toNat ≤ 3
  | .fcvt _ _ tk fk rm => fcvtOk tk fk && rmOk rm
  | .fclass _ _ _ => true
  | .csrr _ _ => true
  | .csrw _ _ _ => true
  | .csrs _ _ _ => true
  | .csrc _ _ _ => true
  | .mbw _ _ => true
  | .mbr _ _ => true
  | .mbq _ _ => true
  | .nop => true
  | .eret => true
  | .brk => true
  | .halt => true
  | .rand _ => true
  | .trap _ => true
  | .vlda _ _ rm _ => rmOk rm
  | .vsta _ _ rm _ => rmOk rm
  | .vadd _ _ _ rm _ => rmOk rm
  | .vsub _ _ _ rm _ => rmOk rm
  | .vmul _ _ _ rm _ => rmOk rm
  | .vfma _ _ _ _ rm _ => rmOk rm
  | .vfms _ _ _ _ rm _ => rmOk rm
  | .vmax _ _ _ => true
  | .vmin _ _ _ => true
  | .vabs _ _ => true
  | .vneg _ _ => true
  | .vclamp _ _ _ _ => true
  | .vscale _ _ _ rm _ => rmOk rm
  | .vdot _ _ _ _ rm _ => rmOk rm
  | .vand _ _ _ => true
  | .vor _ _ _ => true
  | .vxor _ _ _ => true
  | .vshl _ _ _ => true
  | .vshr _ _ _ _ => true
  | .vsel _ _ _ _ _ => true
  | .vcmp _ _ _ cond => cond.toNat ≤ 3
  | .vperm _ _ _ => true
  | .vshuf _ _ pat => pat != 7
  | .viota _ => true
  | .vred _ _ op => op.toNat ≤ 4
  | .vbcast _ _ _ => true
  | .vcvt _ _ rm _ => rmOk rm
  | .vcvtAuto _ _ rm _ => rmOk rm
  | .vexp2 _ _ => true
  | .vlog2 _ _ => true
  | .vrcp _ _ => true
  | .vrsq _ _ => true
  | .vtanh _ _ => true
  | .vsig _ _ => true
  | .pset n _ => n.toNat ≤ 7
  | .padd n _ => n.toNat ≤ 7
  | .pget _ n => n.toNat ≤ 7
  | .fset n _ => 4 ≤ n.toNat && n.toNat ≤ 15
  | .fget _ n => n.toNat ≤ 15
  | .acccfg _ => true
  | .acccfgKeep _ => true
  | .accsw => true
  | .rep _ _ _ _ => true
  | .evdef _ _ => true
  | .evdel _ _ => true
  | .evstat _ _ _ => true
  | .offerSync _ => true
  | .offerGive _ _ => true
  | .offerTake _ _ => true
  | .offerBoth _ _ _ => true
  | .wdraw _ => true
  | .wdrawAll => true
  | .selectNb _ => true
  | .selectT _ => true
  | .selectNbLimit _ _ => true
  | .selectTLimit _ _ => true
  | .phase _ => true
  | .gang => true
  | .spawn _ _ _ => true
  | .hend => true
  | .take _ _ => true
  | .done _ _ => true
  | .poolcfg _ _ _ => true
  | .poolput _ _ _ => true
  | .domset _ => true
  | .fifobind _ _ _ => true
  | .mldb _ rs2 _ _ _ sc _ => rs2 == 0 || sc == 1
  | .mmul _ _ _ _ _ _ => true
  | .mcfg _ => true
  | .mstat _ sel => sel == 0 || (8 ≤ sel.toNat && sel.toNat ≤ 15)
  | .mspill _ _ => true
  | .mfill _ _ => true
  | .fenceL => true
  | .cflush depth _ => depth.toNat ≤ 1
  | .cinv depth _ => depth.toNat ≤ 1
  | .cinvI _ => true
  | .czero _ => true
  | .bankrole _ _ _ => true
  | .tlbiAll _ => true
  | .tlbiAsid _ _ => true
  | .tlbiPage _ _ _ => true
  | .tlbiVa _ _ => true
  | .wpset _ _ _ => true
  | .fifoadv _ _ _ => true
  | .layreg acc _ _ => acc != 0
  | .layregLit acc _ _ => acc != 0
  | .layrel _ _ => true
  | .copy rm _ _ _ _ _ => rmOk rm
  | .copyFirst rm _ _ _ _ _ _ => rmOk rm
  | .cstat _ _ => true
  | .cstatAbort _ _ => true
  | .pbind _ _ => true
  | .punbind _ _ => true
  | .pstat _ _ _ => true
  | .permit _ _ _ => true
  | .rescls cls _ _ => cls != 3
  | .tcfgNew _ _ _ => true
  | .tcfgNewLit _ _ _ => true
  | .tcfgGrow _ _ _ => true
  | .tcfgGrowLit _ _ _ => true
  | .tcfgDel _ _ => true
  | .troot _ _ _ => true
  | .tdesc _ _ => true
  | .texp _ _ _ _ k => 1 ≤ k.toNat && k.toNat ≤ 256
  | .texpTerm _ _ _ => true
  | .tback _ _ _ _ => true
  | .tbackVlo _ _ _ => true
  | .tbatch _ _ => true
  | .treuse _ _ _ => true
  | .treadStats rd _ _ => evenReg rd && rd != 0
  | .treadLinks rd _ _ => evenReg rd && rd != 0
  | .treadTree rd _ => evenReg rd && rd != 0
  | .packageReset _ _ => true
  | .instructionFetchFill core ctx _ => core < 576 && ctx % 16 < 11
  | .loadDataReturn core ctx _ => core < 576 && ctx % 16 < 11
  | .randEntropyReady core ctx => core < 576 && ctx < 11
  | .mbwComplete core ctx => core < 576 && ctx < 11
  | .mbrComplete core ctx => core < 576 && ctx < 11
  | .mailboxDeposit core mb _ _ _ _ => core < 576 && mb < 8
  | .requestAnswer core ctx _ => core % 65536 < 576 && ctx % 16 < 11
  | .haltComplete core => core < 576
  | .asyncTrapEntry core ctx => core < 576 && ctx < 11
  | .uncorrectable core ctx _ _ _ _ => core < 576 && ctx % 16 < 11
  | .wideExecute core => core < 576
  | .repPass core => core < 576
  | .mmulJoin g => g < 96
  | .mmulRowBroadcast g => g < 96
  | .homeOfferArrives home _ => home % 65536 < 672
  | .homeGrant _ _ _ => true
  | .homeRefusal _ _ _ => true
  | .homeWoundRequest _ _ _ => true
  | .homeWithdrawal _ _ _ _ => true
  | .homeRetryTime _ => true
  | .homeDeliveryConfirmed _ _ _ => true
  | .latchEnableNotice _ _ _ _ => true
  | .latchCancel _ _ _ => true
  | .latchClaim _ _ _ _ => true
  | .latchRelease _ _ _ => true
  | .latchCommit _ _ _ _ => true
  | .latchLimitExpiry _ => true
  | .latchStop _ => true
  | .latchResume _ => true
  | .latchRefusal _ _ _ _ => true
  | .latchLastPayloadDelivered _ _ _ => true
  | .spillPoll _ => true
  | .payloadLanding _ _ _ _ _ _ => true
  | .standingAgentOffer _ => true
  | .probeRouterVisit _ => true
  | .storeAck core ctx => core < 576 && ctx < 12
  | .releaseComplete core ctx => core < 576 && ctx < 11
  | .l1SectorFill core _ _ => core < 576
  | .llcFill _ _ _ _ => true
  | .amoAtHome core ctx _ => core < 576 && ctx % 16 < 11
  | .updPartialCombine _ => true
  | .pageWalk core ctx _ _ => core < 576 && ctx < 11
  | .windowAccessAtTarget _ => true
  | .hostWindowCompletion core ctx _ => core < 576 && ctx % 16 < 11
  | .hostLoadTimeout core ctx => core < 576 && ctx % 16 < 11
  | .bankRoleChangeComplete core => core < 576
  | .copyCommandRun cluster => cluster < 24
  | .copyCompletionOffer cluster => cluster < 24
  | .pipelineStageProduce die entry => die < 2 && entry < 512
  | .permitAgentOffer die _ => die < 2
  | .weltBind _ => true
  | .weltUnbind core ctx _ _ => core < 576 && ctx % 16 < 11
  | .cantleOperation core ctx cluster tree _ => core < 576 && ctx % 16 < 11 && cluster < 24 && tree < 64
  | .batchOffer cluster tree => cluster < 24 && tree < 64
  | .reclamationFree cluster tree _ => cluster < 24 && tree < 64
  | .launchPacket q _ => q < 64
  | .poolPacket q _ => q < 64
  | .waitPacket q _ => q < 64
  | .signalPacket q _ => q < 64
  | .copyPacket q _ _ => q < 64
  | .bindPacket q _ => q < 64
  | .bindReleasePacket q _ => q < 64
  | .completionRecordWrite q => q < 64
  | .hostApertureAccess _ => true
  | .placement q => q < 64
  | .gangDrain q => q < 64
  | .gangCompaction q => q < 64
  | .preemptionRequest _ _ => true
  | .coreHalted core => core < 576
  | .contextSwitch _ _ _ _ => true
  | .coreRestore core => core < 576
  | .residentPairSwap _ _ => true
  | .replacement _ _ _ => true
  | .createPartition _ _ => true
  | .destroyPartition _ _ => true
  | .writeRegionRegister _ cluster _ _ _ => cluster < 24
  | .assignResources _ _ => true
  | .setupTraceReplay _ _ => true
  | .writeRoutingTable _ die _ _ => die < 2
  | .preemptWorkgroupRequest _ _ _ => true
  | .debugBlockRequest _ core _ _ => core < 576
  | .flushTraceRequest _ cluster => cluster < 24
  | .dbgHaltreq core => core < 576
  | .dbgResume core => core < 576
  | .dbgStep core => core < 576
  | .stopComplete core => core < 576
  | .stepComplete core => core < 576
  | .dbgdataRead core => core < 576
  | .dbgdataWrite core _ => core < 576
  | .dbgstatRead core => core < 576
  | .registerWrite _ _ => true
  | .traceSample core => core < 576
  | .traceCountRecord core => core < 576
  | .segmentSeal cluster stream => cluster < 24 && stream < 2
  | .segmentWriteAck cluster stream => cluster < 24 && stream < 2
  | .powerGate cluster => cluster < 24
  | .replayLogEnd _ _ => true
  | .timebaseAlignment _ => true
  | .laneFailure port _ => port < 18
  | .portRetrainComplete port _ => port < 18
  | .portDown port => port < 18
  | .flitCrcRetry port => port < 18
  | .pldmPassComponentTable _ => true
  | .pldmUpdateComponent _ _ _ => true
  | .pldmRequestFirmwareData _ => true
  | .pldmTransferComplete _ => true
  | .pldmVerifyComplete => true
  | .pldmApplyComplete => true
  | .pldmActivateFirmware => true
  | .commitWindowEnd => true
  | .spdmRequest _ => true
  | .powerLimitSet _ => true
  | .pldmPlatformRead _ => true
  | .qtailDoorbellWrite q _ => q < 64
  | .postedWriteErrorMessage => true

end Sys2Proof
end

