-- ==== Sys2Proof/Certificates/Slice0/Obligations.lean ====
section
/-!
DEFINITION. The statements for the provers. A statement about an instruction says that it answers a next state, what that
state holds, and what it leaves alone; a part that stands under a name of its own is stated through the obligation that names it.
-/

open Sys2Proof Sys2Proof.Machine

/-! ## Integer instructions (R100-R105) -/

/-- R100: an ALU instruction sets X[rd] to f(a, b) and changes nothing else: no flag, no other register, no byte of memory. Shift and
rotate amounts are b modulo 64. Writes to X0 are ignored (R15), also where rd is a source. -/
def Sys2Proof.Machine.AluInstructionsSetRd : Prop := ∀ (s : State) (rd rs1 rs2 : Reg),
  let a := xread s.me rs1
  let b := xread s.me rs2
  let n := b.toNat % 64
  Gives (.add rd rs1 rs2) s rd (a + b) 4 ∧
  Gives (.sub rd rs1 rs2) s rd (a - b) 4 ∧
  Gives (.and rd rs1 rs2) s rd (a &&& b) 4 ∧
  Gives (.or rd rs1 rs2) s rd (a ||| b) 4 ∧
  Gives (.xor rd rs1 rs2) s rd (a ^^^ b) 4 ∧
  Gives (.andn rd rs1 rs2) s rd (a &&& ~~~b) 4 ∧
  Gives (.shl rd rs1 rs2) s rd (a <<< n) 4 ∧
  Gives (.shr rd rs1 rs2) s rd (a >>> n) 4 ∧
  Gives (.sar rd rs1 rs2) s rd (a.sshiftRight n) 4 ∧
  Gives (.rot rd rs1 rs2) s rd ((a >>> n) ||| (a <<< (64 - n))) 4 ∧
  Gives (.min rd rs1 rs2) s rd (if a.toInt ≤ b.toInt then a else b) 4 ∧
  Gives (.max rd rs1 rs2) s rd (if a.toInt ≤ b.toInt then b else a) 4 ∧
  Gives (.minu rd rs1 rs2) s rd (if a.toNat ≤ b.toNat then a else b) 4 ∧
  Gives (.maxu rd rs1 rs2) s rd (if a.toNat ≤ b.toNat then b else a) 4

/-- R101: products, and division that truncates toward zero and saturates: the quotient of a division by zero is infinite with the
sign of a; −2^63 ÷ −1 is the one signed quotient above 2^63 − 1; a remainder is exact. No flag and no cause. -/
def Sys2Proof.Machine.MulDivInstructionsSetRd : Prop := ∀ (s : State) (rd rs1 rs2 : Reg),
  let a := xread s.me rs1
  let b := xread s.me rs2
  let top : Int := 2 ^ 63 - 1
  Gives (.mul rd rs1 rs2) s rd (BitVec.ofInt 64 (a.toInt * b.toInt)) 4 ∧
  Gives (.mulh rd rs1 rs2) s rd (BitVec.ofInt 64 (a.toInt * b.toInt / 2 ^ 64)) 4 ∧
  Gives (.mulhu rd rs1 rs2) s rd (BitVec.ofNat 64 (a.toNat * b.toNat / 2 ^ 64)) 4 ∧
  Gives (.div rd rs1 rs2) s rd
    (BitVec.ofInt 64 (if b = 0 then (if 0 ≤ a.toInt then top else -2 ^ 63) else Min.min (a.toInt.tdiv b.toInt) top)) 4 ∧
  Gives (.divu rd rs1 rs2) s rd (BitVec.ofNat 64 (if b = 0 then 2 ^ 64 - 1 else a.toNat / b.toNat)) 4 ∧
  Gives (.rem rd rs1 rs2) s rd (BitVec.ofInt 64 (a.toInt - b.toInt * (if b = 0 then 0 else a.toInt.tdiv b.toInt))) 4 ∧
  Gives (.remu rd rs1 rs2) s rd (BitVec.ofNat 64 (a.toNat - b.toNat * (if b = 0 then 0 else a.toNat / b.toNat))) 4

/-- R100, R101: the ALU instructions, the products, quotients and remainders. -/
def Obligations.IntegerInstructionsSetRd : Prop := AluInstructionsSetRd ∧ MulDivInstructionsSetRd

/-- The relation of a CMP cond code: 0 EQ, 1 NE, 2 LT, 3 GE, 4 LTU, 5 GEU (R102). -/
def Sys2Proof.Machine.cmpHolds (cond : Nat) (a b : Word) : Prop :=
  (cond = 0 ∧ a = b) ∨ (cond = 1 ∧ a ≠ b) ∨ (cond = 2 ∧ a.toInt < b.toInt) ∨ (cond = 3 ∧ b.toInt ≤ a.toInt) ∨
  (cond = 4 ∧ a.toNat < b.toNat) ∨ (cond = 5 ∧ b.toNat ≤ a.toNat)

/-- R102, R103: CMP gives 1 where the relation holds and 0 where it does not; SEL gives X[rs1] where X[rc] is not zero, else X[rs2].
Nothing else changes. -/
def Sys2Proof.Machine.CompareAndSelectSetRd : Prop := ∀ (s : State) (rd rc rs1 rs2 : Reg) (cond : BitVec 3),
  let a := xread s.me rs1
  let b := xread s.me rs2
  (cond.toNat ≤ 5 → (cmpHolds cond.toNat a b → Gives (.cmp cond rd rs1 rs2) s rd 1 4) ∧
    (¬cmpHolds cond.toNat a b → Gives (.cmp cond rd rs1 rs2) s rd 0 4)) ∧
  (xread s.me rc ≠ 0 → Gives (.sel rd rc rs1 rs2) s rd a 4) ∧
  (xread s.me rc = 0 → Gives (.sel rd rc rs1 rs2) s rd b 4)

/-- R104: counts of leading and trailing zero bits (64 for 0) and of one bits; BEXT takes the field of len bits at pos of a, BINS puts
the low bits of a at that field of rd and keeps the other bits of rd; a field is cut at bit 63. -/
def Sys2Proof.Machine.BitInstructionsSetRd : Prop := ∀ (s : State) (rd rs1 rs2 : Reg),
  let a := xread s.me rs1
  let f := xread s.me rs2
  let d := xread s.me rd
  let pos := f.toNat % 64
  let len := Nat.min (f.toNat / 256 % 128) 64
  (∃ n, Gives (.clz rd rs1) s rd (BitVec.ofNat 64 n) 4 ∧ (a = 0 → n = 64) ∧
    (a ≠ 0 → n < 64 ∧ 2 ^ (63 - n) ≤ a.toNat ∧ a.toNat < 2 ^ (64 - n))) ∧
  (∃ n, Gives (.ctz rd rs1) s rd (BitVec.ofNat 64 n) 4 ∧ (a = 0 → n = 64) ∧
    (a ≠ 0 → n < 64 ∧ a.getLsbD n = true ∧ ∀ i, i < n → a.getLsbD i = false)) ∧
  Gives (.popc rd rs1) s rd (BitVec.ofNat 64 ((List.range 64).filter fun i => a.getLsbD i).length) 4 ∧
  (∃ v, Gives (.bext rd rs1 rs2) s rd v 4 ∧
    ∀ i, i < 64 → v.getLsbD i = (decide (i < len) && decide (pos + i < 64) && a.getLsbD (pos + i))) ∧
  (∃ v, Gives (.bins rd rs1 rs2) s rd v 4 ∧
    ∀ i, i < 64 → v.getLsbD i = if pos ≤ i ∧ i < pos + len then a.getLsbD (i - pos) else d.getLsbD i)

/-- R105: the immediate forms. The 12-bit immediate of MOVI and ADDI is signed, that of ANDI, ORI and XORI is not; the forms with a
literal use all 64 bits of it and are 12 bytes long. Nothing but X[rd] and the PC changes. -/
def Sys2Proof.Machine.ImmediateInstructionsSetRd : Prop := ∀ (s : State) (rd rs1 : Reg) (imm : BitVec 12) (lit : BitVec 64) (sh : BitVec 6),
  let a := xread s.me rs1
  let sx := BitVec.ofInt 64 imm.toInt
  let zx := BitVec.ofNat 64 imm.toNat
  Gives (.movi rd imm) s rd sx 4 ∧ Gives (.moviLit rd lit) s rd lit 12 ∧
  Gives (.addi rd rs1 imm) s rd (a + sx) 4 ∧ Gives (.addiLit rd rs1 lit) s rd (a + lit) 12 ∧
  Gives (.andi rd rs1 imm) s rd (a &&& zx) 4 ∧ Gives (.andiLit rd rs1 lit) s rd (a &&& lit) 12 ∧
  Gives (.ori rd rs1 imm) s rd (a ||| zx) 4 ∧ Gives (.oriLit rd rs1 lit) s rd (a ||| lit) 12 ∧
  Gives (.xori rd rs1 imm) s rd (a ^^^ zx) 4 ∧ Gives (.xoriLit rd rs1 lit) s rd (a ^^^ lit) 12 ∧
  Gives (.shli rd rs1 sh) s rd (a <<< sh.toNat) 4 ∧ Gives (.shri rd rs1 sh) s rd (a >>> sh.toNat) 4 ∧
  Gives (.sari rd rs1 sh) s rd (a.sshiftRight sh.toNat) 4

/-- R102-R105: comparisons, selection, bit counts and fields, and the immediate forms. -/
def Obligations.CompareBitAndImmediateFormsSetRd : Prop := CompareAndSelectSetRd ∧ BitInstructionsSetRd ∧ ImmediateInstructionsSetRd

/-! ## Control transfers (R106-R110) -/

/-- The test of a BR cond code against zero, signed: 0 EQZ, 1 NEZ, 2 LTZ, 3 GEZ, 4 GTZ, 5 LEZ (R75, R107). -/
def Sys2Proof.Machine.brHolds (cond : Nat) (a : Word) : Prop :=
  (cond = 0 ∧ a.toInt = 0) ∨ (cond = 1 ∧ a.toInt ≠ 0) ∨ (cond = 2 ∧ a.toInt < 0) ∨ (cond = 3 ∧ 0 ≤ a.toInt) ∨
  (cond = 4 ∧ 0 < a.toInt) ∨ (cond = 5 ∧ a.toInt ≤ 0)

/-- R107, R108: where a BR's test holds, and where LOOP's counter does not reach 0, the PC goes to PC + 4 × offset; otherwise past the
instruction. LOOP counts X[rs1] down. Nothing else changes. -/
def Sys2Proof.Machine.BranchesGoToTheirTarget : Prop := ∀ (s : State) (rs1 : Reg) (cond : BitVec 3) (off : BitVec 15),
  let there := s.me.pc + BitVec.ofInt 64 (4 * off.toInt)
  let v := xread s.me rs1 - 1
  (cond.toNat ≤ 5 → (brHolds cond.toNat (xread s.me rs1) → Becomes (.br cond rs1 off) s { s.me with pc := there }) ∧
    (¬brHolds cond.toNat (xread s.me rs1) → Becomes (.br cond rs1 off) s { s.me with pc := s.me.pc + 4 })) ∧
  (rs1 ≠ 0 → ∃ t, exec (.loop rs1 off) s = .next t ∧ OnlyCtx s.cur.1 s.cur.2 s t ∧
    WritesReg s.me (t.ctx s.cur.1 s.cur.2) rs1 v (if v ≠ 0 then there else s.me.pc + 4))

/-- An instruction links NextPC into rd (nothing for X0) and goes to a target; nothing else changes. -/
def Sys2Proof.Machine.LinksTo (i : Instr) (s : State) (rd : Reg) (next target : Word) : Prop :=
  ∃ t, exec i s = .next t ∧ OnlyCtx s.cur.1 s.cur.2 s t ∧ WritesReg s.me (t.ctx s.cur.1 s.cur.2) rd next target

/-- R109, R110: JMP and CALL go to PC + 4 × offset, or to their literal; JR to X[rs1], read before the link is written; RET to X1.
CALL and JR link NextPC. For literal and register targets this is where bits [1:0] of the target are zero. -/
def Sys2Proof.Machine.JumpsLinkAndGo : Prop := ∀ (s : State) (rd rs1 : Reg) (off : BitVec 18) (lit : BitVec 64),
  let there := s.me.pc + BitVec.ofInt 64 (4 * off.toInt)
  LinksTo (.jmp off) s 0 (s.me.pc + 4) there ∧
  LinksTo (.call rd off) s rd (s.me.pc + 4) there ∧
  (lit.toNat % 4 = 0 → LinksTo (.jmpLit lit) s 0 (s.me.pc + 12) lit ∧ LinksTo (.callLit rd lit) s rd (s.me.pc + 12) lit) ∧
  ((xread s.me rs1).toNat % 4 = 0 → LinksTo (.jr rd rs1) s rd (s.me.pc + 4) (xread s.me rs1)) ∧
  ((xread s.me 1).toNat % 4 = 0 → LinksTo .ret s 0 (s.me.pc + 4) (xread s.me 1))

/-- R106 (and R74 for a literal): a target whose bits [1:0] are not zero raises ILLEGAL_INSTRUCTION at the transfer, with its first
word in TVAL and item 6 of R79 as REASON. -/
def Sys2Proof.Machine.MisalignedTargetsTrap : Prop := ∀ (s : State) (rd rs1 : Reg) (lit : BitVec 64),
  (lit.toNat % 4 ≠ 0 → Traps (.jmpLit lit) s (illegal (.jmpLit lit) 6) ∧ Traps (.callLit rd lit) s (illegal (.callLit rd lit) 6)) ∧
  ((xread s.me rs1).toNat % 4 ≠ 0 → Traps (.jr rd rs1) s (illegal (.jr rd rs1) 6)) ∧
  ((xread s.me 1).toNat % 4 ≠ 0 → Traps .ret s (illegal .ret 6))

/-- R74, R106-R110: branches, jumps, calls and returns, and the trap at a misaligned target. -/
def Obligations.TransfersGoToTheirTarget : Prop := BranchesGoToTheirTarget ∧ JumpsLinkAndGo ∧ MisalignedTargetsTrap

/-! ## Loads and stores (R111-R115) -/

/-- What a load of size code sz writes of the bytes it reads (R75, R114): B, H, W, D (0-3) sign-extended, BU, HU, WU (4-6) zero-extended. -/
def Sys2Proof.Machine.loaded (sz : BitVec 3) (bs : List Byte) : Word :=
  if sz.toNat < 4 then BitVec.ofInt 64 (((natOfBytes bs : Int) + 2 ^ (8 * bs.length - 1)) % 2 ^ (8 * bs.length) - 2 ^ (8 * bs.length - 1))
  else BitVec.ofNat 64 (natOfBytes bs)

/-- R111, R113, R114: a load from the local window, where the checks of R112 pass and the access is performed as one. EA is X[rb] plus the signed displacement or the literal, the
bytes are the core's own, little-endian; LDP reads 16 bytes into rt and rt + 1 (rt even). No byte of memory changes, and nothing
but the destination registers and the PC. -/
def Sys2Proof.Machine.LocalLoadsReadTheBank : Prop :=
  ∀ (s : State) (sz : BitVec 3) (rt rb : Reg) (disp : BitVec 10) (lit : Word) (lo : Nat),
  let n := 2 ^ (sz.toNat % 4)
  let ea := xread s.me rb + BitVec.ofInt 64 disp.toInt
  let eaL := xread s.me rb + lit
  let bytes := fun m => (List.range m).map fun i => locByte s s.cur.1 (lo + i)
  let pair := fun (i : Instr) (m : Nat) => ∃ t, exec i s = .next t ∧ OnlyCtx s.cur.1 s.cur.2 s t ∧
    WritesReg (xwrite s.me rt (wordOf (bytes 8))) (t.ctx s.cur.1 s.cur.2) (rt + 1) (wordOf ((bytes 16).drop 8))
      (s.me.pc + BitVec.ofNat 64 m)
  (sz ≠ 7 → LocalOpen s ea lo n → LocalClean s lo n → AtOnce ea n → Gives (.ld sz rt rb disp) s rt (loaded sz (bytes n)) 4) ∧
  (sz ≠ 7 → LocalOpen s eaL lo n → LocalClean s lo n → AtOnce eaL n → Gives (.ldLit sz rt rb lit) s rt (loaded sz (bytes n)) 12) ∧
  (rt.toNat % 2 = 0 → LocalOpen s ea lo 16 → LocalClean s lo 16 → AtOnce ea 16 → pair (.ldp rt rb disp) 4) ∧
  (rt.toNat % 2 = 0 → LocalOpen s eaL lo 16 → LocalClean s lo 16 → AtOnce eaL 16 → pair (.ldpLit rt rb lit) 12)

/-- R113, R114: a load that crosses a 16-byte boundary of the local window takes the part before it and the part from it on, in either order (log 55: which
is free, as is whether another step comes between them). Either it completes in one step, or one part's bytes are taken and the
instruction goes on with the other; it then completes with the bytes of both. -/
def Sys2Proof.Machine.LocalLoadsTakeTwoParts :
    Prop := ∀ (s : State) (sz : BitVec 3) (rt rb : Reg) (disp : BitVec 10) (lit : Word) (lo : Nat) (up : Bool) (h : List Byte),
  let ea := xread s.me rb + BitVec.ofInt 64 disp.toInt
  let eaL := xread s.me rb + lit
  let bytes := fun m => (List.range m).map fun i => locByte s s.cur.1 (lo + i)
  let claim := fun (i : Instr) (e : Word) (n m : Nat) (dst : Reg) (two : Bool) =>
    let cut := 16 - e.toNat % 16
    let ends := fun (bs : List Byte) (k k' : Ctx) => if two
      then WritesReg (xwrite k dst (wordOf (bs.take 8))) k' (dst + 1) (wordOf (bs.drop 8)) (s.me.pc + BitVec.ofNat 64 m)
      else WritesReg k k' dst (loaded sz bs) (s.me.pc + BitVec.ofNat 64 m)
    LocalOpen s e lo n → LocalClean s lo n → ¬AtOnce e n →
    (s.me.half = none → ∃ t, exec i s = .next t ∧ OnlyCtx s.cur.1 s.cur.2 s { t with draws := s.draws } ∧
      (ends (bytes n) s.me (t.ctx s.cur.1 s.cur.2) ∨
        ∃ u, t.ctx s.cur.1 s.cur.2 = { s.me with half := some (u, if u then (bytes n).drop cut else (bytes n).take cut) })) ∧
    (s.me.half = some (up, h) → ∃ t, exec i s = .next t ∧ OnlyCtx s.cur.1 s.cur.2 s t ∧
      ends (if up then (bytes n).take cut ++ h else h ++ (bytes n).drop cut) { s.me with half := none } (t.ctx s.cur.1 s.cur.2))
  (sz ≠ 7 → claim (.ld sz rt rb disp) ea (2 ^ (sz.toNat % 4)) 4 rt false ∧ claim (.ldLit sz rt rb lit) eaL (2 ^ (sz.toNat % 4)) 12 rt false) ∧
  (rt.toNat % 2 = 0 → claim (.ldp rt rb disp) ea 16 4 rt true ∧ claim (.ldpLit rt rb lit) eaL 16 12 rt true)

/-- R113, R114: a store to the local window, where the checks of R112 pass and the access is performed as one, writes the low bytes of X[rt] (of X[rt] and X[rt + 1] for STP),
little-endian, at EA and nowhere else. -/
def Sys2Proof.Machine.LocalStoresWriteTheBank : Prop :=
  ∀ (s : State) (sz : BitVec 3) (rt rb : Reg) (disp : BitVec 10) (lit : Word) (lo : Nat),
  let n := 2 ^ sz.toNat
  let ea := xread s.me rb + BitVec.ofInt 64 disp.toInt
  let eaL := xread s.me rb + lit
  let le := fun (v : Word) (m : Nat) => (List.range m).map fun i => BitVec.ofNat 8 (v.toNat / 2 ^ (8 * i))
  let two := le (xread s.me rt) 8 ++ le (xread s.me (rt + 1)) 8
  (sz.toNat ≤ 3 → LocalOpen s ea lo n → AtOnce ea n → StoresLocal (.st sz rt rb disp) s lo (le (xread s.me rt) n) 4) ∧
  (sz.toNat ≤ 3 → LocalOpen s eaL lo n → AtOnce eaL n → StoresLocal (.stLit sz rt rb lit) s lo (le (xread s.me rt) n) 12) ∧
  (rt.toNat % 2 = 0 → LocalOpen s ea lo 16 → AtOnce ea 16 → StoresLocal (.stp rt rb disp) s lo two 4) ∧
  (rt.toNat % 2 = 0 → LocalOpen s eaL lo 16 → AtOnce eaL 16 → StoresLocal (.stpLit rt rb lit) s lo two 12)

/-- R113, R114: a store that crosses a 16-byte boundary of the local window may leave one of its two parts for later (log 55: free); before a context of
the core issues again the other part is performed too, and then its bytes, and no others, have changed. -/
def Sys2Proof.Machine.LocalStoresWriteTwoParts :
    Prop := ∀ (s : State) (sz : BitVec 3) (rt rb : Reg) (disp : BitVec 10) (lit : Word) (lo : Nat),
  let n := 2 ^ sz.toNat
  let ea := xread s.me rb + BitVec.ofInt 64 disp.toInt
  let eaL := xread s.me rb + lit
  let le := fun (v : Word) (m : Nat) => (List.range m).map fun i => BitVec.ofNat 8 (v.toNat / 2 ^ (8 * i))
  let two := le (xread s.me rt) 8 ++ le (xread s.me (rt + 1)) 8
  let claim := fun (i : Instr) (e : Word) (bs : List Byte) (m : Nat) => LocalOpen s e lo bs.length → ¬AtOnce e bs.length → s.myCore.late = [] →
    ∃ t, exec i s = .next t ∧ t.ctx s.cur.1 s.cur.2 = { s.me with pc := s.me.pc + BitVec.ofNat 64 m } ∧
      SameShared s { t with draws := s.draws } ∧ (∀ d, d ≠ s.cur.1 → t.core d = s.core d) ∧
      (∀ a, locByte t s.cur.1 a = locByte s s.cur.1 a ∨ (lo ≤ a ∧ a < lo + bs.length)) ∧
      ∀ a, locByte (performLate s.cur.1 t) s.cur.1 a = if lo ≤ a ∧ a < lo + bs.length then bs.getD (a - lo) 0 else locByte s s.cur.1 a
  (sz.toNat ≤ 3 → claim (.st sz rt rb disp) ea (le (xread s.me rt) n) 4 ∧ claim (.stLit sz rt rb lit) eaL (le (xread s.me rt) n) 12) ∧
  (rt.toNat % 2 = 0 → claim (.stp rt rb disp) ea two 4 ∧ claim (.stpLit rt rb lit) eaL two 12)

/-- R276, R114: a load of GDDR 7 at level H that hits in the L1 gives the bytes of the L1's copy; nothing else changes. -/
def Sys2Proof.Machine.GddrLoadsReadTheL1 : Prop :=
  ∀ (s : State) (sz : BitVec 3) (rt rb : Reg) (disp : BitVec 10) (lit : Word) (t : Sector),
  let n := 2 ^ (sz.toNat % 4)
  let ea := xread s.me rb + BitVec.ofInt 64 disp.toInt
  let eaL := xread s.me rb + lit
  let bytes := fun (e : Word) => (t.bytes.drop (e.toNat % 256)).take n
  t.bytes.length = 256 → s.me.rdata = none → sz ≠ 7 → NoPartials s →
  (GddrOpen s ea n → HoldsSector s ea t → AtOnce ea n → Gives (.ld sz rt rb disp) s rt (loaded sz (bytes ea)) 4) ∧
  (GddrOpen s eaL n → HoldsSector s eaL t → AtOnce eaL n → Gives (.ldLit sz rt rb lit) s rt (loaded sz (bytes eaL)) 12)

/-- R111, R114, R276: loads of the local window and of GDDR 7 through the L1. -/
def Obligations.LoadsGiveTheBytes : Prop := LocalLoadsReadTheBank ∧ LocalLoadsTakeTwoParts ∧ GddrLoadsReadTheL1

/-- R276: a store to a sector that the L1 holds, while no AMO of the core is on its way (R308), changes that copy alone: the home's memory, every other sector and every register
keep their values; the bytes are dirty, and the context will send them with its next release (R305). -/
def Sys2Proof.Machine.GddrStoresGoToTheL1 : Prop :=
  ∀ (s : State) (sz : BitVec 3) (rt rb : Reg) (disp : BitVec 10) (lit : Word) (t : Sector),
  let n := 2 ^ sz.toNat
  let bs := (List.range n).map fun i => BitVec.ofNat 8 ((xread s.me rt).toNat / 2 ^ (8 * i))
  let stores := fun (i : Instr) (ea : Word) (m : Nat) => ∃ v u, exec i s = .next v ∧ SameShared s v ∧
    (∀ q, tfind (v.core s.cur.1).l1 q = if q = ea.toNat / 256 then some u else tfind s.myCore.l1 q) ∧
    u.bytes = t.bytes.take (ea.toNat % 256) ++ bs ++ t.bytes.drop (ea.toNat % 256 + n) ∧
    (∀ i, i ∈ u.dirty ↔ i ∈ t.dirty ∨ (ea.toNat % 256 ≤ i ∧ i < ea.toNat % 256 + n)) ∧
    u.upd = none ∧ u.key = 0 ∧ u.pois = false ∧ u.way = t.way ∧
    ({ (v.core s.cur.1).shell with l1 := [] } : Core) = { s.myCore.shell with l1 := [] } ∧
    v.ctx s.cur.1 s.cur.2 = { s.me with pc := s.me.pc + BitVec.ofNat 64 m, released := nadd s.me.released (ea.toNat / 256) } ∧
    ∀ d y, d ≠ s.cur.1 ∨ y ≠ s.cur.2 → v.ctx d y = s.ctx d y ∧ (d ≠ s.cur.1 → v.core d = s.core d)
  sz.toNat ≤ 3 → NoPartials s → NoAmos s →
  (GddrOpen s (xread s.me rb + BitVec.ofInt 64 disp.toInt) n → HoldsSector s (xread s.me rb + BitVec.ofInt 64 disp.toInt) t →
    AtOnce (xread s.me rb + BitVec.ofInt 64 disp.toInt) n →
    stores (.st sz rt rb disp) (xread s.me rb + BitVec.ofInt 64 disp.toInt) 4) ∧
  (GddrOpen s (xread s.me rb + lit) n → HoldsSector s (xread s.me rb + lit) t → AtOnce (xread s.me rb + lit) n →
    stores (.stLit sz rt rb lit) (xread s.me rb + lit) 12)

/-- R111, R114, R276: stores to the local window and to GDDR 7 through the L1. -/
def Obligations.StoresWriteTheBytes : Prop := LocalStoresWriteTheBank ∧ LocalStoresWriteTwoParts ∧ GddrStoresGoToTheL1

/-- R115: a prefetch changes no register and no byte. In the local window it does nothing; at level H, PREF.R and PREF.W ask for the fill of the
sectors of the line of a GDDR 7 address that the L1 does not hold; PREF.LLC asks the home slice for the line. -/
def Obligations.PrefetchesAskForFills : Prop :=
  ∀ (s : State) (hint rb : Reg) (disp : BitVec 10) (lit : Word),
  let claim := fun (i : Instr) (ea : Word) (m : Nat) =>
    let past : Ctx := { s.me with pc := s.me.pc + BitVec.ofNat 64 m }
    (18446744073707454464 ≤ ea.toNat → Becomes i s past) ∧
    (GddrOpen s ea 1 → sectorPoisoned s s.cur.1 (ea.toNat / 256) = false → hint.toNat ≤ 2 →
      ∃ t sent, exec i s = .next t ∧ t.agenda = s.agenda ++ sent ∧ OnlyCtx s.cur.1 s.cur.2 s { t with agenda := s.agenda } ∧
        t.ctx s.cur.1 s.cur.2 = past ∧
        (hint = 2 → sent = [.llcFill (ea.toNat / 1024) 0 s.me.cclass.toNat s.me.rescls.toNat]) ∧
        (hint ≠ 2 → s.myCore.hasL1 = false → sent = []) ∧
        (hint ≠ 2 → s.myCore.hasL1 = true → ∀ q, q / 4 = ea.toNat / 1024 →
          (tfind s.myCore.l1 q = none → .l1SectorFill s.cur.1 q 0 ∈ t.agenda) ∧
          ((tfind s.myCore.l1 q).isSome = true → .l1SectorFill s.cur.1 q 0 ∉ sent)))
  claim (.pref hint rb disp) (xread s.me rb + BitVec.ofInt 64 disp.toInt) 4 ∧ claim (.prefLit hint rb lit) (xread s.me rb + lit) 12

/-! ## Atomic operations and updates (R308, R314-R316) -/

/-- R314, R315: an AMO on aligned local bytes reads the old value into rt (for a Q element into the pair rt, rt + 1) and leaves what the
operation makes of it: the sum, the smaller or larger, the logical combination, the operand of SWAP; a CAS that finds other bytes than
rt's leaves them. Nothing else changes. -/
def Sys2Proof.Machine.LocalAmosReadAndModify : Prop :=
  ∀ (s : State) (rt rb : Reg) (sz : BitVec 3) (rv aop : Reg) (lo : Nat),
  let n := if sz = 7 then 16 else 2 ^ sz.toNat
  let ea := xread s.me rb
  let old := natOfBytes ((List.range n).map fun i => locByte s s.cur.1 (lo + i))
  let arg := fun r => ((xread s.me r).toNat + (if n = 16 then 2 ^ 64 * (xread s.me (r + 1)).toNat else 0)) % 2 ^ (8 * n)
  let new := (amoResult aop.toNat n old (arg rv) (arg rt)).getD old
  wellFormed (.amo rt rb sz rv aop) = true → LocalOpen s ea lo n → LocalClean s lo n → ea.toNat % n = 0 →
  ∃ k, StoresLocalTo (.amo rt rb sz rv aop) s lo (bytesOfNat n new) k ∧
    (n ≠ 16 → WritesReg s.me k rt (BitVec.ofNat 64 old) (s.me.pc + 4)) ∧
    (n = 16 → WritesReg (xwrite s.me rt (BitVec.ofNat 64 old)) k (rt + 1) (BitVec.ofNat 64 (old / 2 ^ 64)) (s.me.pc + 4))

/-- R316: a UPD on aligned local bytes combines its operand into them and writes no register. -/
def Sys2Proof.Machine.LocalUpdsCombine : Prop :=
  ∀ (s : State) (rb : Reg) (sz : BitVec 3) (rv aop : Reg) (lo : Nat),
  let n := if sz = 7 then 16 else 2 ^ sz.toNat
  let ea := xread s.me rb
  let old := natOfBytes ((List.range n).map fun i => locByte s s.cur.1 (lo + i))
  let arg := ((xread s.me rv).toNat + (if n = 16 then 2 ^ 64 * (xread s.me (rv + 1)).toNat else 0)) % 2 ^ (8 * n)
  wellFormed (.upd rb sz rv aop) = true → LocalOpen s ea lo n → ea.toNat % n = 0 →
  StoresLocal (.upd rb sz rv aop) s lo (bytesOfNat n (updFn aop.toNat n old arg)) 4

/-- R308, R315: at level H an AMO of GDDR 7 goes to its point of coherence: the context waits, and the request is on its way. No
register and no byte has changed. -/
def Sys2Proof.Machine.GddrAmosGoToTheHome : Prop :=
  ∀ (s : State) (rt rb : Reg) (sz : BitVec 3) (rv aop : Reg),
  let n := if sz = 7 then 16 else 2 ^ sz.toNat
  let ea := xread s.me rb
  let arg := fun r => ((xread s.me r).toNat + (if n = 16 then 2 ^ 64 * (xread s.me (r + 1)).toNat else 0)) % 2 ^ (8 * n)
  wellFormed (.amo rt rb sz rv aop) = true → GddrOpen s ea n → ea.toNat % n = 0 → s.myCore.l1 = [] →
  sectorPoisoned s s.cur.1 (ea.toNat / 256) = false →
  ∃ t, exec (.amo rt rb sz rv aop) s = .next t ∧
    t.agenda = s.agenda ++ [.amoAtHome s.cur.1 (s.asker s.cur.1 s.cur.2) ⟨rt, ea.toNat, 0, n, aop.toNat, arg rv, arg rt⟩] ∧
    OnlyCtx s.cur.1 s.cur.2 s { t with agenda := s.agenda } ∧
    t.ctx s.cur.1 s.cur.2 = { s.me with wait := .amo rt n ea.toNat }

/-- R112 item 1 of AMO and UPD (R315, R316): an address that is not a multiple of the element size raises MISALIGNED with that address. -/
def Sys2Proof.Machine.MisalignedAtomicsTrap : Prop :=
  ∀ (s : State) (rt rb : Reg) (sz : BitVec 3) (rv aop : Reg),
  let n := if sz = 7 then 16 else 2 ^ sz.toNat
  (xread s.me rb).toNat % n ≠ 0 →
  Traps (.amo rt rb sz rv aop) s { cause 0x0A (xread s.me rb) with access := .amo } ∧
  Traps (.upd rb sz rv aop) s { cause 0x0A (xread s.me rb) with access := .upd }

/-- R308, R314-R316: AMO and UPD on local bytes, the AMO of GDDR 7 that goes to its home, and the trap on a misaligned address. -/
def Obligations.AtomicsAndUpdates : Prop := LocalAmosReadAndModify ∧ LocalUpdsCombine ∧ GddrAmosGoToTheHome ∧ MisalignedAtomicsTrap

/-! ## Memory control (R318-R325) -/

/-- R318, R306: FENCE.L, once everything is released, drops every clean copy of the L1 and goes on; memory and registers keep their
values. -/
def Sys2Proof.Machine.FenceDropsCleanCopies : Prop := ∀ (s : State), NothingOwed s →
  ∃ t, exec .fenceL s = .next t ∧ t.mem = s.mem ∧ t.agenda = s.agenda ∧
    (∀ q u, tfind (t.core s.cur.1).l1 q = some u → u.upd.isSome = true ∨ u.dirty ≠ []) ∧
    ({ (t.core s.cur.1).shell with l1 := [] } : Core) = { s.myCore.shell with l1 := [] } ∧
    t.ctx s.cur.1 s.cur.2 = { s.me with pc := s.me.pc + 4, relDone := false } ∧
    ∀ d y, d ≠ s.cur.1 ∨ y ≠ s.cur.2 → t.ctx d y = s.ctx d y

/-- R319: at level H, CFLUSH leaves no dirty byte of the line of a GDDR 7 address in the L1, and CINV no sector of it; at depth .LLC the home
slice drops its line too. The context's registers keep their values. -/
def Sys2Proof.Machine.CacheFlushesCleanTheLine : Prop := ∀ (s : State) (depth rs1 : Reg),
  let ea := xread s.me rs1
  let line := ea.toNat / 1024
  let past : Ctx := { s.me with pc := s.me.pc + 4 }
  depth.toNat ≤ 1 → GddrOpen s ea 1 → NoPartials s →
  (∃ t, exec (.cflush depth rs1) s = .next t ∧ t.ctx s.cur.1 s.cur.2 = past ∧
    (∀ q u, q / 4 = line → tfind (t.core s.cur.1).l1 q = some u → u.dirty = []) ∧
    (depth = 1 → tfind t.llc line = none) ∧ t.agenda = s.agenda) ∧
  (∃ t, exec (.cinv depth rs1) s = .next t ∧ t.ctx s.cur.1 s.cur.2 = past ∧
    (∀ q, q / 4 = line → tfind (t.core s.cur.1).l1 q = none) ∧
    (depth = 1 → tfind t.llc line = none) ∧ t.agenda = s.agenda)

/-- R319: CFLUSH writes a dirty byte back to its home. (That no other byte of the sector changes at the home, where R276 writes sectors back whole, is
log 57.) -/
def Sys2Proof.Machine.CacheFlushWritesBack : Prop := ∀ (s : State) (depth rs1 : Reg) (q i : Nat) (u : Sector),
  let ea := xread s.me rs1
  depth.toNat ≤ 1 → GddrOpen s ea 1 → NoPartials s → q / 4 = ea.toNat / 1024 → s.myCore.l1 = [(q, u)] → u.dirty = [i] → i < 256 →
  tget (0, 0) s.keyTag q = keyNow s u.key →
  ∃ t, exec (.cflush depth rs1) s = .next t ∧
    ∀ a, memByte t.mem a = if a = q * 256 + i then u.bytes.getD i 0 else memByte s.mem a

/-- R320: at level H, CINV.I leaves no word of the 1 KiB block of a GDDR 7 address in the core's instruction cache; other blocks stay. -/
def Sys2Proof.Machine.CinvIDropsTheBlock : Prop := ∀ (s : State) (rs1 : Reg),
  let ea := xread s.me rs1
  GddrOpen s ea 1 → NoPartials s →
  ∃ t, exec (.cinvI rs1) s = .next t ∧ t.ctx s.cur.1 s.cur.2 = { s.me with pc := s.me.pc + 4 } ∧
    (∀ w, w / 256 = ea.toNat / 1024 → tfind (t.core s.cur.1).icache w = none) ∧
    (∀ w, w / 256 ≠ ea.toNat / 1024 → tfind (t.core s.cur.1).icache w = tfind s.myCore.icache w)

/-- R321: CZERO stores zeros to the 256 bytes at X[rs1] rounded down to a multiple of 256, and takes the poison off that sector. -/
def Sys2Proof.Machine.CzeroClearsASector : Prop := ∀ (s : State) (rs1 : Reg) (lo : Nat),
  let ea := BitVec.ofNat 64 ((xread s.me rs1).toNat / 256 * 256)
  LocalOpen s ea lo 256 → StoresLocal (.czero rs1) s lo (List.replicate 256 0) 4

/-- R306, R318-R321: FENCE.L, CFLUSH, CINV, CINV.I and CZERO. -/
def Obligations.CacheControlActs : Prop := FenceDropsCleanCopies ∧ CacheFlushesCleanTheLine ∧ CacheFlushWritesBack ∧ CinvIDropsTheBlock ∧ CzeroClearsASector

/-- R322, R273: BANKROLE of the control context, with a role that the bank may take (R270) at a level that may give and take it: where the bank
has the role already, X[rd] ← 0; where the change is refused, X[rd] ← the code of R273, and nothing else changes; otherwise the change
begins, and the context waits. Where nothing of R271's step 1 is to be waited for, the change then completes: the bank has the role, and
X[rd] ← 0. Any other use is illegal. -/
def Sys2Proof.Machine.BankroleChangesTheRole : Prop := ∀ (s : State) (rd rs1 rs2 : Reg),
  let c := s.cur.1
  let b := (xread s.me rs1).toNat
  let r := (xread s.me rs2).toNat
  let old := s.myCore.role b
  let mayCaddy := s.me.priv = .h ∨ (roleOf r ≠ .caddy ∧ old ≠ .caddy) ∨ old = roleOf r
  (s.cur.2 = 0 → b < 32 → r ≤ 4 → roleFits b (roleOf r) = true → mayCaddy →
    (old = roleOf r → Gives (.bankrole rd rs1 rs2) s rd 0 4) ∧
    (old ≠ roleOf r → roleRefusal s c b ≠ 0 → Gives (.bankrole rd rs1 rs2) s rd (BitVec.ofNat 64 (roleRefusal s c b)) 4) ∧
    (old ≠ roleOf r → roleRefusal s c b = 0 →
      ∃ t, exec (.bankrole rd rs1 rs2) s = .next t ∧ (t.core c).roleChange = some ⟨b, roleOf r, 0, rd⟩ ∧ SameShared s t ∧
        t.ctx c 0 = { s.me with wait := .roleChange } ∧ (∀ d, d ≠ c → t.core d = s.core d) ∧
        ({ (t.core c).shell with roleChange := none } : Core) = { s.myCore.shell with roleChange := none } ∧
        ((∀ e ∈ s.myCore.wide.queue, ∀ q ∈ e.runs, b ∉ banksOf q.1 q.2) → landingDue s c b = false → s.myCore.held = [] →
          ∃ u, exec (.bankRoleChangeComplete c) t = .next u ∧ (u.core c).role b = roleOf r ∧ (u.core c).roleChange = none ∧
            WritesReg { s.me with wait := .none } (u.ctx c 0) rd 0 (s.me.pc + 4)))) ∧
  ((s.cur.2 ≠ 0 ∨ 31 < b ∨ 4 < r ∨ roleFits b (roleOf r) = false ∨ ¬mayCaddy) →
    Traps (.bankrole rd rs1 rs2) s (illegal (.bankrole rd rs1 rs2) 6))

/-- R271 steps 2 to 4, R272: a role change whose drain is over: no queued wide instruction touches the bank, no committed payload and no accepted tile
is still to land in it. The bank has its new role, the other banks keep theirs, and the BANKROLE that waits gives 0 and goes on. A bank that
leaves CACHE reads as zero, holds no line and no poison; one that leaves OPERAND loses its tag and its sidecar; one that enters FIFO has its
counters at 0; every other byte of the core stays, and so does memory, but for a dirty sector that a CACHE bank writes back. -/
def Sys2Proof.Machine.RoleChangeCompletes : Prop := ∀ (s : State) (core : Nat) (r : RoleChange),
  let k := s.core core
  let old := k.role r.bank
  k.roleChange = some r → r.bank < 32 → (∀ e ∈ k.wide.queue, ∀ q ∈ e.runs, r.bank ∉ banksOf q.1 q.2) →
  landingDue s core r.bank = false → k.held = [] → (s.ctx core r.ctx).wait = .roleChange →
  ∃ t, exec (.bankRoleChangeComplete core) s = .next t ∧ (t.core core).role r.bank = r.role ∧ (t.core core).roleChange = none ∧
    (∀ b, b < 32 → b ≠ r.bank → (t.core core).role b = k.role b) ∧
    (r.role = .fifo → tfind (t.core core).fifo r.bank = some FifoBank.reset) ∧
    (r.role = .operand ∨ old = .operand → tfind (t.core core).tags r.bank = none) ∧
    (old = .operand → ∀ i, i < 2048 → memByte (t.core core).sidecar (2048 * r.bank + i) = 0) ∧
    (∀ a, locByte t core a = if old = .cache ∧ a / 65536 = r.bank then 0 else locByte s core a) ∧
    (old = .cache → (∀ e ∈ (t.core core).l1, e.2.way ≠ r.bank) ∧ ∀ q ∈ (t.core core).locPoison, q / 256 ≠ r.bank) ∧
    (old ≠ .cache → t.mem = s.mem ∧ (t.core core).l1 = k.l1 ∧ (t.core core).locPoison = k.locPoison) ∧
    WritesReg { s.ctx core r.ctx with wait := .none } (t.ctx core r.ctx) r.rd 0 ((s.ctx core r.ctx).pc + 4)

/-- R271-R274, R322: BANKROLE and the completion of a role change. -/
def Obligations.BankRolesChange : Prop := BankroleChangesTheRole ∧ RoleChangeCompletes

/-- R323: at S or H, once no page walk is in flight in the clusters of its scope, or those in flight at its issue have ended, a TLBI leaves no
translation of its kind there, and their walk caches empty: .ALL takes every one, .ASID those of an ASID that are not global, .VA those that
cover an address, .PAGE those of them that are global or of the ASID. Other entries stay, and so do registers and memory. While walks are in
flight it waits for them; at U it is illegal. -/
def Sys2Proof.Machine.TlbiDropsTranslations : Prop := ∀ (s : State) (part : BitVec 1) (rs1 rs2 : Reg),
  let vp := (xread s.me rs1).toNat / 4096 % 2 ^ 45
  let asid := (xread s.me rs2).toNat % 65536
  let inPage := fun (e : TlbEntry) => e.vpage ≤ vp ∧ vp < e.vpage + e.npages
  let scope := tlbiScope s part
  let walks := walksIn s scope
  let claim := fun (i : Instr) (hit : TlbEntry → Prop) => (s.me.priv = .u → Traps i s (illegal i 6)) ∧
    (s.me.priv ≠ .u → walks ≠ [] → s.me.relDone = false → Becomes i s { s.me with wait := .walks walks }) ∧
    (s.me.priv ≠ .u → walks = [] ∨ s.me.relDone = true → ∃ t, exec i s = .next t ∧
    (∀ k, k ∈ scope → (t.cluster k).walkCache = [] ∧ ∀ e, e ∈ (t.cluster k).tlb ↔ e ∈ (s.cluster k).tlb ∧ ¬hit e) ∧
    (∀ k, k ∉ scope → t.cluster k = s.cluster k) ∧ OnlyCtx s.cur.1 s.cur.2 s { t with clusters := s.clusters } ∧
    t.ctx s.cur.1 s.cur.2 = { s.me with pc := s.me.pc + 4, relDone := false })
  claim (.tlbiAll part) (fun _ => True) ∧
  claim (.tlbiAsid part rs2) (fun e => e.glob = false ∧ e.asid = asid) ∧
  claim (.tlbiPage part rs1 rs2) (fun e => inPage e ∧ (e.glob = true ∨ e.asid = asid)) ∧
  claim (.tlbiVa part rs1) inPage

/-- R324, R419: WPSET at S or H, with BASE a multiple of 16 and REMOTE clear, ends any registration of watchpoint n and writes its two
registers: BASE, and RD, WR, ACTION and MASK of the control value; an ACTION of 3 keeps the old one. Where the registration stood at a bank of
another device, the context waits for that device's answer (log 61). -/
def Sys2Proof.Machine.WpsetWritesTheWatchpoint : Prop := ∀ (s : State) (n : BitVec 2) (rs1 rs2 : Reg),
  let base := xread s.me rs1
  let v := xread s.me rs2
  let old := s.myCore.wpCtl.getD n.toNat 0
  s.me.priv ≠ .u → base.toNat % 16 = 0 → v.toNat / 8 % 2 = 0 → s.myCore.wpBase.length = 4 → s.myCore.wpCtl.length = 4 →
  ∃ t, exec (.wpset n rs1 rs2) s = .next t ∧
    (t.core s.cur.1).wpBase.getD n.toNat 0 = base ∧
    ((t.core s.cur.1).wpCtl.getD n.toNat 0).toNat =
      v.toNat % 4 + 256 * (if v.toNat / 256 % 4 = 3 then old.toNat / 256 % 4 else v.toNat / 256 % 4) + 65536 * (v.toNat / 65536 % 65536) ∧
    (∀ m, m ≠ n.toNat → (t.core s.cur.1).wpBase[m]? = s.myCore.wpBase[m]? ∧ (t.core s.cur.1).wpCtl[m]? = s.myCore.wpCtl[m]?) ∧
    (∀ w, w ∈ t.watches ↔ w ∈ s.watches ∧ ¬(w.1 = s.cur.1 ∧ w.2.1 = n.toNat)) ∧
    t.ctx s.cur.1 s.cur.2 =
      { s.me with pc := s.me.pc + 4, wait := if (farPlace s s.cur.1 n.toNat).isSome then .request 0 else s.me.wait } ∧ t.mem = s.mem ∧
    ({ (t.core s.cur.1).shell with wpBase := [], wpCtl := [] } : Core) = { s.myCore.shell with wpBase := [], wpCtl := [] }

/-- R279, R280, R325: FIFOADV of a FIFO bank that no queued wide instruction touches, outside a replay log, moves HEAD on by n where at least n
bytes were held at the start of the cycle and are left, or TAIL where n bytes were free then and are left, beside those reserved for a bound
channel, and gives the state word with bit 63 clear; otherwise it moves nothing and bit 63 is set. -/
def Sys2Proof.Machine.FifoadvMovesACounter : Prop := ∀ (s : State) (rd rs1 rs2 : Reg),
  let b := (xread s.me rs1).toNat
  let v := (xread s.me rs2).toNat
  let n := v % 2 ^ 24
  let f := tget FifoBank.reset s.myCore.fifo b
  let begun := f.cyc = s.cycle
  let held := ((if begun then f.tail0 else f.tail) - f.head).toNat
  let free := 65536 - (f.tail - (if begun then f.head0 else f.head)).toNat
  let tail := v / 2 ^ 24 % 2 = 1
  let fits := if tail then n ≤ free - fifoRsv s s.cur.1 b else n ≤ held
  let g : FifoBank := if begun then f else { f with cyc := s.cycle, head0 := f.head, tail0 := f.tail }
  let f' : FifoBank := if ¬fits then f else if tail then { g with tail := f.tail + BitVec.ofNat 24 n } else { g with head := f.head + BitVec.ofNat 24 n }
  let word := BitVec.ofNat 64 ((if fits then 0 else 2 ^ 63) + f'.tail.toNat * 2 ^ 24 + f'.head.toNat)
  v < 2 ^ 25 → b < 32 → s.myCore.role b = .fifo → s.myCore.wide.queue = [] → s.myCore.wg = none →
  ∃ t, exec (.fifoadv rd rs1 rs2) s = .next t ∧ SameShared s t ∧
    (∀ m, tfind (t.core s.cur.1).fifo m = if m = b then some f' else tfind s.myCore.fifo m) ∧
    ({ (t.core s.cur.1).shell with fifo := [] } : Core) = { s.myCore.shell with fifo := [] } ∧
    WritesReg s.me (t.ctx s.cur.1 s.cur.2) rd word (s.me.pc + 4) ∧
    ∀ d y, d ≠ s.cur.1 ∨ y ≠ s.cur.2 → t.ctx d y = s.ctx d y

/-- R279, R323-R325, R419: the TLBI instructions, WPSET and FIFOADV. -/
def Obligations.TranslationsWatchpointsAndFifos : Prop := TlbiDropsTranslations ∧ WpsetWritesTheWatchpoint ∧ FifoadvMovesACounter

/-! ## Control and status registers (R22-R25, R121) -/

/-- The CSRs that R23 assigns: the address, the lowest level that may access it (0 U, 1 S, 2 H), and whether it can be written. -/
def Sys2Proof.Machine.csrTable : List (Nat × Nat × Bool) :=
  [(0x001, 0, true), (0x002, 0, true), (0x010, 0, true), (0x200, 0, false), (0x201, 0, false), (0x210, 0, false), (0x211, 0, false),
   (0x212, 0, false), (0x220, 0, false), (0x230, 0, false), (0x250, 0, false), (0x251, 0, false), (0x400, 1, true), (0x405, 1, true),
   (0x441, 1, true), (0x442, 1, true), (0x443, 1, true), (0x480, 1, true), (0x481, 1, true), (0x490, 1, true), (0x491, 1, true),
   (0x640, 1, false), (0x6C0, 1, false), (0x800, 2, true), (0x802, 2, true), (0x805, 2, true), (0x841, 2, true), (0x842, 2, true),
   (0x843, 2, true), (0xA40, 2, false)] ++
  ((List.range 16).map fun i => (0x240 + i, 0, false)) ++ ((List.range 4).map fun i => (0x4A0 + i, 1, true)) ++
  ((List.range 4).map fun i => (0x4A8 + i, 1, true))

/-- R22: an access to a CSR that R23 does not assign, from below its lowest level, or a write of a read-only one (CSRS and CSRC count as
writes whatever their mask) raises ILLEGAL_INSTRUCTION and changes nothing but what the trap entry writes. -/
def Obligations.CsrAccessesAreChecked : Prop := ∀ (s : State) (rd rs1 : Reg) (csr : BitVec 12),
  ((¬∃ e ∈ csrTable, e.1 = csr.toNat ∧ e.2.1 ≤ s.me.priv.code) → Traps (.csrr rd csr) s (illegal (.csrr rd csr) 6)) ∧
  ((¬∃ e ∈ csrTable, e.1 = csr.toNat ∧ e.2.1 ≤ s.me.priv.code ∧ e.2.2 = true) →
    Traps (.csrw rd csr rs1) s (illegal (.csrw rd csr rs1) 6) ∧ Traps (.csrs rd csr rs1) s (illegal (.csrs rd csr rs1) 6) ∧
    Traps (.csrc rd csr rs1) s (illegal (.csrc rd csr rs1) 6))

/-- R121, R23, R25: at a level that may access it, CSRR gives the value of the CSR and changes nothing else. STATUS and HSTATUS show the
current level in bits [5:4]. CYCLE and TIME are the device's, with what a debugger's write of the core's copy has added (log 53); FLAGOR is the
union of R64, of which the flags of the last 16 cycles are free (log 6). -/
def Sys2Proof.Machine.CsrReadsGiveTheRegister : Prop := ∀ (s : State) (rd : Reg), Unlogged s s.cur.1 →
  let k := s.myCore
  let g := fun (a : BitVec 12) (v : Word) => Gives (.csrr rd a) s rd v 4
  (g 0x001 (s.me.frm.setWidth 64) ∧ g 0x002 (s.me.fflags.setWidth 64) ∧ g 0x010 (s.me.evlim.setWidth 64) ∧ g 0x200 (s.cycle + k.cycleAdd) ∧
    g 0x201 (s.time + k.timeAdd) ∧ g 0x210 (BitVec.ofNat 64 s.myGid) ∧ g 0x212 (s.me.evsel.setWidth 64) ∧ g 0x220 (k.mbFull.setWidth 64) ∧
    g 0x211 (BitVec.ofNat 64 (k.lmem.toNat * 2 ^ 48 + k.lbase.toNat * 2 ^ 35 + k.sysdom.toNat * 2 ^ 22 + (if k.sysv then 2 ^ 21 else 0) +
      coreDie s.cur.1 * 2 ^ 13 + clusterOf s.cur.1 * 2 ^ 8 + gangOf s.cur.1)) ∧
    g 0x230 (BitVec.ofNat 64 (64 * 2 ^ 16 + (if k.wide.acc.int then 2 ^ 8 else 0) + k.wide.acc.rows)) ∧
    (∀ i, i < 16 → g (BitVec.ofNat 12 (0x240 + i)) (if i < k.wide.acc.rows then (k.wide.acc.st.getD i 0).setWidth 64 else 0)) ∧
    ∃ v w : Word, g 0x250 v ∧ g 0x251 w ∧ ∀ b, b < 16 → v.toNat / 16 ^ b % 16 = (k.role b).code ∧ w.toNat / 16 ^ b % 16 = (k.role (16 + b)).code) ∧
  (s.me.priv ≠ .u → g 0x400 (s.me.status ||| BitVec.ofNat 64 (16 * s.me.priv.code)) ∧ g 0x405 k.tvec ∧ g 0x441 s.me.epc ∧
    g 0x442 s.me.cause ∧ g 0x443 s.me.tval ∧ g 0x480 (s.me.asid.setWidth 64) ∧ g 0x481 s.me.ptroot ∧
    g 0x490 (s.me.cclass.setWidth 64) ∧ g 0x491 (s.me.rescls.setWidth 64) ∧ g 0x640 s.me.faultcap ∧
    (∀ i, i < 4 → g (BitVec.ofNat 12 (0x4A0 + i)) (k.wpBase.getD i 0) ∧ g (BitVec.ofNat 12 (0x4A8 + i)) (k.wpCtl.getD i 0)) ∧
    g 0x6C0 ((flagOr s s.cur.1).setWidth 64)) ∧
  (s.me.priv = .h → g 0x800 (s.me.hstatus ||| BitVec.ofNat 64 (16 * s.me.priv.code)) ∧ g 0x802 k.hdeleg ∧ g 0x805 k.htvec ∧
    g 0x841 s.me.hepc ∧ g 0x842 s.me.hcause ∧ g 0x843 s.me.htval ∧ g 0xA40 s.me.hfaultcap)

/-- What CSRW, CSRS and CSRC do with a CSR of the context (R121): rd takes the old value; CSRW writes X[rs1], CSRS the old value OR X[rs1], CSRC
the old value AND NOT X[rs1], the last two nothing where rs1 is X0. `put` is the context after a write of a value. -/
def Sys2Proof.Machine.CsrWrites (s : State) (a : BitVec 12) (rd rs1 : Reg) (old : Word) (put : Word → Ctx) : Prop :=
  let x := xread s.me rs1
  let done := fun (k : Ctx) => advance (xwrite k rd old) 4
  Becomes (.csrw rd a rs1) s (done (put x)) ∧
  Becomes (.csrs rd a rs1) s (done (if rs1 = 0 then s.me else put (old ||| x))) ∧
  Becomes (.csrc rd a rs1) s (done (if rs1 = 0 then s.me else put (old &&& ~~~x)))

/-- R121, R24, R25: the CSR instructions on the registers of a context. Reserved bits stay zero; a field that would take a reserved value
(RM 5-7, PP 2 or 3 of STATUS and 3 of HSTATUS, a class that the partition does not hold, a RESCLS of 3) keeps its old one. A flag that
was set in the same cycle ORs into what FFLAGS is written with (R65). Nothing else changes. -/
def Sys2Proof.Machine.CsrWritesFollowTheFields : Prop := ∀ (s : State) (rd rs1 : Reg),
  let m := s.me
  let st := fun (old v : Word) (top : Nat) =>
    BitVec.ofNat 64 (4 * (if v.toNat / 4 % 4 ≤ top then v.toNat / 4 % 4 else old.toNat / 4 % 4) + v.toNat % 4)
  let cur := BitVec.ofNat 64 (16 * m.priv.code)
  (CsrWrites s 0x001 rd rs1 (m.frm.setWidth 64) (fun v => { m with frm := if v.toNat % 8 ≤ 4 then v.setWidth 3 else m.frm }) ∧
    CsrWrites s 0x002 rd rs1 (m.fflags.setWidth 64) (fun v => { m with fflags := v.setWidth 5 ||| (if m.flagCyc = s.cycle then m.flagNew else 0) }) ∧
    CsrWrites s 0x010 rd rs1 (m.evlim.setWidth 64) (fun v => { m with evlim := v.setWidth 32 })) ∧
  (m.priv ≠ .u →
    CsrWrites s 0x400 rd rs1 (m.status ||| cur) (fun v => { m with status := st m.status v 1 }) ∧
    CsrWrites s 0x441 rd rs1 m.epc (fun v => { m with epc := v }) ∧
    CsrWrites s 0x442 rd rs1 m.cause (fun v => { m with cause := v &&& 0x80000000000000FF }) ∧
    CsrWrites s 0x443 rd rs1 m.tval (fun v => { m with tval := v }) ∧
    CsrWrites s 0x480 rd rs1 (m.asid.setWidth 64) (fun v => { m with asid := v.setWidth 16 }) ∧
    CsrWrites s 0x481 rd rs1 m.ptroot (fun v => { m with ptroot := v &&& 0x800FFFFFFFFFF000 }) ∧
    CsrWrites s 0x490 rd rs1 (m.cclass.setWidth 64)
      (fun v => { m with cclass := if classHeld s s.myCore.part (v.toNat % 16) then v.setWidth 4 else m.cclass }) ∧
    CsrWrites s 0x491 rd rs1 (m.rescls.setWidth 64) (fun v => { m with rescls := if v.toNat % 4 ≤ 2 then v.setWidth 2 else m.rescls })) ∧
  (m.priv = .h →
    CsrWrites s 0x800 rd rs1 (m.hstatus ||| cur) (fun v => { m with hstatus := st m.hstatus v 2 }) ∧
    CsrWrites s 0x841 rd rs1 m.hepc (fun v => { m with hepc := v }) ∧
    CsrWrites s 0x842 rd rs1 m.hcause (fun v => { m with hcause := v &&& 0x80000000000000FF }) ∧
    CsrWrites s 0x843 rd rs1 m.htval (fun v => { m with htval := v }))

/-- R14, R25: the CSRs that the contexts of a core share: TVEC and HTVEC, whose MODE keeps its value where a write gives it 2 or 3, and
HDELEG; CSRS and CSRC of X0 write nothing. The other contexts of the core keep their registers; so does all else of the core and of the machine. -/
def Sys2Proof.Machine.CsrWritesOfTheCore : Prop := ∀ (s : State) (rd rs1 : Reg),
  let k := s.myCore.shell
  let x := xread s.me rs1
  let vec := fun (old v : Word) => if v.toNat % 4 ≤ 1 then v else BitVec.ofNat 64 (v.toNat / 4 * 4 + old.toNat % 4)
  let claim := fun (a : BitVec 12) (old : Word) (put : Word → Core) =>
    let done := advance (xwrite s.me rd old) 4
    SetsCore (.csrw rd a rs1) s s.cur.1 (put x) s.cur.2 done ∧
    (rs1 ≠ 0 → SetsCore (.csrs rd a rs1) s s.cur.1 (put (old ||| x)) s.cur.2 done ∧ SetsCore (.csrc rd a rs1) s s.cur.1 (put (old &&& ~~~x)) s.cur.2 done) ∧
    (rs1 = 0 → Becomes (.csrs rd a rs1) s done ∧ Becomes (.csrc rd a rs1) s done)
  (s.me.priv ≠ .u → claim 0x405 k.tvec fun v => { k with tvec := vec k.tvec v }) ∧
  (s.me.priv = .h → (claim 0x805 k.htvec fun v => { k with htvec := vec k.htvec v }) ∧ claim 0x802 k.hdeleg fun v => { k with hdeleg := v })

/-- R22-R25, R121: what a permitted CSR access reads and writes. -/
def Obligations.CsrAccessesReadAndWrite : Prop := CsrReadsGiveTheRegister ∧ CsrWritesFollowTheFields ∧ CsrWritesOfTheCore

/-! ## Mailboxes (R123, R124) -/

/-- R123, R124, R35: MBW fills an empty mailbox and MBR empties a full one; MBQ shows the full bit and never waits. Where a mailbox is not as
needed, the context waits, with nothing else changed; MBW_COMPLETE, MBR_COMPLETE and a deposit do the rest. -/
def Obligations.MailboxesPassWords : Prop := ∀ (s : State) (rd rs1 : Reg) (n : BitVec 3) (c x : Nat) (v : Word) (ev : EvKey) (l : LatchId) (arm : Nat),
  let full := fun (k : Core) => k.mbFull.getLsbD n.toNat
  let filled := fun (k : Core) (v : Word) => { k.shell with mb := k.mb.set n.toNat v n.isLt, mbFull := k.mbFull ||| ((1 : BitVec 8) <<< n.toNat) }
  let emptied := fun (k : Core) => { k.shell with mbFull := k.mbFull &&& ~~~((1 : BitVec 8) <<< n.toNat), peeked := k.peeked &&& ~~~((1 : BitVec 8) <<< n.toNat) }
  let k := s.core c
  let w := s.ctx c x
  (full s.myCore = false → SetsCore (.mbw n rs1) s s.cur.1 (filled s.myCore (xread s.me rs1)) s.cur.2 { s.me with pc := s.me.pc + 4 }) ∧
  (full s.myCore = true → Becomes (.mbw n rs1) s { s.me with wait := .mbw n.toNat (xread s.me rs1) }) ∧
  (full s.myCore = true → SetsCore (.mbr rd n) s s.cur.1 (emptied s.myCore) s.cur.2
    (advance (xwrite s.me rd s.myCore.mb[n.toNat]) 4)) ∧
  (full s.myCore = false → Becomes (.mbr rd n) s { s.me with wait := .mbr n.toNat rd }) ∧
  (Unlogged s s.cur.1 → Gives (.mbq rd n) s rd (if full s.myCore then 1 else 0) 4) ∧
  (w.wait = .mbw n.toNat v → full k = false →
    SetsCore (.mbwComplete c x) s c (filled k v) x { w with pc := w.pc + 4, wait := .none }) ∧
  (w.wait = .mbr n.toNat rd → full k = true →
    SetsCore (.mbrComplete c x) s c (emptied k) x { advance (xwrite w rd k.mb[n.toNat]) 4 with wait := .none }) ∧
  (full k = false → routerHolds s l = false →
    ∃ t more, exec (.mailboxDeposit c n.toNat v ev l arm) s = .next t ∧ (t.core c).shell = filled k v ∧
      t.agenda = s.agenda ++ .homeDeliveryConfirmed ev l arm :: more ∧ ((s.latch l).sole = false → more = []) ∧
      (∀ d y, t.ctx d y = s.ctx d y) ∧ ∀ d, d ≠ c → t.core d = s.core d)

/-! ## Traps, returns and the system instructions (R18-R21, R125-R130, R410) -/

/-- R19: a trap entry as one step. The target level T is H where the context runs at H, the code is 64 or more, or HDELEG does not delegate
it, else S. EPC, CAUSE, TVAL, FAULTCAP and STATUS of T take the address, the cause and the level; the context goes on at the
handler's address, at level T. Its other registers, the other contexts and all memory keep their values. (The core records no
TRAP in the trace, R427, and its workgroup is not logged, R435.) A stepped context has had its step (R417). While a REP of the core stands inside a
pass, the control context's entry waits for the end of the pass (R160), and nothing else changes. -/
def Sys2Proof.Machine.TrapEntrySavesAndEnters : Prop := ∀ (s : State) (c x : Nat) (z : Cause),
  let k := s.ctx c x
  let toH := k.priv = .h ∨ 64 ≤ z.code ∨ (s.core c).hdeleg.getLsbD z.code = false
  let word := (if z.isAsync then 0x8000000000000000 else 0) ||| BitVec.ofNat 64 z.code
  let entered := fun (old : Word) => BitVec.ofNat 64 (4 * k.priv.code + 2 * (old.toNat % 2))
  let base := fun (tvec : Word) => BitVec.ofNat 64 (tvec.toNat / 4 * 4)
  let group := if z.isAsync then 2 else if z.code ≤ 0x0D then 0 else 1
  let handler := fun (tvec : Word) => if tvec.toNat % 4 = 1 then base tvec + BitVec.ofNat 64 (256 * group) else base tvec
  let idle : Ctx := { k with wait := .none, relDone := false, rdata := none, recd := none, half := none, fetched := [] }
  let t := s.trapAt c x z
  (x = 0 → midPass (s.core c) = true → OnlyCtx c x s t ∧ t.ctx c x = { k with wait := .trapping z }) ∧
  (¬(x = 0 ∧ midPass (s.core c) = true) → (s.core c).dbg.trctl.getLsbD 1 = false → Unlogged s c →
  SameShared s t ∧ (t.core c).shell = ((s.core c).stepped x).shell ∧ (∀ d, d ≠ c → t.core d = s.core d) ∧ (∀ y, y ≠ x → t.ctx c y = s.ctx c y) ∧
  (toH → t.ctx c x =
    { idle with hepc := k.pc, hcause := word, htval := z.tval, hfaultcap := faultcap z, hstatus := entered k.hstatus, priv := .h
                pc := handler (s.core c).htvec }) ∧
  (¬toH → t.ctx c x =
    { idle with epc := k.pc, cause := word, tval := z.tval, faultcap := faultcap z, status := entered k.status, priv := .s
                pc := handler (s.core c).tvec }))

/-- R21, R126: ERET at level S or H goes to EPC of that level with bits [1:0] cleared, at the level PP names; IE takes PIE, PIE becomes 1,
PP becomes U. ERET in U raises ILLEGAL_INSTRUCTION. -/
def Sys2Proof.Machine.EretReturns : Prop := ∀ (s : State) (p : Priv),
  let k := s.me
  let left := fun (st : Word) => BitVec.ofNat 64 (2 + st.toNat / 2 % 2)
  let at4 := fun (a : Word) => BitVec.ofNat 64 (a.toNat / 4 * 4)
  (k.priv = .u → Traps .eret s (illegal .eret 6)) ∧
  (Unlogged s s.cur.1 → k.priv = .s → p.code = k.status.toNat / 4 % 4 →
    Becomes .eret s { k with pc := at4 k.epc, priv := p, status := left k.status }) ∧
  (Unlogged s s.cur.1 → k.priv = .h → p.code = k.hstatus.toNat / 4 % 4 →
    Becomes .eret s { k with pc := at4 k.hepc, priv := p, hstatus := left k.hstatus })

/-- R19, R21, R126: a trap entry as one step, and ERET. -/
def Obligations.TrapsEnterAndReturn : Prop := TrapEntrySavesAndEnters ∧ EretReturns

/-- R125, R127-R130: NOP moves on. TRAP raises SYSTEM_CALL with its code as TVAL. BRK raises BREAKPOINT with its address as TVAL, or, where
BRKSTOP is set, stops the core for reason 2. HALT of the control context waits for the helpers; in a helper it is illegal. RAND
takes the next 64 bits of the entropy source, a value of its own for every draw, or waits for them. -/
def Sys2Proof.Machine.SystemInstructions : Prop := ∀ (s : State) (code : BitVec 12) (rd : Reg),
  let k := s.me
  Becomes .nop s { k with pc := k.pc + 4 } ∧
  Traps (.trap code) s (cause 0x0D (BitVec.ofNat 64 code.toNat)) ∧
  (s.myCore.dbg.ctl.getLsbD 8 = false → Traps .brk s (cause 0x03 k.pc)) ∧
  (s.myCore.dbg.ctl.getLsbD 8 = true → (s.myCore.run = .running ∨ ∃ x o, s.myCore.run = .stepping x o) →
    SetsCore .brk s s.cur.1 { s.myCore.shell with run := .stopping 2 s.cur.2 0 } s.cur.2 k) ∧
  (s.cur.2 = 0 → Becomes .halt s { k with wait := .halt }) ∧
  (s.cur.2 ≠ 0 → Traps .halt s (illegal .halt 6)) ∧
  (Unlogged s s.cur.1 → s.myCore.entropy = false → Becomes (.rand rd) s { k with wait := .rand rd }) ∧
  (Unlogged s s.cur.1 → s.myCore.entropy = true → ∃ t e, exec (.rand rd) s = .next t ∧ t.draws = s.draws + 1 ∧
    SameShared s { t with draws := s.draws } ∧ (t.core s.cur.1).shell = { s.myCore.shell with entropy := e } ∧
    t.ctx s.cur.1 s.cur.2 = advance (xwrite k rd (Config.entropy s.draws)) 4 ∧
    ∀ d y, d ≠ s.cur.1 ∨ y ≠ s.cur.2 → t.ctx d y = s.ctx d y)

/-- R129 steps 2 and 3: once no helper of the core is live and no wide instruction is queued, a HALT that waits ends the control
context, whose staged offers go; the core is counted as ended in its workgroup. R130: the source holds 64 bits again and the
waiting RAND takes them. -/
def Sys2Proof.Machine.WaitsOfSystemInstructionsEnd : Prop := ∀ (s : State) (c x n : Nat) (w : Wg) (rd : Reg),
  let k := s.ctx c 0
  let ended := s.updCtx c 0 fun k => { k with live := false, wait := .none, staged := [] }
  ((s.core c).run = .running → k.live = true → k.wait = .halt → (∀ e ∈ (s.core c).ctxs, e.1 ≠ 0 → e.2.live = false) →
    (s.core c).wide.queue = [] →
    (s.wgOf c = none → exec (.haltComplete c) s = .next ended) ∧
    (s.wgOf c = some (n, w) → (∃ d ∈ w.cores, d ≠ c ∧ d ∉ w.ended) →
      exec (.haltComplete c) s = .next { ended with wgs := tput s.wgs n { w with ended := w.ended ++ [c] } })) ∧
  ((s.ctx c x).wait = .rand rd → Unlogged s c →
    ∃ t, exec (.randEntropyReady c x) s = .next t ∧ t.draws = s.draws + 1 ∧
      t.ctx c x = { advance (xwrite (s.ctx c x) rd (Config.entropy s.draws)) 4 with wait := .none } ∧
      ∀ d y, d ≠ c ∨ y ≠ x → t.ctx d y = s.ctx d y)

/-- R125, R127-R130: NOP, TRAP, BRK, HALT and RAND, and the ends of their waits. -/
def Obligations.SystemInstructionsAct : Prop := SystemInstructions ∧ WaitsOfSystemInstructionsEnd

/-- R18: a pending asynchronous cause is taken at a boundary where the context runs below its target level, or at it with IE set; it is
pending no more. Otherwise it stays pending and the machine keeps its state. -/
def Sys2Proof.Machine.AsyncCausesAreTaken : Prop := ∀ (s : State) (c x : Nat) (z : Cause),
  let k := s.ctx c x
  let toH := k.priv = .h ∨ 64 ≤ z.code ∨ (s.core c).hdeleg.getLsbD z.code = false
  let taken := (toH ∧ (k.priv ≠ .h ∨ k.hstatus.getLsbD 0 = true)) ∨ (¬toH ∧ (k.priv = .u ∨ k.status.getLsbD 0 = true))
  k.wait = .none → k.pend = [z] → (x = 0 → (s.core c).reports = []) → z.code ≠ 0x21 → (s.core c).roleChange = none →
  (s.core c).run = .running →
  (taken → exec (.asyncTrapEntry c x) s = .next ((s.updCtx c x fun k => { k with pend := [] }).trapAt c x z)) ∧
  (¬taken → exec (.asyncTrapEntry c x) s = .next s)

/-- R287, R329, R410: an uncorrectable error poisons the sector: of a local bank or, where the bank is a way of the L1, of the line there, at the way, set and sector that log 58 gives (reason 1), or at the
home in GDDR 7 (reasons 2 and 3); one in a copy engine's own state (reason 4) ends its command as an abort does. It leaves an UNCORRECTABLE cause
pending: at the context that armed the engine's kick, if that is live, else at the control context of the core through whose router the engine
is reached, if that is live, else at that of the core that read the sector; in its image where the context's workgroup is switched out. -/
def Sys2Proof.Machine.UncorrectableErrorsPoison :
    Prop := ∀ (s : State) (c x : Nat) (agent : Gid) (access : Access) (reason : Nat) (addr : Word) (m : Image),
  let a := addr.toNat / 256 * 256
  let lo := a % 2 ^ 21
  let z : Cause := { cause 0x20 (BitVec.ofNat 64 a) with isAsync := true, agent := agent, access := access, reason := reason }
  let i : Instr := .uncorrectable c x agent access reason addr
  let y := if (s.ctx c x).live then (c, x) else if agent ≠ 0 ∧ (s.ctx (gidCore agent) 0).live then (gidCore agent, 0) else (c, 0)
  let cache := (s.core c).role (lo / 65536) = .cache
  (x < 11 → (s.core y.1).image = none →
    ∃ t, exec i s = .next t ∧ t.ctx y.1 y.2 = { s.ctx y.1 y.2 with pend := (s.ctx y.1 y.2).pend ++ [z] } ∧
      (∀ d e, d ≠ y.1 ∨ e ≠ y.2 → t.ctx d e = s.ctx d e) ∧ t.mem = s.mem ∧ (∀ d, (t.core d).loc = (s.core d).loc) ∧
      (∀ q, q ∈ (t.core c).locPoison ↔ q ∈ (s.core c).locPoison ∨ (reason = 1 ∧ ¬cache ∧ q = lo / 256)) ∧
      (reason = 1 → cache → ∀ e, e ∈ (t.core c).l1 ↔ ∃ u, (e.1, u) ∈ (s.core c).l1 ∧
        e.2 = if u.way = lo / 65536 ∧ e.1 / 4 % 64 = lo / 1024 % 64 ∧ e.1 % 4 = lo / 256 % 4 then { u with pois := true, hurt := true } else u) ∧
      (∀ q, q ∈ t.memPoison ↔ q ∈ s.memPoison ∨ ((reason = 2 ∨ reason = 3) ∧ q = a / 256)) ∧
      (reason = 4 → gidCtx agent = 11 → ∀ v, (t.cluster (clusterOf (gidCore agent))).copy.run = some v → v.abort = true)) ∧
  (c < 65536 → 16 ≤ x → (s.core c).parked = some m → x / 16 = m.wg + 1 → wgTag (s.core c) ≠ m.wg + 1 → (tget Ctx.reset m.ctxs (x % 16)).live = true →
    ∃ t m', exec i s = .next t ∧ (t.core c).parked = some m' ∧ (∀ e, t.ctx c e = s.ctx c e) ∧
      (tget Ctx.reset m'.ctxs (x % 16)).pend = (tget Ctx.reset m.ctxs (x % 16)).pend ++ [z])

/-- R18, R287, R410: asynchronous causes, and uncorrectable errors. -/
def Obligations.AsynchronousCausesAndErrors : Prop := AsyncCausesAreTaken ∧ UncorrectableErrorsPoison

/-! ## Scalar floating point (R51-R54, R116-R120) -/

/-- R116, R117: FADD to FSQRT and FMA give their exact result rounded once (RoundFRM, R52) into FP32 or FP64, as D selects, and OR its flags
into FFLAGS. The mode is RM, or FRM where RM is 7 and for FMA. An FP32 operand ignores bits [63:32], an FP32 result clears them (R54).
Nothing else changes. -/
def Obligations.FloatArithmeticRoundsOnce : Prop := ∀ (s : State) (rd rs1 rs2 rs3 : Reg) (d : BitVec 1) (rm : BitVec 3),
  let f := if d = 1 then fp64 else fp32
  let m := if rm = 7 then s.me.frm.toNat else rm.toNat
  let v := fun (r : Reg) => decodeCode f ((xread s.me r).toNat % 2 ^ f.width)
  let gives := fun (i : Instr) (m : Nat) (r : Val × BitVec 5) => GivesF i s rd (BitVec.ofNat 64 (finish f m false r).1) (finish f m false r).2 4
  gives (.fadd rd rs1 rs2 d rm) m (addVal m (v rs1) (v rs2)) ∧
  gives (.fsub rd rs1 rs2 d rm) m (addVal m (v rs1) (negVal (v rs2))) ∧
  gives (.fmul rd rs1 rs2 d rm) m (mulVal (v rs1) (v rs2)) ∧
  gives (.fdiv rd rs1 rs2 d rm) m (divVal (v rs1) (v rs2)) ∧
  gives (.fsqrt rd rs1 d rm) m (sqrtVal (v rs1)) ∧
  gives (.fma rd rs1 rs2 rs3 d) s.me.frm.toNat (fmaVal s.me.frm.toNat (v rs1) (v rs2) (v rs3))

/-- R116 (ops 5 to 8), R118: a selection gives one operand's code exactly, or the canonical NaN: FMIN and FMAX the other operand of a single
NaN, FMINM and FMAXM the NaN; −0 counts below +0. FCMP gives 1 where its relation holds. A signalling NaN sets NV; so does any NaN in
LT and LE; no other flag is set, and nothing else changes. -/
def Sys2Proof.Machine.FloatSelectionAndComparison : Prop := ∀ (s : State) (rd rs1 rs2 : Reg) (d : BitVec 1) (cond : BitVec 3),
  let f := if d = 1 then fp64 else fp32
  let x := (xread s.me rs1).toNat % 2 ^ f.width
  let y := (xread s.me rs2).toNat % 2 ^ f.width
  let a := decodeCode f x
  let b := decodeCode f y
  let nanA := isNan a = true
  let nanB := isNan b = true
  let low := if ltVal b a ∨ (eqVal a b ∧ signOf b ∧ ¬signOf a) then y else x
  let high := if ltVal a b ∨ (eqVal a b ∧ signOf a ∧ ¬signOf b) then y else x
  let snan : BitVec 5 := if isSnan a ∨ isSnan b then 16 else 0
  let number := fun (v : Nat) => if nanA ∧ nanB then f.nanCode else if nanA then y else if nanB then x else v
  let propagate := fun (v : Nat) => if nanA ∨ nanB then f.nanCode else v
  let w := fun (n : Nat) => BitVec.ofNat 64 n
  let holds := (cond = 0 ∧ eqVal a b) ∨ (cond = 1 ∧ ltVal a b) ∨ (cond = 2 ∧ (ltVal a b ∨ eqVal a b)) ∨ (cond = 3 ∧ (nanA ∨ nanB))
  let invalid : BitVec 5 := if (cond = 1 ∨ cond = 2) ∧ (nanA ∨ nanB) then 16 else snan
  GivesF (.fmin rd rs1 rs2 d) s rd (w (number low)) snan 4 ∧
  GivesF (.fmax rd rs1 rs2 d) s rd (w (number high)) snan 4 ∧
  GivesF (.fminm rd rs1 rs2 d) s rd (w (propagate low)) snan 4 ∧
  GivesF (.fmaxm rd rs1 rs2 d) s rd (w (propagate high)) snan 4 ∧
  (cond.toNat ≤ 3 → GivesF (.fcmp d cond rd rs1 rs2) s rd (if holds then 1 else 0) invalid 4)

/-- R119, R120: FCVT reads a value of its from-kind (S, D, W, WU, L, LU) and rounds it into its to-kind; a W result is sign-extended, the others
zero-extended. FCLASS gives the class, the sign, and whether the value is an integer or a power of two; it sets no flag. -/
def Sys2Proof.Machine.FloatConversionAndClass : Prop := ∀ (s : State) (rd rs1 : Reg) (tk fk rm : BitVec 3) (d : BitVec 1),
  let kind := fun (k : BitVec 3) => [fp32, fp64, int32, uint32, int64, uint64].getD k.toNat fp32
  let x := (xread s.me rs1).toNat
  let r := roundCode (kind tk) (if rm = 7 then s.me.frm.toNat else rm.toNat) false (decodeCode (kind fk) (x % 2 ^ (kind fk).width))
  let f := if d = 1 then fp64 else fp32
  let c := x % 2 ^ f.width
  (tk.toNat ≤ 5 → fk.toNat ≤ 5 → tk ≠ fk → (tk.toNat < 2 ∨ fk.toNat < 2) →
    GivesF (.fcvt rd rs1 tk fk rm) s rd
      (if tk = 2 then BitVec.ofInt 64 (if r.1 < 2 ^ 31 then (r.1 : Int) else r.1 - 2 ^ 32) else BitVec.ofNat 64 r.1) r.2 4) ∧
  ∃ n, Gives (.fclass rd rs1 d) s rd (BitVec.ofNat 64 n) 4 ∧ n < 256 ∧ n / 128 = c / 2 ^ (f.m + f.e) ∧
    (∀ q, decodeCode f c = .nan q → n % 128 = if q then 6 else 5) ∧ (∀ q, decodeCode f c = .inf q → n % 128 = 4) ∧
    (∀ q num den e, decodeCode f c = .fin q num den e →
      n % 16 = (if num = 0 then 1 else if c / 2 ^ f.m % 2 ^ f.e = 0 then 2 else 3) ∧
      n / 16 % 2 = 0 ∧ (n / 32 % 2 = 1 ↔ ∃ j, num = 2 ^ j) ∧
      (n / 64 % 2 = 1 ↔ (2 ^ (-e).toNat : Nat) ∣ num))

/-- R118-R120: minimum, maximum, comparison, conversion and classification. -/
def Obligations.FloatSelectionAndConversion : Prop := FloatSelectionAndComparison ∧ FloatConversionAndClass

/-- R52: a finite value that FP32 or FP64 represents rounds to its own code in every mode, with no flag. -/
def Obligations.RoundingKeepsRepresentedValues : Prop := ∀ (f : Fmt) (m c : Nat) (neg : Bool) (num den : Nat) (e : Int),
  f = fp32 ∨ f = fp64 → c < 2 ^ f.width → decodeCode f c = .fin neg num den e → roundCode f m false (decodeCode f c) = (c, 0)

/-! ## Wide instructions: entry (R27, R33, R131-R134, R153-R159, R253-R257, R261) -/

/-- Executing `i` queues `e` behind the wide instructions of the core, and the context moves past `i`; nothing else changes. -/
def Sys2Proof.Machine.Queues (i : Instr) (s : State) (e : WEntry) : Prop :=
  SetsCore i s s.cur.1 { s.myCore.shell with wide := { s.myCore.wide with queue := s.myCore.wide.queue ++ [e] } } s.cur.2
    { s.me with pc := s.me.pc + BitVec.ofNat 64 (byteLen i) }

/-- R27, R33, R134: an instruction of opcodes 0x30 to 0x35 (VLDA, VSTA, VADD, VSUB, VMUL, VFMA, VFMS, VMAX, VMIN, VABS, VNEG, VCLAMP, VSCALE, VDOT, VAND,
VOR, VXOR, VSHL, VSHR, VSEL, VCMP, VPERM, VSHUF, VIOTA, VRED, VBCAST, VCVT, VCVT.AUTO, VEXP2, VLOG2, VRCP, VRSQ, VTANH, VSIG): in a helper it is
illegal; with eight entries queued it waits; where a check of R134 fails it raises that cause; otherwise it enters the queue with
FRM as it stands, and the context goes on. -/
def Sys2Proof.Machine.WideInstructionsEnterTheQueue : Prop := ∀ (s : State) (i : Instr), isWForm i = true →
  let check := wformCheck s.myCore (queueView s s.cur.1) i
  (s.cur.2 ≠ 0 → Traps i s (illegal i 6)) ∧
  (s.cur.2 = 0 → 8 ≤ s.myCore.wide.queue.length → Becomes i s { s.me with wait := .wideFull }) ∧
  (s.cur.2 = 0 → s.myCore.wide.queue.length < 8 →
    (∀ z, check = .error z → Traps i s z) ∧
    (∀ v runs, check = .ok (v, runs) → byteLen i = 4 ∧
      ∃ e, Queues i s e ∧ e.i = i ∧ e.rm = s.me.frm.toNat ∧ e.runs = runs))

/-- R153-R155, R256: PSET (MODE 3 is illegal), PADD, FSET of a valid format, ACCCFG and ACCCFG.KEEP of a valid shape (ROWS 1 to 16, LANES 0 or
64, the other bits but KIND zero), ACCSW above U, and MCFG of a valid configuration enter the queue with the value of X[rs1]. -/
def Sys2Proof.Machine.WideControlEntersTheQueue : Prop := ∀ (s : State) (n rs1 : Reg),
  let x := xread s.me rs1
  let shape := 1 ≤ x.toNat % 32 ∧ x.toNat % 32 ≤ 16 ∧ x.toNat / 32 % 8 = 0 ∧ x.toNat / 512 % 128 = 0 ∧
    (x.toNat / 2 ^ 16 % 128 = 0 ∨ x.toNat / 2 ^ 16 % 128 = 64) ∧ x.toNat / 2 ^ 23 = 0
  let takes := fun (i : Instr) (v : Word) => ∃ e, Queues i s e ∧ e.i = i ∧ e.v1 = v
  s.cur.2 = 0 → s.myCore.wide.queue.length < 8 →
  (x.toNat / 2 ^ 62 ≠ 3 → takes (.pset n rs1) x) ∧
  (x.toNat / 2 ^ 62 = 3 → Traps (.pset n rs1) s (illegal (.pset n rs1) 6)) ∧
  takes (.padd n rs1) x ∧
  (fmtValid (x.setWidth 32) = true → takes (.fset n rs1) x) ∧
  (fmtValid (x.setWidth 32) = false → Traps (.fset n rs1) s (illegal (.fset n rs1) 6)) ∧
  (shape → takes (.acccfg rs1) x ∧ takes (.acccfgKeep rs1) x) ∧
  (¬shape → Traps (.acccfg rs1) s (illegal (.acccfg rs1) 6) ∧ Traps (.acccfgKeep rs1) s (illegal (.acccfgKeep rs1) 6)) ∧
  (s.me.priv ≠ .u → takes .accsw 0) ∧
  (s.me.priv = .u → Traps .accsw s (illegal .accsw 6)) ∧
  (mcfgBad s.me.priv (queueView s s.cur.1).mcfg x = false → takes (.mcfg rs1) x)

/-- R131, R153, R257, R258: with an empty queue PGET gives P[n], FGET F[n] zero-extended, and MSTAT the status word, whose GMIS and POIS it clears,
or the tag of a bank that is OPERAND; with entries queued each waits behind them. -/
def Sys2Proof.Machine.WideValuesAreRead : Prop := ∀ (s : State) (rd n : Reg) (sel : BitVec 32),
  let w := s.myCore.wide
  let waits := fun (i : Instr) => ∃ e, e.i = i ∧
    SetsCore i s s.cur.1 { s.myCore.shell with wide := { w with queue := w.queue ++ [e] } } s.cur.2 { s.me with wait := .wideVal }
  let tag := if s.myCore.role (16 + sel.toNat) = .operand then (tget 0 s.myCore.tags (16 + sel.toNat)).setWidth 64 else 0
  s.cur.2 = 0 →
  (w.queue = [] → Gives (.pget rd n) s rd (w.ptr.getD n.toNat 0) (byteLen (.pget rd n)) ∧
    Gives (.fget rd n) s rd ((w.fmt.getD n.toNat 0).setWidth 64) (byteLen (.fget rd n)) ∧
    (sel ≠ 0 → Gives (.mstat rd sel) s rd tag (byteLen (.mstat rd sel))) ∧
    SetsCore (.mstat rd 0) s s.cur.1 { s.myCore.shell with wide := { w with gmis := false, mpois := false } } s.cur.2
      (advance (xwrite s.me rd (mstatWord s.myCore)) (byteLen (.mstat rd 0)))) ∧
  (w.queue ≠ [] → w.queue.length < 8 → waits (.pget rd n) ∧ waits (.fget rd n) ∧ waits (.mstat rd sel))

/-- R156-R158: REP captures the words after it, where each can be fetched, each is an instruction of opcodes 0x30 to 0x35 and every
pass passes the checks of R159: it enters the queue with that body at pass 0, and the PC moves past the body. The words are fetched and checked one
after another: the first that is no such instruction raises ILLEGAL_INSTRUCTION, whatever a fetch after it would do. -/
def Sys2Proof.Machine.RepCapturesItsBody : Prop :=
  ∀ (s : State) (cnt : BitVec 12) (ni rowstep : BitVec 4) (ptrstep : BitVec 3) (ws : List Half) (body : List Instr) (runs : List (Nat × Nat)),
  let word := fun (j : Nat) (w : Half) => fetchFrom s.cur.1 s.cur.2 1 ((s.me.pc.toNat + 4 * (j + 1)) % 2 ^ 64) [] s = .words [w] s
  s.cur.2 = 0 → s.myCore.wide.queue.length < 8 → ws.length ≤ ni.toNat + 1 → (∀ j, j < ws.length → word j (ws.getD j 0)) →
  (∀ z, repBody ws = .error z →
    exec (.rep cnt ni rowstep ptrstep) s = .next ((s.setMe { s.me with capturing := false }).trap z)) ∧ (ws.length = ni.toNat + 1 → repBody ws = .ok body →
  passesCheck s.myCore rowstep.toNat ptrstep.toNat body (cnt.toNat + 1) 0 (queueView s s.cur.1) [] = .ok runs →
  ∃ t e, exec (.rep cnt ni rowstep ptrstep) s = .next t ∧ e.i = .rep cnt ni rowstep ptrstep ∧ e.body = body ∧ e.pass = 0 ∧ e.runs = runs ∧
    (t.core s.cur.1).wide = { s.myCore.wide with queue := s.myCore.wide.queue ++ [e] } ∧
    t.ctx s.cur.1 s.cur.2 = { s.me with pc := s.me.pc + BitVec.ofNat 64 (4 * (ni.toNat + 2)), capturing := false } ∧ t.mem = s.mem ∧
    (∀ a, locByte t s.cur.1 a = locByte s s.cur.1 a) ∧ ∀ d y, d ≠ s.cur.1 ∨ y ≠ s.cur.2 → t.ctx d y = s.ctx d y)

/-- R253-R255, R261: MLDB, MMUL, MSPILL and MFILL, where the checks that their entries list pass on an empty queue, enter the queue with what they
took of the registers; an MMUL also with its number in its gang's sequence (R242), which counts on. -/
def Sys2Proof.Machine.MatrixInstructionsEnterTheQueue : Prop :=
  ∀ (s : State) (rs1 rs2 : Reg) (ft d nrm : BitVec 4) (bank pa pm1 : BitVec 3) (row0 nrm1 : BitVec 10) (sc z : BitVec 1) (km1 mask : BitVec 8)
    (parts : List Part),
  let k := s.myCore
  let x := xread s.me rs1
  let y := xread s.me rs2
  let n := nrm1.toNat + 1
  let f := k.wide.fmt.getD ft.toNat 0
  let l := fmtBlen f
  let b := 24 + bank.toNat
  let src := (x.toNat, 64 * n) :: (if sc = 1 then [(y.toNat, 128 * (n / l))] else [])
  let m := nrm.toNat + 1
  let banks := usedBanks k.wide.mcfg km1
  let fa := k.view.pf pa.toNat
  let reads := if posOf s.cur.1 = 0 then (k.view.uses (List.replicate m ⟨pa.toNat, mmulK km1, false⟩)).1 else []
  let i : Instr := .mmul d nrm pa pm1 z km1
  s.cur.2 = 0 → k.wide.queue = [] →
  (row0.toNat + n ≤ 1024 → x.toNat + 64 * n ≤ 2 ^ 21 → x.toNat < 2 ^ 21 →
    (sc = 1 → fmtScaled f = true ∧ y.toNat < 2 ^ 21 ∧ y.toNat + 128 * (n / l) ≤ 2 ^ 21 ∧ row0.toNat % l = 0 ∧ n % l = 0) →
    mayUse k k.wide.mcfg b = true → fmtKind f ≤ 1 → ¬(fmtScaled f = true ∧ l = 32) →
    refusedByte k .scratch src = none → k.role b = .operand → poisonedByte k src = none →
    ∃ e, Queues (.mldb rs1 rs2 ft bank row0 sc nrm1) s e ∧ e.i = .mldb rs1 rs2 ft bank row0 sc nrm1 ∧ e.v1 = x ∧ e.v2 = y) ∧
  (d.toNat + m ≤ k.wide.acc.rows → mmulBanks km1 ≤ mcLen k.wide.mcfg → chainInHalf k.wide.mcfg = true → banks.all (mayUse k k.wide.mcfg) = true →
    k.wide.gangE ≠ 0 →
    (∀ u ∈ reads, fmtScaled u.fmt = true →
      wrap ((extAddr u.w u.org 0 : Int) - u.org.toNat) 21 % (fmtBytes u.fmt * fmtBlen u.fmt) = 0) →
    mmulFits k.wide.acc.int (k.view.p pa.toNat) fa pm1 (banks.map fun b => tget 0 k.tags b) (mmulK km1) = true →
    refusedByte k .scratch (readRuns' k i reads) = none → notOperand k banks = none →
    poisonedByte k (readRuns' k i reads ++ bankRuns k.wide.mcfg km1) = none →
    ∃ e, e.i = i ∧ e.e = k.wide.gangE ∧ e.j = k.wide.gangJ ∧ e.afmt = fa ∧ e.row = 0 ∧ e.joined = false ∧
      SetsCore i s s.cur.1 { k.shell with wide := { k.wide with queue := [e], gangJ := k.wide.gangJ + 1 } } s.cur.2
        { s.me with pc := s.me.pc + BitVec.ofNat 64 (byteLen i) }) ∧
  (mask ≠ 0 → (∀ b ∈ maskBanks mask, mayUse k k.wide.mcfg b = true) → Unwatched k → x.toNat % 4096 = 0 → notOperand k (maskBanks mask) = none →
    (imageCheck s .store x.toNat (maskBanks mask) [] = .ok false parts →
      ∃ e, Queues (.mspill rs1 mask) s e ∧ e.i = .mspill rs1 mask ∧ e.v1 = x ∧ e.pages = parts.flatMap partPages) ∧
    (imageCheck s .load x.toNat (maskBanks mask) [] = .ok false parts →
      ∃ e, Queues (.mfill rs1 mask) s e ∧ e.i = .mfill rs1 mask ∧ e.v1 = x ∧ e.pages = parts.flatMap partPages))

/-- R33, R34, R131-R162, R242: every wide and matrix instruction enters the queue in program order. -/
def Obligations.WideSideTakesInstructions : Prop := WideInstructionsEnterTheQueue ∧ WideControlEntersTheQueue ∧ MatrixInstructionsEnterTheQueue

/-! ## Wide instructions: execution (R29, R31, R131, R135, R142-R152, R154, R158, R243-R249) -/

/-- The wide side of a core may start work, and `e` is at the head of its queue, `rest` behind it. -/
def Sys2Proof.Machine.HeadIs (s : State) (c : Nat) (e : WEntry) (rest : List WEntry) : Prop :=
  (s.core c).run = .running ∧ (s.core c).wide.queue = e :: rest

/-- R31, R153-R155, R256: what the control entries do when they reach the head: PSET sets P[n] and its ORIGIN, PADD moves ADDR alone, inside the
window of a wrapping pointer; FSET sets F[n]; ACCCFG gives ACC its shape, all status words clear, and, without .KEEP, all lanes zero;
ACCSW exchanges ACC and its shadow; MCFG sets the matrix configuration; PGET and FGET end the wait of their context with the
value. The entry leaves the queue; no byte of memory and of the banks changes. -/
def Sys2Proof.Machine.WideControlExecutes : Prop := ∀ (s : State) (c : Nat) (e : WEntry) (rest : List WEntry) (n rs1 rd : Reg),
  let w := (s.core c).wide
  let ends := fun (g : Wide) => ∃ t, exec (.wideExecute c) s = .next t ∧ (t.core c).wide = { g with queue := rest } ∧ t.mem = s.mem ∧
    (t.core c).loc = (s.core c).loc
  let shape := fun (lanes : List Half) =>
    { w with acc := { lanes := lanes, st := List.replicate 16 0, rows := e.v1.toNat % 32, int := e.v1.getLsbD 8 } }
  let old := w.ptr.getD n.toNat 0
  let org := (w.origin.getD n.toNat 0).toNat
  let at_ := fun (v : Word) => ∃ t, exec (.wideExecute c) s = .next t ∧ (t.core c).wide = { w with queue := rest } ∧
    t.ctx c 0 = { advance (xwrite (s.ctx c 0) rd v) (byteLen e.i) with wait := .none }
  HeadIs s c e rest →
  (e.i = .pset n rs1 → ends { w with ptr := lset w.ptr n.toNat e.v1, origin := lset w.origin n.toNat (e.v1.setWidth 21) }) ∧
  (e.i = .padd n rs1 → ∃ p : Word, ends { w with ptr := lset w.ptr n.toNat p } ∧ p.toNat / 2 ^ 21 = old.toNat / 2 ^ 21 ∧
    (pWrap old = 0 → ((p.toNat % 2 ^ 21 : Nat) : Int) = ((old.toNat % 2 ^ 21 : Nat) + e.v1.toInt) % 2 ^ 21) ∧
    (pWrap old ≠ 0 → ((p.toNat % 2 ^ 21 : Nat) : Int) =
      (org + ((old.toNat % 2 ^ 21 : Nat) - org + e.v1.toInt) % (pWrap old : Int)) % 2 ^ 21)) ∧
  (e.i = .fset n rs1 → ends { w with fmt := lset w.fmt n.toNat (e.v1.setWidth 32) }) ∧
  (e.i = .acccfg rs1 → ends (shape (List.replicate 1024 0))) ∧
  (e.i = .acccfgKeep rs1 → ends (shape w.acc.lanes)) ∧
  (e.i = .accsw → ends { w with acc := w.shadow, shadow := w.acc }) ∧
  (e.i = .mcfg rs1 → ends { w with mcfg := e.v1 }) ∧
  ((s.ctx c 0).wait = .wideVal → (e.i = .pget rd n → at_ old) ∧ (e.i = .fget rd n → at_ ((w.fmt.getD n.toNat 0).setWidth 64)))

/-- R131-R136: values of the wide side that a context reads, and the wide side's own control. -/
def Obligations.WideControlHasItsEffect : Prop := WideValuesAreRead ∧ WideControlExecutes

/-- The instructions that work lane by lane on row s, a pointer's lanes B and, for three operands, A (R142, R144, R152). -/
def Sys2Proof.Machine.byLane : Instr → Bool
  | .vadd .. | .vsub .. | .vmul .. | .vfma .. | .vfms .. | .vmax .. | .vmin .. | .vabs .. | .vneg .. | .vclamp .. | .vscale .. => true
  | .vand .. | .vor .. | .vxor .. | .vshl .. | .vshr .. | .vexp2 .. | .vlog2 .. | .vrcp .. | .vrsq .. | .vtanh .. | .vsig .. => true
  | _ => false

/-- R131, R135, R142, R144, R152: an instruction that works lane by lane, at the head of the queue with its FIFO elements there, writes lane by lane
what its function makes of row s and of the lanes A and B that its pointers read, all read before row d is written. Row d's status
word gains the flags, from zero where the instruction does not read row d, and FFLAGS of the control context gains the same flags.
No other row, no mailbox and no byte changes. -/
def Sys2Proof.Machine.LanesAreWrittenTogether : Prop := ∀ (s : State) (c d r : Nat) (e : WEntry) (rest : List WEntry),
  let k := s.core c
  let a := k.wide.acc
  let us := (k.view.uses (wUses k.view e.i)).1
  let m := wideRm e.i e.rm
  let ab := operandLanes k m e.i us
  let out := mapLanes (laneFn a.int m e.i) ((a.lanes.drop (64 * r)).take 64) ab.1 ab.2.1 ab.2.2.1
  let flags := out.2 ||| ab.2.2.2
  byLane e.i = true → wDst e.i = some d → wSrc e.i = some r → HeadIs s c e rest → wReady s c e.i = true →
  a.lanes.length = 1024 → a.st.length = 16 → d < 16 → r < 16 →
  ab.1.length = 64 → ab.2.1.length = 64 → ab.2.2.1.length = 64 →
  ∃ t, exec (.wideExecute c) s = .next t ∧ (t.core c).wide.queue = rest ∧
    (∀ q l, q < 16 → l < 64 → (t.core c).wide.acc.lanes.getD (64 * q + l) 0 =
      if q = d then out.1.getD l 0 else a.lanes.getD (64 * q + l) 0) ∧
    (∀ q, q < 16 → (t.core c).wide.acc.st.getD q 0 =
      if q = d then (if r = d then a.st.getD d 0 else 0) ||| flags.setWidth 32 else a.st.getD q 0) ∧
    (t.core c).wide.acc.rows = a.rows ∧ (t.core c).wide.acc.int = a.int ∧
    (t.ctx c 0).fflags = (s.ctx c 0).fflags ||| flags ∧ (t.ctx c 0).x = (s.ctx c 0).x ∧ (t.ctx c 0).pc = (s.ctx c 0).pc ∧
    (t.core c).mb = k.mb ∧ (t.core c).mbFull = k.mbFull ∧ (t.core c).loc = k.loc ∧ t.mem = s.mem

/-- R62, R136, R142: with ACC in INT32 kind a lane is the exact integer result clamped to the 32-bit range, with OF exactly where it was clamped. -/
def Sys2Proof.Machine.IntegerLanesClamp : Prop := ∀ (m : Nat) (c a b : Half) (n : Int) (d r : BitVec 4) (p q rm : BitVec 3) (sat : BitVec 1),
  let is := fun (i : Instr) (v : Int) =>
    (laneFn true m i c a b n).1.toInt = Max.max (-2 ^ 31) (Min.min v (2 ^ 31 - 1)) ∧
    (laneFn true m i c a b n).2 = if v < -2 ^ 31 ∨ 2 ^ 31 - 1 < v then 4 else 0
  is (.vadd d r q rm sat) (c.toInt + b.toInt) ∧ is (.vsub d r q rm sat) (c.toInt - b.toInt) ∧ is (.vmul d r q rm sat) (c.toInt * b.toInt) ∧
  is (.vfma d r p q rm sat) (c.toInt + a.toInt * b.toInt) ∧ is (.vfms d r p q rm sat) (c.toInt - a.toInt * b.toInt) ∧
  is (.vabs d r) (if 0 ≤ c.toInt then c.toInt else -c.toInt) ∧ is (.vneg d r) (-c.toInt) ∧
  is (.vmax d r q) (Max.max c.toInt b.toInt) ∧ is (.vmin d r q) (Min.min c.toInt b.toInt)

/-- R131, R135, R137, R140, R143, R145-R150: the instructions that do not work lane by lane, at the head of the queue with their mailbox and their FIFO elements
as needed. VLDA writes row d from its pointer; VDOT lane 0 of a copy of row s; VSEL takes the lane of s where the mailbox has a one, else B's;
VPERM the lane of s that B names, modulo 64; VSHUF the lane that the pattern names (reversed for 6); VIOTA the lane's number; VBCAST the low half of a
mailbox. VSEL and VBCAST empty the mailbox, but not with .PEEK; VCMP and VRED fill theirs. No other row and no byte changes. -/
def Sys2Proof.Machine.WideRowsAreWritten : Prop :=
  ∀ (s : State) (c : Nat) (e : WEntry) (rest : List WEntry) (d r : BitVec 4) (p q rm n cond : BitVec 3) (sat peek : BitVec 1) (pat op : BitVec 3) (u : RUse),
  let k := s.core c
  let a := k.wide.acc
  let m := wideRm e.i e.rm
  let us := (k.view.uses (wUses k.view e.i)).1
  let row := (a.lanes.drop (64 * r.toNat)).take 64
  let b := operandLanes k m e.i us
  let bit : BitVec 8 := 1 <<< n.toNat
  let base := fun (fl : BitVec 5) (t : State) => exec (.wideExecute c) s = .next t ∧ (t.core c).wide.queue = rest ∧ t.mem = s.mem ∧
    (t.core c).loc = k.loc ∧ (t.ctx c 0).x = (s.ctx c 0).x ∧ (t.ctx c 0).pc = (s.ctx c 0).pc ∧ (t.ctx c 0).fflags = (s.ctx c 0).fflags ||| fl
  let row_ := fun (fl : BitVec 5) (full : BitVec 8) (lane : Nat → Half) => ∃ t, base fl t ∧
    (∀ j l, j < 16 → l < 64 → (t.core c).wide.acc.lanes.getD (64 * j + l) 0 = if j = d.toNat then lane l else a.lanes.getD (64 * j + l) 0) ∧
    (∀ j, j < 16 → (t.core c).wide.acc.st.getD j 0 =
      if j = d.toNat then (if wSrc e.i = some d.toNat then a.st.getD j 0 else 0) ||| fl.setWidth 32 else a.st.getD j 0) ∧
    (t.core c).mb = k.mb ∧ (t.core c).mbFull = full
  let fills := fun (fl : BitVec 5) (v : Word) => ∃ t, base fl t ∧ (t.core c).wide.acc.lanes = a.lanes ∧
    (t.core c).mb = k.mb.set n.toNat v n.isLt ∧ (t.core c).mbFull = k.mbFull ||| bit
  let after := if peek = 1 then k.mbFull else k.mbFull &&& ~~~bit
  let rel := fun (x y : Half) =>
    let v := decodeCode fp32 x.toNat
    let w := decodeCode fp32 y.toNat
    if a.int then (cond = 0 ∧ x = y) ∨ (cond = 1 ∧ x.toInt < y.toInt) ∨ (cond = 2 ∧ x.toInt ≤ y.toInt)
    else (cond = 0 ∧ eqVal v w = true) ∨ (cond = 1 ∧ ltVal v w = true) ∨ (cond = 2 ∧ (ltVal v w = true ∨ eqVal v w = true)) ∨
      (cond = 3 ∧ (isNan v = true ∨ isNan w = true))
  HeadIs s c e rest → wReady s c e.i = true → a.lanes.length = 1024 → a.st.length = 16 → b.2.1.length = 64 → b.2.2.1.length = 64 →
  (e.i = .vlda d p rm sat → us = [u] → row_ (readLanes k a.int m (sat == 1) u).2 k.mbFull fun l => (readLanes k a.int m (sat == 1) u).1.getD l 0) ∧
  (e.i = .vdot d r p q rm sat → row_ ((dotLane a.int m sat (row.headD 0) b.1 b.2.1).2 ||| b.2.2.2) k.mbFull fun l =>
    if l = 0 then (dotLane a.int m sat (row.headD 0) b.1 b.2.1).1 else row.getD l 0) ∧
  (e.i = .vsel d r q n peek → row_ b.2.2.2 after fun l => if k.mb[n.toNat].getLsbD l then row.getD l 0 else b.2.1.getD l 0) ∧
  (e.i = .vperm d r q → row_ 0 k.mbFull fun l => row.getD (b.2.2.1.getD l 0 % 64).toNat 0) ∧
  (e.i = .vshuf d r pat → row_ 0 k.mbFull fun l => row.getD (if pat = 6 then 63 - l else l ^^^ 2 ^ pat.toNat) 0) ∧
  (e.i = .viota d → ∃ lane : Nat → Half, row_ 0 k.mbFull lane ∧
    ∀ l, l < 64 → if a.int then lane l = BitVec.ofNat 32 l else eqVal (decodeCode fp32 (lane l).toNat) (.fin false l 1 0) = true) ∧
  (e.i = .vbcast d n peek → row_ 0 after fun _ => k.mb[n.toNat].setWidth 32) ∧
  (e.i = .vcmp n r q cond → cond.toNat ≤ 3 → ∃ fl v, fills fl v ∧ ∀ l, l < 64 → (v.getLsbD l = true ↔ rel (row.getD l 0) (b.2.1.getD l 0))) ∧
  (e.i = .vred n r op → fills (redValue a.int m op.toNat row).2 (redValue a.int m op.toNat row).1) ∧
  (a.int = true → (redValue a.int m 0 row).1 = BitVec.ofInt 64 (row.map fun x => x.toInt).sum)

/-- R132, R141, R56, R151, R278: VSTA stores the 64 lanes of row s in its pointer's format, at the addresses of its extent (where a window that wraps
brings two bytes to one address, the later stays) or behind the tail of its FIFO bank; VCVT and VCVT.AUTO store their elements, scales and status
words. No other byte of the local space changes, and no lane. -/
def Sys2Proof.Machine.WideStoresWriteTheExtent : Prop :=
  ∀ (s : State) (c : Nat) (e : WEntry) (rest : List WEntry) (r : BitVec 4) (p rm : BitVec 3) (sat : BitVec 1) (u : RUse) (blk : Nat),
  let k := s.core c
  let a := k.wide.acc
  let m := wideRm e.i e.rm
  let row := (a.lanes.drop (64 * r.toNat)).take 64
  let w := fmtBytes u.fmt
  let at_ := extAddr u.w u.org
  let cells := row.map fun x => storeLane a.int m sat u.fmt x
  let bs := cells.flatMap fun x => bytesOfNat w x.1
  let tail := (tget FifoBank.reset k.fifo (pBank u.w)).tail
  let base := fun (t : State) => exec (.wideExecute c) s = .next t ∧ (t.core c).wide.queue = rest ∧ t.mem = s.mem ∧
    (t.core c).wide.acc.lanes = a.lanes ∧ (t.core c).mb = k.mb ∧ (t.core c).mbFull = k.mbFull ∧ (t.ctx c 0).x = (s.ctx c 0).x
  let sc := scaleAddr u.w u.org blk
  let stat := statAddr u.w u.org blk
  let converts := fun (auto : Bool) => ∃ t, base t ∧
    (∀ x, (∀ i, i < u.size → at_ i ≠ x) → (∀ y ∈ useBlocks u, x ∉ [scaleAddr u.w u.org y, scaleAddr u.w u.org y + 1, statAddr u.w u.org y, statAddr u.w u.org y + 1]) →
      locByte t c x = locByte s c x) ∧
    (useBlocks u = [blk] → ∃ o, o = cvtBlock (fmtOf u.fmt) u.fmt m (sat == 1 || auto) auto (natOfBytes (memRead k.loc sc 2))
        (bits (natOfBytes (memRead k.loc stat 2)) 0 9) s.pick (cvtInputs a r.toNat u.n) ∧
      natOfBytes ((List.range 2).map fun i => locByte t c (stat + i)) = o.2.2 % 65536 ∧
      ((∀ i, i < u.size → at_ i ∉ [sc, sc + 1, stat, stat + 1]) → (∀ i j, i < u.size → j < u.size → at_ i = at_ j → i = j) →
        ∀ i j, i < u.n → j < w → i < o.1.length → locByte t c (at_ (i * w + j)) = BitVec.ofNat 8 ((o.1.getD i (0, 0, false, false)).1 / 2 ^ (8 * j))))
  HeadIs s c e rest → wReady s c e.i = true → a.lanes.length = 1024 → s.watches = [] → (k.view.uses (wUses k.view e.i)).1 = [u] →
  (e.i = .vsta r p rm sat →
    (pMode u.w ≠ 2 → ∃ t, base t ∧
      (∀ i, i < bs.length → (∀ j, i < j → j < bs.length → at_ j ≠ at_ i) → locByte t c (at_ i) = bs.getD i 0) ∧
      ∀ x, (∀ i, i < bs.length → at_ i ≠ x) → locByte t c x = locByte s c x) ∧
    (pMode u.w = 2 → ∃ t, base t ∧ (tget FifoBank.reset (t.core c).fifo (pBank u.w)).tail = tail + BitVec.ofNat 24 bs.length ∧
      (∀ i, i < bs.length → locByte t c (pBank u.w * 65536 + (tail.toNat + i) % 65536) = bs.getD i 0) ∧
      ∀ x, (∀ i, i < bs.length → pBank u.w * 65536 + (tail.toNat + i) % 65536 ≠ x) → locByte t c x = locByte s c x)) ∧
  (e.i = .vcvt r p rm sat → converts false) ∧ (e.i = .vcvtAuto r p rm sat → converts true)

/-- R131-R152: what each instruction of opcodes 0x30 to 0x35 does at the head of the queue: lane by lane, across lanes, with mailboxes, and stores. -/
def Obligations.WideLanesExecute : Prop := LanesAreWrittenTogether ∧ IntegerLanesClamp ∧ WideRowsAreWritten ∧ WideStoresWriteTheExtent

/-- R253: MLDB copies its rows from the local space into the operand bank from row row0 on, and gives the bank its format as tag; no other
byte of the local space changes. -/
def Sys2Proof.Machine.MldbLoadsTheBank : Prop :=
  ∀ (s : State) (c : Nat) (e : WEntry) (rest : List WEntry) (rs1 rs2 : Reg) (ft : BitVec 4) (bank : BitVec 3) (row0 nrm1 : BitVec 10) (sc : BitVec 1),
  let b := 24 + bank.toNat
  let at_ := b * 65536 + 64 * row0.toNat
  let n := 64 * (nrm1.toNat + 1)
  HeadIs s c e rest → e.i = .mldb rs1 rs2 ft bank row0 sc nrm1 →
  ∃ t, exec (.wideExecute c) s = .next t ∧ (t.core c).wide.queue = rest ∧
    (∀ a, locByte t c a = if at_ ≤ a ∧ a < at_ + n then locByte s c (e.v1.toNat % 2 ^ 21 + (a - at_)) else locByte s c a) ∧
    (∀ q, tget 0 (t.core c).tags q = if q = b then (s.core c).wide.fmt.getD ft.toNat 0 else tget 0 (s.core c).tags q) ∧
    t.mem = s.mem ∧ (t.ctx c 0).x = (s.ctx c 0).x

/-- The places of the bytes of the image of bank `b` (R259) among the pages that an entry pins (R261): all in GDDR 7, each under the key that its
sector was written under. -/
def Sys2Proof.Machine.ImageLies (s : State) (e : WEntry) (b : Nat) (place : Nat → Nat) : Prop :=
  e.v1.toNat % 4096 = 0 ∧ ∀ i, i < 0x10810 → ∃ key, pagePlace e.pages ((e.v1.toNat + 0x11000 * (b - 24)) % 2 ^ 64 + i) = some (place i, key) ∧
    isGddr (place i) = true ∧ tget (0, 0) s.keyTag (place i / 256) = keyNow s key

/-- R161, R259-R262, R401: an MSPILL or MFILL at the head of the queue, with no buffered store of its context to its image, does the lowest bank of its mask,
and stays at the head for the banks that are left; after the last it leaves the queue. Where the image lies in GDDR 7 and no sector of the L1 or
watchpoint is met, MSPILL stores the bank's 65,536 bytes, its sidecar, its tag (0 when empty) and 12 zero bytes at offsets 0, 0x1_0000, 0x1_0800 and
0x1_0804 of the image, at distinct places, and poisons the sectors of poisoned bank sectors; no other byte of memory changes, and nothing of the
bank. MFILL brings the bank's bytes and its sidecar from there, and its tag, which is empty after a value that MLDB would not accept, a nonzero byte
after it, or a poisoned sector, which also sets POIS; no other byte changes, and no other tag. Neither changes an accumulator or an X register. -/
def Sys2Proof.Machine.ImagesMoveBankByBank : Prop :=
  ∀ (s : State) (c : Nat) (e : WEntry) (rest : List WEntry) (rs1 : Reg) (mask : BitVec 8) (b : Nat) (bs : List Nat) (place : Nat → Nat),
  let k := s.core c
  let left := fun (i : Instr) => if bs = [] then rest
    else { e with i := i, runs := bs.map (fun q => (q * 65536, 65536)) ++ e.runs.filter (fun q => q.2 != 65536) } :: rest
  let low : BitVec 8 := mask &&& ~~~((1 : BitVec 8) <<< (b - 24))
  let base := fun (i : Instr) (t : State) => exec (.wideExecute c) s = .next t ∧ (t.core c).wide.queue = left i ∧
    (t.ctx c 0).x = (s.ctx c 0).x ∧ (t.core c).wide.acc = k.wide.acc
  let lies := ImageLies s e b place ∧ k.l1 = [] ∧ s.watches = []
  let image := fun (i : Nat) => memByte s.mem (place i)
  let tag := natOfBytes ((List.range 4).map fun i => image (0x10800 + i))
  let poisoned := ∃ i, i < 0x10810 ∧ place i / 256 ∈ s.memPoison
  let good := operandFmt (BitVec.ofNat 32 tag) = true ∧ (∀ i, i < 12 → image (0x10804 + i) = 0) ∧ ¬poisoned
  HeadIs s c e rest → (∀ q ∈ k.stbuf, q.ctx ≠ 0) → maskBanks mask = b :: bs →
  (e.i = .mspill rs1 mask → ∃ t, base (.mspill rs1 low) t ∧ (∀ q, tget 0 (t.core c).tags q = tget 0 k.tags q) ∧
    (lies → (∀ i j, i < 0x10810 → j < 0x10810 → place i = place j → i = j) →
      (∀ i, i < 65536 → memByte t.mem (place i) = locByte s c (b * 65536 + i) ∧
        (place i / 256 ∈ t.memPoison ↔ (b * 65536 + i) / 256 ∈ k.locPoison)) ∧
      (∀ i, i < 2048 → memByte t.mem (place (0x10000 + i)) = memByte k.sidecar (b * 2048 + i)) ∧
      (∀ i, i < 16 → memByte t.mem (place (0x10800 + i)) = BitVec.ofNat 8 ((tget 0 k.tags b).toNat / 2 ^ (8 * i))) ∧
      (∀ a, (∀ i, i < 0x10810 → place i ≠ a) → memByte t.mem a = memByte s.mem a) ∧
      (t.core c).loc = k.loc ∧ (t.core c).sidecar = k.sidecar ∧ (t.core c).locPoison = k.locPoison)) ∧
  (e.i = .mfill rs1 mask → ∃ t, base (.mfill rs1 low) t ∧ (∀ q, q ≠ b → tget 0 (t.core c).tags q = tget 0 k.tags q) ∧
    (lies →
      (∀ a, locByte t c a = if b * 65536 ≤ a ∧ a < b * 65536 + 65536 then image (a - b * 65536) else locByte s c a) ∧
      (∀ a, memByte (t.core c).sidecar a =
        if b * 2048 ≤ a ∧ a < b * 2048 + 2048 then image (0x10000 + (a - b * 2048)) else memByte k.sidecar a) ∧
      (good → tfind (t.core c).tags b = some (BitVec.ofNat 32 tag)) ∧ (¬good → tfind (t.core c).tags b = none) ∧
      ((t.core c).wide.mpois = true ↔ k.wide.mpois = true ∨ poisoned) ∧ t.mem = s.mem))

/-- R34, R158: one pass of a REP whose body is one instruction that can execute: it executes with its rows and pointers staggered by the pass;
the REP stays at the head with the next pass and with what the passes left touch, and leaves the queue after the last. -/
def Sys2Proof.Machine.RepRunsPassAfterPass : Prop :=
  ∀ (s : State) (c : Nat) (e : WEntry) (rest : List WEntry) (cnt : BitVec 12) (ni rs : BitVec 4) (ps : BitVec 3) (b : Instr),
  let j := stagger e.pass rs.toNat ps.toNat b
  let u := wExec s c j (wideRm j e.rm)
  let next := { e with pass := e.pass + 1 }
  HeadIs s c e rest → e.i = .rep cnt ni rs ps → e.body = [b] → e.row = 0 → isWForm b = true → wReady s c j = true →
  ∃ t, exec (.repPass c) s = .next t ∧ (t.core c).wide = { (u.core c).wide with queue :=
      if e.pass < cnt.toNat then { next with runs := restRuns (u.core c) cnt.toNat rs.toNat ps.toNat next } :: (u.core c).wide.queue.tail else (u.core c).wide.queue.tail } ∧
    t.mem = u.mem ∧ (t.core c).loc = (u.core c).loc

/-- R156-R160: REP captures its body and runs it pass after pass. -/
def Obligations.RepeatedBodiesRun : Prop := RepCapturesItsBody ∧ RepRunsPassAfterPass

/-- The six running cores of a gang have MMULs of one number at the heads of their queues (R243), `h p` at position `p`, all of them
joined or none. -/
def Sys2Proof.Machine.GangHas (s : State) (g : Nat) (h : Nat → Head) (num : Nat × Nat) (joined : Bool) : Prop :=
  ∀ p, p < 6 → (s.core (gangCore g p)).run = .running ∧ mmulHead (s.core (gangCore g p)) = some (h p) ∧
    ((h p).e.e, (h p).e.j) = num ∧ (h p).e.joined = joined

/-- R242-R244: MMUL_JOIN executes wherever the six cores of a gang have MMULs of the same number at the heads of their queues: with equal shape
words (rows, K, planes, A format) all six are joined, and .Z has cleared the rows of the product; with different ones all six leave their queues
without a product, GMIS is set in each core, no ACC changes, and no pointer but position 0's. -/
def Sys2Proof.Machine.MmulsJoinTogether : Prop := ∀ (s : State) (g : Nat) (h : Nat → Head) (num : Nat × Nat),
  let c := fun p => gangCore g p
  let w := fun p => (s.core (c p)).wide
  let shape := fun p => ((h p).n, 32 * ((h p).km1.toNat + 1), (h p).pm1, (h p).e.afmt)
  GangHas s g h num false →
  ∃ t, exec (.mmulJoin g) s = .next t ∧ t.mem = s.mem ∧ ∀ p, p < 6 → (t.core (c p)).loc = (s.core (c p)).loc ∧
    ((∀ q, q < 6 → shape q = shape 0) → (t.core (c p)).wide =
      { w p with acc := if (h p).z then zeroRows (w p).acc (h p).d (h p).n else (w p).acc,
                 queue := { (h p).e with joined := true } :: (w p).queue.tail }) ∧
    ((∃ q, q < 6 ∧ shape q ≠ shape 0) → (t.core (c p)).wide.gmis = true ∧ (t.core (c p)).wide.queue = (w p).queue.tail ∧
      (t.core (c p)).wide.acc = (w p).acc ∧ (p ≠ 0 → (t.core (c p)).wide.ptr = (w p).ptr))

/-- R245, R247, R249: a row broadcast executes wherever six joined MMULs of one number stand at one row: in every slice the row of the product
takes, lane by lane, the sums of its blocks over the A row of position 0 and its own operand banks; the other rows keep their lanes. After the last
row the MMUL leaves the queue, before it the next row is noted. -/
def Sys2Proof.Machine.RowsAreBroadcast : Prop := ∀ (s : State) (g row : Nat) (h : Nat → Head) (num : Nat × Nat),
  let c := fun p => gangCore g p
  let k := fun p => s.core (c p)
  let fb := fun p => tget 0 (k p).tags (24 + mcBase (k p).wide.mcfg)
  let l := fun p => mmulL (h 0).e.afmt (fb p)
  let a := fun p => aRow (k 0) (h 0) (l p)
  let kk := fun p => 32 * ((h p).km1.toNat + 1)
  let r := fun p => (h p).d + row
  let lane := fun (p q : Nat) => laneBlocks (k p) (h p).e.afmt (fb p) (h p).e.rm (mcBase (k p).wide.mcfg) q (l p) (kk p) (a p).1 (a p).2
    ((kk p + l p - 1) / l p) ⟨(k p).wide.acc.lanes.getD (64 * r p + q) 0, 0, 0⟩
  GangHas s g h num true → (∀ p, p < 6 → (h p).e.row = row ∧ (k p).wide.acc.lanes.length = 1024 ∧ r p < 16) →
  ∃ t, exec (.mmulRowBroadcast g) s = .next t ∧ t.mem = s.mem ∧ ∀ p, p < 6 →
    (∀ r' q, r' < 16 → q < 64 → (t.core (c p)).wide.acc.lanes.getD (64 * r' + q) 0 =
      if r' = r p then (lane p q).lane else (k p).wide.acc.lanes.getD (64 * r' + q) 0) ∧
    (t.core (c p)).wide.queue = (if row + 1 < (h p).n then { (h p).e with row := row + 1 } :: (k p).wide.queue.tail else (k p).wide.queue.tail) ∧
    (p ≠ 0 → (t.core (c p)).wide.ptr = (k p).wide.ptr) ∧ (t.core (c p)).loc = (k p).loc

/-- R240-R262: MLDB, MSPILL and MFILL, the joining of MMULs, and the broadcast of rows. -/
def Obligations.MatrixUnitRuns : Prop := MldbLoadsTheBank ∧ ImagesMoveBankByBank ∧ MmulsJoinTogether ∧ RowsAreBroadcast

/-! ## Requests to homes, pools, dies and engines (R207, R210-R213, R227-R232, R326, R327, R338-R339, R356-R360, R378-R386) -/

/-- A register holds a name that is valid for the running core (R168). -/
def Sys2Proof.Machine.IsName (s : State) (v : Word) : Prop := v.toNat < 2 ^ 32 ∧ nameValid s s.myCore.part v.toNat = true

/-- The context once it has sent a request that answers after `n` bytes. -/
def Sys2Proof.Machine.asking (s : State) (n : Nat) : Ctx := { s.me with wait := .request n }

/-- R207: a request that takes its operands from registers alone goes to what handles it, and its context waits for the answer: EVDEL (not
of a phase or take event), DONE once its stores are acknowledged (R227), POOLCFG, FIFOBIND of an unbound FIFO bank, LAYREL, RESCLS (PINNED above U),
CSTAT, CSTAT.ABORT and PUNBIND. No register and no byte changes. -/
def Sys2Proof.Machine.RegisterRequestsAreSent : Prop := ∀ (s : State) (rd rs1 rs2 rs3 : Reg) (cls : BitVec 2),
  let x := xread s.me rs1
  let y := xread s.me rs2
  let z := xread s.me rs3
  let sends := fun (i : Instr) (r : Request) => Asks i s (.requestAnswer s.cur.1 (s.asker s.cur.1 s.cur.2) r) (asking s (byteLen i))
  s.cur.1 < 576 →
  (IsName s x → isPhaseName s x.toNat = false → isTakeName x.toNat = false → homeDev (nameHome s s.cur.1 x.toNat) = s.dev →
    sends (.evdel rd rs1) (.evdel rd x.toNat)) ∧
  (NothingOwed s → sends (.done rs1 rs2) (.done x y)) ∧
  (x.toNat ≤ 15 → y.toNat ≤ 7 → sends (.poolcfg rd rs1 rs2) (.poolcfg rd x.toNat y)) ∧
  (x.toNat < 32 → s.myCore.role x.toNat = .fifo → (∀ f ∈ s.myCore.fifo, f.2.bound = none) → IsName s y → (z = 0 ∨ IsName s z) →
    sends (.fifobind rs3 rs1 rs2) (.fifobind x.toNat y z)) ∧
  (x.toNat < 32 → s.myCore.role x.toNat = .fifo → y = 0 → sends (.fifobind rs3 rs1 rs2) (.fifobind x.toNat 0 z)) ∧
  sends (.layrel rd rs1) (.layrel rd x) ∧
  (cls ≠ 1 ∨ s.me.priv ≠ .u → sends (.rescls cls rd rs1) (.rescls rd x cls.toNat)) ∧
  (IsName s x → Unlogged s s.cur.1 → sends (.cstat rd rs1) (.cstat rd x.toNat false) ∧ sends (.cstatAbort rd rs1) (.cstat rd x.toNat true)) ∧
  Asks (.punbind rd rs1) s (.weltUnbind s.cur.1 (s.asker s.cur.1 s.cur.2) rd x) (asking s (byteLen (.punbind rd rs1)))

/-- R210, R228, R326, R356, R380, R384: an instruction that reads a record first sends its bytes with its request: EVDEF 80 bytes, POOLPUT 48, LAYREG
64, PBIND 32, TCFG.NEW 64, TCFG.GROW 16, TEXP 8 for each child. Here the record lies in the local window, where the checks of R112
pass, and its fields are as the entry demands. -/
def Sys2Proof.Machine.RecordRequestsAreSent : Prop :=
  ∀ (s : State) (rd rs1 rs2 rs3 : Reg) (acc : BitVec 2) (lit : Word) (kk : BitVec 9) (lo slot : Nat) (d : EventDesc) (l : Layout),
  let x := xread s.me rs1
  let y := xread s.me rs2
  let z := xread s.me rs3
  let bytes := fun (n : Nat) => (List.range n).map fun i => locByte s s.cur.1 (lo + i)
  let c := s.cur.1
  let sends := fun (i : Instr) (r : Request) => Asks i s (.requestAnswer c (s.asker c s.cur.2) r) (asking s (byteLen i))
  let reads := fun (ea : Word) (n : Nat) => LocalOpen s ea lo n ∧ LocalClean s lo n
  let tree := fun (i : Instr) (n : Nat) (op : TreeOp) =>
    Asks i s (.cantleOperation c (s.asker c s.cur.2) (clusterOf c) n op) { asking s (byteLen i) with relDone := false }
  let evOk := nameValid s s.myCore.part (field (bytes 80) 0 4) = true ∧ readDesc s c s.myGid (bytes 80) = some d ∧
    homeDev (nameHome s c (field (bytes 80) 0 4)) = s.dev
  let treeOk := y.toNat < 64 ∧ nameValid s s.myCore.part (field (bytes 64) 12 4) = true ∧ treeDescOk s c (bytes 64) = true
  c < 576 →
  (reads x 80 → evOk → sends (.evdef rd rs1) (.evdef rd (bytes 80) x)) ∧
  (reads y 48 → x.toNat ≤ 15 → taskDescOk (bytes 48) = true → nameValid s s.myCore.part (field (bytes 48) 36 4) = true →
    sends (.poolput rd rs1 rs2) (.poolput rd x.toNat (bytes 48) y)) ∧
  (reads x 64 → sends (.layreg acc rd rs1) (.layreg rd (bytes 64) acc.toNat)) ∧
  (reads lit 64 → sends (.layregLit acc rd lit) (.layreg rd (bytes 64) acc.toNat)) ∧
  (reads x 32 → NothingOwed s → nameValid s s.myCore.part (field (bytes 32) 0 4) = true → nameScope (field (bytes 32) 0 4) = 1 →
    pipeSource s c (bytes 32) = some (slot, l) → pipeDescOk s c (bytes 32) l.format = true →
    Asks (.pbind rd rs1) s (.weltBind ⟨c, s.asker c s.cur.2, rd, bytes 32, x⟩) { asking s (byteLen (.pbind rd rs1)) with relDone := false }) ∧
  (NothingOwed s → reads x 64 → treeOk → tree (.tcfgNew rd rs1 rs2) y.toNat (.cfgNew rd (bytes 64) x)) ∧
  (NothingOwed s → reads lit 64 → treeOk → tree (.tcfgNewLit rd rs2 lit) y.toNat (.cfgNew rd (bytes 64) lit)) ∧
  (NothingOwed s → reads x 16 → y.toNat < 64 → extentOk (bytes 16) 0 = true → tree (.tcfgGrow rd rs1 rs2) y.toNat (.cfgGrow rd (bytes 16) x)) ∧
  (NothingOwed s → reads lit 16 → y.toNat < 64 → extentOk (bytes 16) 0 = true →
    tree (.tcfgGrowLit rd rs2 lit) y.toNat (.cfgGrow rd (bytes 16) lit)) ∧
  (NothingOwed s → reads z (8 * kk.toNat) → x.toNat < 64 → y.toNat < 2 ^ 24 →
    tree (.texp rd rs1 rs2 rs3 kk) x.toNat (.expand rd y.toNat ((List.range kk.toNat).map fun i =>
      (BitVec.ofNat 32 (field (bytes (8 * kk.toNat)) (8 * i) 4), BitVec.ofNat 32 (field (bytes (8 * kk.toNat)) (8 * i + 4) 4)))))

/-- R367, R378, R381-R386: an operation of a tree below 64, on a node below 2^24, goes to the cluster's Cantle once the context's stores are
released; a larger number is illegal. -/
def Sys2Proof.Machine.TreeOperationsAreSent : Prop := ∀ (s : State) (rd rs1 rs2 rs3 : Reg),
  let x := xread s.me rs1
  let y := xread s.me rs2
  let c := s.cur.1
  let sends := fun (i : Instr) (n : Nat) (op : TreeOp) =>
    Asks i s (.cantleOperation c (s.asker c s.cur.2) (clusterOf c) n op) { asking s (byteLen i) with relDone := false }
  (NothingOwed s →
    (y.toNat < 64 → sends (.tcfgDel rd rs2) y.toNat (.cfgDel rd)) ∧
    (x.toNat < 64 → sends (.troot rd rs1 rs2) x.toNat (.root rd (y.setWidth 32)) ∧ sends (.tdesc rd rs1) x.toNat (.desc rd) ∧
      sends (.tbatch rd rs1) x.toNat (.batch rd) ∧ (Unlogged s c → sends (.treadTree rd rs1) x.toNat (.readTree rd)) ∧
      (y.toNat < 2 ^ 24 → sends (.texpTerm rd rs1 rs2) x.toNat (.terminal rd y.toNat) ∧
        sends (.tback rd rs1 rs2 rs3) x.toNat (.back rd y.toNat ((xread s.me rs3).setWidth 32) false) ∧
        sends (.tbackVlo rd rs1 rs2) x.toNat (.back rd y.toNat 0 true) ∧ sends (.treuse rd rs1 rs2) x.toNat (.reuse rd y.toNat) ∧
        sends (.treadStats rd rs1 rs2) x.toNat (.readStats rd y.toNat) ∧ sends (.treadLinks rd rs1 rs2) x.toNat (.readLinks rd y.toNat)))) ∧
  (64 ≤ x.toNat → Traps (.tdesc rd rs1) s (illegal (.tdesc rd rs1) 6) ∧ Traps (.texpTerm rd rs1 rs2) s (illegal (.texpTerm rd rs1 rs2) 6)) ∧
  (2 ^ 24 ≤ y.toNat → x.toNat < 64 → Traps (.texpTerm rd rs1 rs2) s (illegal (.texpTerm rd rs1 rs2) 6))

/-- R207, R210-R232, R326-R327, R338-R339, R356-R360, R378-R386: every request goes to what handles it, and its context waits. -/
def Obligations.RequestsAreSent : Prop := RegisterRequestsAreSent ∧ RecordRequestsAreSent ∧ TreeOperationsAreSent

/-- R213, R359: EVSTAT and PSTAT ask for their 64-byte record where its destination may be stored to, and, when it has come back, store it
there and take the doubleword that the entry names (the STATE word, the TILES count) into rd. -/
def Obligations.RecordsAreStored : Prop := ∀ (s : State) (rd rs1 rs2 : Reg) (lo : Nat) (bs : List Byte),
  let x := xread s.me rs1
  let y := xread s.me rs2
  let done := fun (i : Instr) (v : Nat) => advance (xwrite { s.me with recd := none } rd (BitVec.ofNat 64 v)) (byteLen i)
  LocalOpen s y lo 64 → Unlogged s s.cur.1 → s.cur.1 < 576 →
  (s.me.recd = none → s.me.stale = false →
    (IsName s x → homeDev (nameHome s s.cur.1 x.toNat) = s.dev →
      Asks (.evstat rd rs1 rs2) s (.requestAnswer s.cur.1 (s.asker s.cur.1 s.cur.2) (.evstat rd x.toNat y)) (asking s (byteLen (.evstat rd rs1 rs2)))) ∧
    ((servePstat s s.cur.1 x).isSome = true →
      Asks (.pstat rd rs1 rs2) s (.requestAnswer s.cur.1 (s.asker s.cur.1 s.cur.2) (.pstat rd x y)) (asking s (byteLen (.pstat rd rs1 rs2))))) ∧
  (s.me.recd = some bs → bs.length = 64 →
    (IsName s x → StoresLocalTo (.evstat rd rs1 rs2) s lo bs (done (.evstat rd rs1 rs2) (field bs 4 4))) ∧
    StoresLocalTo (.pstat rd rs1 rs2) s lo bs (done (.pstat rd rs1 rs2) (field bs 32 8)))

/-! ## Answers (R207, R210, R212, R227, R229, R230, R232, R327, R339, R360) -/

/-- Context x of core c waits for the answer of an instruction of n bytes, and its records stand on that core, which runs. -/
def Sys2Proof.Machine.Awaits (s : State) (c x n : Nat) : Prop :=
  (s.ctx c x).wait = .request n ∧ c < 576 ∧ x < 15 ∧ (s.core c).image = none

/-- A context with an answer written: the registers in order, the flags ORed into FFLAGS (R65), and the PC past the instruction. -/
def Sys2Proof.Machine.answered (s : State) (w : Ctx) (n : Nat) (regs : List (Reg × Word)) (fl : BitVec 5) : Ctx :=
  { (advance (regs.foldl (fun v r => xwrite v r.1 r.2) w) n).orFlags s.cycle fl with wait := .none }

/-- R207, R210, R212, R227, R229, R230: a context that waits for a request takes its answer: the registers in order, the flags, and the
PC past the instruction. What the handler has done by then: EVDEF has listed the event as waiting, with its descriptor (X[rd] is 0
where the home had room, 1 where it spilled); EVDEL has deleted a listed one (1) or found none (0); POOLCFG has configured its pool;
POOLPUT has placed the task or found the pool full (0); DONE has retired its items. -/
def Sys2Proof.Machine.RequestsAreAnswered : Prop :=
  ∀ (s : State) (c x n : Nat) (rd : Reg) (a : Answer) (name p slot : Nat) (bs : List Byte) (addr h cnt : Word) (d : EventDesc) (t0 : Task),
  let w := s.ctx c x
  let k := clusterOf c
  let ev := evKey s c name
  let m := s.asker c x
  let gives := fun (r : Request) (t : State) (v : Word) => exec (.requestAnswer c m r) s = .next t ∧ t.ctx c x = answered s w n [(rd, v)] 0
  Awaits s c x n →
  (a.trap = none → a.refresh = false → ∃ t, exec (.requestAnswer c m (.answer a)) s = .next t ∧ OnlyCtx c x s t ∧
    t.ctx c x = answered s w n a.regs a.flags) ∧
  (field bs 0 4 = name → readDesc s c (gidOf s.dev c x) bs = some d → s.home ev = none →
    ∃ t h, gives (.evdef rd bs addr) t (if 256 ≤ residents s ev.home then 1 else 0) ∧ t.home ev = some h ∧ h.desc = d ∧
      h.st = .waiting ∧ h.offers = [] ∧ h.occ = 0) ∧
  (s.home ev = none → ∃ t, gives (.evdel rd name) t 0) ∧
  (∀ h, s.home ev = some h → h.st ≠ .commit → isGangName name = false → ∃ t, gives (.evdel rd name) t 1 ∧ t.home ev = none) ∧
  (poolBusy s k p = false → ∃ t, gives (.poolcfg rd p h) t
      (poolStatus { t.pool k p with cerr := (s.pool k p).cerr }) ∧
    (h.getLsbD 1 = true → (t.pool k p).tasks = []) ∧ (h.getLsbD 2 = false → (t.pool k p).en = h.getLsbD 0) ∧ (t.pool k p).cerr = false) ∧
  ((s.pool k p).en = true → (∀ i, i < 64 → (tfind (s.pool k p).tasks i).isSome = true) →
    ∃ t, gives (.poolput rd p bs addr) t 0) ∧
  ((s.pool k p).en = true → slot < 64 → tfind (s.pool k p).tasks slot = none →
    (∀ i, i < slot → (tfind (s.pool k p).tasks i).isSome = true) → intervalCount (s.pool k p) < 256 →
    ∃ t t1, gives (.poolput rd p bs addr) t (BitVec.ofNat 64 (2 ^ 31 + t1.gen % 4096 * 2 ^ 10 + slot * 16 + p)) ∧
      tfind (t.pool k p).tasks slot = some t1 ∧ t1.intervals = [(field bs 16 8, field bs 24 8)] ∧ t1.retired = 0 ∧
      t1.grain = field bs 32 4 ∧ t1.cevent = evKey s c (field bs 36 4)) ∧
  (taskOf s k h = some (p, slot, t0) → t0.retired + cnt.toNat ≤ t0.hi.toNat - t0.lo.toNat →
    ∃ t, exec (.requestAnswer c m (.done h cnt)) s = .next t ∧ t.ctx c x = answered s w n [] 0 ∧
      tfind (t.pool k p).tasks slot = some { t0 with retired := t0.retired + cnt.toNat })

/-- R232, R327, R338, R339, R360: what a die, a bank and a copy engine answer. LAYREL: 2 where the handle names no record of the partition, 1 where a
subscription or a command names it, else 0, and the record is gone. CSTAT: the status word of the command that the kick name
started last. RESCLS gives the record its class. FIFOBIND with X0 as name unbinds a bank. -/
def Sys2Proof.Machine.EngineRequestsAreAnswered : Prop :=
  ∀ (s : State) (c x n slot cls b : Nat) (rd : Reg) (h d : Word) (name : Nat) (l : Layout),
  let w := s.ctx c x
  let m := s.asker c x
  let die := coreDie c
  let part := partNum (s.core c)
  let gives := fun (r : Request) (t : State) (v : Word) => exec (.requestAnswer c m r) s = .next t ∧ t.ctx c x = answered s w n [(rd, v)] 0
  Awaits s c x n →
  (layoutOf s die part h.toNat = none → ∃ t, gives (.layrel rd h) t 2) ∧
  (layoutOf s die part h.toNat = some (slot, l) →
    (layoutBusy s die slot = true → ∃ t, gives (.layrel rd h) t 1) ∧
    (layoutBusy s die slot = false → ∃ t, gives (.layrel rd h) t 0 ∧ tfind (t.die die).layouts slot = none) ∧
    ∃ t v, gives (.rescls rd h cls) t v ∧ tfind (t.die die).layouts slot = some { l with rcls := cls }) ∧
  (Unlogged s c → ∃ t, gives (.cstat rd name false) t (copyStatus (s.cluster (clusterOf c)).copy name)) ∧
  (fifoBusy s c b = false → ∃ t, exec (.requestAnswer c m (.fifobind b 0 d)) s = .next t ∧ t.ctx c x = answered s w n [] 0 ∧
    (tget FifoBank.reset (t.core c).fifo b).bound = none)

/-- R232: FIFOBIND with a channel goes to the home of N, which checks that it is a CHANNEL of which the core's FIFO agent is a participant, then,
where D is not X0, to the home of D, which checks that it is a SYNC event of two participants with that agent among them; each on its way where the home lies on another device (the order of the two, and that the request leaves under core number
(dev + 1) x 2^16 + core, is log 26). It comes back and binds the bank with the channel's SIZE; where a check fails, EVENT_DESC with the name
is the answer. -/
def Sys2Proof.Machine.FifobindAsksTheHomes : Prop :=
  ∀ (s : State) (c x n b size : Nat) (nm d : Word) (ev dv : EvKey) (dn : Option EvKey),
  let w := s.ctx c x
  let m := s.asker c x
  let agent := gidOf s.dev c 14
  let goes := fun (r r' : Request) => exec (.requestAnswer c m r) s = .next (s.send (.requestAnswer c m r'))
  let leaves := fun (r r' : Request) (dev : Nat) =>
    exec (.requestAnswer c m r) s = .next (s.toDevice c dev (.requestAnswer ((s.dev + 1) * 2 ^ 16 + c) m r'))
  let bad := fun (e : EvKey) => { noAnswer with trap := some (eventDesc (BitVec.ofNat 64 e.name)) }
  Awaits s c x n → s.dev < 2 ^ 12 → homeDev ev.home = s.dev → homeDev dv.home = s.dev →
  (nm ≠ 0 → dn = (if d = 0 then none else some (evKey s c d.toNat)) →
    (homeDev (evKey s c nm.toNat).home = s.dev → goes (.fifobind b nm d) (.fifoname agent b (evKey s c nm.toNat) dn none)) ∧
    (homeDev (evKey s c nm.toNat).home ≠ s.dev →
      leaves (.fifobind b nm d) (.fifoname agent b (evKey s c nm.toNat) dn none) (homeDev (evKey s c nm.toNat).home))) ∧
  (fifoChannel s agent ev = some size →
    goes (.fifoname agent b ev none none) (.fifobound b ev.name size 0) ∧
    goes (.fifoname agent b ev (some dv) none) (.fifoname agent b ev (some dv) (some size))) ∧
  (fifoChannel s agent ev = none → exec (.requestAnswer c m (.fifoname agent b ev dn none)) s = .next (applyAnswer s c x (bad ev))) ∧
  (fifoReady s agent dv = true → goes (.fifoname agent b ev (some dv) (some size)) (.fifobound b ev.name size dv.name)) ∧
  (fifoReady s agent dv = false →
    exec (.requestAnswer c m (.fifoname agent b ev (some dv) (some size))) s = .next (applyAnswer s c x (bad dv))) ∧
  ((∀ f ∈ (s.core c).fifo, f.2.bound = none) → ∃ t, exec (.requestAnswer c m (.fifobound b nm.toNat size d.toNat)) s = .next t ∧
    t.ctx c x = answered s w n [] 0 ∧ (tget FifoBank.reset (t.core c).fifo b).bound = some (nm.toNat, size, d.toNat))

/-- R401, R404: the answer to a context whose workgroup no longer runs on its core is written into the image that holds its records, parked on the core
or saved: its registers, flags and PC there. The contexts that run on the core are as before. -/
def Sys2Proof.Machine.AnswersReachSavedContexts : Prop := ∀ (s : State) (c x n : Nat) (a : Answer) (p : Holder) (im : Image),
  let old := (tfind im.ctxs (x % 16)).getD Ctx.reset
  let im' := { im with ctxs := tput im.ctxs (x % 16) (answered s old n a.regs a.flags) }
  c < 576 → x % 16 ≠ 15 → isHere s c x = false → imageAt s c x = some (p, im) → a.trap = none → a.refresh = false →
  (tfind im.ctxs (x % 16)).isSome = true → old.wait = .request n →
  ∃ t, exec (.requestAnswer c x (.answer a)) s = .next t ∧ (∀ y, t.ctx c y = s.ctx c y) ∧
    (p = .parked → (t.core c).parked = some im') ∧
    ∀ g i w, p = .saved g i → tfind s.wgs g = some w → ∃ w', tfind t.wgs g = some w' ∧ tfind w'.images i = some im'

/-- R207-R232, R327, R339, R360: what homes, pools, dies and engines answer. -/
def Obligations.RequestsGetTheirAnswers : Prop := RequestsAreAnswered ∧ EngineRequestsAreAnswered ∧ FifobindAsksTheHomes ∧ AnswersReachSavedContexts

/-! ## Staging and arming (R215-R226, R231, R338, R358) -/

/-- The slot that the next staged offer of the running context takes: the lowest free one of eight (R215). -/
def Sys2Proof.Machine.TakesSlot (s : State) (i : Nat) : Prop :=
  i < 8 ∧ tfind s.me.staged i = none ∧ ∀ j, j < i → (tfind s.me.staged j).isSome = true

/-- R215, R217, R224, R225, R338, R358: OFFER stages the event with its direction and its payload regions, where the name is valid and not staged yet, the
descriptors are in range and their SCRATCH bytes lie in SCRATCH banks; TAKE the take event of its cluster's pool with 48 bytes at W; COPY the kick of its
command; PERMIT the permit event of its slot. Nothing is armed, and nothing else changes. WDRAW empties one slot, WDRAW.ALL all. -/
def Obligations.OffersAreStaged : Prop :=
  ∀ (s : State) (rn rg rt rd rs1 rs2 rs3 : Reg) (i j die sub : Nat) (g t : Region) (u : Sub) (rm : BitVec 3) (sat : BitVec 1) (lit : Word)
    (slot : BitVec 3) (ls ld : Layout),
  let x := xread s.me rs1
  let y := xread s.me rs2
  let name := xread s.me rn
  let parse := fun (r : Reg) (give : Bool) => parseRegion (xread s.me r) give (decide (s.cur.2 ≠ 0)) (queueView s s.cur.1).rows
  let free := fun (n : Nat) => ∀ e ∈ s.me.staged, e.2.name ≠ n
  let stages := fun (ins : Instr) (o : Staged) => Becomes ins s (advance { s.me with staged := tput s.me.staged i o } (byteLen ins))
  let give := parse rg true = some g ∧ regionRefused s.myCore (some g) = none
  let take := parse rt false = some t ∧ regionRefused s.myCore (some t) = none
  let cmd := fun (first : Nat) => (⟨(xread s.me rd).toNat, x.toNat, y.toNat, (xread s.me rs3).toNat, first,
    if rm = 7 then s.me.frm.toNat else rm.toNat, decide (sat = 1), s.myGid⟩ : CopyCmd)
  let copies := fun (ins : Instr) (first : Nat) => IsName s (xread s.me rd) → IsName s (xread s.me rs3) → free (xread s.me rd).toNat →
    layoutWith s x 0 = some ls → layoutWith s y 1 = some ld → ls.count = ld.count → first < ls.count →
    (ls.format = ld.format ∨ (fmtScaled ls.format = false ∧ fmtScaled ld.format = false)) →
    stages ins ⟨(xread s.me rd).toNat, .give, some ⟨.none, 32, 0⟩, none, some (cmd first)⟩
  TakesSlot s i →
  (IsName s name → free name.toNat → stages (.offerSync rn) ⟨name.toNat, .sync, none, none, none⟩ ∧
    (give → stages (.offerGive rn rg) ⟨name.toNat, .give, some g, none, none⟩) ∧
    (take → stages (.offerTake rt rn) ⟨name.toNat, .take, none, some t, none⟩) ∧
    (give → take → stages (.offerBoth rt rn rg) ⟨name.toNat, .both, some g, some t, none⟩)) ∧
  (x.toNat ≤ 15 → y.toNat + 48 ≤ 2 ^ 21 → regionRefused s.myCore (some ⟨.scratch, 48, y.toNat⟩) = none →
    stages (.take rs1 rs2) ⟨3 * 2 ^ 29 + clusterOf s.cur.1 * 2 ^ 16 + 0xFF00 + x.toNat, .take, none, some ⟨.scratch, 48, y.toNat⟩, none⟩) ∧
  copies (.copy rm sat rd rs1 rs2 rs3) 0 ∧ copies (.copyFirst rm sat rd rs1 rs2 rs3 lit) lit.toNat ∧
  (boundBy s s.cur.1 s.cur.2 x = some (die, sub, u) → y.toNat = j → j < pdSlots u.desc → u.pbase + j < 2 ^ 32 →
    nameValid s s.myCore.part (u.pbase + j) = true → free (u.pbase + j) → (xread s.me rt).toNat / 2 ^ 32 % 2 ^ 13 = 8 → take →
    stages (.permit rt rs1 rs2) ⟨u.pbase + j, .take, none, some t, none⟩) ∧
  Becomes (.wdraw slot) s (advance { s.me with staged := tdel s.me.staged slot.toNat } 4) ∧
  Becomes .wdrawAll s (advance { s.me with staged := [] } 4)

/-- Executing `i` arms the latch `l` with the offers `os` (slot, event, direction), under the next arm number and a limit; each offer is on its way to its home;
the running context waits. Memory, the registers of all contexts and the local spaces keep their values. -/
def Sys2Proof.Machine.Arms (i : Instr) (s : State) (l : LatchId) (limit : Nat) (os : List (Nat × EvKey × Dir)) (w : Wait) : Prop :=
  ∃ t sent, exec i s = .next t ∧ t.ctx s.cur.1 s.cur.2 = { s.me with wait := w, relDone := false } ∧
    (t.latch l).st = .armed ∧ (t.latch l).arm = ((s.latch l).arm + 1) % 256 ∧ (t.latch l).limit = limit ∧ (t.latch l).armedAt = s.cycle.toNat ∧
    (t.latch l).offers.map (fun o => (o.2.slot, o.1, o.2.dir)) = os ∧ t.agenda = s.agenda ++ sent ∧
    (∀ o ∈ (t.latch l).offers, ∃ ms, .homeOfferArrives o.1.home ms ∈ sent ∧ o.2 ∈ ms) ∧ t.mem = s.mem ∧
    (∀ d, (t.core d).loc = (s.core d).loc) ∧ ∀ d y, d ≠ s.cur.1 ∨ y ≠ s.cur.2 → t.ctx d y = s.ctx d y

/-- R218, R177, R220, R221: SELECT arms the staged set once the context's stores are released, with the limit of EVLIM or of its literal, and waits; with
nothing staged it is illegal. GANG arms the gang's fast-path event, PHASE the phase event of the launch beside the plan step's exchange offers. -/
def Obligations.SelectArmsTheStagedSet : Prop := ∀ (s : State) (rd : Reg) (lit : Word) (x : Exchange),
  let c := s.cur.1
  let l : LatchId := ctxLatch s c s.cur.2
  let os := s.me.staged.map fun e => (e.1, evKey s c e.2.name, e.2.dir)
  let arms := fun (i : Instr) (limit : Nat) (b : Bool) => Arms i s l limit os (.select b rd (byteLen i))
  (s.me.staged = [] → Traps (.selectNb rd) s (illegal (.selectNb rd) 6) ∧ Traps (.selectT rd) s (illegal (.selectT rd) 6)) ∧
  (NothingOwed s → Unlogged s c → s.me.staged ≠ [] →
    arms (.selectNb rd) s.me.evlim.toNat false ∧ arms (.selectT rd) s.me.evlim.toNat true ∧
    (lit.toNat < 2 ^ 32 → arms (.selectNbLimit rd lit) lit.toNat false ∧ arms (.selectTLimit rd lit) lit.toNat true)) ∧
  (NothingOwed s → Unlogged s c → s.cur.2 = 0 → gangPlaced s c = true →
    Arms .gang s l 0 [(0, evKey s c (gangName (gangOf c)), .sync)] .gang) ∧
  (NothingOwed s → Unlogged s c → s.cur.2 = 0 → s.myCore.exch = some x → x.past = true → x.refused = none → x.running = false →
    planFault s (planStep s x x.step) = none → c < 576 →
    ∃ t, exec (.phase rd) s = .next t ∧ t.ctx c 0 = { s.me with wait := .phase rd, relDone := false } ∧
      (t.latch l).st = .armed ∧ (t.latch l).offers.map (fun o => (o.1, o.2.dir)) = [(evKey s c x.phase, .sync)] ∧
      (t.core c).exch = some { x with running := true, left := List.range (planStep s x x.step).length })

/-- R222, R223, R14: SPAWN of the control context makes the lowest helper that is not LIVE live at the entry, with the frame in X2, every other register 0, and
the level, classes and address space of its spawner, and gives its number; what stands in the wide queue happens before what the helper does; with no free helper it gives 0; a misaligned entry, or SPAWN in a
helper, is illegal. HEND frees the helper that executes it, and is illegal in the
control context (that it keeps the registers and drops the pending causes is log 41). -/
def Sys2Proof.Machine.HelpersComeAndGo : Prop := ∀ (s : State) (rd rs1 rs2 : Reg) (h : Nat),
  let c := s.cur.1
  let entry := xread s.me rs1
  let i : Instr := .spawn rd rs1 rs2
  let queued := s.myCore.wide.queue.map fun e => ({ e with helpers := nadd e.helpers h } : WEntry)
  ((s.cur.2 ≠ 0 ∨ entry.toNat % 4 ≠ 0) → Traps i s (illegal i 6)) ∧
  (s.cur.2 = 0 → entry.toNat % 4 = 0 → (∀ k, 1 ≤ k → k ≤ 10 → (s.ctx c k).live = true) → Gives i s rd 0 4) ∧
  (s.cur.2 = 0 → entry.toNat % 4 = 0 → 1 ≤ h → h ≤ 10 → (s.ctx c h).live = false → (∀ k, 1 ≤ k → k < h → (s.ctx c k).live = true) →
    ∃ t, exec i s = .next t ∧ SameShared s t ∧ (t.core c).shell = { s.myCore.shell with wide := { s.myCore.wide with queue := queued }, endFlags := tdel s.myCore.endFlags h } ∧
      t.ctx c 0 = advance (xwrite s.me rd (BitVec.ofNat 64 h)) 4 ∧
      (t.ctx c h).live = true ∧ (t.ctx c h).pc = entry ∧ (∀ r, xread (t.ctx c h) r = if r = 2 then xread s.me rs2 else 0) ∧
      (t.ctx c h).priv = s.me.priv ∧ (t.ctx c h).asid = s.me.asid ∧ (t.ctx c h).ptroot = s.me.ptroot ∧ (t.ctx c h).cclass = s.me.cclass ∧
      (t.ctx c h).rescls = s.me.rescls ∧ (t.ctx c h).frm = 0 ∧ (t.ctx c h).fflags = 0 ∧ (t.ctx c h).status = 0 ∧
      (t.ctx c h).staged = [] ∧ (t.ctx c h).pend = [] ∧ (t.ctx c h).wait = .none ∧
      (∀ k, k ≠ 0 → k ≠ h → t.ctx c k = s.ctx c k) ∧ ∀ d, d ≠ c → t.core d = s.core d) ∧
  (s.cur.2 ≠ 0 → Becomes .hend s { s.me with live := false, staged := [], pend := [] }) ∧
  (s.cur.2 = 0 → Traps .hend s (illegal .hend 6))

/-- R231: DOMSET above U, with LBASE naming the launch domains of a running launch of the partition, and no event defined in a domain that the core leaves or
joins: LMEM and LBASE take the new value; the core's global ID is in the member lists of exactly the domains that
they name, and the other members stay; the scope of a domain is that of its members (log 34).
In U, or with a nonzero low field, it is illegal. -/
def Sys2Proof.Machine.DomsetMovesTheCore : Prop := ∀ (s : State) (rs1 : Reg) (d : Nat) (l : Ldom),
  let c := s.cur.1
  let v := (xread s.me rs1).toNat
  let lmem := v / 2 ^ 48
  let lbase := v / 2 ^ 35 % 2 ^ 13
  let old := memberships s.myCore.lmem.toNat s.myCore.lbase.toNat
  let new := memberships lmem lbase
  ((s.me.priv = .u ∨ v % 2 ^ 35 ≠ 0) → Traps (.domset rs1) s (illegal (.domset rs1) 6)) ∧
  (s.me.priv ≠ .u → v % 2 ^ 35 = 0 → baseValid s s.myCore.part lbase = true →
    (∀ q, (q ∈ old ↔ q ∈ new) ∨ domainUsed s q = false) → tfind s.ldoms d = some l →
    ∃ t l', exec (.domset rs1) s = .next t ∧ (t.core c).shell = { s.myCore.shell with lmem := BitVec.ofNat 16 lmem, lbase := BitVec.ofNat 13 lbase } ∧
      t.ctx c s.cur.2 = { s.me with pc := s.me.pc + 4 } ∧ tfind t.ldoms d = some l' ∧
      (∀ g, g ≠ gidOf s.dev c 0 → (g ∈ l'.members ↔ g ∈ l.members)) ∧
      (d ∈ new → d ∉ old → gidOf s.dev c 0 ∈ l'.members) ∧ (d ∈ old → d ∉ new → gidOf s.dev c 0 ∉ l'.members) ∧
      ((d ∈ old ↔ d ∈ new) → l' = l) ∧ (¬(d ∈ old ↔ d ∈ new) → l'.scope = if l.scope = 6 then 6 else enclosing (l'.members.map gidCore)) ∧ t.mem = s.mem)

/-- R222, R223, R231: SPAWN, HEND and DOMSET. -/
def Obligations.HelpersAndDomains : Prop := HelpersComeAndGo ∧ DomsetMovesTheCore

/-! ## The memory system's own steps (R42, R96, R191, R227, R276, R282, R291-R296, R305, R308, R309, R458-R460) -/

/-- A sector's bytes were last written under a key ID, in its present generation (R285, R477): an access under it reads them as they are. -/
def Sys2Proof.Machine.KeyHolds (s : State) (key sec : Nat) : Prop := tget (0, 0) s.keyTag sec = keyNow s key

/-- The records of context x of core c stand on that core, which is not halted for a switch: an answer to it is written there. -/
def Sys2Proof.Machine.OnItsCore (s : State) (c x : Nat) : Prop := c < 576 ∧ x < 16 ∧ (s.core c).image = none

/-- R96, R114, R213, R267, R308: bytes that come back for a load are kept for it and its context is ready; so are those of a record, and the word of a
fetch from a window or the host; the answer of an AMO is written to rt, for 16 bytes to the pair, and the AMO retires. The answer of a load that was abandoned is dropped (log 43); a context that waits for nothing keeps its state. -/
def Sys2Proof.Machine.DataReturnsToItsContext : Prop := ∀ (s : State) (c x n : Nat) (ea pa key : Nat) (rt : Reg) (data : List Byte),
  let k := s.ctx c x
  let v := natOfBytes data
  let becomes := fun (k' : Ctx) => ∃ t, exec (.loadDataReturn c (s.asker c x) data) s = .next t ∧ OnlyCtx c x s t ∧ t.ctx c x = k'
  OnItsCore s c x →
  (k.stale = false →
    (k.wait = .data ea n → becomes { k with rdata := some (k.rdata.getD [] ++ data), wait := .none }) ∧
    (k.wait = .request n → becomes { k with recd := some data, wait := .none }) ∧
    (k.wait = .fetch pa key → becomes { k with fetched := tput k.fetched pa (wordOfBytes (data.take 4)), wait := .none }) ∧
    (k.wait = .amo rt n ea → n ≠ 16 → becomes { advance (xwrite k rt (BitVec.ofNat 64 v)) 4 with wait := .none }) ∧
    (k.wait = .amo rt n ea → n = 16 →
      becomes { advance (xwrite (xwrite k rt (BitVec.ofNat 64 v)) (rt + 1) (BitVec.ofNat 64 (v / 2 ^ 64))) 4 with wait := .none }) ∧
    (k.wait = .none → exec (.loadDataReturn c (s.asker c x) data) s = .next s)) ∧
  (k.stale = true → becomes { k with stale := false, wait := if k.wait = .stale then .none else k.wait })

/-- R459, R464: a host load that completes gives its bytes; one that the host rejects or aborts, or that is not answered in time, gives bytes of all ones, and
one that comes back poisoned raises DATA_POISON at its first byte; each such error is counted, and so is a posted store that failed. -/
def Sys2Proof.Machine.HostCompletionsAreCounted : Prop := ∀ (s : State) (c x n : Nat) (ea : Nat) (data : List Byte),
  let k := s.ctx c x
  let counted := fun (i : Nat) => lset s.hostRegs.counts i (s.hostRegs.counts.getD i 0 + 1)
  let gives := fun (ins : Instr) (counts : List Word) (bs : List Byte) => ∃ t, exec ins s = .next t ∧ t.hostRegs.counts = counts ∧
    t.ctx c x = { k with rdata := some (k.rdata.getD [] ++ bs), wait := .none } ∧ t.mem = s.mem ∧
    ∀ d y, d ≠ c ∨ y ≠ x → t.ctx d y = s.ctx d y
  let m := s.asker c x
  (OnItsCore s c x → k.stale = false → k.flushing = false → k.wait = .data ea n → Unlogged s c →
    (gives (.hostWindowCompletion c m (.ok data)) s.hostRegs.counts data ∧
    gives (.hostWindowCompletion c m .unsupported) (counted 1) (List.replicate n 0xFF) ∧
    gives (.hostWindowCompletion c m .aborted) (counted 2) (List.replicate n 0xFF) ∧
    gives (.hostLoadTimeout c m) (counted 3) (List.replicate n 0xFF) ∧
    exec (.hostWindowCompletion c m .poisoned) s = .next
      (({ s with hostRegs := { s.hostRegs with counts := counted 0 } } : State).trapAt c x
        { cause 0x09 (BitVec.ofNat 64 ea) with access := .load }))) ∧
  exec .postedWriteErrorMessage s = .next { s with hostRegs := { s.hostRegs with counts := counted 4 } }

/-- R96, R308, R459, R464: data that comes back, and the host's completions. -/
def Obligations.AnswersOfMemoryAndHost : Prop := DataReturnsToItsContext ∧ HostCompletionsAreCounted

/-- R276, R282, R42: a fill brings a sector into an empty L1 whole, clean, with the bytes and the poison of its home, and the contexts that wait for it go on;
a fill of the LLC lists the line under its class where the set has room; an instruction fetch brings the words of the 1 KiB block into the instruction cache under the fetch's key (log 15),
the fetched word, which is stated, among them. Memory does not change. -/
def Sys2Proof.Machine.FillsBringTheHomesBytes : Prop := ∀ (s : State) (c x sec line key cls : Nat) (pa : Nat),
  let m := s.asker c x
  (s.core c).l1 = [] → (s.core c).hasL1 = true → (s.core c).stbuf = [] → KeyHolds s key sec →
    (∃ t u, exec (.l1SectorFill c sec key) s = .next t ∧ tfind (t.core c).l1 sec = some u ∧ u.key = key ∧ u.dirty = [] ∧ u.upd = none ∧
      (∀ i, i < 256 → u.bytes.getD i 0 = memByte s.mem (sec * 256 + i)) ∧ u.pois = s.memPoison.contains sec ∧ t.mem = s.mem ∧
      ((s.ctx c x).wait = .fill sec → (t.ctx c x).wait = .none ∧ (t.ctx c x).x = (s.ctx c x).x)) ∧
    (tfind s.llc line = none → 0 < tget 0 s.quotas cls → s.llc.filter (fun e => llcSet e.1 == llcSet line) = [] →
      ∃ t, exec (.llcFill line key cls 0) s = .next t ∧ tfind t.llc line = some ⟨key, cls, 0⟩ ∧ t.mem = s.mem ∧ t.cores = s.cores) ∧
    (OnItsCore s c x → pa < 0x1800000000 → pa % 4 = 0 → KeyHolds s key (pa / 256) → (s.core c).icache = [] →
      (s.ctx c x).wait = .fetch pa key →
      ∃ t, exec (.instructionFetchFill c m pa) s = .next t ∧
        tfind (t.core c).icache (pa / 4) = some (key, wordOfBytes ((List.range 4).map fun i => memByte s.mem (pa + i))) ∧
        (t.ctx c x).wait = .none ∧ (t.ctx c x).pc = (s.ctx c x).pc ∧ t.mem = s.mem)

/-- R191, R305, R310: a store that went straight to its home is performed there, then acknowledged: its bytes are at their addresses, every other byte keeps
its value, and the context owes one store less (that it is
performed when the acknowledgement of the oldest one acts is log 44). An acknowledgement of a write of the cluster's copy engine (number 11, log 28)
leaves it one write less to
wait for. -/
def Sys2Proof.Machine.DirectStoresArePerformed : Prop := ∀ (s : State) (c x : Nat) (e : StEntry),
  (exec (.storeAck c 11) s = .next (s.setCluster (clusterOf c) { s.cluster (clusterOf c) with copy :=
    { (s.cluster (clusterOf c)).copy with owed := (s.cluster (clusterOf c)).copy.owed - 1 } })) ∧
  (oldestDirect s c x = some e → x < 16 → x ≠ 11 → e.pa + e.data.length ≤ 0x1800000000 → 0 < e.data.length → (∀ q ∈ sectorsOf e.pa e.data.length, KeyHolds s e.key q) →
  s.watches = [] →
  ∃ t, exec (.storeAck c x) s = .next t ∧ (t.ctx c x).owed = (s.ctx c x).owed - 1 ∧ (t.ctx c x).x = (s.ctx c x).x ∧
    (∀ a, memByte t.mem a = if e.pa ≤ a ∧ a < e.pa + e.data.length then e.data.getD (a - e.pa) 0 else memByte s.mem a))

/-- R308, R315: an AMO at the home is one step: the old value goes back to its context and the new one is in memory; a CAS that does not match, and
every byte outside the element, leave memory as it was. At a poisoned sector nothing is written and the context takes DATA_POISON. -/
def Sys2Proof.Machine.AmosActAtTheHome : Prop := ∀ (s : State) (c x : Nat) (r : AmoReq) (rt : Reg) (n ea : Nat),
  let old := natOfBytes ((List.range r.n).map fun i => memByte s.mem (r.pa + i))
  let new := (amoResult r.op r.n old r.v r.c).getD old
  let m := s.asker c x
  OnItsCore s c x → 0 < r.n → r.pa / 256 = (r.pa + r.n - 1) / 256 → KeyHolds s r.key (r.pa / 256) → s.watches = [] →
  (r.pa / 256 ∉ s.memPoison → ∃ t, exec (.amoAtHome c m r) s = .next t ∧
    t.agenda = s.agenda ++ [.loadDataReturn c m (bytesOfNat r.n old)] ∧ t.cores = s.cores ∧
    ∀ a, memByte t.mem a = if r.pa ≤ a ∧ a < r.pa + r.n then BitVec.ofNat 8 (new / 2 ^ (8 * (a - r.pa))) else memByte s.mem a) ∧
  (r.pa / 256 ∈ s.memPoison → (s.ctx c x).wait = .amo rt n ea →
    exec (.amoAtHome c m r) s = .next (s.trapAt c x { cause 0x09 (BitVec.ofNat 64 ea) with access := .amo }))

/-- R309: an update-only partial of one element, other than FADD, is combined into the value at its home; a poisoned sector discards it. Every other byte
keeps its value, and the router counts the partial as answered (R191). -/
def Sys2Proof.Machine.PartialsCombineAtTheHome : Prop := ∀ (s : State) (m : UpdMsg) (e : UpdElem),
  let old := natOfBytes ((List.range m.n).map fun i => memByte s.mem (e.addr + i))
  let new := amoFn m.op m.n old e.bits
  m.elems = [e] → m.op ≠ 10 → e.addr / 256 = m.sector → (e.addr + m.n - 1) / 256 = m.sector → 0 < m.n → KeyHolds s m.key m.sector → s.watches = [] →
  ∃ t, exec (.updPartialCombine m) s = .next t ∧ (t.core m.core).sent = (s.core m.core).sent - 1 ∧
    (m.sector ∈ s.memPoison → t.mem = s.mem) ∧
    (m.sector ∉ s.memPoison → ∀ a, memByte t.mem a =
      if e.addr ≤ a ∧ a < e.addr + m.n then BitVec.ofNat 8 (new / 2 ^ (8 * (a - e.addr))) else memByte s.mem a)

/-- R308, R309: atomic operations and update partials at their home. -/
def Obligations.AmosAndPartialsAtTheHome : Prop := AmosActAtTheHome ∧ PartialsCombineAtTheHome

/-- R305, R227: a context whose stores are all sent and acknowledged goes on from its release; a DONE sends its request. -/
def Sys2Proof.Machine.ReleasesComplete : Prop := ∀ (s : State) (c x : Nat) (h n : Word),
  let k := s.ctx c x
  k.released = [] → k.owed = 0 → (∀ e ∈ (s.core c).stbuf, e.ctx ≠ x) → (∀ i ∈ s.agenda, isPartialOf c i = false) →
  (∀ e ∈ (s.core c).wide.queue, (comesBefore x e && touchesBytes e) = false) →
  (k.wait = .release → ∃ t, exec (.releaseComplete c x) s = .next t ∧ OnlyCtx c x s t ∧ t.ctx c x = { k with wait := .none, relDone := true }) ∧
  (k.wait = .storeAcks h n → ∃ t, exec (.releaseComplete c x) s = .next t ∧ t.agenda = s.agenda ++ [.requestAnswer c (s.asker c x) (.done h n)] ∧
    OnlyCtx c x s { t with agenda := s.agenda } ∧ t.ctx c x = { k with wait := .request 4 })

/-- R291, R296: a page walk that one context waits for: where it finds a translation, the cluster's TLB holds it and the context is ready; where it ends in a
fault, the context takes that fault and nothing is kept in the TLB. Memory does not change. -/
def Sys2Proof.Machine.WalksEndInATranslationOrAFault : Prop := ∀ (s : State) (c x : Nat) (va : Nat) (acc : Access) (e : TlbEntry) (z : Cause) (wc : Tbl Word),
  let k := s.ctx c x
  let cl := s.cluster (clusterOf c)
  let found := walkFrom s c k va acc 5 1 (k.ptroot.toNat / 4096 % 2 ^ 40) cl.walkCache
  let after := (walked s c k va acc).2
  k.wait = .walk va acc → walkers s (clusterOf c) k va = [(c, x, va, acc)] →
  (found = (.leaf e, wc) → ∃ t, exec (.pageWalk c x va acc) s = .next t ∧ (t.cluster (clusterOf c)).tlb = e :: cl.tlb ∧
    t.ctx c x = { k with wait := .none } ∧ t.mem = s.mem ∧ ∀ d y, d ≠ c ∨ y ≠ x → t.ctx d y = s.ctx d y) ∧
  (found = (.fault z, wc) → exec (.pageWalk c x va acc) s = .next (after.trapAt c x (mergedFault z va acc)) ∧
    after.cluster (clusterOf c) = { cl with walkCache := wc } ∧ after.mem = s.mem ∧ ∀ d y, after.ctx d y = s.ctx d y)

/-- R42, R276, R282, R291-R296: fills of the caches, and table walks. -/
def Obligations.FillsAndWalks : Prop := FillsBringTheHomesBytes ∧ WalksEndInATranslationOrAFault

/-- R288, R455: an access to the local space of a core of this device, through its window, is performed at the bank: a load's bytes go back to
its context, a store's bytes are written and nothing else, an AMO gives the old value back and writes the new one. -/
def Sys2Proof.Machine.WindowsReachTheBanks : Prop := ∀ (s : State) (w : WinAcc) (c lo : Nat) (bs : List Byte) (r : AmoReq),
  let old := natOfBytes ((List.range r.n).map fun i => locByte s c (lo + i))
  let new := (amoResult r.op r.n old r.v r.c).getD old
  let open_ := fun (n : Nat) => 0 < n ∧ lo / 65536 = (lo + n - 1) / 65536 ∧ (s.core c).role (lo / 65536) = .scratch
  w.dev = s.dev → target w.pa = .window s.dev c lo → (s.core c).locPoison = [] → s.watches = [] →
  (w.op = .load → open_ w.len → ∃ t, exec (.windowAccessAtTarget w) s = .next t ∧
    t.agenda = s.agenda ++ [.loadDataReturn w.core w.ctx ((List.range w.len).map fun i => locByte s c (lo + i))] ∧
    t.mem = s.mem ∧ ∀ a, locByte t c a = locByte s c a) ∧
  (w.op = .store bs → open_ bs.length → ∃ t, exec (.windowAccessAtTarget w) s = .next t ∧ t.mem = s.mem ∧
    (∀ a, locByte t c a = if lo ≤ a ∧ a < lo + bs.length then bs.getD (a - lo) 0 else locByte s c a) ∧
    (∀ d, d ≠ c → ∀ a, locByte t d a = locByte s d a)) ∧
  (w.op = .amo r → open_ r.n → ∃ t, exec (.windowAccessAtTarget w) s = .next t ∧
    t.agenda = s.agenda ++ [.loadDataReturn w.core w.ctx (bytesOfNat r.n old)] ∧ t.mem = s.mem ∧
    ∀ a, locByte t c a = if lo ≤ a ∧ a < lo + r.n then BitVec.ofNat 8 (new / 2 ^ (8 * (a - lo))) else locByte s c a)

/-- R191, R286-R288, R305: direct stores, accesses at a window's target, and the end of a release. -/
def Obligations.StoresArePerformedAndReleased : Prop := DirectStoresArePerformed ∧ ReleasesComplete ∧ WindowsReachTheBanks

/-! ## Homes and offer latches (R176-R181, R187, R205, R206, R209, R218) -/

/-- Executing a message at a home gives a next state in which the event's entry has become `h` and the messages `sent` are on their
way; every other entry is as before, and everything else as in `base`, which is the state before unless it is given. -/
def Sys2Proof.Machine.HomeGoes (i : Instr) (s : State) (ev : EvKey) (h : Home) (sent : List Instr) (base : State := s) : Prop :=
  ∃ t, exec i s = .next t ∧ t.home ev = some h ∧ (∀ f, f ≠ ev → t.home f = s.home f) ∧ t.agenda = s.agenda ++ sent ∧
    ({ t with homes := [], agenda := [] } : State) = { base with homes := [], agenda := [] }

/-- The same of an offer latch, which has become `m`. -/
def Sys2Proof.Machine.LatchGoes (i : Instr) (s : State) (l : LatchId) (m : Latch) (sent : List Instr) : Prop :=
  ∃ t, exec i s = .next t ∧ t.latch l = m ∧ (∀ k, k ≠ l → t.latch k = s.latch k) ∧ t.agenda = s.agenda ++ sent ∧
    ({ t with latches := [], agenda := [] } : State) = { s with latches := [], agenda := [] }

/-- The claims that a home holds, released in the reverse of the order in which they were granted. -/
def Sys2Proof.Machine.releasesOf (ev : EvKey) (h : Home) : List Instr :=
  h.granted.reverse.filterMap fun l => (h.offers.find? fun o => o.latch == l).map fun o => .latchRelease l ev o.arm

/-- R181, R233: an offer that arrives is stored while others are absent; the last one stamps the event (R180), tells every participant and
claims the latch with the lowest global ID; a grant brings the claim to the next latch in ascending order; a refusal and a wound
request give the held claims up in reverse order for 32 cycles; at the retry time the claims begin again under the same stamp; a
withdrawal returns the event to WAITING, cancels, and counts where it came from a commit of an enabled event. A participant that offers anew while
the event is still in COMMIT is handled when that has ended (R235). -/
def Obligations.HomesClaimInOrder : Prop := ∀ (s : State) (ev : EvKey) (h : Home) (l : LatchId) (o : OfferMsg) (arm : Nat) (commit : Bool),
  let st : Stamp := ⟨h.starve, s.time.toNat, ev.name⟩
  let h1 : Home := { h with offers := h.offers ++ [o] }
  let order := claimOrder h1.offers
  let left : Home := { h with offers := h.offers.filter (· != o) }
  s.entry ev = some h → isTakeName ev.name = false → isTakeName h.desc.name = false → h.spilled = false →
  (h.st = .waiting → o.name = ev.name → offerWhy h o = 0 → allPresent h1 = false →
    HomeGoes (.homeOfferArrives ev.home [o]) s ev h1 []) ∧
  (h.st = .waiting → o.name = ev.name → offerWhy h o = 0 → allPresent h1 = true → ∀ q qs, order = q :: qs →
    HomeGoes (.homeOfferArrives ev.home [o]) s ev { h1 with st := .claiming 0, stamp := some st, granted := [], drained := false }
      ((order.map fun p => .latchEnableNotice p.latch ev p.arm st) ++ [.latchClaim q.latch ev q.arm st])) ∧
  (h.st ≠ .commit → o.name = ev.name → offerWhy h o ≠ 0 →
    exec (.homeOfferArrives ev.home [o]) s = .next (s.send (.latchRefusal o.latch ev o.arm (offerWhy h o)))) ∧
  (h.st = .commit → o.name = ev.name → (∃ p ∈ h.offers, p.latch = o.latch) →
    exec (.homeOfferArrives ev.home [o]) s = .next (s.send (.homeOfferArrives ev.home [o]))) ∧
  (isClaimed h l arm = true → (l, arm) ∉ h.late →
    (∀ n stp, n = h.granted.length + 1 → (claimOrder h.offers)[n]? = some o → h.stamp = some stp →
      HomeGoes (.homeGrant ev l arm) s ev { h with granted := h.granted ++ [l], st := .claiming n } [.latchClaim o.latch ev o.arm stp]) ∧
    HomeGoes (.homeRefusal ev l arm) s ev { h with st := .backoff, granted := [], retryAt := s.cycle.toNat + 32 } (releasesOf ev h)) ∧
  (∀ n, h.st = .claiming n → l ∈ h.granted → (∃ p ∈ h.offers, p.latch = l ∧ p.arm = arm) → ∃ late,
    HomeGoes (.homeWoundRequest ev l arm) s ev { h with st := .backoff, granted := [], late := late, retryAt := s.cycle.toNat + 32 }
      (releasesOf ev h)) ∧
  (h.st = .commit → exec (.homeWoundRequest ev l arm) s = .next s) ∧
  (h.st = .backoff → allPresent h = true → ∀ stp q qs, h.stamp = some stp → claimOrder h.offers = q :: qs →
    HomeGoes (.homeRetryTime ev) s ev { h with st := .claiming 0, granted := [] } [.latchClaim q.latch ev q.arm stp]) ∧
  (h.st ≠ .commit → (h.offers.find? fun p => p.latch == l && p.arm == arm) = some o → allPresent { left with st := .waiting } = false →
    ∃ late gone, HomeGoes (.homeWithdrawal ev l arm commit) s ev
        { left with st := .waiting, granted := [], late := late,
                    starve := if commit = true ∧ h.st ≠ .waiting then Nat.min 65535 (h.starve + 1) else h.starve }
        (gone ++ if h.st ≠ .waiting then left.offers.map fun q => .latchCancel q.latch ev q.arm else []) ∧
      ∀ m ∈ gone, ∃ k a, m = .latchRelease k ev a ∧ k ∈ h.granted ∧ k ≠ l)

/-- R176, R181, R182: the last grant commits the event: every latch is told what it gives, and whether its landing is the occurrence's only one; the
confirmations that are due are those of the messages, and where no message is sent one of each latch's commit; MCAST
takes the tile of a permit (R390). The last confirmation ends the occurrence: no offers, the count at 0, one occurrence more, its time recorded, and every participant that gave or took bytes
told (R176). -/
def Obligations.CommitsDeliverAndEnd : Prop := ∀ (s : State) (ev : EvKey) (h : Home) (l : LatchId) (arm : Nat) (stp : Stamp),
  let h2 : Home := { h with granted := h.granted ++ [l], st := .claiming (h.granted.length + 1) }
  let took := h.offers.foldl (fun t o => takeTile t o.latch) s
  let ds := deliveries ev h
  let order := claimOrder h.offers
  let commits := order.map fun o =>
    Instr.latchCommit o.latch ev o.arm ⟨ds.filter fun d => d.giver == o.latch, ds.length == 1 && ds.all fun d => d.taker == o.latch, ds.isEmpty,
      h.desc.mode == .bcast || h.desc.mode == .gather⟩
  let moves := fun (o : OfferMsg) => regionLen o.give ≠ 0 ∨ regionLen o.take ≠ 0
  let ends := (order.filter fun o => decide (moves o)).map fun o => Instr.latchLastPayloadDelivered o.latch ev o.arm
  let ended := fun (t : State) => ∃ g, t.home ev = some g ∧ g.st = .waiting ∧ g.offers = [] ∧ g.starve = 0 ∧ g.occ = h.occ + 1 ∧
    g.lasten = stp.time ∧ g.desc = h.desc ∧ (∀ f, f ≠ ev → t.home f = s.home f)
  s.entry ev = some h → isTakeName ev.name = false → isTakeName h.desc.name = false → isPhaseName s ev.name = false → h.front = false →
  (∀ w ∈ s.wgs, w.2.mode = .off) → h.stamp = some stp →
  (isClaimed h l arm = true → (l, arm) ∉ h.late → order[h.granted.length + 1]? = none →
    (ds ≠ [] → HomeGoes (.homeGrant ev l arm) s ev { h2 with st := .commit, due := dueOf ds } commits took) ∧
    (ds = [] → HomeGoes (.homeGrant ev l arm) s ev { h2 with st := .commit, due := order.map fun o => (o.latch, 1) } commits took)) ∧
  (h.st = .commit → h.desc.mode ≠ .reduce → ∀ n, kfind h.due l = some n →
    (1 < n → HomeGoes (.homeDeliveryConfirmed ev l arm) s ev { h with due := kput h.due l (n - 1) } []) ∧
    (n = 1 → h.due = [(l, 1)] → ∃ t, exec (.homeDeliveryConfirmed ev l arm) s = .next t ∧ ended t ∧ t.agenda = s.agenda ++ ends))

/-- R178: an ARMED latch grants a claim that no recorded notice for another offer outranks, and refuses another; a CLAIMED one sends a wound request for
a claim that ranks above its own, keeps the highest, and refuses the others; a release brings the pending wound's grant, a pending
stop, or ARMED; a commit withdraws every other offer in slot order and sends what is given, and where its participant neither gives nor takes a
byte its result is there at once (R182); stop and expiry, with WAIT_LIMIT's value as it is then (R206), are held while it is
CLAIMED; a DORMANT latch refuses claims until it is resumed; notices are recorded and erased. -/
def Obligations.LatchesFollowTheirTable : Prop := ∀ (s : State) (l : LatchId) (ev e f : EvKey) (arm : Nat) (st t u : Stamp) (m : Latch),
  let claim := Instr.latchClaim l ev arm st
  let has := m.arm = arm ∧ (kfind m.offers ev).isSome = true
  s.latch l = m → isCtxLatch l = true → (∀ w ∈ s.wgs, w.2.mode = .off) →
  (m.st = .armed → has →
    ((∀ n ∈ m.notices, n.1 ≠ ev → stampAbove n.2 st = false) →
      LatchGoes claim s l { m with st := .claimed ev st } [.homeGrant ev l arm]) ∧
    ((∃ n ∈ m.notices, n.1 ≠ ev ∧ stampAbove n.2 st = true) → exec claim s = .next (s.send (.homeRefusal ev l arm)))) ∧
  (m.st = .claimed e t → has → ev ≠ e →
    (m.wound = none → stampAbove st t = true → LatchGoes claim s l { m with wound := some (ev, st) } [.homeWoundRequest e l arm]) ∧
    (m.wound = none → stampAbove st t = false → exec claim s = .next (s.send (.homeRefusal ev l arm))) ∧
    (m.wound = some (f, u) → stampAbove st u = true → LatchGoes claim s l { m with wound := some (ev, st) } [.homeRefusal f l arm]) ∧
    (m.wound = some (f, u) → stampAbove st u = false → exec claim s = .next (s.send (.homeRefusal ev l arm)))) ∧
  (m.st = .dormant → has → exec claim s = .next (s.send (.homeRefusal ev l arm))) ∧
  (m.st = .idle ∨ m.st = .committed e → exec claim s = .next (s.send (.homeWithdrawal ev l arm false))) ∧
  (m.st = .claimed ev st → m.arm = arm →
    (m.wound = some (f, u) →
      LatchGoes (.latchRelease l ev arm) s l { m with st := .claimed f u, wound := none } [.homeGrant f l arm]) ∧
    (m.wound = none → m.stopPend = true →
      LatchGoes (.latchRelease l ev arm) s l { m with st := .dormant, stopPend := false } []) ∧
    (m.wound = none → m.stopPend = false → m.refusal = none → m.expPend = false → m.causePend = false →
      LatchGoes (.latchRelease l ev arm) s l { m with st := .armed } []) ∧
    ∀ sole void copied, LatchGoes (.latchCommit l ev arm ⟨[], sole, void, copied⟩) s l
      { m with st := .committed ev, offers := m.offers.filter (·.1 == ev), notices := [], wound := none, expPend := false, stopPend := false,
               refusal := none, pollAt := none, gave := 0, sole := sole }
      (((m.offers.filter fun o => o.1 != ev).map fun o => .homeWithdrawal o.1 l arm true) ++
        if (∃ o, kfind m.offers ev = some o ∧ regionLen o.give = 0 ∧ regionLen o.take = 0) then
          [.homeDeliveryConfirmed ev l arm, .latchLastPayloadDelivered l ev arm]
        else if void = true then [.homeDeliveryConfirmed ev l arm] else [])) ∧
  (m.st = .armed → LatchGoes (.latchStop l) s l { m with st := .dormant } []) ∧
  (m.st = .claimed e t → LatchGoes (.latchStop l) s l { m with stopPend := true } [] ∧
    LatchGoes (.latchLimitExpiry l) s l { m with expPend := true, expVal := waitValue s m } []) ∧
  (m.st = .dormant → LatchGoes (.latchLimitExpiry l) s l { m with expPend := true, expVal := waitValue s m } [] ∧
    (m.refusal = none → m.expPend = false → m.causePend = false → LatchGoes (.latchResume l) s l { m with st := .armed } [])) ∧
  (m.st = .armed → has →
    LatchGoes (.latchEnableNotice l ev arm st) s l { m with notices := kput m.notices ev st } [] ∧
    LatchGoes (.latchCancel l ev arm) s l { m with notices := kdel m.notices ev } [])

/-- R178, R206, R209, R218: how a SELECT ends. The last payload of the committed event: rd and EVSEL take the slot, no offer stays staged, the
latch is IDLE, and the PC lies after the SELECT (where a stop saved it so, it lies there already); a core that is stopped or halted keeps the result
until it is resumed. The limit: NONE (15) in rd and EVSEL, the staged set kept, or WAIT_LIMIT with its value under .T. A refusal by a home:
OFFER_REFUSED with the name, the slot and WHY. Without an occurrence every offer is withdrawn (R178); a poll of spilled events that enables none
raises the back-off level, up to 7 (R187). -/
def Obligations.SelectsReturn : Prop := ∀ (s : State) (c x len why : Nat) (ev : EvKey) (arm : Nat) (rd : Reg) (nt : Bool) (m : Latch) (o : OfferMsg),
  let l := ctxLatch s c x
  let k := s.ctx c x
  let withdrawn := m.offers.map fun p => Instr.homeWithdrawal p.1 l m.arm false
  let after := fun (v : Word) (st : Tbl Staged) (n : Nat) (w : Ctx) =>
    WritesReg { k with evsel := v.setWidth 4, wait := .none, relDone := false, staged := st, backoff := w.backoff } w rd v
      (k.pc + BitVec.ofNat 64 n)
  k.wait = .select nt rd len → s.latch l = m → x < 11 → c < 576 → Unlogged s c →
  (m.st = .committed ev → m.arm = arm → m.gave = 0 → kfind m.offers ev = some o → o.slot < 8 → (s.core c).run = .running →
    isGangName ev.name = false →
    ∃ t, exec (.latchLastPayloadDelivered l ev arm) s = .next t ∧ t.latch l = { Latch.reset with arm := m.arm } ∧
      after (BitVec.ofNat 64 o.slot) [] (if m.past then 0 else len) (t.ctx c x) ∧ (t.ctx c x).backoff = 0 ∧ t.agenda = s.agenda) ∧
  (m.st = .committed ev → m.arm = arm → m.gave = 0 → (s.core c).run = .halted ∨ (s.core c).run = .stopped →
    LatchGoes (.latchLastPayloadDelivered l ev arm) s l { m with doneStopped := true } []) ∧
  (m.st = .armed →
    (nt = false → ∃ t, exec (.latchLimitExpiry l) s = .next t ∧ t.latch l = { Latch.reset with arm := m.arm, gave := m.gave } ∧
      after 15 k.staged len (t.ctx c x) ∧ (t.ctx c x).backoff = k.backoff ∧ t.agenda = s.agenda ++ withdrawn) ∧
    (nt = true → exec (.latchLimitExpiry l) s = .next ((idleLatch s l).trapAt c x (cause 0x11 (waitValue s m)))) ∧
    (m.arm = arm → why < 16 → o.slot < 16 → kfind m.offers ev = some o →
      exec (.latchRefusal l ev arm why) s =
        .next ((idleLatch s l).trapAt c x (cause 0x10 (BitVec.ofNat 64 ((16 * why + o.slot) * 2 ^ 32 + ev.name))))) ∧
    (m.offers = [] → k.backoff < 7 → ∃ t, exec (.spillPoll l) s = .next t ∧ (t.ctx c x) = { k with backoff := k.backoff + 1 } ∧
      (t.latch l).pollAt = some (s.cycle.toNat + 64 * 2 ^ (k.backoff + 1))))

/-- R175, R176, R191: a payload lands at its place in the taker's SCRATCH region, the home is told, with it the taker where its landing is the only one,
and no other local byte changes; the router's count falls by one. One that arrives at a stopped core waits in its router, up to 16 KiB, and past
those in the links (R185). A standing agent whose latch is IDLE arms what it offers (R188). A probe's visit takes the router's colour
and count with it, without the completed traffic between members of its circuit and others (log 23: R192 adds the router's count), and makes the router inactive (R192). -/
def Obligations.PayloadsAndAgentsAndProbes : Prop :=
  ∀ (s : State) (ev : EvKey) (l : LatchId) (arm dst place probe c : Nat) (data : List Byte) (giver : Gid) (o : OfferMsg) (len : Nat) (p : Probe),
  let d := gidCore l.gid
  (isCtxLatch l = true → l.sub < 0xFFFE → routerHolds s l = false → Unlogged s d → kfind (s.latch l).offers ev = some o →
    o.take = some ⟨.scratch, len, place⟩ → dst < 65536 → data ≠ [] → s.watches = [] →
    ∃ t, exec (.payloadLanding ev l arm dst data giver) s = .next t ∧
      (∀ a, locByte t d a = if place + dst ≤ a ∧ a < place + dst + data.length then data.getD (a - (place + dst)) 0 else locByte s d a) ∧
      t.agenda = s.agenda ++ (.homeDeliveryConfirmed ev l arm :: if (s.latch l).sole = true ∧ (s.latch l).st = .committed ev ∧ (s.latch l).arm = arm
        then [.latchLastPayloadDelivered l ev arm] else []) ∧
      t.mem = s.mem ∧ (t.core d).active = true ∧ (t.core d).sent = (s.core d).sent - 1 ∧ ∀ y, t.ctx d y = s.ctx d y) ∧
  (isCtxLatch l = true → l.sub < 0xFFFE → routerHolds s l = true → heldBytes (s.core d) + data.length ≤ 16384 →
    ∃ t, exec (.payloadLanding ev l arm dst data giver) s = .next t ∧ t.agenda = s.agenda ∧
      (t.core d).held = (s.core d).held ++ [⟨ev, l, arm, dst, data, giver⟩] ∧ (t.core d).sent = (s.core d).sent - 1 ∧
      ∀ a, locByte t d a = locByte s d a) ∧
  (isCtxLatch l = true → l.sub < 0xFFFE → routerHolds s l = true → 16384 < heldBytes (s.core d) + data.length →
    exec (.payloadLanding ev l arm dst data giver) s = .next (s.send (.payloadLanding ev l arm dst data giver))) ∧
  ((s.latch l).st = .idle → wantsOf s l ≠ [] →
    ∃ t, exec (.standingAgentOffer l) s = .next t ∧ (t.latch l).st = .armed ∧
      (t.latch l).offers.map (·.1) = (wantsOf s l).map (·.ev)) ∧
  (tfind s.probes probe = some p → p.members[p.pos]? = some c → p.pos + 1 < p.members.length →
    ∃ t, exec (.probeRouterVisit probe) s = .next t ∧ (t.core c).active = false ∧ (t.core c).sent = (s.core c).sent ∧
      tfind t.probes probe = some { p with pos := p.pos + 1, black := p.black || (s.core c).active, sum := p.sum + countAt p.members (s.core c),
                                           still := p.still && coreStill s c })

/-! ## Engines (R333-R336, R344-R357, R366, R371-R386) -/

/-- The nodes of a tree lie in GDDR 7 at distinct places, each under the key that its sector was written under, and no watchpoint is set. -/
def Sys2Proof.Machine.TreeLies (s : State) (t : Tree) (place : Nat → Nat) : Prop :=
  s.watches = [] ∧ (∀ i, i < treeCap t → ∃ key, nodePa t.extents i = some (place i, key) ∧ isGddr (place i) = true ∧ KeyHolds s key (place i / 256)) ∧
    ∀ i j, i < treeCap t → j < treeCap t → place i = place j → i = j

/-- Every byte of memory outside the first `n` bytes from each of some addresses is as before. -/
def Sys2Proof.Machine.OnlyBytes (s u : State) (as : List Nat) (n : Nat) : Prop :=
  ∀ a, (∀ b ∈ as, a < b ∨ b + n ≤ a) → memByte u.mem a = memByte s.mem a

/-- R366, R369-R377, R379-R386: what Cantle does with each operation, and the answer that is on its way: code 1 where the tree is not configured,
7 where TCFG.NEW finds it configured; TCFG.GROW appends the extent and gives the new capacity, or code 8; TCFG.DEL removes the tree with the batch it
offered. TROOT makes the lowest free node the root, with NONE and the action and every other field 0, and leaves the old nodes to reclamation. TDESC of a
tree with no root gives code 2; else it adds 1 to VL at every node of its path, and sets PEND at a leaf that is not terminal; a new leaf joins the
open batch. TBATCH closes an open batch. TEXP writes its children (R374) and the expanded node; TEXP.TERM sets TERM and clears PEND. TBACK adds 1 to
N (not past 2^32 - 1) and the value to W at every node up to the root, with its sign changed from node to node under ALT, takes 1 off VL, and clears the
leaf's PEND; with .VLO only VL. TREUSE makes a child of the root the root, with NONE set, and leaves what is not below it to reclamation. TREAD
gives the doublewords of a node, or the tree's status with BERR cleared. Reclamation frees a node. No other byte of memory changes. -/
def Obligations.CantleAnswers :
    Prop := ∀ (s : State) (c x k n node i lo leaf : Nat) (rd : Reg) (t : Tree) (v : Half) (vlo : Bool) (bs : List Byte) (a : Word) (nd : Node)
      (es : List (Half × Half)) (ch path : List (Nat × Node)) (kept : List Nat) (ps : List (Nat × Nat)) (place : Nat → Nat),
  let m := s.asker c x
  let answersF := fun (op : TreeOp) (u : State) (rs : List (Reg × Word)) (fl : BitVec 5) => exec (.cantleOperation c m k n op) s = .next u ∧
    .requestAnswer c m (.answer ⟨rs, fl, none, true⟩) ∈ u.agenda
  let answers := fun (op : TreeOp) (u : State) (rs : List (Reg × Word)) => answersF op u rs 0
  let tree := fun (u : State) => tfind (u.cluster k).trees n
  let refused := fun (code : Nat) => BitVec.ofNat 64 (2 ^ 63 + code)
  let le := bytesOfNat
  let child := fun (e : Half × Half) => List.replicate 12 (0 : Byte) ++ le 4 e.1.toNat ++ le 4 node ++ List.replicate 6 0 ++ le 2 (nd.depth + 1) ++
    le 4 e.2.toNat ++ le 4 t.gen.toNat ++ List.replicate 28 0
  let root := List.replicate 19 (0 : Byte) ++ [0x80] ++ List.replicate 8 0 ++ le 4 v.toNat ++ List.replicate 32 0
  let new := nd.term = false ∧ nd.pend = false
  let val := fun (j : Nat) => if t.alt = true ∧ j % 2 = 1 then (v.toNat + 2 ^ 31) % 2 ^ 32 else v.toNat
  let sum := fun (j : Nat) (y : Node) => finish fp32 0 false (addVal 0 (decodeCode fp32 y.w) (decodeCode fp32 (val j)))
  let backed := fun (j : Nat) (y : Node) => if vlo = true then ({ y with vl := y.vl - 1 } : Node) else
    { y with n := Nat.min (y.n + 1) (2 ^ 32 - 1), w := (sum j y).1, vl := y.vl - 1, pend := y.pend && j != 0 }
  OnItsCore s c x →
  (tree s = none → ∃ u, answers (.desc rd) u [(rd, refused 1)] ∧ tree u = none) ∧
  (tree s = some t →
    (∃ u, answers (.cfgNew rd bs a) u [(rd, refused 7)] ∧ tree u = some t) ∧
    (8 ≤ t.extents.length ∨ 2 ^ 24 < treeCap t + field bs 8 4 → ∃ u, answers (.cfgGrow rd bs a) u [(rd, refused 8)] ∧ tree u = some t) ∧
    (t.extents.length < 8 → treeCap t + field bs 8 4 ≤ 2 ^ 24 → pinExtent s c x (field bs 0 8) (field bs 8 4) = .ok ps →
      ∃ u, answers (.cfgGrow rd bs a) u [(rd, BitVec.ofNat 64 (treeCap t + field bs 8 4))] ∧
        tree u = some { t with extents := t.extents ++ [⟨ps, field bs 8 4⟩] }) ∧
    (latchBusy s (batchLatch s k n) = false → ∃ u, answers (.cfgDel rd) u [(rd, 0)] ∧ tree u = none ∧ (u.latch (batchLatch s k n)).st = .idle) ∧
    (findRun t 1 = some i → ∃ u t', answers (.root rd v) u [(rd, BitVec.ofNat 64 i)] ∧ tree u = some t' ∧ t'.root = some i ∧ t'.gen = t.gen + 1 ∧
      ((t.alloc.Pairwise fun p q => p.2 < q.1) → (∀ r ∈ t.alloc, r.1 < r.2) → ∀ q, q ≠ i → nodeAllocated t q = true → q ∈ t'.reclaim) ∧
      (TreeLies s t place → i < treeCap t → (∀ j, j < 64 → memByte u.mem (place i + j) = root.getD j 0) ∧ OnlyBytes s u [place i] 64)) ∧
    (t.root = none → ∃ u, answers (.desc rd) u [(rd, refused 2)] ∧ tree u = some t) ∧
    (t.root = some i → descend s t maxDepth i = .ok path → path.getLast? = some (leaf, nd) → (∀ e ∈ path, e.2.vl < 65535) →
      ¬(new ∧ t.openB.length + 1 = t.bsz ∧ 3 ≤ t.closed.length) →
      ∃ u t', answers (.desc rd) u [(rd, BitVec.ofNat 64 ((path.length - 1) * 2 ^ 32 +
          (if nd.term then 2 ^ 26 else if nd.pend then 2 ^ 25 else 2 ^ 24) + leaf))] ∧ tree u = some t' ∧
        (¬new → t' = t) ∧ (new → t.openB.length + 1 ≠ t.bsz → t' = { t with openB := t.openB ++ [leaf] }) ∧
        (new → t.openB.length + 1 = t.bsz → t' = { t with closed := t.closed ++ [(t.seq, t.openB ++ [leaf])], openB := [], seq := t.seq + 1 }) ∧
        (TreeLies s t place → (path.map (·.1)).Nodup → OnlyBytes s u (path.map fun e => place e.1) 16 ∧
          ∀ e ∈ path, readNode u t e.1 = .ok { e.2 with vl := e.2.vl + 1, pend := e.2.pend || (e.1 == leaf && !nd.term) })) ∧
    (t.closed.length < 3 → t.openB ≠ [] → ∃ u, answers (.batch rd) u [(rd, BitVec.ofNat 64 t.openB.length)] ∧
      tree u = some { t with closed := t.closed ++ [(t.seq, t.openB)], openB := [], seq := t.seq + 1 }) ∧
    (t.closed.length < 3 → t.openB = [] → ∃ u, answers (.batch rd) u [(rd, 0)] ∧ tree u = some t) ∧
    (liveChain s t maxDepth node = .ok ((node, nd) :: ch) → nd.exp = false → nd.term = false →
      (nd.depth < 65535 → findRun t es.length = some lo →
        ∃ u t', answers (.expand rd node es) u [(rd, BitVec.ofNat 64 lo)] ∧ tree u = some t' ∧
          t' = { t with alloc := allocRun lo (lo + es.length) t.alloc } ∧
          (TreeLies s t place → es ≠ [] → es.length ≤ 256 → lo + es.length ≤ treeCap t → treeCap t ≤ 2 ^ 24 → (node < lo ∨ lo + es.length ≤ node) →
            (∀ j e, es[j]? = some e → ∀ b, b < 64 → memByte u.mem (place (lo + j) + b) = (child e).getD b 0) ∧
            readNode u t node = .ok { nd with exp := true, pend := false, first := lo, ccount := es.length } ∧
            OnlyBytes s u (place node :: (List.range es.length).map fun j => place (lo + j)) 64)) ∧
      (∃ u, answers (.terminal rd node) u [(rd, 0)] ∧ tree u = some t ∧
        (TreeLies s t place → readNode u t node = .ok { nd with term := true, pend := false } ∧ OnlyBytes s u [place node] 16))) ∧
    (liveChain s t maxDepth node = .ok ch →
      ∃ u, answersF (.back rd node v vlo) u [(rd, BitVec.ofNat 64 ((if ch.any (fun e => e.2.vl == 0) then 2 ^ 18 else 0) +
          (if vlo = false ∧ ch.any (fun e => e.2.n == 2 ^ 32 - 1) then 2 ^ 17 else 0) + ch.length))]
          (if vlo then 0 else ch.zipIdx.foldl (fun f e => f ||| (sum e.2 e.1.2).2) 0) ∧ tree u = some t ∧
        (TreeLies s t place → (ch.map (·.1)).Nodup → OnlyBytes s u (ch.map fun e => place e.1) 16 ∧
          ∀ e ∈ ch.zipIdx, readNode u t e.1.1 = .ok (backed e.2 e.1.2))) ∧
    (t.root = some i → readNode s t i = .ok nd → nd.first ≤ node → node < nd.first + nd.ccount → subtree s t (treeCap t + 1) [node] = .ok kept →
      ∃ u t', answers (.reuse rd node) u [(rd, 0)] ∧ tree u = some t' ∧ t'.root = some node ∧ t'.gen = t.gen + 1 ∧ t'.closed = t.closed ∧
        (∀ q, q ∈ t'.reclaim ↔ q ∈ t.reclaim ∨ (nodeAllocated t q = true ∧ q ∉ kept)) ∧ (∀ q, q ∈ t'.openB ↔ q ∈ t.openB ∧ q ∈ kept) ∧
        (TreeLies s t place → OnlyBytes s u [place node] 64 ∧ ∀ y, readNode s t node = .ok y → readNode u t node = .ok { y with none := true })) ∧
    (t.root = some i → readNode s t i = .ok nd → (node < nd.first ∨ nd.first + nd.ccount ≤ node) →
      ∃ u, answers (.reuse rd node) u [(rd, refused 6)] ∧ tree u = some t ∧ u.mem = s.mem) ∧
    (nodeAllocated t node = true → nodeBytes s t node = .ok bs →
      (∃ u, answers (.readStats rd node) u [(rd, BitVec.ofNat 64 (field bs 0 8)), (nextReg rd, BitVec.ofNat 64 (field bs 8 8))]) ∧
      ∃ u, answers (.readLinks rd node) u [(rd, BitVec.ofNat 64 (field bs 16 8)), (nextReg rd, BitVec.ofNat 64 (field bs 24 8))]) ∧
    (Unlogged s c → ∃ u w0 w1, answers (.readTree rd) u [(rd, w0), (nextReg rd, w1)] ∧ tree u = some { t with berr := false }) ∧
    (node ∈ t.reclaim → ∃ u t', exec (.reclamationFree k n node) s = .next u ∧ tree u = some t' ∧
      (∀ q, q ∈ t'.reclaim ↔ q ∈ t.reclaim ∧ q ≠ node) ∧ u.mem = s.mem))

/-- R348-R357, R344, R372, R188: Welt's answer to a bind that finds room, banks of the right role, free landing bytes and free names: the handle of the new
subscription; 1 where the table is full, 2 where a bank has another role, 3 where the landing is another's, 4 where a name is defined; an unbind gives 2 where the context has bound no such pipeline, else 0, and the subscription is
gone. A stage that may produce makes one production more. A tile-walk agent and a batch arm what they offer. -/
def Obligations.WeltAnswersAndProduces :
    Prop := ∀ (s : State) (c x die i slot tree k : Nat) (rd : Reg) (bs : List Byte) (a h : Word) (l lay : Layout) (e : Entry) (u v : Sub) (p : Prod),
  let m := s.asker c x
  let b : BindReq := ⟨c, m, rd, bs, a⟩
  let d := s.die (coreDie c)
  let gs := stagesOf bs l
  let shared := sharedWith d (partNum (s.core c)) (relPages l) none gs.dropLast
  let need := gs.length - shared.length + (if pdCyc bs then 0 else shared.length)
  let answers := fun (ins : Instr) (t : State) (w : Word) => exec ins s = .next t ∧
    .requestAnswer c m (.answer ⟨[(rd, w)], 0, none, false⟩) ∈ t.agenda
  let pl := permitLatch s u.core i
  let room := need ≤ (freeEntries d need).length
  let named := ∃ ev ∈ pipeEvents s c (gidOf s.dev c x) bs, s.home ⟨homeNum s.dev c, ev.name⟩ ≠ none
  OnItsCore s c x →
  (pipeSource s c bs = some (slot, l) →
    ((freeEntries d need).length < need → ∃ t, answers (.weltBind b) t 1 ∧ t.dies = s.dies) ∧
    (room → wrongBank s bs = true → ∃ t, answers (.weltBind b) t 2 ∧ t.dies = s.dies) ∧
    (room → wrongBank s bs = false → landsOn d bs = true → ∃ t, answers (.weltBind b) t 3 ∧ t.dies = s.dies) ∧
    (room → wrongBank s bs = false → landsOn d bs = false → named → ∃ t, answers (.weltBind b) t 4 ∧ t.dies = s.dies) ∧
    (room → wrongBank s bs = false → landsOn d bs = false → ¬named →
      ∃ t j q, answers (.weltBind b) t (BitVec.ofNat 64 (pipeHandle (coreDie c) j q.gen)) ∧ tfind (t.die (coreDie c)).subs j = some q ∧
        q.core = c ∧ q.ctx = x ∧ q.wg = wgTag (s.core c) ∧ q.pbase = field bs 0 4 ∧ q.seq = 0)) ∧
  (boundBy s c x h = none → ∃ t, answers (.weltUnbind c m rd h) t 2 ∧ t.dies = s.dies) ∧
  (boundBy s c x h = some (die, i, v) → permitCommits s v = false →
    ∃ t, answers (.weltUnbind c m rd h) t 0 ∧ tfind (t.die die).subs i = none) ∧
  (tfind (s.die die).entries i = some e → canProduce (s.die die) i = true →
    (e.kind = 1 → tfind (s.die die).layouts e.src = some lay → tfind (s.die die).subs e.owner = some u →
      ∃ t e', exec (.pipelineStageProduce die i) s = .next t ∧ tfind (t.die die).entries i = some e' ∧ e'.made = e.made + 1) ∧
    (e.kind ≠ 1 → nextProd (s.die die).entries e = some p →
      ∃ t e', exec (.pipelineStageProduce die i) s = .next t ∧ tfind (t.die die).entries i = some e' ∧ e'.made = e.made + 1 ∧ t.mem = s.mem)) ∧
  (tfind (s.die die).subs i = some u → (s.latch pl).st = .idle → wantsOf s pl ≠ [] →
    ∃ t, exec (.permitAgentOffer die i) s = .next t ∧ (t.latch pl).st = .armed ∧ (t.latch pl).offers.map (·.1) = (wantsOf s pl).map (·.ev)) ∧
  ((s.latch (batchLatch s k tree)).st = .idle → wantsOf s (batchLatch s k tree) ≠ [] →
    ∃ t, exec (.batchOffer k tree) s = .next t ∧ (t.latch (batchLatch s k tree)).st = .armed ∧
      (t.latch (batchLatch s k tree)).offers.map (·.1) = (wantsOf s (batchLatch s k tree)).map (·.ev))

/-- The bytes that element `i` of a copy command takes to the destination (R336), with their addresses: the element, rounded where the formats
differ, and at the opening of a block its scale; zeros in place of what lies in a poisoned sector. -/
def Sys2Proof.Machine.copiedTo (s : State) (src dst : Layout) (m : CopyCmd) (i : Nat) : List (Nat × Byte) :=
  let clean := fun (va n : Nat) => if poisonOf s (layPlaces src va n) = [] then layBytes s src va n else List.replicate n 0
  let x := clean (elemVa src i) (layEs src)
  let y := if src.format = dst.format then x
    else bytesOfNat (fmtBytes dst.format) (roundCode (fmtOf dst.format) m.rm m.sat (decodeCode (fmtOf src.format) (natOfBytes x))).1
  ((layPlaces dst (elemVa dst i) (layEs dst)).map (·.1)).zip y ++
    if fmtScaled src.format = true ∧ i % fmtBlen src.format = 0 then ((layPlaces dst (scaleVa dst i) 2).map (·.1)).zip (clean (scaleVa src i) 2)
    else []

/-- R310, R333-R336: a copy engine takes up its oldest command, or goes on with the one it runs: one whose records are gone ends at once (state 1),
one whose records overlap too (state 2); another moves elements from its next one on, and ends after the last of them (state 0, or 3 where it met
poison) or, where an abort is pending, at a stop point (state 1). Where the destination lies in GDDR 7, each byte under its key and no two of them
at one place, every byte of a moved element and of its block's scale is at its place in the destination (a running command may keep those of an
aligned 16-byte part that later elements reach, and writes them later: log 27), the sectors that receive a poisoned element are poisoned, and every
other byte of memory keeps its value. Once its writes are acknowledged, an ended command's summary is kept under its kick, and the engine is free. -/
def Obligations.CopyCommandsRun : Prop :=
  ∀ (s : State) (k s0 d0 : Nat) (r : CopyRun) (q : List CopyCmd) (src dst : Layout) (w : Word),
  let g := (s.cluster k).copy
  let m := r.cmd
  let part := partNum (s.core (gidCore m.kicker))
  let starts := (g.run = some r ∧ g.queue = q) ∨
    (g.run = none ∧ g.queue = m :: q ∧ r = { cmd := m, next := m.first, flags := 0, pcnt := 0, met := [], buf := [], abort := false, ended := none })
  let ran := fun (t : State) (v : CopyRun) => exec (.copyCommandRun k) s = .next t ∧
    (t.cluster k).copy = { g with run := some v, queue := q, owed := (t.cluster k).copy.owed } ∧ v.cmd = m
  let bytes := copiedTo s src dst m
  let places := fun (i : Nat) => layPlaces dst (elemVa dst i) (layEs dst) ++
    if fmtScaled src.format = true then layPlaces dst (scaleVa dst i) 2 else []
  let lies := r.buf = [] ∧ s.watches = [] ∧
    (∀ i, i < src.count → ∀ p ∈ places i, isGddr p.1 = true ∧ KeyHolds s p.2 (p.1 / 256)) ∧
    (∀ i, i < src.count → ((bytes i).map (·.1)).Nodup) ∧
    ∀ i j a, i < src.count → j < src.count → a ∈ (bytes i).map (·.1) → a ∈ (bytes j).map (·.1) → i = j
  (starts → r.ended = none →
    (layoutOf s (k / 12) part m.src = none ∨ layoutOf s (k / 12) part m.dst = none →
      ∃ t v, ran t v ∧ v.ended = some (summary 1 0 0 m.first) ∧ t.mem = s.mem) ∧
    (layoutOf s (k / 12) part m.src = some (s0, src) → layoutOf s (k / 12) part m.dst = some (d0, dst) →
      (r.next = m.first → recordsOverlap src dst = true → ∃ t v, ran t v ∧ v.ended = some (summary 2 0 0 m.first) ∧ t.mem = s.mem) ∧
      (r.next ≠ m.first ∨ recordsOverlap src dst = false → r.next < src.count → ∃ t v, ran t v ∧ r.next < v.next ∧ v.next ≤ src.count ∧
        (v.ended = none ∨ (v.next = src.count ∧ v.ended = some (summary (if v.pcnt = 0 then 0 else 3) v.flags v.pcnt v.next)) ∨
          (r.abort = true ∧ v.ended = some (summary 1 v.flags v.pcnt v.next))) ∧
        (lies →
          (∀ i, r.next ≤ i → i < v.next → ∀ p ∈ bytes i, memByte t.mem p.1 = p.2 ∨ (v.ended = none ∧ (tfind v.buf (p.1 / 16)).isSome = true)) ∧
          (∀ i, r.next ≤ i → i < v.next → poisonOf s (layPlaces src (elemVa src i) (layEs src)) ≠ [] →
            ∀ p ∈ layPlaces dst (elemVa dst i) (layEs dst), p.1 / 256 ∈ t.memPoison) ∧
          ∀ a, (∀ i, r.next ≤ i → i < v.next → a ∉ (bytes i).map (·.1)) → memByte t.mem a = memByte s.mem a)))) ∧
  (g.run = some r → r.ended = some w →
    (g.owed ≠ 0 → ∃ t, exec (.copyCompletionOffer k) s = .next t ∧ (t.cluster k).copy = g) ∧
    (g.owed = 0 → ∃ t, exec (.copyCompletionOffer k) s = .next t ∧ (t.cluster k).copy.run = none ∧ tfind (t.cluster k).copy.summaries m.kick = some w ∧
      (t.cluster k).copy.ended = g.ended ++ [(complKey s m, w)] ∧ t.mem = s.mem))

/-! ## The front end and launches (R394-R399, R463-R471) -/

/-- R465-R470, R229: a queue's thread that may take a packet takes it: QHEAD moves on. A packet that breaks its rules completes with STATUS 1. A
LAUNCH whose image fits becomes the candidate, one that can never fit completes with STATUS 5; POOL places its task or completes with STATUS 1, also where the pool is not enabled (log 31); WAIT and SIGNAL offer their event, and a SIGNAL.NB lets the thread go on; COPY acts; each record holds the packet's TAG. -/
def Sys2Proof.Machine.PacketsOfAQueueAreTaken :
    Prop := ∀ (s : State) (q n k j : Nat) (pkt data : List Byte) (part : Partition) (h : Nat) (q1 : Pool),
  let u := s.queue q
  let p := u.part
  let name := field pkt 16 4
  let takes := fun (i : Instr) (v : Queue) => ∃ t, exec i s = .next t ∧ t.queue q = { v with qhead := u.qhead + 1 }
  let ends := fun (r : CRec) => { u with recs := u.recs ++ [r], stage := .ending }
  let refused := ends { crec pkt 1 0 true with bufs := [] }
  let offers := fun (r : CRec) (st : QStage) => { u with offers := u.offers ++ [(u.nextSub, name, some r)], nextSub := u.nextSub + 1, stage := st }
  mayTake s q = true →
  (headerOk s p 3 pkt = true → signalOk s p false pkt = true → takes (.waitPacket q pkt) (offers (crec pkt 0 0 true) (.offering pkt))) ∧
  ((headerOk s p 3 pkt = false ∨ signalOk s p false pkt = false) → takes (.waitPacket q pkt) refused) ∧
  (headerOk s p 4 pkt = true → signalOk s p true pkt = true →
    ((field pkt 20 4) % 2 = 0 → takes (.signalPacket q pkt) (offers (crec pkt 0 0 true) (.offering pkt))) ∧
    ((field pkt 20 4) % 2 = 1 → takes (.signalPacket q pkt) (offers (crec pkt 0 0 false) .idle))) ∧
  (headerOk s p 2 pkt = true → poolOk s p pkt = true → k = bits (field pkt 16 4) 24 5 → j = bits (field pkt 16 4) 0 4 →
    ((s.pool k j).en = false → takes (.poolPacket q pkt) (ends (crec pkt 1 0 true))) ∧
    ((s.pool k j).en = true → placeTask (s.pool k j) j ((pkt.drop 32).take 48) (evKey s (firstCore k) (field pkt 68 4)) = some (h, q1) →
      ∃ t, exec (.poolPacket q pkt) s = .next t ∧ t.pool k j = q1 ∧
        t.queue q = { ends (crec pkt 0 (BitVec.ofNat 64 h) true) with qhead := u.qhead + 1 })) ∧
  (partOf s p = some part → headerOk s p 5 pkt = true → copyPacketOk pkt = true → n = bits (field pkt 32 8) 0 40 →
    inRegions s p (field pkt 24 8) n = true →
    (field pkt 32 8 < 2 ^ 63 → data.length = n → takes (.copyPacket q pkt (.ok data)) (ends (crec pkt 0 0 true))) ∧
    (2 ^ 63 ≤ field pkt 32 8 → inHostRange part (field pkt 16 8) n = true → ∃ t bs, exec (.copyPacket q pkt (.ok [])) s = .next t ∧ bs.length = n ∧
      .hostCopy q (field pkt 16 8) bs ∈ t.out ∧ t.queue q = { ends (crec pkt 0 0 true) with qhead := u.qhead + 1 }) ∧
    (2 ^ 63 ≤ field pkt 32 8 → inHostRange part (field pkt 16 8) n = false → ∀ st, takes (.copyPacket q pkt st) refused) ∧
    (field pkt 32 8 < 2 ^ 63 → takes (.copyPacket q pkt .aborted) (ends (crec pkt 6 0 true)))) ∧
  (headerOk s p 1 pkt = true → launchBodyOk s p pkt = true →
    (imageFits s p pkt (imageHead s p (lpImage pkt)) = true → takes (.launchPacket q pkt) { u with stage := .candidate pkt s.cycle.toNat }) ∧
    (imageFits s p pkt (imageHead s p (lpImage pkt)) = false → takes (.launchPacket q pkt) (ends { crec pkt 5 0 true with bufs := [] }))) ∧
  (headerOk s p 1 pkt = false → takes (.launchPacket q pkt) refused) ∧
  (headerOk s p 2 pkt = false → takes (.poolPacket q pkt) refused) ∧
  (headerOk s p 4 pkt = false → takes (.signalPacket q pkt) refused)

/-- R326, R327, R467, R470: a BIND packet that keeps its rules registers the record that it names on the die of its queue: where the record obeys R332, every page
of its extents lies in regions of the partition and a slot is free, the lowest free slot holds it with its pages, and the completion has STATUS 0
and the handle as VALUE; else STATUS 7 and VALUE 0. RELEASE takes a record
off that is live and that nothing names, with STATUS 0, and else completes with STATUS 7 (log 31). One that breaks its rules completes with STATUS 1. -/
def Sys2Proof.Machine.BindPacketsRegisterRecords :
    Prop := ∀ (s : State) (q slot : Nat) (pkt : List Byte) (ps : List (Nat × Nat × Nat)) (l : Layout) (z : Cause),
  let u := s.queue q
  let p := u.part
  let die := q / 32
  let s1 := buffersBefore (taken s q) (partCores s p) pkt
  let c := bindCore s1 q p
  let kind := field pkt 24 4
  let bs := partBytes s1 p (field pkt 16 8) 64
  let new := parseLayout p 0 kind bs
  let gen := tget 0 (s1.die die).layGens slot
  let ends := fun (i : Instr) (r : CRec) (t : State) => exec i s = .next t ∧ t.queue q = { u with recs := u.recs ++ [r], stage := .ending, qhead := u.qhead + 1 }
  let refused := { crec pkt 1 0 true with bufs := [] }
  let bindOk := headerOk s p 6 pkt = true ∧ 1 ≤ kind ∧ kind ≤ 3 ∧ inRegions s p (field pkt 16 8) 64 = true ∧ zeroFrom pkt 28 144 = true
  let relOk := headerOk s p 6 pkt = true ∧ kind / 4 = 1 ∧ zeroFrom pkt 32 144 = true
  let gone := layoutOf s1 die p (field pkt 28 4)
  mayTake s q = true →
  (bindOk →
    (layoutValid s1 (some p) bs new = true → pinLayout s1 c bindCtx new = .ok ps → freeLayout (s1.die die) = some slot →
      ∃ t, ends (.bindPacket q pkt) (crec pkt 0 (BitVec.ofNat 64 (layHandle slot gen)) true) t ∧
        tfind (t.die die).layouts slot = some { new with gen := gen, pages := ps }) ∧
    ((layoutValid s1 (some p) bs new = false ∨ pinLayout s1 c bindCtx new = .error z ∨ freeLayout (s1.die die) = none) →
      ∃ t, ends (.bindPacket q pkt) (crec pkt 7 0 true) t ∧ t.dies = s1.dies)) ∧
  (¬bindOk → ∃ t, ends (.bindPacket q pkt) refused t ∧ t.dies = s.dies) ∧
  (relOk →
    (gone = some (slot, l) → layoutBusy s1 die slot = false →
      ∃ t, ends (.bindReleasePacket q pkt) (crec pkt 0 0 true) t ∧ tfind (t.die die).layouts slot = none) ∧
    (gone = some (slot, l) → layoutBusy s1 die slot = true → ∃ t, ends (.bindReleasePacket q pkt) (crec pkt 7 0 true) t ∧ t.dies = s1.dies) ∧
    (gone = none → ∃ t, ends (.bindReleasePacket q pkt) (crec pkt 7 0 true) t ∧ t.dies = s1.dies)) ∧
  (¬relOk → ∃ t, ends (.bindReleasePacket q pkt) refused t ∧ t.dies = s.dies)

/-- R394, R395, R464-R468, R338: what the command processor does with the packets of a queue, BIND and its release among them. -/
def Obligations.QueuePacketsAreTaken : Prop := PacketsOfAQueueAreTaken ∧ BindPacketsRegisterRecords

/-- R463-R469: QTAIL takes a doorbell value that lies in the ring, and a write beyond it is refused and counted; a completion record goes out
at QCTAIL where the ring has room, with TAG, STATUS, WG, TIME and VALUE, and QCTAIL moves on; a host access inside a host range reads or writes
memory, and one outside is answered as unsupported; a read of the register aperture gives its registers; a queue's plain registers keep
their reserved bits at zero, in every state of the queue (log 31). -/
def Obligations.QueuesAndAperturesWork : Prop := ∀ (s : State) (q a : Nat) (v : Half) (w : Word) (r : CRec) (rs : List CRec) (acc : HostAcc) (p : Nat) (part : Partition) (bs : List Byte),
  let u := s.queue q
  (s.hostRegs.ready = true →
    ((v - u.qhead).toNat ≤ 2 ^ u.log → exec (.qtailDoorbellWrite q v) s = .next (s.setQueue q { u with qtail := v })) ∧
    (2 ^ u.log < (v - u.qhead).toNat → ∃ t, exec (.qtailDoorbellWrite q v) s = .next t ∧ t.queue q = u ∧
      t.hostRegs.counts = lset s.hostRegs.counts 5 (s.hostRegs.counts.getD 5 0 + 1))) ∧
  (u.recs = r :: rs → (u.qctail - u.qchead).toNat < 2 ^ u.log → r.cevent = 0 →
    ∃ t, exec (.completionRecordWrite q) s = .next t ∧
      t.out = s.out ++ [.completion q (u.qctail.toNat % 2 ^ u.log)
        (bytesOfNat 4 r.tag.toNat ++ bytesOfNat 4 r.status ++ bytesOfNat 8 r.wg ++ bytesOfNat 8 s.time.toNat ++ bytesOfNat 8 r.value.toNat)] ∧
      t.queue q = { u with recs := rs, qctail := u.qctail + 1, stage := if r.last then .idle else u.stage }) ∧
  (acc.regs = true → acc.data = none →
    exec (.hostApertureAccess acc) s = .next (s.emit (.aperture acc.off (some (apertureBytes s acc.off acc.len))))) ∧
  (acc.regs = false → hostOwner s acc.off acc.len = none → exec (.hostApertureAccess acc) s = .next (s.emit (.aperture acc.off none))) ∧
  (acc.regs = false → hostOwner s acc.off acc.len = some (p, part) → (∀ e ∈ s.wgs, e.2.mode = .off) →
    (acc.data = none → ∃ t, exec (.hostApertureAccess acc) s = .next t ∧ t.mem = s.mem ∧
      t.out = s.out ++ [.aperture acc.off (some (homeBytes s part.key acc.off acc.len))]) ∧
    (acc.data = some bs → bs.length = acc.len → (∀ sec ∈ sectorsOf acc.off acc.len, KeyHolds s part.key sec) →
      ∃ t, exec (.hostApertureAccess acc) s = .next t ∧
        ∀ b, memByte t.mem b = if acc.off ≤ b ∧ b < acc.off + acc.len then bs.getD (b - acc.off) 0 else memByte s.mem b)) ∧
  (exec (.registerWrite (.queue q 0) w) s = .next (s.setQueue q { u with qbase := w &&& 0xFFFFFFFFFFFFF000 }) ∧
    exec (.registerWrite (.queue q 8) w) s = .next (s.setQueue q { u with qcbase := w &&& 0xFFFFFFFFFFFFF000 }) ∧
    exec (.registerWrite (.queue q 32) w) s = .next (s.setQueue q { u with qchead := w.setWidth 32 }) ∧
    exec (.registerWrite (.host a) w) s = .next s)

/-- R394, R396-R398: the queue's candidate that is placed next starts: a launch of one core, without events, domains of other devices or a partner, makes that core's
control context live at the entry, at S where the packet says so and else at U, with the packet's classes and
address space (log 32). Draining
marks the row that GANG_DRAIN chose; a compaction marks the workgroups on the drained rows as moving. -/
def Obligations.CandidatesArePlaced : Prop := ∀ (s : State) (q g im c x n : Nat) (cand : Cand) (avail : List Nat) (s1 : State) (w : Wg),
  let h := candHead s cand
  let m := pickPlacement s h (lpExact cand.pkt) avail
  let a : Start := ⟨cand.part, freshWg s cand.part, newBase s, cand.pkt, h, m⟩
  (placeNext s = some (cand, avail) → cand.q = q → cand.wg = none → pairHost s cand = none → lpSysv cand.pkt = false → lpBsp cand.pkt = false →
    lpNev cand.pkt = 0 → lpPhase cand.pkt = 0 → m = [(im, c)] →
    relocate (loadSections (buffersBefore s [c] cand.pkt) cand.part (lpImage cand.pkt) h) cand.part (lpImage cand.pkt) (newBase s) h m = some s1 →
    ∃ t, exec (.placement q) s = .next t ∧ (t.core c).wg = some a.n ∧ (t.core c).part = some cand.part ∧ (t.queue q).stage = .idle ∧
      (t.ctx c 0).live = true ∧ (t.ctx c 0).pc = BitVec.ofNat 64 (startPc a im / 4 * 4) ∧
      (t.ctx c 0).priv = (if lpFlag cand.pkt 5 then .s else .u) ∧ (∀ r, xread (t.ctx c 0) r = 0) ∧
      (t.ctx c 0).asid = BitVec.ofNat 16 (field cand.pkt 72 4) ∧ (1 ≤ x → (t.ctx c x).live = false) ∧
      ∃ e, tfind t.wgs a.n = some e ∧ e.part = cand.part ∧ e.map = m ∧ e.queue = q) ∧
  (candOf (q, s.queue q) = some cand → drainDue s cand = true → drainRow s cand = some g →
    exec (.gangDrain q) s = .next (s.setQueue q { s.queue q with drained := (s.queue q).drained ++ [(g / 4, g % 4)] })) ∧
  (candOf (q, s.queue q) = some cand → compactionDue s cand = true → n ∈ toMove s q → tfind s.wgs n = some w →
    ∃ t e, exec (.gangCompaction q) s = .next t ∧ tfind t.wgs n = some e ∧ e.moving = true ∧ e.map = w.map ∧ t.mem = s.mem)

/-! ## Pre-emption (R400-R406) and configuration requests (R473-R477) -/

/-- The PC of a context that stops: after the waiting instruction where a commit has won at its latch (R178). -/
def Sys2Proof.Machine.pcAtStop (s : State) (c x : Nat) : Word :=
  match (s.latch (ctxLatch s c x)).st, (s.latch (ctxLatch s c x)).past with
  | .committed _, false => (s.ctx c x).pc + BitVec.ofNat 64 (waitBytes (s.core c).exch (s.ctx c x).wait)
  | _, _ => (s.ctx c x).pc

/-- R401, R403-R406, R415, R400: a request halts the workgroup's running cores, lets a step of the debugger end first, and saves a stopped core where
it stands, once its stores are acknowledged (else CORE_HALTED does so when they are); a core that stands still is saved, with its contexts' registers, and with their PCs, after the waiting instruction where a commit has
won, under its next sequence number; a switch frees the cores of a saved workgroup, and brings the contexts of another back from its images; a
restored core runs again, after a switch only when no answer is owed; a swap runs the parked partner, its accumulator the shadow bank and its
configuration the second one; a re-placement moves a workgroup launched with REPL to the mapped cores, and with no map sends it back to its queue. When a core has halted, what a switch waits for, and where its image lies are log 35. -/
def Obligations.PreemptionSavesAndRestores :
    Prop := ∀ (s : State) (part num n c im inPart inNum b : Nat) (w : Wg) (bs : List Nat) (m : Image) (cores : List (Nat × Nat)),
  let k := s.core c
  let named := wgNamed s part num = some (n, w)
  (named → w.saved = false → w.cores.Nodup → (∀ d ∈ w.cores, (s.core d).run ≠ .stopped) →
    ∃ t, exec (.preemptionRequest part num) s = .next t ∧ t.mem = s.mem ∧
      (∀ d x, t.ctx d x = s.ctx d x) ∧
      (∀ d, d ∈ w.cores → (s.core d).run = .running → (t.core d).run = .halting) ∧
      (∀ d x o, d ∈ w.cores → (s.core d).run = .stepping x o → (t.core d).run = .stopping 1 0 0 ∧ (t.core d).haltPend = true) ∧
      ∀ d, d ∉ w.cores → t.core d = s.core d) ∧
  (named → w.saved = false → w.map = [(im, c)] → k.run = .stopped → k.image = none → k.caddies = b :: bs → k.wg = some n →
    (storesDone k = true →
      ∃ t i, exec (.preemptionRequest part num) s = .next t ∧ (t.core c).run = .stopped ∧ (t.core c).image = some i ∧ i.seq = k.saveSeq ∧
        i.ctxs = savedCtxs k.ctxs ∧ (t.core c).saveSeq = k.saveSeq + 1) ∧
    (storesDone k = false →
      ∃ t, exec (.preemptionRequest part num) s = .next t ∧ (t.core c).run = .stopped ∧ (t.core c).image = none ∧
        (t.core c).haltPend = true)) ∧
  (savesNow s c = true → k.caddies = b :: bs → k.wg = some n →
    ∃ t i, exec (.coreHalted c) s = .next t ∧ (t.core c).run = .stopped ∧ (t.core c).image = some i ∧ i.seq = k.saveSeq ∧
      i.ctxs = savedCtxs k.ctxs ∧ (t.core c).saveSeq = k.saveSeq + 1) ∧
  (k.run = .halting → haltsNow s c = true → k.caddies = b :: bs → k.wg = some n → c < 576 → (∀ e ∈ k.ctxs, e.1 < 16) →
    ∃ t i, exec (.coreHalted c) s = .next t ∧ (t.core c).run = .halted ∧ (t.core c).image = some i ∧ i.seq = k.saveSeq ∧ i.wg = n ∧
      (t.core c).saveSeq = k.saveSeq + 1 ∧
      ∀ x e, tfind k.ctxs x = some e →
        (tget Ctx.reset i.ctxs x).x = e.x ∧ (t.ctx c x).x = e.x ∧ (tget Ctx.reset i.ctxs x).pc = (t.ctx c x).pc ∧
        (t.ctx c x).pc = pcAtStop s c x) ∧
  (named → inPart = part → wgNamed s inPart inNum = none → switchReady s (some (n, w)) none = true →
    ∃ t e, exec (.contextSwitch part num inPart inNum) s = .next t ∧ tfind t.wgs n = some e ∧ e.saved = true ∧ e.map = w.map ∧
      ∀ d x, d ∈ w.cores → (t.core d).wg = none ∧ t.ctx d x = Ctx.reset) ∧
  (wgNamed s part num = none → wgNamed s inPart inNum = some (n, w) → switchReady s none (some (n, w)) = true → w.map = [(im, c)] →
    tfind w.images im = some m → m.dbg = none → k.lastPart = some inPart →
    ∃ t e, exec (.contextSwitch part num inPart inNum) s = .next t ∧ (t.core c).run = .halted ∧ (t.core c).wg = some m.wg ∧
      (∀ x, t.ctx c x = tget Ctx.reset m.ctxs x) ∧ (t.core c).icache = k.icache ∧ tfind t.wgs n = some e ∧ e.saved = false) ∧
  (k.run = .halted → k.held = [] → k.tiles = [] →
    ((k.image ≠ none ∨ ∀ e ∈ k.ctxs, owesAnswer e.2 = false) →
      ∃ t, exec (.coreRestore c) s = .next t ∧ (t.core c).run = .running ∧ (t.core c).image = none ∧ (∀ d x, t.ctx d x = s.ctx d x) ∧
        t.mem = s.mem) ∧
    (k.image = none → (∃ e ∈ k.ctxs, owesAnswer e.2 = true) →
      ∃ t, exec (.coreRestore c) s = .next t ∧ (t.core c).run = .halted ∧ ∀ d x, t.ctx d x = s.ctx d x)) ∧
  (named → w.map = [(im, c)] → swapReady s w = true → k.parked = some m → m.dbg = none → k.held = [] → k.tiles = [] →
    ∃ t, exec (.residentPairSwap part num) s = .next t ∧ (t.core c).run = .running ∧ (t.core c).wg = some m.wg ∧
      (∀ x, t.ctx c x = tget Ctx.reset m.ctxs x) ∧ (t.core c).wide.acc = k.wide.shadow ∧ (t.core c).wide.shadow = k.wide.acc ∧
      (t.core c).wide.mcfg = k.wide.mcfg2 ∧ (t.core c).wide.mcfg2 = k.wide.mcfg) ∧
  (named → w.repl = true → w.map ≠ [] → (w.saved = true ∨ ∀ d ∈ w.cores, quiet s d = true) →
    tfind s.wgs n = some w →
    (∃ t e, exec (.replacement part num []) s = .next t ∧ tfind t.wgs n = some e ∧ e.saved = true ∧ e.moving = true ∧ e.map = w.map) ∧
    ((∀ d ∈ w.cores, (placed cores d).isSome = true) → moveBlocked s n w (w.map.filterMap fun p => placed cores p.2) = false →
      ∃ t e, exec (.replacement part num cores) s = .next t ∧ tfind t.wgs n = some e ∧ e.saved = false ∧ e.moving = false ∧
        e.map = w.map.filterMap fun p => (placed cores p.2).map fun d => (p.1, d))) ∧
  (named → w.repl = false → exec (.replacement part num cores) s = .next s)

/-- A request ends with status 1 (done) written into its record. -/
def Sys2Proof.Machine.Done (i : Instr) (s : State) (r : CfgRef) (t : State) : Prop := exec i s = .next t ∧ memByte t.mem (r.addr + 1) = 1

/-- A request ends with status 2 (refused) written into its record, and changes nothing that it names: of a partition only the number of records
of its ring that have been handled. -/
def Sys2Proof.Machine.Refuses (i : Instr) (s : State) (r : CfgRef) : Prop :=
  ∃ t, exec i s = .next t ∧ memByte t.mem (r.addr + 1) = 2 ∧ (∀ p, (tfind t.parts p).map (fun q => { q with handled := 0 }) = (tfind s.parts p).map fun q => { q with handled := 0 }) ∧
    t.clusters = s.clusters ∧ t.cores = s.cores ∧
    t.queues = s.queues ∧ t.dies = s.dies ∧ t.quotas = s.quotas

/-- R473, R475-R477: Isastan creates a partition out of clusters, classes, a key and queues that no other partition has; its lead core starts at
the entry, at level S, with the ring's address in X2, under a new generation of its key. A destroyed partition's key has a new generation too,
no line of its key stays, and its queues are disabled. -/
def Sys2Proof.Machine.PartitionsComeAndGo : Prop := ∀ (s : State) (r : CfgRef) (p : PartSpec) (q : Partition) (part : Nat),
  let free := fun (f : Partition → List Nat) (xs : List Nat) => ∀ e ∈ s.parts, e.1 ≠ p.part → ∀ x ∈ xs, x ∉ f e.2
  r.owner = 0 →
  (tfind s.parts p.part = none → p.part < 32 → p.clusters ≠ [] → (∀ k ∈ p.clusters, k < 24) → free (·.clusters) p.clusters →
    p.classes ≠ [] → (∀ k ∈ p.classes, k < 16) → free (·.classes) p.classes → 1 ≤ p.key → p.key < 64 → (∀ e ∈ s.parts, e.2.key ≠ p.key) →
    (∀ i ∈ p.queues, i < 64) → free (·.queues) p.queues → 2 ^ 20 ≤ p.spill.2 → (∀ e ∈ p.regions, e.1 ∈ p.clusters) →
    (∀ k ∈ p.clusters, (p.regions.filter fun e => e.1 == k).length ≤ 8) →
    ∃ t e, Done (.createPartition r p) s r t ∧ tfind t.parts p.part = some e ∧ e.clusters = p.clusters ∧ e.key = p.key ∧
      e.lead = leadOf p.clusters ∧ (t.ctx e.lead 0).live = true ∧ (t.ctx e.lead 0).pc = p.entry &&& 0xFFFFFFFFFFFFFFFC ∧
      (t.ctx e.lead 0).priv = .s ∧ (∀ x, xread (t.ctx e.lead 0) x = if x = 2 then BitVec.ofNat 64 p.ring else 0) ∧
      tget 0 t.keyGen p.key = tget 0 s.keyGen p.key + 1 ∧ ∀ i ∈ p.queues, (t.queue i).en = true ∧ (t.queue i).part = p.part) ∧
  (tfind s.parts part = some q → ∃ t, Done (.destroyPartition r part) s r t ∧ tfind t.parts part = none ∧
    tget 0 t.keyGen q.key = tget 0 s.keyGen q.key + 1 ∧ (∀ i ∈ q.queues, (t.queue i).en = false) ∧ ∀ e ∈ t.llc, e.2.key ≠ q.key)

/-- R268, R282, R430, R435, R446, R475: Isastan writes a region register, whose reserved bits stay zero; gives a partition classes, quotas, queues and host
ranges; sets a staging ring up and the replay mode, which holds for the
partition's next launch (log 38); and writes a route. -/
def Sys2Proof.Machine.IsastansRequestsAreCarriedOut : Prop := ∀ (s : State) (r : CfgRef) (q : Partition) (a : AssignSpec) (ts : TraceSpec)
    (part n k num die dest mode : Nat) (w0 w1 : Word) (ports : List Nat),
  let free := fun (f : Partition → List Nat) (xs : List Nat) => ∀ e ∈ s.parts, e.1 ≠ a.part → ∀ x ∈ xs, x ∉ f e.2
  r.owner = 0 →
  (k < 24 → n < 8 → ∃ t, Done (.writeRegionRegister r k n w0 w1) s r t ∧ t.cores = s.cores ∧
    tfind (t.cluster k).regions n = some (w0 &&& 0x83FFFFFFFFFFF007, w1 &&& 0x000FFFFFFFFFF000)) ∧
  (tfind s.parts a.part = some q → a.classes ≠ [] → (∀ c ∈ a.classes, c < 16) → free (·.classes) a.classes → (∀ e ∈ a.quotas, e.1 ∈ a.classes) →
    quotaSum (newQuotas s a) ≤ 16 → (∀ e ∈ a.queues, e.1 < 64 ∧ 1 ≤ e.2.1 ∧ e.2.1 ≤ 65535 ∧ e.2.2 ≤ 3) → (a.queues.map (·.1)).Nodup →
    free (·.queues) (a.queues.map (·.1)) →
    ∃ t e, Done (.assignResources r a) s r t ∧ tfind t.parts a.part = some e ∧ e.classes = a.classes ∧ e.hostRanges = a.hostRanges ∧
      e.clusters = q.clusters ∧ e.key = q.key ∧ t.quotas = newQuotas s a ∧
      ∀ x ∈ a.queues, (t.queue x.1).en = true ∧ (t.queue x.1).part = a.part ∧ (t.queue x.1).age = x.2.1 ∧ (t.queue x.1).prio = x.2.2) ∧
  (ts.cluster < 24 → ts.stream < 2 → 2 ≤ ts.slots → ts.slots ≤ 64 → ts.base + ts.slots * 2 ^ 20 ≤ 96 * 2 ^ 30 →
    ts.wg = some (part, mode, num) → tfind s.parts part = some q → mode ≤ 2 →
    ∃ t, Done (.setupTraceReplay r ts) s r t ∧
      tfind t.replayNext part = some (if mode = 1 then .record else if mode = 2 then .replay else .off, num) ∧
      (tget Stream.reset (t.cluster ts.cluster).streams ts.stream).base = ts.base ∧
      (tget Stream.reset (t.cluster ts.cluster).streams ts.stream).slots = ts.slots) ∧
  (die < 2 → dest < 4096 → ports.length ≤ 4 → (∀ i ∈ ports, i < 18) →
    ∃ t, Done (.writeRoutingTable r die dest ports) s r t ∧ tfind (t.die die).routes dest = (if ports = [] then none else some ports))

/-- R401, R412, R431, R475: a partition, or Isastan, pre-empts a workgroup of it that is on its cores, reaches the debug blocks of its cores, and flushes the
trace of its clusters; so does the trace service for a trace. -/
def Sys2Proof.Machine.PartitionsRequestsAreCarriedOut : Prop := ∀ (s : State) (r : CfgRef) (part n k num core i : Nat) (v : Word) (w : Wg),
  (wgNamed s part num = some (n, w) → w.saved = false → (r.owner = 0 ∨ r.owner = part + 1) →
    ∃ t, Done (.preemptWorkgroupRequest r part num) s r t ∧ ∀ d ∈ w.cores, (s.core d).run = .running → (t.core d).run = .halting) ∧
  (core < 576 → (r.owner = 0 ∨ clusterPart s (clusterOf core) = some i ∧ r.owner = i + 1) →
    (∃ t, Done (.debugBlockRequest r core 0x18 (some v)) s r t ∧ (t.core core).dbg.sel = v &&& 0xFFFFFFFF) ∧
    ∃ t, Done (.debugBlockRequest r core 0x10 none) s r t ∧ t.out = s.out ++ [.debug core 0x10 (s.core core).dbg.time]) ∧
  (k < 24 → (r.owner = 0 ∨ r.owner = 33 ∨ clusterPart s k = some i ∧ r.owner = i + 1) →
    ∃ t, Done (.flushTraceRequest r k) s r t ∧ t.clusters = (flushTrace s k).clusters)

/-- R473-R475: a request of Isastan's that another principal makes, or that breaks a rule, is refused, and so is one for what its requester does not
own or what does not exist: nothing changes but the status in its record. -/
def Sys2Proof.Machine.BadRequestsAreRefused : Prop := ∀ (s : State) (r : CfgRef) (p : PartSpec) (a : AssignSpec) (ts : TraceSpec)
    (part n k num core off die dest : Nat) (w0 w1 : Word) (v : Option Word) (ports : List Nat) (w : Wg),
  (r.owner ≠ 0 → Refuses (.createPartition r p) s r ∧ Refuses (.destroyPartition r part) s r ∧ Refuses (.writeRegionRegister r k n w0 w1) s r ∧
    Refuses (.assignResources r a) s r ∧ Refuses (.setupTraceReplay r ts) s r ∧ Refuses (.writeRoutingTable r die dest ports) s r) ∧
  ((tfind s.parts p.part ≠ none ∨ p.clusters = [] ∨ p.key = 0 ∨ 64 ≤ p.key ∨ (∃ e ∈ s.parts, e.2.key = p.key) ∨ p.spill.2 < 2 ^ 20 ∨
    (∃ e ∈ s.parts, e.1 ≠ p.part ∧ ∃ x ∈ p.clusters, x ∈ e.2.clusters)) → Refuses (.createPartition r p) s r) ∧
  (tfind s.parts part = none → Refuses (.destroyPartition r part) s r) ∧
  ((24 ≤ k ∨ 8 ≤ n) → Refuses (.writeRegionRegister r k n w0 w1) s r) ∧
  ((tfind s.parts a.part = none ∨ 16 < quotaSum (newQuotas s a)) → Refuses (.assignResources r a) s r) ∧
  ((ts.slots = 1 ∨ 64 < ts.slots) → Refuses (.setupTraceReplay r ts) s r) ∧
  ((2 ≤ die ∨ 4 < ports.length) → Refuses (.writeRoutingTable r die dest ports) s r) ∧
  ((wgNamed s part num = none ∨ wgNamed s part num = some (n, w) ∧ (w.saved = true ∨ r.owner ≠ 0 ∧ r.owner ≠ part + 1)) →
    Refuses (.preemptWorkgroupRequest r part num) s r) ∧
  ((576 ≤ core ∨ 128 ≤ off ∨ r.owner ≠ 0 ∧ (r.owner ≠ 33 ∨ off ≠ 0x28) ∧ ∀ i, clusterPart s (clusterOf core) = some i → r.owner ≠ i + 1) →
    Refuses (.debugBlockRequest r core off v) s r) ∧
  ((24 ≤ k ∨ r.owner ≠ 0 ∧ r.owner ≠ 33 ∧ ∀ i, clusterPart s k = some i → r.owner ≠ i + 1) → Refuses (.flushTraceRequest r k) s r)

/-- R401, R412, R430, R431, R473-R477: what the security processor does with the requests of Isastan and of the partitions, and the status it writes. -/
def Obligations.RequestsAreCarriedOut : Prop := PartitionsComeAndGo ∧ IsastansRequestsAreCarriedOut ∧ PartitionsRequestsAreCarriedOut ∧ BadRequestsAreRefused

/-! ## The debug block, trace and replay (R412-R418, R426-R440) -/

/-- R412-R418: a stop request stops a running core once its latches stand still and its requests are answered, with WHY, the time and the contexts' registers kept;
RESUME and STEP act on a stopped core alone; a step that is over stops with WHY 3, and one that waits with WHY 1; a request in another state sets ERR. A
resumed core that a pre-emption has saved stays halted. DBGDATA of a stopped core reads and writes the item that DBGSEL names, but for a pointer of
MODE 11, a format register that R44 fixes and the level; elsewhere it reads 0 and sets ERR. Of a CACHE bank it reads and writes the bytes that the L1
holds there, where a sector lies in a bank being log 58's, and the sector's dirty bytes staying as they were. A read of DBGSTAT clears POIS and ERR. When a step is over is log 36, and
what a write through class 1 changes is log 53. -/
def Obligations.DebuggerStopsAndSteps : Prop := ∀ (s : State) (c x i why whyctx wp : Nat) (v : Word) (e : Nat × Sector),
  let k := s.core c
  let d := k.dbg
  let kept := fun (t : State) => ∀ b y, (t.ctx b y).x = (s.ctx b y).x ∧ (t.ctx b y).pc = (s.ctx b y).pc ∧ (t.ctx b y).priv = (s.ctx b y).priv
  let only := fun (ins : Instr) (k' : Core) => exec ins s = .next (s.setCore c k')
  let stops := fun (t : State) => (t.core c).run = .stopped ∧ (t.core c).dbg.time = s.time ∧ t.mem = s.mem ∧
    ∀ y e, tfind k.ctxs y = some e → (t.ctx c y).x = e.x ∧ (t.ctx c y).priv = e.priv ∧ (t.ctx c y).pc = pcAtStop s c y
  let err := { k with dbg := { d with err := true } }
  let reads := fun (w : Word) (k' : Core) => ∃ t, exec (.dbgdataRead c) s = .next t ∧ t.out = s.out ++ [.debug c 0x20 w] ∧ t.core c = k' ∧ t.mem = s.mem
  let sel := fun (cls : Nat) => selClass d.sel = cls ∧ selCtx d.sel = x ∧ selIndex d.sel = i
  (k.run = .running → only (.dbgHaltreq c) { k with run := .stopping 1 0 0 }) ∧
  (k.run = .stopped ∨ k.run = .stopping why whyctx wp → only (.dbgHaltreq c) err) ∧
  (k.run = .running → only (.dbgResume c) err ∧ only (.dbgStep c) err) ∧
  (k.run = .stopping why whyctx wp → stopsNow s c = true → k.haltPend = false → c < 576 → (∀ e ∈ k.ctxs, e.1 < 16) →
    ∃ t, exec (.stopComplete c) s = .next t ∧ stops t ∧ (t.core c).dbg.why = why ∧ (t.core c).dbg.whyctx = whyctx ∧ (t.core c).dbg.wp = wp) ∧
  (k.run = .stopped → k.haltPend = true → ∃ t, exec (.dbgResume c) s = .next t ∧ (t.core c).run = (if k.image = none then .halting else .halted) ∧ kept t ∧ t.mem = s.mem) ∧
  (k.run = .stopped → k.held = [] → k.tiles = [] → k.haltPend = false →
    (∃ t, exec (.dbgResume c) s = .next t ∧ (t.core c).run = .running ∧ kept t ∧ t.mem = s.mem) ∧
    ((k.ctx (stepCtx k)).live = true →
      ∃ t, exec (.dbgStep c) s = .next t ∧ (t.core c).run = .stepping (stepCtx k) false ∧ kept t ∧ t.mem = s.mem) ∧
    ((k.ctx (stepCtx k)).live = false → only (.dbgStep c) err)) ∧
  (k.run = .stepping x true → (k.ctx x).wait = .none → (k.ctx x).recd = none → (k.stepWide = false ∨ k.wide.queue = []) → k.haltPend = false →
    c < 576 → (∀ e ∈ k.ctxs, e.1 < 16) →
    ∃ t, exec (.stepComplete c) s = .next t ∧ stops t ∧ (t.core c).dbg.why = 3 ∧ (t.core c).dbg.whyctx = x) ∧
  (k.run = .stepping x false → (k.ctx x).wait = .halt → only (.stepComplete c) { k with run := .stopping 1 0 0 }) ∧
  (k.run ≠ .stopped → reads 0 err ∧ only (.dbgdataWrite c v) err) ∧
  (k.run = .stopped → x < 11 → (k.ctx x).live = true →
    (sel 0 → i < 32 → reads (xread (k.ctx x) (BitVec.ofNat 5 i)) k ∧
      only (.dbgdataWrite c v) (k.setCtx x (xwrite (k.ctx x) (BitVec.ofNat 5 i) v))) ∧
    (sel 1 → i = 0x400 → ∃ t, exec (.dbgdataWrite c v) s = .next t ∧ (t.ctx c x).priv = (k.ctx x).priv) ∧
    (sel 2 → i = 0 → reads (k.ctx x).pc k ∧
      (v.toNat % 4 = 0 → only (.dbgdataWrite c v) (k.setCtx x { k.ctx x with pc := v })) ∧
      (v.toNat % 4 ≠ 0 → only (.dbgdataWrite c v) err))) ∧
  (k.run = .stopped → sel 3 → i < 8 → reads (k.wide.ptr.getD i 0) k ∧
    (v.toNat / 2 ^ 62 ≠ 3 → only (.dbgdataWrite c v) { k with wide := { k.wide with ptr := lset k.wide.ptr i v } }) ∧
    (v.toNat / 2 ^ 62 = 3 → only (.dbgdataWrite c v) k)) ∧
  (k.run = .stopped → sel 4 → i < 4 → exec (.dbgdataWrite c v) s = .next s) ∧
  (k.run = .stopped → sel 6 → i < 8 → reads (k.mb.toArray.getD i 0) k) ∧
  (k.run = .stopped → sel 7 → i < 262144 → bankSector k (8 * i) = none → 8 * i / 256 ∈ k.locPoison → ∃ t, exec (.dbgdataRead c) s = .next t ∧ (t.core c).dbg.pois = true) ∧
  (k.run = .stopped → sel 7 → i < 262144 → bankSector k (8 * i) = none → 8 * i / 256 ∉ k.locPoison →
    reads (wordOf ((List.range 8).map fun j => locByte s c (8 * i + j))) k ∧
    ∃ t, exec (.dbgdataWrite c v) s = .next t ∧ kept t ∧ t.mem = s.mem ∧
      ∀ a, locByte t c a = if 8 * i ≤ a ∧ a < 8 * i + 8 then BitVec.ofNat 8 (v.toNat / 2 ^ (8 * (a - 8 * i))) else locByte s c a) ∧
  (k.run = .stopped → sel 7 → i < 262144 → bankSector k (8 * i) = some e → e.2.pois = false →
    reads (wordOf ((e.2.bytes.drop (8 * i % 256)).take 8)) k ∧
    ∃ t f, exec (.dbgdataWrite c v) s = .next t ∧ t.mem = s.mem ∧ tfind (t.core c).l1 e.1 = some f ∧ f.pois = false ∧ f.dirty = e.2.dirty ∧
      f.bytes = e.2.bytes.take (8 * i % 256) ++ bytesOfNat 8 v.toNat ++ e.2.bytes.drop (8 * i % 256 + 8)) ∧
  (∃ t, exec (.dbgstatRead c) s = .next t ∧ t.out = s.out ++ [.debug c 8 (dbgStat k)] ∧ t.core c = { k with dbg := { d with pois := false, err := false } }) ∧
  (exec (.registerWrite (.debug c 0x18) v) s = .next (s.setCore c { k with dbg := { d with sel := v &&& 0xFFFFFFFF } }))

/-- R426-R433, R439: a SAMPLE holds the PC of the context that issued in the cycle it fell due in (of the control context, and what that waits for, where none did),
and that cycle, a COUNT record the six
counters, and the next is due one period on; a full segment goes to its slot of the staging ring with its SEQ first, and is sent; a write acknowledged
frees the oldest slot; a power-gate leaves no record in the cluster's buffers, and
the next segment of stream 0 opens with a LOSS record; the end of a replay log stops its cores. That each period has its record, and what a power gate seals, are log 37. -/
def Obligations.TraceRecordsAndSegments : Prop := ∀ (s : State) (c k st part num n : Nat) (w : Wg),
  let d := (s.core c).dbg
  let cl := s.cluster (clusterOf c)
  let clean := (s.core c).enc = [] ∧ (s.core c).lossOwed = 0 ∧ cl.buffer = [] ∧ cl.streams = []
  let m := stream s k st
  let pa := m.base + m.slot * 2 ^ 20
  let hit := issuedThen (s.core c)
  let x := if hit then ((s.core c).rr + 10) % 11 else 0
  (d.trctl.getLsbD 2 = true → clean → ∃ t, exec (.traceSample c) s = .next t ∧
    (t.cluster (clusterOf c)).buffer = [⟨s.time.toNat, 2, gidOf s.dev c x, if hit then 0 else sampleState (s.ctx c 0).wait, [(s.ctx c x).pc, BitVec.ofNat 64 d.sampleAt]⟩] ∧
    (t.core c).dbg.sampleAt = d.sampleAt + 2 ^ (d.trctl.toNat / 2 ^ 16 % 32)) ∧
  (d.trctl.getLsbD 2 = false → ∃ t, exec (.traceSample c) s = .next t ∧ t.clusters = s.clusters) ∧
  (d.trctl.getLsbD 10 = true → clean → ∃ t, exec (.traceCountRecord c) s = .next t ∧
    (t.cluster (clusterOf c)).buffer = [⟨s.time.toNat, 10, gidOf s.dev c 0, 0, d.counts⟩] ∧
    (t.core c).dbg.countAt = d.countAt + 2 ^ (16 + d.trctl.toNat / 2 ^ 28 % 16)) ∧
  (sealDue s k st = true → ∃ t, exec (.segmentSeal k st) s = .next t ∧ t.out = s.out ++ [.segment k st m.seq pa] ∧
    (stream t k st).seq = m.seq + 1 ∧ ∀ i, i < 8 → memByte t.mem (pa + i) = BitVec.ofNat 8 (m.seq / 2 ^ (8 * i))) ∧
  (∃ t, exec (.segmentWriteAck k st) s = .next t ∧ (stream t k st).sealed = m.sealed.drop 1 ∧ t.mem = s.mem) ∧
  (∃ t, exec (.powerGate k) s = .next t ∧ (t.cluster k).buffer = [] ∧ (∀ b ∈ clusterCores k, (t.core b).enc = []) ∧
    ((stream s k 0).slots ≠ 0 → ∃ r, r ∈ (stream t k 0).recs ∧ r.ty = 11 ∧ r.payload.getLast? = some (BitVec.ofNat 64 s.time.toNat))) ∧
  (wgNamed s part num = some (n, w) → logEnded s n w = true → ∃ t e, exec (.replayLogEnd part num) s = .next t ∧ tfind t.wgs n = some e ∧ e.mode = .off ∧
    t.mem = s.mem ∧ ∀ b ∈ w.cores, (t.core b).run = .stopped ∨ (t.core b).run = .stopping 6 0 0)

/-! ## Links, firmware, attestation, management and reset (R443-R454, R479-R485) -/

/-- R444-R448, R453: a port that trains is UP at 8 lanes, DEGRADED at 4 or 2, and knows its far end: one that was DOWN at the lanes that have come up,
one that trains again at the largest of those widths whose lanes all work; one that loses a lane it uses trains again, or is DOWN below two; a port
that goes down carries nothing; a retry is counted; the timebase of a device with a route to the reference takes a correction of one cycle, and that
of the reference, or of a device that has lost every route to it, none. -/
def Sys2Proof.Machine.PortsAndTimebase : Prop := ∀ (s : State) (n lanes : Nat) (ahead : Bool),
  let p := s.port n
  let sets := fun (i : Instr) (q : Port) => ∃ t, exec i s = .next t ∧ t.port n = q ∧ (∀ m, m ≠ n → t.port m = s.port m) ∧ t.mem = s.mem ∧ t.cores = s.cores
  (p.state = 0 → lanes = 8 ∨ lanes = 4 ∨ lanes = 2 → ∃ peer far, sets (.portRetrainComplete n lanes)
    { p with lanes := lanes, good := lanes, state := if lanes = 8 then 2 else 3, peer := peer, peerPort := far }) ∧
  (p.state = 1 →
    ((8 ≤ p.good ∧ lanes = 8 ∨ 4 ≤ p.good ∧ p.good < 8 ∧ lanes = 4 ∨ 2 ≤ p.good ∧ p.good < 4 ∧ lanes = 2) → ∃ peer far,
      sets (.portRetrainComplete n lanes) { p with lanes := lanes, state := if lanes = 8 then 2 else 3, peer := peer, peerPort := far }) ∧
    (p.good < lanes → exec (.portRetrainComplete n lanes) s = .next s)) ∧
  (lanes ≤ p.good →
    ((p.state = 2 ∨ p.state = 3) → lanes < p.lanes →
      (2 ≤ lanes → sets (.laneFailure n lanes) { p with lanes := 0, good := lanes, state := 1 }) ∧
      (lanes < 2 → sets (.laneFailure n lanes) { p with lanes := 0, good := lanes, state := 0 })) ∧
    (p.lanes ≤ lanes → sets (.laneFailure n lanes) { p with good := lanes })) ∧
  sets (.portDown n) { p with lanes := 0, state := 0 } ∧
  sets (.flitCrcRetry n) { p with retries := (p.retries + 1) % 2 ^ 32 } ∧
  (s.dev ≠ Config.refDevice → canLeave s 0 Config.refDevice = true → exec (.timebaseAlignment ahead) s = .next { s with slew := some ahead }) ∧
  ((s.dev = Config.refDevice ∨ canLeave s 0 Config.refDevice = false ∧ canLeave s 1 Config.refDevice = false) →
    exec (.timebaseAlignment ahead) s = .next s)

/-- R479-R484: the steps of a firmware update in their order, each reported: the table names one updatable component; the update asks for the image, block by
block; the transfer is complete when all of it has come; verification checks the signature and the version, and erases a copy that fails; apply
makes it pending; the command processor's activates live and opens a commit window, in which attestation requests wait; its end answers them, each with a signature, which is a free value. A power
limit up to 1,600 W is taken; a sensor is read (which readings those of the ports are, and
what a failed step leaves, is log 39). -/
def Obligations.FirmwareUpdatesInSteps : Prop := ∀ (s : State) (comp size version index watts sensor : Nat) (data : List Byte) (ok : Bool) (im : Nat × List Byte),
  let f := s.fw
  let steps := fun (i : Instr) (g : Firmware) (step c : Nat) (good : Bool) => ∃ t, exec i s = .next t ∧ t.fw = g ∧ t.mem = s.mem ∧ t.cores = s.cores ∧
    .pldm step c good ∈ t.out
  (comp ∈ [2, 3, 4] → steps (.pldmPassComponentTable [comp]) { f with table := [comp], stage := .idle, staged := [] } 1 comp true) ∧
  (comp ∉ [2, 3, 4] → steps (.pldmPassComponentTable [comp]) f 1 comp false) ∧
  (comp ∈ f.table → 1 ≤ size → steps (.pldmUpdateComponent comp size version)
    { f with stage := .transferring, comp := comp, size := size, version := version, staged := [] } 2 comp true) ∧
  (comp ∉ f.table → steps (.pldmUpdateComponent comp size version) f 2 comp false) ∧
  (f.stage = .transferring →
    (f.staged.length + data.length < f.size → data.length ≤ 65536 → ∃ t n, exec (.pldmRequestFirmwareData data) s = .next t ∧
      t.fw = { f with staged := f.staged ++ data } ∧ .pldmRequest (f.staged.length + data.length) n ∈ t.out ∧ t.mem = s.mem) ∧
    (f.staged.length = f.size → steps (.pldmTransferComplete true) { f with stage := .transferred } 3 f.comp true) ∧
    ((ok = false ∨ f.staged.length ≠ f.size) → steps (.pldmTransferComplete ok) { f with stage := .idle, staged := [] } 3 f.comp false)) ∧
  (f.stage = .transferred →
    (Config.signatureOk f.staged (shake256 64 f.staged) = true ∧ Config.minVersion ≤ f.version →
      steps .pldmVerifyComplete { f with stage := .verified } 4 f.comp true) ∧
    (Config.signatureOk f.staged (shake256 64 f.staged) = false ∨ f.version < Config.minVersion →
      steps .pldmVerifyComplete { f with stage := .failed, staged := [] } 4 f.comp false)) ∧
  (f.stage = .verified → steps .pldmApplyComplete
    { f with stage := .applied, pending := tput f.pending f.comp (f.version, f.staged), staged := [] } 5 f.comp true) ∧
  (tfind f.pending 4 = some im → ∃ t, exec .pldmActivateFirmware s = .next t ∧
    t.fw = { f with running := tput f.running 4 im, pending := tdel f.pending 4, window := some s.time.toNat } ∧ t.hostRegs.activating = true ∧
    .pldm 6 4 true ∈ t.out) ∧
  (tfind f.pending 4 = none → steps .pldmActivateFirmware f 6 f.comp (!f.pending.isEmpty)) ∧
  (f.window = none → ∃ t sig, exec (.spdmRequest index) s = .next t ∧ t.out = s.out ++ [.spdm index (measurement f index) sig] ∧ t.fw = f ∧
    t.mem = s.mem ∧ t.cores = s.cores) ∧
  (f.window.isSome = true → exec (.spdmRequest index) s = .next { s with fw := { f with held := f.held ++ [index] } }) ∧
  (∃ t sigs, exec .commitWindowEnd s = .next t ∧ t.fw = { f with window := none, held := [] } ∧ t.hostRegs.activating = false ∧
    sigs.length = f.held.length ∧ t.out = s.out ++ (f.held.zip sigs).map fun e => .spdm e.1 (measurement f e.1) e.2) ∧
  (watts ≤ 1600 → exec (.powerLimitSet watts) s = .next { s with power := watts }) ∧
  (1600 < watts → exec (.powerLimitSet watts) s = .next s) ∧
  (sensor < 18 → exec (.pldmPlatformRead sensor) s = .next (s.emit (.sensor sensor (portWord (s.port sensor)).toNat))) ∧
  (18 ≤ sensor → ∃ t v, exec (.pldmPlatformRead sensor) s = .next t ∧ t.out = s.out ++ [.sensor sensor v] ∧ t.mem = s.mem ∧ t.cores = s.cores)

/-- R483, R485, R13, R37: a package reset: no context is live; TIME and CYCLE are 0; memory and the local spaces are zero; no event, latch, workgroup or partition is left; every
bank has its default role; DEVICE holds the device's number, and STAGE and BOOTERR how bring-up ended: at stage 5, READY, with no error, the trace rings of every cluster and Isastan's ring set
up (where they lie is log 55). That each X register, each PC and the level are 0, is log 1. -/
def Obligations.PackageResetClears : Prop := ∀ (s : State) (err dev : Nat), err ≤ 7 → dev < 4096 →
  ∃ t, exec (.packageReset err dev) s = .next t ∧
    (∀ c x, (t.ctx c x).live = false ∧ (t.ctx c x).pc = 0 ∧ (∀ r, xread (t.ctx c x) r = 0) ∧ (t.ctx c x).priv = .u) ∧
    t.time = 0 ∧ t.cycle = 0 ∧ (∀ a, memByte t.mem a = 0) ∧ (∀ c a, locByte t c a = 0) ∧ (∀ e, t.home e = none) ∧
    (∀ l, (t.latch l).st = .idle) ∧ t.wgs = [] ∧ t.parts = [] ∧
    (∀ c b, b < 16 → (t.core c).role b = .cache) ∧ (∀ c b, 16 ≤ b → b < 24 → (t.core c).role b = .scratch) ∧
    (∀ c b, 24 ≤ b → b < 32 → (t.core c).role b = .operand) ∧ (∀ c n, (t.core c).mbFull.getLsbD n = false) ∧
    t.dev = dev ∧ t.hostRegs.device = dev ∧ t.hostRegs.booterr = err ∧ (t.hostRegs.ready = true ↔ err = 0) ∧ (t.hostRegs.fault = true ↔ err ≠ 0) ∧
    (err = 0 → t.hostRegs.stage = 5 ∧ t.isaRing.isSome = true ∧
      ∀ k st, k < 24 → st < 2 → 2 ≤ (stream t k st).slots ∧ (stream t k st).slots ≤ 64 ∧ (stream t k st).recs = [] ∧ (stream t k st).seq = 0)

/-! ## Encodings (R68-R80) -/

/-- R68-R80: encoding and then decoding a well-formed instruction gives it back: no bit of any operand of any form is dropped. (A machine event has
no words.) -/
def Obligations.DecodingInvertsEncoding : Prop := ∀ i : Instr, wellFormed i = true → encode i ≠ [] → decodeList (encode i) = .ok i

/-- R68-R80: the other direction: the words that decode to an instruction are the words that it encodes to, as many as LEN says, and the instruction is
well-formed. No two patterns of bits stand for one instruction. -/
def Obligations.EncodingInvertsDecoding : Prop := ∀ (ws : List Half) (i : Instr), ws.length = 5 → decodeList ws = .ok i →
  wellFormed i = true ∧ encode i = ws.take (wordCount (ws.getD 0 0))

/-- R74, R79: words written out from the encoding tables decode to the instructions they stand for; a word with an unassigned opcode, a LEN that its
opcode does not take, and a nonzero required-zero field are illegal under items 1, 2 and 4. -/
def Obligations.WordsOfTheTablesDecode : Prop :=
  decodeList [0x14140002] = .ok (.csrr 5 2) ∧ decodeList [0x1480C001] = .ok (.csrw 0 1 6) ∧ decodeList [0x16140012] = .ok (.mbr 5 2) ∧
  decodeList [0x1600E003] = .ok (.mbw 3 7) ∧ decodeList [0x16A40004] = .ok (.rand 9) ∧ decodeList [0x17000011] = .ok (.trap 17) ∧
  decodeList [0x121D0080] = .ok (.fclass 7 8 1) ∧ decodeList [0x00000000] = .illegal 1 ∧ decodeList [0x57000011] = .illegal 2 ∧
  decodeList [0x16840000] = .illegal 4

/-! ## The step, reset and the machine's invariants -/

/-- R164, R165: a step takes one of the possible moves. Where a context issues, it fetches the words at its PC (R70), decodes them, executes the instruction in
that state, with this context running and the next search starting after it, counts the issue (R434), notes for the debugger whether it has gone into
the wide queue (R417), drops the words it fetched outside the caches (R267), and lets time pass. -/
def Obligations.StepRunsTheDecodedInstruction : Prop := ∀ (s u : State) (c x : Nat) (ws : List Half) (i : Instr) (s1 t : State),
  (∀ m, chosen s (moves s) = some (m, u) → m ∈ moves s ∧ (u = s ∨ u = s.used)) ∧
  (moves s = [.issue c x] → chosen s (moves s) = some (.issue c x, s)) ∧
  (chosen s (moves s) = some (.issue c x, u) → fetchInstr (atIssue c x u) c x = .words ws s1 → decodeList ws = .ok i → exec i s1 = .next t →
    step s = .next (tick (noteWide c (s1.core c).wide.queue.length (dropFetched c x
      (countIssue c x (isRecordForm i && (s1.ctx c x).recd.isSome) t)))))

/-- The machine never stops (no condition of the spec stops the package for good): every instruction and every event answers a next state, and so does every step. -/
def Obligations.TheMachineGoesOn : Prop := (∀ (i : Instr) (s : State), ∃ t, exec i s = .next t) ∧ ∀ s : State, GoesOn s

/-- R1, R453: a step in which nothing can be done lets time pass: CYCLE moves on by one or more cycles, and TIME by as many, or by one less or one more
where a correction of the timebase is to be made. One is made in 64 cycles at most: it waits until 64 cycles after the latest one. How many cycles pass is log 2,
and which step makes the correction is log 39. -/
def Sys2Proof.Machine.IdleTimePasses : Prop := ∀ s : State, moves s = [] →
  ∃ n, 1 ≤ n ∧
    let made : Bool := s.slew.isSome && s.slewAt.all fun a => decide (a + 64 ≤ s.cycle.toNat + n)
    step s = .next { s with
      cycle := s.cycle + BitVec.ofNat 64 n
      time := s.time + BitVec.ofNat 64 (if made = false then n else if s.slew = some true then n - 1 else n + 1)
      slew := if made then none else s.slew
      slewAt := if made then some (s.cycle.toNat + n) else s.slewAt
      cores := countWaits n s.cores, draws := s.draws + 1, flagLog := flagNote s }

/-- R1, R444-R448, R453: ports, the timebase, and the passing of time. -/
def Obligations.PortsAndTime : Prop := PortsAndTimebase ∧ IdleTimePasses

/-- Memory holds its canonical form at reset. -/
def Obligations.ResetMemoryIsCanonical : Prop := MemCanonical State.reset

/-- Every step keeps memory in its canonical form: addresses strictly rising, no cell of value 0; equal contents stay equal data. -/
def Obligations.StepsKeepMemoryCanonical : Prop := ∀ s t : State, MemCanonical s → step s = .next t → MemCanonical t

/-- R16: no instruction but ERET changes the level of the context that executes it, other than by a trap entry: to S or H, not below its level, with its PC and its level
saved in the registers of the new level. -/
def Obligations.OnlyTrapsAndEretChangeTheLevel : Prop := ∀ (s t : State) (i : Instr), encode i ≠ [] → i ≠ .eret → exec i s = .next t →
  let k := s.me
  let k' := t.ctx s.cur.1 s.cur.2
  k'.priv = k.priv ∨
  (k.priv.code ≤ k'.priv.code ∧
    ((k'.priv = .s ∧ k'.epc = k.pc ∧ k'.status.toNat / 4 % 4 = k.priv.code) ∨
     (k'.priv = .h ∧ k'.hepc = k.pc ∧ k'.hstatus.toNat / 4 % 4 = k.priv.code)))
end

