-- ==== Sys2Proof/Laws/State.lean ====
section
/-!
SUPPORT. What the named updates of Ops.lean leave alone: one lemma per field and update, each by unfolding, so that no
later proof opens a record update; and what the updates of one context and one register leave alone.
-/

namespace Sys2Proof.Machine

open Sys2Proof

/-! ## `State.setCore` -/

@[simp] theorem State.setCore_latches (s : State) (c : Nat) (k : Core) : (s.setCore c k).latches = s.latches := rfl
@[simp] theorem State.setCore_homes (s : State) (c : Nat) (k : Core) : (s.setCore c k).homes = s.homes := rfl
@[simp] theorem State.setCore_ldoms (s : State) (c : Nat) (k : Core) : (s.setCore c k).ldoms = s.ldoms := rfl
@[simp] theorem State.setCore_probes (s : State) (c : Nat) (k : Core) : (s.setCore c k).probes = s.probes := rfl
@[simp] theorem State.setCore_clusters (s : State) (c : Nat) (k : Core) : (s.setCore c k).clusters = s.clusters := rfl
@[simp] theorem State.setCore_dies (s : State) (c : Nat) (k : Core) : (s.setCore c k).dies = s.dies := rfl
@[simp] theorem State.setCore_time (s : State) (c : Nat) (k : Core) : (s.setCore c k).time = s.time := rfl
@[simp] theorem State.setCore_cycle (s : State) (c : Nat) (k : Core) : (s.setCore c k).cycle = s.cycle := rfl
@[simp] theorem State.setCore_slew (s : State) (c : Nat) (k : Core) : (s.setCore c k).slew = s.slew := rfl
@[simp] theorem State.setCore_slewAt (s : State) (c : Nat) (k : Core) : (s.setCore c k).slewAt = s.slewAt := rfl
@[simp] theorem State.setCore_alignSent (s : State) (c : Nat) (k : Core) : (s.setCore c k).alignSent = s.alignSent := rfl
@[simp] theorem State.setCore_dev (s : State) (c : Nat) (k : Core) : (s.setCore c k).dev = s.dev := rfl
@[simp] theorem State.setCore_mem (s : State) (c : Nat) (k : Core) : (s.setCore c k).mem = s.mem := rfl
@[simp] theorem State.setCore_keyTag (s : State) (c : Nat) (k : Core) : (s.setCore c k).keyTag = s.keyTag := rfl
@[simp] theorem State.setCore_memPoison (s : State) (c : Nat) (k : Core) : (s.setCore c k).memPoison = s.memPoison := rfl
@[simp] theorem State.setCore_llc (s : State) (c : Nat) (k : Core) : (s.setCore c k).llc = s.llc := rfl
@[simp] theorem State.setCore_fsums (s : State) (c : Nat) (k : Core) : (s.setCore c k).fsums = s.fsums := rfl
@[simp] theorem State.setCore_quotas (s : State) (c : Nat) (k : Core) : (s.setCore c k).quotas = s.quotas := rfl
@[simp] theorem State.setCore_keyGen (s : State) (c : Nat) (k : Core) : (s.setCore c k).keyGen = s.keyGen := rfl
@[simp] theorem State.setCore_watches (s : State) (c : Nat) (k : Core) : (s.setCore c k).watches = s.watches := rfl
@[simp] theorem State.setCore_farWatches (s : State) (c : Nat) (k : Core) : (s.setCore c k).farWatches = s.farWatches := rfl
@[simp] theorem State.setCore_parts (s : State) (c : Nat) (k : Core) : (s.setCore c k).parts = s.parts := rfl
@[simp] theorem State.setCore_isaRing (s : State) (c : Nat) (k : Core) : (s.setCore c k).isaRing = s.isaRing := rfl
@[simp] theorem State.setCore_wgs (s : State) (c : Nat) (k : Core) : (s.setCore c k).wgs = s.wgs := rfl
@[simp] theorem State.setCore_nextWg (s : State) (c : Nat) (k : Core) : (s.setCore c k).nextWg = s.nextWg := rfl
@[simp] theorem State.setCore_replayNext (s : State) (c : Nat) (k : Core) : (s.setCore c k).replayNext = s.replayNext := rfl
@[simp] theorem State.setCore_replayLogs (s : State) (c : Nat) (k : Core) : (s.setCore c k).replayLogs = s.replayLogs := rfl
@[simp] theorem State.setCore_hostRegs (s : State) (c : Nat) (k : Core) : (s.setCore c k).hostRegs = s.hostRegs := rfl
@[simp] theorem State.setCore_queues (s : State) (c : Nat) (k : Core) : (s.setCore c k).queues = s.queues := rfl
@[simp] theorem State.setCore_ports (s : State) (c : Nat) (k : Core) : (s.setCore c k).ports = s.ports := rfl
@[simp] theorem State.setCore_fw (s : State) (c : Nat) (k : Core) : (s.setCore c k).fw = s.fw := rfl
@[simp] theorem State.setCore_power (s : State) (c : Nat) (k : Core) : (s.setCore c k).power = s.power := rfl
@[simp] theorem State.setCore_agenda (s : State) (c : Nat) (k : Core) : (s.setCore c k).agenda = s.agenda := rfl
@[simp] theorem State.setCore_links (s : State) (c : Nat) (k : Core) : (s.setCore c k).links = s.links := rfl
@[simp] theorem State.setCore_out (s : State) (c : Nat) (k : Core) : (s.setCore c k).out = s.out := rfl
@[simp] theorem State.setCore_draws (s : State) (c : Nat) (k : Core) : (s.setCore c k).draws = s.draws := rfl
@[simp] theorem State.setCore_flagLog (s : State) (c : Nat) (k : Core) : (s.setCore c k).flagLog = s.flagLog := rfl
@[simp] theorem State.setCore_cur (s : State) (c : Nat) (k : Core) : (s.setCore c k).cur = s.cur := rfl

/-! ## `State.updCore` -/

@[simp] theorem State.updCore_latches (s : State) (c : Nat) (f : Core → Core) : (s.updCore c f).latches = s.latches := rfl
@[simp] theorem State.updCore_homes (s : State) (c : Nat) (f : Core → Core) : (s.updCore c f).homes = s.homes := rfl
@[simp] theorem State.updCore_ldoms (s : State) (c : Nat) (f : Core → Core) : (s.updCore c f).ldoms = s.ldoms := rfl
@[simp] theorem State.updCore_probes (s : State) (c : Nat) (f : Core → Core) : (s.updCore c f).probes = s.probes := rfl
@[simp] theorem State.updCore_clusters (s : State) (c : Nat) (f : Core → Core) : (s.updCore c f).clusters = s.clusters := rfl
@[simp] theorem State.updCore_dies (s : State) (c : Nat) (f : Core → Core) : (s.updCore c f).dies = s.dies := rfl
@[simp] theorem State.updCore_time (s : State) (c : Nat) (f : Core → Core) : (s.updCore c f).time = s.time := rfl
@[simp] theorem State.updCore_cycle (s : State) (c : Nat) (f : Core → Core) : (s.updCore c f).cycle = s.cycle := rfl
@[simp] theorem State.updCore_slew (s : State) (c : Nat) (f : Core → Core) : (s.updCore c f).slew = s.slew := rfl
@[simp] theorem State.updCore_slewAt (s : State) (c : Nat) (f : Core → Core) : (s.updCore c f).slewAt = s.slewAt := rfl
@[simp] theorem State.updCore_alignSent (s : State) (c : Nat) (f : Core → Core) : (s.updCore c f).alignSent = s.alignSent := rfl
@[simp] theorem State.updCore_dev (s : State) (c : Nat) (f : Core → Core) : (s.updCore c f).dev = s.dev := rfl
@[simp] theorem State.updCore_mem (s : State) (c : Nat) (f : Core → Core) : (s.updCore c f).mem = s.mem := rfl
@[simp] theorem State.updCore_keyTag (s : State) (c : Nat) (f : Core → Core) : (s.updCore c f).keyTag = s.keyTag := rfl
@[simp] theorem State.updCore_memPoison (s : State) (c : Nat) (f : Core → Core) : (s.updCore c f).memPoison = s.memPoison := rfl
@[simp] theorem State.updCore_llc (s : State) (c : Nat) (f : Core → Core) : (s.updCore c f).llc = s.llc := rfl
@[simp] theorem State.updCore_fsums (s : State) (c : Nat) (f : Core → Core) : (s.updCore c f).fsums = s.fsums := rfl
@[simp] theorem State.updCore_quotas (s : State) (c : Nat) (f : Core → Core) : (s.updCore c f).quotas = s.quotas := rfl
@[simp] theorem State.updCore_keyGen (s : State) (c : Nat) (f : Core → Core) : (s.updCore c f).keyGen = s.keyGen := rfl
@[simp] theorem State.updCore_watches (s : State) (c : Nat) (f : Core → Core) : (s.updCore c f).watches = s.watches := rfl
@[simp] theorem State.updCore_farWatches (s : State) (c : Nat) (f : Core → Core) : (s.updCore c f).farWatches = s.farWatches := rfl
@[simp] theorem State.updCore_parts (s : State) (c : Nat) (f : Core → Core) : (s.updCore c f).parts = s.parts := rfl
@[simp] theorem State.updCore_isaRing (s : State) (c : Nat) (f : Core → Core) : (s.updCore c f).isaRing = s.isaRing := rfl
@[simp] theorem State.updCore_wgs (s : State) (c : Nat) (f : Core → Core) : (s.updCore c f).wgs = s.wgs := rfl
@[simp] theorem State.updCore_nextWg (s : State) (c : Nat) (f : Core → Core) : (s.updCore c f).nextWg = s.nextWg := rfl
@[simp] theorem State.updCore_replayNext (s : State) (c : Nat) (f : Core → Core) : (s.updCore c f).replayNext = s.replayNext := rfl
@[simp] theorem State.updCore_replayLogs (s : State) (c : Nat) (f : Core → Core) : (s.updCore c f).replayLogs = s.replayLogs := rfl
@[simp] theorem State.updCore_hostRegs (s : State) (c : Nat) (f : Core → Core) : (s.updCore c f).hostRegs = s.hostRegs := rfl
@[simp] theorem State.updCore_queues (s : State) (c : Nat) (f : Core → Core) : (s.updCore c f).queues = s.queues := rfl
@[simp] theorem State.updCore_ports (s : State) (c : Nat) (f : Core → Core) : (s.updCore c f).ports = s.ports := rfl
@[simp] theorem State.updCore_fw (s : State) (c : Nat) (f : Core → Core) : (s.updCore c f).fw = s.fw := rfl
@[simp] theorem State.updCore_power (s : State) (c : Nat) (f : Core → Core) : (s.updCore c f).power = s.power := rfl
@[simp] theorem State.updCore_agenda (s : State) (c : Nat) (f : Core → Core) : (s.updCore c f).agenda = s.agenda := rfl
@[simp] theorem State.updCore_links (s : State) (c : Nat) (f : Core → Core) : (s.updCore c f).links = s.links := rfl
@[simp] theorem State.updCore_out (s : State) (c : Nat) (f : Core → Core) : (s.updCore c f).out = s.out := rfl
@[simp] theorem State.updCore_draws (s : State) (c : Nat) (f : Core → Core) : (s.updCore c f).draws = s.draws := rfl
@[simp] theorem State.updCore_flagLog (s : State) (c : Nat) (f : Core → Core) : (s.updCore c f).flagLog = s.flagLog := rfl
@[simp] theorem State.updCore_cur (s : State) (c : Nat) (f : Core → Core) : (s.updCore c f).cur = s.cur := rfl

/-! ## `State.setCtx` -/

@[simp] theorem State.setCtx_latches (s : State) (c x : Nat) (v : Ctx) : (s.setCtx c x v).latches = s.latches := rfl
@[simp] theorem State.setCtx_homes (s : State) (c x : Nat) (v : Ctx) : (s.setCtx c x v).homes = s.homes := rfl
@[simp] theorem State.setCtx_ldoms (s : State) (c x : Nat) (v : Ctx) : (s.setCtx c x v).ldoms = s.ldoms := rfl
@[simp] theorem State.setCtx_probes (s : State) (c x : Nat) (v : Ctx) : (s.setCtx c x v).probes = s.probes := rfl
@[simp] theorem State.setCtx_clusters (s : State) (c x : Nat) (v : Ctx) : (s.setCtx c x v).clusters = s.clusters := rfl
@[simp] theorem State.setCtx_dies (s : State) (c x : Nat) (v : Ctx) : (s.setCtx c x v).dies = s.dies := rfl
@[simp] theorem State.setCtx_time (s : State) (c x : Nat) (v : Ctx) : (s.setCtx c x v).time = s.time := rfl
@[simp] theorem State.setCtx_cycle (s : State) (c x : Nat) (v : Ctx) : (s.setCtx c x v).cycle = s.cycle := rfl
@[simp] theorem State.setCtx_slew (s : State) (c x : Nat) (v : Ctx) : (s.setCtx c x v).slew = s.slew := rfl
@[simp] theorem State.setCtx_slewAt (s : State) (c x : Nat) (v : Ctx) : (s.setCtx c x v).slewAt = s.slewAt := rfl
@[simp] theorem State.setCtx_alignSent (s : State) (c x : Nat) (v : Ctx) : (s.setCtx c x v).alignSent = s.alignSent := rfl
@[simp] theorem State.setCtx_dev (s : State) (c x : Nat) (v : Ctx) : (s.setCtx c x v).dev = s.dev := rfl
@[simp] theorem State.setCtx_mem (s : State) (c x : Nat) (v : Ctx) : (s.setCtx c x v).mem = s.mem := rfl
@[simp] theorem State.setCtx_keyTag (s : State) (c x : Nat) (v : Ctx) : (s.setCtx c x v).keyTag = s.keyTag := rfl
@[simp] theorem State.setCtx_memPoison (s : State) (c x : Nat) (v : Ctx) : (s.setCtx c x v).memPoison = s.memPoison := rfl
@[simp] theorem State.setCtx_llc (s : State) (c x : Nat) (v : Ctx) : (s.setCtx c x v).llc = s.llc := rfl
@[simp] theorem State.setCtx_fsums (s : State) (c x : Nat) (v : Ctx) : (s.setCtx c x v).fsums = s.fsums := rfl
@[simp] theorem State.setCtx_quotas (s : State) (c x : Nat) (v : Ctx) : (s.setCtx c x v).quotas = s.quotas := rfl
@[simp] theorem State.setCtx_keyGen (s : State) (c x : Nat) (v : Ctx) : (s.setCtx c x v).keyGen = s.keyGen := rfl
@[simp] theorem State.setCtx_watches (s : State) (c x : Nat) (v : Ctx) : (s.setCtx c x v).watches = s.watches := rfl
@[simp] theorem State.setCtx_farWatches (s : State) (c x : Nat) (v : Ctx) : (s.setCtx c x v).farWatches = s.farWatches := rfl
@[simp] theorem State.setCtx_parts (s : State) (c x : Nat) (v : Ctx) : (s.setCtx c x v).parts = s.parts := rfl
@[simp] theorem State.setCtx_isaRing (s : State) (c x : Nat) (v : Ctx) : (s.setCtx c x v).isaRing = s.isaRing := rfl
@[simp] theorem State.setCtx_wgs (s : State) (c x : Nat) (v : Ctx) : (s.setCtx c x v).wgs = s.wgs := rfl
@[simp] theorem State.setCtx_nextWg (s : State) (c x : Nat) (v : Ctx) : (s.setCtx c x v).nextWg = s.nextWg := rfl
@[simp] theorem State.setCtx_replayNext (s : State) (c x : Nat) (v : Ctx) : (s.setCtx c x v).replayNext = s.replayNext := rfl
@[simp] theorem State.setCtx_replayLogs (s : State) (c x : Nat) (v : Ctx) : (s.setCtx c x v).replayLogs = s.replayLogs := rfl
@[simp] theorem State.setCtx_hostRegs (s : State) (c x : Nat) (v : Ctx) : (s.setCtx c x v).hostRegs = s.hostRegs := rfl
@[simp] theorem State.setCtx_queues (s : State) (c x : Nat) (v : Ctx) : (s.setCtx c x v).queues = s.queues := rfl
@[simp] theorem State.setCtx_ports (s : State) (c x : Nat) (v : Ctx) : (s.setCtx c x v).ports = s.ports := rfl
@[simp] theorem State.setCtx_fw (s : State) (c x : Nat) (v : Ctx) : (s.setCtx c x v).fw = s.fw := rfl
@[simp] theorem State.setCtx_power (s : State) (c x : Nat) (v : Ctx) : (s.setCtx c x v).power = s.power := rfl
@[simp] theorem State.setCtx_agenda (s : State) (c x : Nat) (v : Ctx) : (s.setCtx c x v).agenda = s.agenda := rfl
@[simp] theorem State.setCtx_links (s : State) (c x : Nat) (v : Ctx) : (s.setCtx c x v).links = s.links := rfl
@[simp] theorem State.setCtx_out (s : State) (c x : Nat) (v : Ctx) : (s.setCtx c x v).out = s.out := rfl
@[simp] theorem State.setCtx_draws (s : State) (c x : Nat) (v : Ctx) : (s.setCtx c x v).draws = s.draws := rfl
@[simp] theorem State.setCtx_flagLog (s : State) (c x : Nat) (v : Ctx) : (s.setCtx c x v).flagLog = s.flagLog := rfl
@[simp] theorem State.setCtx_cur (s : State) (c x : Nat) (v : Ctx) : (s.setCtx c x v).cur = s.cur := rfl

/-! ## `State.updCtx` -/

@[simp] theorem State.updCtx_latches (s : State) (c x : Nat) (f : Ctx → Ctx) : (s.updCtx c x f).latches = s.latches := rfl
@[simp] theorem State.updCtx_homes (s : State) (c x : Nat) (f : Ctx → Ctx) : (s.updCtx c x f).homes = s.homes := rfl
@[simp] theorem State.updCtx_ldoms (s : State) (c x : Nat) (f : Ctx → Ctx) : (s.updCtx c x f).ldoms = s.ldoms := rfl
@[simp] theorem State.updCtx_probes (s : State) (c x : Nat) (f : Ctx → Ctx) : (s.updCtx c x f).probes = s.probes := rfl
@[simp] theorem State.updCtx_clusters (s : State) (c x : Nat) (f : Ctx → Ctx) : (s.updCtx c x f).clusters = s.clusters := rfl
@[simp] theorem State.updCtx_dies (s : State) (c x : Nat) (f : Ctx → Ctx) : (s.updCtx c x f).dies = s.dies := rfl
@[simp] theorem State.updCtx_time (s : State) (c x : Nat) (f : Ctx → Ctx) : (s.updCtx c x f).time = s.time := rfl
@[simp] theorem State.updCtx_cycle (s : State) (c x : Nat) (f : Ctx → Ctx) : (s.updCtx c x f).cycle = s.cycle := rfl
@[simp] theorem State.updCtx_slew (s : State) (c x : Nat) (f : Ctx → Ctx) : (s.updCtx c x f).slew = s.slew := rfl
@[simp] theorem State.updCtx_slewAt (s : State) (c x : Nat) (f : Ctx → Ctx) : (s.updCtx c x f).slewAt = s.slewAt := rfl
@[simp] theorem State.updCtx_alignSent (s : State) (c x : Nat) (f : Ctx → Ctx) : (s.updCtx c x f).alignSent = s.alignSent := rfl
@[simp] theorem State.updCtx_dev (s : State) (c x : Nat) (f : Ctx → Ctx) : (s.updCtx c x f).dev = s.dev := rfl
@[simp] theorem State.updCtx_mem (s : State) (c x : Nat) (f : Ctx → Ctx) : (s.updCtx c x f).mem = s.mem := rfl
@[simp] theorem State.updCtx_keyTag (s : State) (c x : Nat) (f : Ctx → Ctx) : (s.updCtx c x f).keyTag = s.keyTag := rfl
@[simp] theorem State.updCtx_memPoison (s : State) (c x : Nat) (f : Ctx → Ctx) : (s.updCtx c x f).memPoison = s.memPoison := rfl
@[simp] theorem State.updCtx_llc (s : State) (c x : Nat) (f : Ctx → Ctx) : (s.updCtx c x f).llc = s.llc := rfl
@[simp] theorem State.updCtx_fsums (s : State) (c x : Nat) (f : Ctx → Ctx) : (s.updCtx c x f).fsums = s.fsums := rfl
@[simp] theorem State.updCtx_quotas (s : State) (c x : Nat) (f : Ctx → Ctx) : (s.updCtx c x f).quotas = s.quotas := rfl
@[simp] theorem State.updCtx_keyGen (s : State) (c x : Nat) (f : Ctx → Ctx) : (s.updCtx c x f).keyGen = s.keyGen := rfl
@[simp] theorem State.updCtx_watches (s : State) (c x : Nat) (f : Ctx → Ctx) : (s.updCtx c x f).watches = s.watches := rfl
@[simp] theorem State.updCtx_farWatches (s : State) (c x : Nat) (f : Ctx → Ctx) : (s.updCtx c x f).farWatches = s.farWatches := rfl
@[simp] theorem State.updCtx_parts (s : State) (c x : Nat) (f : Ctx → Ctx) : (s.updCtx c x f).parts = s.parts := rfl
@[simp] theorem State.updCtx_isaRing (s : State) (c x : Nat) (f : Ctx → Ctx) : (s.updCtx c x f).isaRing = s.isaRing := rfl
@[simp] theorem State.updCtx_wgs (s : State) (c x : Nat) (f : Ctx → Ctx) : (s.updCtx c x f).wgs = s.wgs := rfl
@[simp] theorem State.updCtx_nextWg (s : State) (c x : Nat) (f : Ctx → Ctx) : (s.updCtx c x f).nextWg = s.nextWg := rfl
@[simp] theorem State.updCtx_replayNext (s : State) (c x : Nat) (f : Ctx → Ctx) : (s.updCtx c x f).replayNext = s.replayNext := rfl
@[simp] theorem State.updCtx_replayLogs (s : State) (c x : Nat) (f : Ctx → Ctx) : (s.updCtx c x f).replayLogs = s.replayLogs := rfl
@[simp] theorem State.updCtx_hostRegs (s : State) (c x : Nat) (f : Ctx → Ctx) : (s.updCtx c x f).hostRegs = s.hostRegs := rfl
@[simp] theorem State.updCtx_queues (s : State) (c x : Nat) (f : Ctx → Ctx) : (s.updCtx c x f).queues = s.queues := rfl
@[simp] theorem State.updCtx_ports (s : State) (c x : Nat) (f : Ctx → Ctx) : (s.updCtx c x f).ports = s.ports := rfl
@[simp] theorem State.updCtx_fw (s : State) (c x : Nat) (f : Ctx → Ctx) : (s.updCtx c x f).fw = s.fw := rfl
@[simp] theorem State.updCtx_power (s : State) (c x : Nat) (f : Ctx → Ctx) : (s.updCtx c x f).power = s.power := rfl
@[simp] theorem State.updCtx_agenda (s : State) (c x : Nat) (f : Ctx → Ctx) : (s.updCtx c x f).agenda = s.agenda := rfl
@[simp] theorem State.updCtx_links (s : State) (c x : Nat) (f : Ctx → Ctx) : (s.updCtx c x f).links = s.links := rfl
@[simp] theorem State.updCtx_out (s : State) (c x : Nat) (f : Ctx → Ctx) : (s.updCtx c x f).out = s.out := rfl
@[simp] theorem State.updCtx_draws (s : State) (c x : Nat) (f : Ctx → Ctx) : (s.updCtx c x f).draws = s.draws := rfl
@[simp] theorem State.updCtx_flagLog (s : State) (c x : Nat) (f : Ctx → Ctx) : (s.updCtx c x f).flagLog = s.flagLog := rfl
@[simp] theorem State.updCtx_cur (s : State) (c x : Nat) (f : Ctx → Ctx) : (s.updCtx c x f).cur = s.cur := rfl

/-! ## `State.setMe` -/

@[simp] theorem State.setMe_latches (s : State) (v : Ctx) : (s.setMe v).latches = s.latches := rfl
@[simp] theorem State.setMe_homes (s : State) (v : Ctx) : (s.setMe v).homes = s.homes := rfl
@[simp] theorem State.setMe_ldoms (s : State) (v : Ctx) : (s.setMe v).ldoms = s.ldoms := rfl
@[simp] theorem State.setMe_probes (s : State) (v : Ctx) : (s.setMe v).probes = s.probes := rfl
@[simp] theorem State.setMe_clusters (s : State) (v : Ctx) : (s.setMe v).clusters = s.clusters := rfl
@[simp] theorem State.setMe_dies (s : State) (v : Ctx) : (s.setMe v).dies = s.dies := rfl
@[simp] theorem State.setMe_time (s : State) (v : Ctx) : (s.setMe v).time = s.time := rfl
@[simp] theorem State.setMe_cycle (s : State) (v : Ctx) : (s.setMe v).cycle = s.cycle := rfl
@[simp] theorem State.setMe_slew (s : State) (v : Ctx) : (s.setMe v).slew = s.slew := rfl
@[simp] theorem State.setMe_slewAt (s : State) (v : Ctx) : (s.setMe v).slewAt = s.slewAt := rfl
@[simp] theorem State.setMe_alignSent (s : State) (v : Ctx) : (s.setMe v).alignSent = s.alignSent := rfl
@[simp] theorem State.setMe_dev (s : State) (v : Ctx) : (s.setMe v).dev = s.dev := rfl
@[simp] theorem State.setMe_mem (s : State) (v : Ctx) : (s.setMe v).mem = s.mem := rfl
@[simp] theorem State.setMe_keyTag (s : State) (v : Ctx) : (s.setMe v).keyTag = s.keyTag := rfl
@[simp] theorem State.setMe_memPoison (s : State) (v : Ctx) : (s.setMe v).memPoison = s.memPoison := rfl
@[simp] theorem State.setMe_llc (s : State) (v : Ctx) : (s.setMe v).llc = s.llc := rfl
@[simp] theorem State.setMe_fsums (s : State) (v : Ctx) : (s.setMe v).fsums = s.fsums := rfl
@[simp] theorem State.setMe_quotas (s : State) (v : Ctx) : (s.setMe v).quotas = s.quotas := rfl
@[simp] theorem State.setMe_keyGen (s : State) (v : Ctx) : (s.setMe v).keyGen = s.keyGen := rfl
@[simp] theorem State.setMe_watches (s : State) (v : Ctx) : (s.setMe v).watches = s.watches := rfl
@[simp] theorem State.setMe_farWatches (s : State) (v : Ctx) : (s.setMe v).farWatches = s.farWatches := rfl
@[simp] theorem State.setMe_parts (s : State) (v : Ctx) : (s.setMe v).parts = s.parts := rfl
@[simp] theorem State.setMe_isaRing (s : State) (v : Ctx) : (s.setMe v).isaRing = s.isaRing := rfl
@[simp] theorem State.setMe_wgs (s : State) (v : Ctx) : (s.setMe v).wgs = s.wgs := rfl
@[simp] theorem State.setMe_nextWg (s : State) (v : Ctx) : (s.setMe v).nextWg = s.nextWg := rfl
@[simp] theorem State.setMe_replayNext (s : State) (v : Ctx) : (s.setMe v).replayNext = s.replayNext := rfl
@[simp] theorem State.setMe_replayLogs (s : State) (v : Ctx) : (s.setMe v).replayLogs = s.replayLogs := rfl
@[simp] theorem State.setMe_hostRegs (s : State) (v : Ctx) : (s.setMe v).hostRegs = s.hostRegs := rfl
@[simp] theorem State.setMe_queues (s : State) (v : Ctx) : (s.setMe v).queues = s.queues := rfl
@[simp] theorem State.setMe_ports (s : State) (v : Ctx) : (s.setMe v).ports = s.ports := rfl
@[simp] theorem State.setMe_fw (s : State) (v : Ctx) : (s.setMe v).fw = s.fw := rfl
@[simp] theorem State.setMe_power (s : State) (v : Ctx) : (s.setMe v).power = s.power := rfl
@[simp] theorem State.setMe_agenda (s : State) (v : Ctx) : (s.setMe v).agenda = s.agenda := rfl
@[simp] theorem State.setMe_links (s : State) (v : Ctx) : (s.setMe v).links = s.links := rfl
@[simp] theorem State.setMe_out (s : State) (v : Ctx) : (s.setMe v).out = s.out := rfl
@[simp] theorem State.setMe_draws (s : State) (v : Ctx) : (s.setMe v).draws = s.draws := rfl
@[simp] theorem State.setMe_flagLog (s : State) (v : Ctx) : (s.setMe v).flagLog = s.flagLog := rfl
@[simp] theorem State.setMe_cur (s : State) (v : Ctx) : (s.setMe v).cur = s.cur := rfl

/-! ## `State.setMyCore` -/

@[simp] theorem State.setMyCore_latches (s : State) (k : Core) : (s.setMyCore k).latches = s.latches := rfl
@[simp] theorem State.setMyCore_homes (s : State) (k : Core) : (s.setMyCore k).homes = s.homes := rfl
@[simp] theorem State.setMyCore_ldoms (s : State) (k : Core) : (s.setMyCore k).ldoms = s.ldoms := rfl
@[simp] theorem State.setMyCore_probes (s : State) (k : Core) : (s.setMyCore k).probes = s.probes := rfl
@[simp] theorem State.setMyCore_clusters (s : State) (k : Core) : (s.setMyCore k).clusters = s.clusters := rfl
@[simp] theorem State.setMyCore_dies (s : State) (k : Core) : (s.setMyCore k).dies = s.dies := rfl
@[simp] theorem State.setMyCore_time (s : State) (k : Core) : (s.setMyCore k).time = s.time := rfl
@[simp] theorem State.setMyCore_cycle (s : State) (k : Core) : (s.setMyCore k).cycle = s.cycle := rfl
@[simp] theorem State.setMyCore_slew (s : State) (k : Core) : (s.setMyCore k).slew = s.slew := rfl
@[simp] theorem State.setMyCore_slewAt (s : State) (k : Core) : (s.setMyCore k).slewAt = s.slewAt := rfl
@[simp] theorem State.setMyCore_alignSent (s : State) (k : Core) : (s.setMyCore k).alignSent = s.alignSent := rfl
@[simp] theorem State.setMyCore_dev (s : State) (k : Core) : (s.setMyCore k).dev = s.dev := rfl
@[simp] theorem State.setMyCore_mem (s : State) (k : Core) : (s.setMyCore k).mem = s.mem := rfl
@[simp] theorem State.setMyCore_keyTag (s : State) (k : Core) : (s.setMyCore k).keyTag = s.keyTag := rfl
@[simp] theorem State.setMyCore_memPoison (s : State) (k : Core) : (s.setMyCore k).memPoison = s.memPoison := rfl
@[simp] theorem State.setMyCore_llc (s : State) (k : Core) : (s.setMyCore k).llc = s.llc := rfl
@[simp] theorem State.setMyCore_fsums (s : State) (k : Core) : (s.setMyCore k).fsums = s.fsums := rfl
@[simp] theorem State.setMyCore_quotas (s : State) (k : Core) : (s.setMyCore k).quotas = s.quotas := rfl
@[simp] theorem State.setMyCore_keyGen (s : State) (k : Core) : (s.setMyCore k).keyGen = s.keyGen := rfl
@[simp] theorem State.setMyCore_watches (s : State) (k : Core) : (s.setMyCore k).watches = s.watches := rfl
@[simp] theorem State.setMyCore_farWatches (s : State) (k : Core) : (s.setMyCore k).farWatches = s.farWatches := rfl
@[simp] theorem State.setMyCore_parts (s : State) (k : Core) : (s.setMyCore k).parts = s.parts := rfl
@[simp] theorem State.setMyCore_isaRing (s : State) (k : Core) : (s.setMyCore k).isaRing = s.isaRing := rfl
@[simp] theorem State.setMyCore_wgs (s : State) (k : Core) : (s.setMyCore k).wgs = s.wgs := rfl
@[simp] theorem State.setMyCore_nextWg (s : State) (k : Core) : (s.setMyCore k).nextWg = s.nextWg := rfl
@[simp] theorem State.setMyCore_replayNext (s : State) (k : Core) : (s.setMyCore k).replayNext = s.replayNext := rfl
@[simp] theorem State.setMyCore_replayLogs (s : State) (k : Core) : (s.setMyCore k).replayLogs = s.replayLogs := rfl
@[simp] theorem State.setMyCore_hostRegs (s : State) (k : Core) : (s.setMyCore k).hostRegs = s.hostRegs := rfl
@[simp] theorem State.setMyCore_queues (s : State) (k : Core) : (s.setMyCore k).queues = s.queues := rfl
@[simp] theorem State.setMyCore_ports (s : State) (k : Core) : (s.setMyCore k).ports = s.ports := rfl
@[simp] theorem State.setMyCore_fw (s : State) (k : Core) : (s.setMyCore k).fw = s.fw := rfl
@[simp] theorem State.setMyCore_power (s : State) (k : Core) : (s.setMyCore k).power = s.power := rfl
@[simp] theorem State.setMyCore_agenda (s : State) (k : Core) : (s.setMyCore k).agenda = s.agenda := rfl
@[simp] theorem State.setMyCore_links (s : State) (k : Core) : (s.setMyCore k).links = s.links := rfl
@[simp] theorem State.setMyCore_out (s : State) (k : Core) : (s.setMyCore k).out = s.out := rfl
@[simp] theorem State.setMyCore_draws (s : State) (k : Core) : (s.setMyCore k).draws = s.draws := rfl
@[simp] theorem State.setMyCore_flagLog (s : State) (k : Core) : (s.setMyCore k).flagLog = s.flagLog := rfl
@[simp] theorem State.setMyCore_cur (s : State) (k : Core) : (s.setMyCore k).cur = s.cur := rfl

/-! ## `State.setCluster` -/

@[simp] theorem State.setCluster_cores (s : State) (n : Nat) (v : Cluster) : (s.setCluster n v).cores = s.cores := rfl
@[simp] theorem State.setCluster_latches (s : State) (n : Nat) (v : Cluster) : (s.setCluster n v).latches = s.latches := rfl
@[simp] theorem State.setCluster_homes (s : State) (n : Nat) (v : Cluster) : (s.setCluster n v).homes = s.homes := rfl
@[simp] theorem State.setCluster_ldoms (s : State) (n : Nat) (v : Cluster) : (s.setCluster n v).ldoms = s.ldoms := rfl
@[simp] theorem State.setCluster_probes (s : State) (n : Nat) (v : Cluster) : (s.setCluster n v).probes = s.probes := rfl
@[simp] theorem State.setCluster_dies (s : State) (n : Nat) (v : Cluster) : (s.setCluster n v).dies = s.dies := rfl
@[simp] theorem State.setCluster_time (s : State) (n : Nat) (v : Cluster) : (s.setCluster n v).time = s.time := rfl
@[simp] theorem State.setCluster_cycle (s : State) (n : Nat) (v : Cluster) : (s.setCluster n v).cycle = s.cycle := rfl
@[simp] theorem State.setCluster_slew (s : State) (n : Nat) (v : Cluster) : (s.setCluster n v).slew = s.slew := rfl
@[simp] theorem State.setCluster_slewAt (s : State) (n : Nat) (v : Cluster) : (s.setCluster n v).slewAt = s.slewAt := rfl
@[simp] theorem State.setCluster_alignSent (s : State) (n : Nat) (v : Cluster) : (s.setCluster n v).alignSent = s.alignSent := rfl
@[simp] theorem State.setCluster_dev (s : State) (n : Nat) (v : Cluster) : (s.setCluster n v).dev = s.dev := rfl
@[simp] theorem State.setCluster_mem (s : State) (n : Nat) (v : Cluster) : (s.setCluster n v).mem = s.mem := rfl
@[simp] theorem State.setCluster_keyTag (s : State) (n : Nat) (v : Cluster) : (s.setCluster n v).keyTag = s.keyTag := rfl
@[simp] theorem State.setCluster_memPoison (s : State) (n : Nat) (v : Cluster) : (s.setCluster n v).memPoison = s.memPoison := rfl
@[simp] theorem State.setCluster_llc (s : State) (n : Nat) (v : Cluster) : (s.setCluster n v).llc = s.llc := rfl
@[simp] theorem State.setCluster_fsums (s : State) (n : Nat) (v : Cluster) : (s.setCluster n v).fsums = s.fsums := rfl
@[simp] theorem State.setCluster_quotas (s : State) (n : Nat) (v : Cluster) : (s.setCluster n v).quotas = s.quotas := rfl
@[simp] theorem State.setCluster_keyGen (s : State) (n : Nat) (v : Cluster) : (s.setCluster n v).keyGen = s.keyGen := rfl
@[simp] theorem State.setCluster_watches (s : State) (n : Nat) (v : Cluster) : (s.setCluster n v).watches = s.watches := rfl
@[simp] theorem State.setCluster_farWatches (s : State) (n : Nat) (v : Cluster) : (s.setCluster n v).farWatches = s.farWatches := rfl
@[simp] theorem State.setCluster_parts (s : State) (n : Nat) (v : Cluster) : (s.setCluster n v).parts = s.parts := rfl
@[simp] theorem State.setCluster_isaRing (s : State) (n : Nat) (v : Cluster) : (s.setCluster n v).isaRing = s.isaRing := rfl
@[simp] theorem State.setCluster_wgs (s : State) (n : Nat) (v : Cluster) : (s.setCluster n v).wgs = s.wgs := rfl
@[simp] theorem State.setCluster_nextWg (s : State) (n : Nat) (v : Cluster) : (s.setCluster n v).nextWg = s.nextWg := rfl
@[simp] theorem State.setCluster_replayNext (s : State) (n : Nat) (v : Cluster) : (s.setCluster n v).replayNext = s.replayNext := rfl
@[simp] theorem State.setCluster_replayLogs (s : State) (n : Nat) (v : Cluster) : (s.setCluster n v).replayLogs = s.replayLogs := rfl
@[simp] theorem State.setCluster_hostRegs (s : State) (n : Nat) (v : Cluster) : (s.setCluster n v).hostRegs = s.hostRegs := rfl
@[simp] theorem State.setCluster_queues (s : State) (n : Nat) (v : Cluster) : (s.setCluster n v).queues = s.queues := rfl
@[simp] theorem State.setCluster_ports (s : State) (n : Nat) (v : Cluster) : (s.setCluster n v).ports = s.ports := rfl
@[simp] theorem State.setCluster_fw (s : State) (n : Nat) (v : Cluster) : (s.setCluster n v).fw = s.fw := rfl
@[simp] theorem State.setCluster_power (s : State) (n : Nat) (v : Cluster) : (s.setCluster n v).power = s.power := rfl
@[simp] theorem State.setCluster_agenda (s : State) (n : Nat) (v : Cluster) : (s.setCluster n v).agenda = s.agenda := rfl
@[simp] theorem State.setCluster_links (s : State) (n : Nat) (v : Cluster) : (s.setCluster n v).links = s.links := rfl
@[simp] theorem State.setCluster_out (s : State) (n : Nat) (v : Cluster) : (s.setCluster n v).out = s.out := rfl
@[simp] theorem State.setCluster_draws (s : State) (n : Nat) (v : Cluster) : (s.setCluster n v).draws = s.draws := rfl
@[simp] theorem State.setCluster_flagLog (s : State) (n : Nat) (v : Cluster) : (s.setCluster n v).flagLog = s.flagLog := rfl
@[simp] theorem State.setCluster_cur (s : State) (n : Nat) (v : Cluster) : (s.setCluster n v).cur = s.cur := rfl

/-! ## `State.setDie` -/

@[simp] theorem State.setDie_cores (s : State) (n : Nat) (v : Die) : (s.setDie n v).cores = s.cores := rfl
@[simp] theorem State.setDie_latches (s : State) (n : Nat) (v : Die) : (s.setDie n v).latches = s.latches := rfl
@[simp] theorem State.setDie_homes (s : State) (n : Nat) (v : Die) : (s.setDie n v).homes = s.homes := rfl
@[simp] theorem State.setDie_ldoms (s : State) (n : Nat) (v : Die) : (s.setDie n v).ldoms = s.ldoms := rfl
@[simp] theorem State.setDie_probes (s : State) (n : Nat) (v : Die) : (s.setDie n v).probes = s.probes := rfl
@[simp] theorem State.setDie_clusters (s : State) (n : Nat) (v : Die) : (s.setDie n v).clusters = s.clusters := rfl
@[simp] theorem State.setDie_time (s : State) (n : Nat) (v : Die) : (s.setDie n v).time = s.time := rfl
@[simp] theorem State.setDie_cycle (s : State) (n : Nat) (v : Die) : (s.setDie n v).cycle = s.cycle := rfl
@[simp] theorem State.setDie_slew (s : State) (n : Nat) (v : Die) : (s.setDie n v).slew = s.slew := rfl
@[simp] theorem State.setDie_slewAt (s : State) (n : Nat) (v : Die) : (s.setDie n v).slewAt = s.slewAt := rfl
@[simp] theorem State.setDie_alignSent (s : State) (n : Nat) (v : Die) : (s.setDie n v).alignSent = s.alignSent := rfl
@[simp] theorem State.setDie_dev (s : State) (n : Nat) (v : Die) : (s.setDie n v).dev = s.dev := rfl
@[simp] theorem State.setDie_mem (s : State) (n : Nat) (v : Die) : (s.setDie n v).mem = s.mem := rfl
@[simp] theorem State.setDie_keyTag (s : State) (n : Nat) (v : Die) : (s.setDie n v).keyTag = s.keyTag := rfl
@[simp] theorem State.setDie_memPoison (s : State) (n : Nat) (v : Die) : (s.setDie n v).memPoison = s.memPoison := rfl
@[simp] theorem State.setDie_llc (s : State) (n : Nat) (v : Die) : (s.setDie n v).llc = s.llc := rfl
@[simp] theorem State.setDie_fsums (s : State) (n : Nat) (v : Die) : (s.setDie n v).fsums = s.fsums := rfl
@[simp] theorem State.setDie_quotas (s : State) (n : Nat) (v : Die) : (s.setDie n v).quotas = s.quotas := rfl
@[simp] theorem State.setDie_keyGen (s : State) (n : Nat) (v : Die) : (s.setDie n v).keyGen = s.keyGen := rfl
@[simp] theorem State.setDie_watches (s : State) (n : Nat) (v : Die) : (s.setDie n v).watches = s.watches := rfl
@[simp] theorem State.setDie_farWatches (s : State) (n : Nat) (v : Die) : (s.setDie n v).farWatches = s.farWatches := rfl
@[simp] theorem State.setDie_parts (s : State) (n : Nat) (v : Die) : (s.setDie n v).parts = s.parts := rfl
@[simp] theorem State.setDie_isaRing (s : State) (n : Nat) (v : Die) : (s.setDie n v).isaRing = s.isaRing := rfl
@[simp] theorem State.setDie_wgs (s : State) (n : Nat) (v : Die) : (s.setDie n v).wgs = s.wgs := rfl
@[simp] theorem State.setDie_nextWg (s : State) (n : Nat) (v : Die) : (s.setDie n v).nextWg = s.nextWg := rfl
@[simp] theorem State.setDie_replayNext (s : State) (n : Nat) (v : Die) : (s.setDie n v).replayNext = s.replayNext := rfl
@[simp] theorem State.setDie_replayLogs (s : State) (n : Nat) (v : Die) : (s.setDie n v).replayLogs = s.replayLogs := rfl
@[simp] theorem State.setDie_hostRegs (s : State) (n : Nat) (v : Die) : (s.setDie n v).hostRegs = s.hostRegs := rfl
@[simp] theorem State.setDie_queues (s : State) (n : Nat) (v : Die) : (s.setDie n v).queues = s.queues := rfl
@[simp] theorem State.setDie_ports (s : State) (n : Nat) (v : Die) : (s.setDie n v).ports = s.ports := rfl
@[simp] theorem State.setDie_fw (s : State) (n : Nat) (v : Die) : (s.setDie n v).fw = s.fw := rfl
@[simp] theorem State.setDie_power (s : State) (n : Nat) (v : Die) : (s.setDie n v).power = s.power := rfl
@[simp] theorem State.setDie_agenda (s : State) (n : Nat) (v : Die) : (s.setDie n v).agenda = s.agenda := rfl
@[simp] theorem State.setDie_links (s : State) (n : Nat) (v : Die) : (s.setDie n v).links = s.links := rfl
@[simp] theorem State.setDie_out (s : State) (n : Nat) (v : Die) : (s.setDie n v).out = s.out := rfl
@[simp] theorem State.setDie_draws (s : State) (n : Nat) (v : Die) : (s.setDie n v).draws = s.draws := rfl
@[simp] theorem State.setDie_flagLog (s : State) (n : Nat) (v : Die) : (s.setDie n v).flagLog = s.flagLog := rfl
@[simp] theorem State.setDie_cur (s : State) (n : Nat) (v : Die) : (s.setDie n v).cur = s.cur := rfl

/-! ## `State.setQueue` -/

@[simp] theorem State.setQueue_cores (s : State) (n : Nat) (v : Queue) : (s.setQueue n v).cores = s.cores := rfl
@[simp] theorem State.setQueue_latches (s : State) (n : Nat) (v : Queue) : (s.setQueue n v).latches = s.latches := rfl
@[simp] theorem State.setQueue_homes (s : State) (n : Nat) (v : Queue) : (s.setQueue n v).homes = s.homes := rfl
@[simp] theorem State.setQueue_ldoms (s : State) (n : Nat) (v : Queue) : (s.setQueue n v).ldoms = s.ldoms := rfl
@[simp] theorem State.setQueue_probes (s : State) (n : Nat) (v : Queue) : (s.setQueue n v).probes = s.probes := rfl
@[simp] theorem State.setQueue_clusters (s : State) (n : Nat) (v : Queue) : (s.setQueue n v).clusters = s.clusters := rfl
@[simp] theorem State.setQueue_dies (s : State) (n : Nat) (v : Queue) : (s.setQueue n v).dies = s.dies := rfl
@[simp] theorem State.setQueue_time (s : State) (n : Nat) (v : Queue) : (s.setQueue n v).time = s.time := rfl
@[simp] theorem State.setQueue_cycle (s : State) (n : Nat) (v : Queue) : (s.setQueue n v).cycle = s.cycle := rfl
@[simp] theorem State.setQueue_slew (s : State) (n : Nat) (v : Queue) : (s.setQueue n v).slew = s.slew := rfl
@[simp] theorem State.setQueue_slewAt (s : State) (n : Nat) (v : Queue) : (s.setQueue n v).slewAt = s.slewAt := rfl
@[simp] theorem State.setQueue_alignSent (s : State) (n : Nat) (v : Queue) : (s.setQueue n v).alignSent = s.alignSent := rfl
@[simp] theorem State.setQueue_dev (s : State) (n : Nat) (v : Queue) : (s.setQueue n v).dev = s.dev := rfl
@[simp] theorem State.setQueue_mem (s : State) (n : Nat) (v : Queue) : (s.setQueue n v).mem = s.mem := rfl
@[simp] theorem State.setQueue_keyTag (s : State) (n : Nat) (v : Queue) : (s.setQueue n v).keyTag = s.keyTag := rfl
@[simp] theorem State.setQueue_memPoison (s : State) (n : Nat) (v : Queue) : (s.setQueue n v).memPoison = s.memPoison := rfl
@[simp] theorem State.setQueue_llc (s : State) (n : Nat) (v : Queue) : (s.setQueue n v).llc = s.llc := rfl
@[simp] theorem State.setQueue_fsums (s : State) (n : Nat) (v : Queue) : (s.setQueue n v).fsums = s.fsums := rfl
@[simp] theorem State.setQueue_quotas (s : State) (n : Nat) (v : Queue) : (s.setQueue n v).quotas = s.quotas := rfl
@[simp] theorem State.setQueue_keyGen (s : State) (n : Nat) (v : Queue) : (s.setQueue n v).keyGen = s.keyGen := rfl
@[simp] theorem State.setQueue_watches (s : State) (n : Nat) (v : Queue) : (s.setQueue n v).watches = s.watches := rfl
@[simp] theorem State.setQueue_farWatches (s : State) (n : Nat) (v : Queue) : (s.setQueue n v).farWatches = s.farWatches := rfl
@[simp] theorem State.setQueue_parts (s : State) (n : Nat) (v : Queue) : (s.setQueue n v).parts = s.parts := rfl
@[simp] theorem State.setQueue_isaRing (s : State) (n : Nat) (v : Queue) : (s.setQueue n v).isaRing = s.isaRing := rfl
@[simp] theorem State.setQueue_wgs (s : State) (n : Nat) (v : Queue) : (s.setQueue n v).wgs = s.wgs := rfl
@[simp] theorem State.setQueue_nextWg (s : State) (n : Nat) (v : Queue) : (s.setQueue n v).nextWg = s.nextWg := rfl
@[simp] theorem State.setQueue_replayNext (s : State) (n : Nat) (v : Queue) : (s.setQueue n v).replayNext = s.replayNext := rfl
@[simp] theorem State.setQueue_replayLogs (s : State) (n : Nat) (v : Queue) : (s.setQueue n v).replayLogs = s.replayLogs := rfl
@[simp] theorem State.setQueue_hostRegs (s : State) (n : Nat) (v : Queue) : (s.setQueue n v).hostRegs = s.hostRegs := rfl
@[simp] theorem State.setQueue_ports (s : State) (n : Nat) (v : Queue) : (s.setQueue n v).ports = s.ports := rfl
@[simp] theorem State.setQueue_fw (s : State) (n : Nat) (v : Queue) : (s.setQueue n v).fw = s.fw := rfl
@[simp] theorem State.setQueue_power (s : State) (n : Nat) (v : Queue) : (s.setQueue n v).power = s.power := rfl
@[simp] theorem State.setQueue_agenda (s : State) (n : Nat) (v : Queue) : (s.setQueue n v).agenda = s.agenda := rfl
@[simp] theorem State.setQueue_links (s : State) (n : Nat) (v : Queue) : (s.setQueue n v).links = s.links := rfl
@[simp] theorem State.setQueue_out (s : State) (n : Nat) (v : Queue) : (s.setQueue n v).out = s.out := rfl
@[simp] theorem State.setQueue_draws (s : State) (n : Nat) (v : Queue) : (s.setQueue n v).draws = s.draws := rfl
@[simp] theorem State.setQueue_flagLog (s : State) (n : Nat) (v : Queue) : (s.setQueue n v).flagLog = s.flagLog := rfl
@[simp] theorem State.setQueue_cur (s : State) (n : Nat) (v : Queue) : (s.setQueue n v).cur = s.cur := rfl

/-! ## `State.setLatch` -/

@[simp] theorem State.setLatch_cores (s : State) (l : LatchId) (v : Latch) : (s.setLatch l v).cores = s.cores := rfl
@[simp] theorem State.setLatch_homes (s : State) (l : LatchId) (v : Latch) : (s.setLatch l v).homes = s.homes := rfl
@[simp] theorem State.setLatch_ldoms (s : State) (l : LatchId) (v : Latch) : (s.setLatch l v).ldoms = s.ldoms := rfl
@[simp] theorem State.setLatch_probes (s : State) (l : LatchId) (v : Latch) : (s.setLatch l v).probes = s.probes := rfl
@[simp] theorem State.setLatch_clusters (s : State) (l : LatchId) (v : Latch) : (s.setLatch l v).clusters = s.clusters := rfl
@[simp] theorem State.setLatch_dies (s : State) (l : LatchId) (v : Latch) : (s.setLatch l v).dies = s.dies := rfl
@[simp] theorem State.setLatch_time (s : State) (l : LatchId) (v : Latch) : (s.setLatch l v).time = s.time := rfl
@[simp] theorem State.setLatch_cycle (s : State) (l : LatchId) (v : Latch) : (s.setLatch l v).cycle = s.cycle := rfl
@[simp] theorem State.setLatch_slew (s : State) (l : LatchId) (v : Latch) : (s.setLatch l v).slew = s.slew := rfl
@[simp] theorem State.setLatch_slewAt (s : State) (l : LatchId) (v : Latch) : (s.setLatch l v).slewAt = s.slewAt := rfl
@[simp] theorem State.setLatch_alignSent (s : State) (l : LatchId) (v : Latch) : (s.setLatch l v).alignSent = s.alignSent := rfl
@[simp] theorem State.setLatch_dev (s : State) (l : LatchId) (v : Latch) : (s.setLatch l v).dev = s.dev := rfl
@[simp] theorem State.setLatch_mem (s : State) (l : LatchId) (v : Latch) : (s.setLatch l v).mem = s.mem := rfl
@[simp] theorem State.setLatch_keyTag (s : State) (l : LatchId) (v : Latch) : (s.setLatch l v).keyTag = s.keyTag := rfl
@[simp] theorem State.setLatch_memPoison (s : State) (l : LatchId) (v : Latch) : (s.setLatch l v).memPoison = s.memPoison := rfl
@[simp] theorem State.setLatch_llc (s : State) (l : LatchId) (v : Latch) : (s.setLatch l v).llc = s.llc := rfl
@[simp] theorem State.setLatch_fsums (s : State) (l : LatchId) (v : Latch) : (s.setLatch l v).fsums = s.fsums := rfl
@[simp] theorem State.setLatch_quotas (s : State) (l : LatchId) (v : Latch) : (s.setLatch l v).quotas = s.quotas := rfl
@[simp] theorem State.setLatch_keyGen (s : State) (l : LatchId) (v : Latch) : (s.setLatch l v).keyGen = s.keyGen := rfl
@[simp] theorem State.setLatch_watches (s : State) (l : LatchId) (v : Latch) : (s.setLatch l v).watches = s.watches := rfl
@[simp] theorem State.setLatch_farWatches (s : State) (l : LatchId) (v : Latch) : (s.setLatch l v).farWatches = s.farWatches := rfl
@[simp] theorem State.setLatch_parts (s : State) (l : LatchId) (v : Latch) : (s.setLatch l v).parts = s.parts := rfl
@[simp] theorem State.setLatch_isaRing (s : State) (l : LatchId) (v : Latch) : (s.setLatch l v).isaRing = s.isaRing := rfl
@[simp] theorem State.setLatch_wgs (s : State) (l : LatchId) (v : Latch) : (s.setLatch l v).wgs = s.wgs := rfl
@[simp] theorem State.setLatch_nextWg (s : State) (l : LatchId) (v : Latch) : (s.setLatch l v).nextWg = s.nextWg := rfl
@[simp] theorem State.setLatch_replayNext (s : State) (l : LatchId) (v : Latch) : (s.setLatch l v).replayNext = s.replayNext := rfl
@[simp] theorem State.setLatch_replayLogs (s : State) (l : LatchId) (v : Latch) : (s.setLatch l v).replayLogs = s.replayLogs := rfl
@[simp] theorem State.setLatch_hostRegs (s : State) (l : LatchId) (v : Latch) : (s.setLatch l v).hostRegs = s.hostRegs := rfl
@[simp] theorem State.setLatch_queues (s : State) (l : LatchId) (v : Latch) : (s.setLatch l v).queues = s.queues := rfl
@[simp] theorem State.setLatch_ports (s : State) (l : LatchId) (v : Latch) : (s.setLatch l v).ports = s.ports := rfl
@[simp] theorem State.setLatch_fw (s : State) (l : LatchId) (v : Latch) : (s.setLatch l v).fw = s.fw := rfl
@[simp] theorem State.setLatch_power (s : State) (l : LatchId) (v : Latch) : (s.setLatch l v).power = s.power := rfl
@[simp] theorem State.setLatch_agenda (s : State) (l : LatchId) (v : Latch) : (s.setLatch l v).agenda = s.agenda := rfl
@[simp] theorem State.setLatch_links (s : State) (l : LatchId) (v : Latch) : (s.setLatch l v).links = s.links := rfl
@[simp] theorem State.setLatch_out (s : State) (l : LatchId) (v : Latch) : (s.setLatch l v).out = s.out := rfl
@[simp] theorem State.setLatch_draws (s : State) (l : LatchId) (v : Latch) : (s.setLatch l v).draws = s.draws := rfl
@[simp] theorem State.setLatch_flagLog (s : State) (l : LatchId) (v : Latch) : (s.setLatch l v).flagLog = s.flagLog := rfl
@[simp] theorem State.setLatch_cur (s : State) (l : LatchId) (v : Latch) : (s.setLatch l v).cur = s.cur := rfl

/-! ## `State.setHome` -/

@[simp] theorem State.setHome_cores (s : State) (e : EvKey) (h : Home) : (s.setHome e h).cores = s.cores := rfl
@[simp] theorem State.setHome_latches (s : State) (e : EvKey) (h : Home) : (s.setHome e h).latches = s.latches := rfl
@[simp] theorem State.setHome_ldoms (s : State) (e : EvKey) (h : Home) : (s.setHome e h).ldoms = s.ldoms := rfl
@[simp] theorem State.setHome_probes (s : State) (e : EvKey) (h : Home) : (s.setHome e h).probes = s.probes := rfl
@[simp] theorem State.setHome_clusters (s : State) (e : EvKey) (h : Home) : (s.setHome e h).clusters = s.clusters := rfl
@[simp] theorem State.setHome_dies (s : State) (e : EvKey) (h : Home) : (s.setHome e h).dies = s.dies := rfl
@[simp] theorem State.setHome_time (s : State) (e : EvKey) (h : Home) : (s.setHome e h).time = s.time := rfl
@[simp] theorem State.setHome_cycle (s : State) (e : EvKey) (h : Home) : (s.setHome e h).cycle = s.cycle := rfl
@[simp] theorem State.setHome_slew (s : State) (e : EvKey) (h : Home) : (s.setHome e h).slew = s.slew := rfl
@[simp] theorem State.setHome_slewAt (s : State) (e : EvKey) (h : Home) : (s.setHome e h).slewAt = s.slewAt := rfl
@[simp] theorem State.setHome_alignSent (s : State) (e : EvKey) (h : Home) : (s.setHome e h).alignSent = s.alignSent := rfl
@[simp] theorem State.setHome_dev (s : State) (e : EvKey) (h : Home) : (s.setHome e h).dev = s.dev := rfl
@[simp] theorem State.setHome_mem (s : State) (e : EvKey) (h : Home) : (s.setHome e h).mem = s.mem := rfl
@[simp] theorem State.setHome_keyTag (s : State) (e : EvKey) (h : Home) : (s.setHome e h).keyTag = s.keyTag := rfl
@[simp] theorem State.setHome_memPoison (s : State) (e : EvKey) (h : Home) : (s.setHome e h).memPoison = s.memPoison := rfl
@[simp] theorem State.setHome_llc (s : State) (e : EvKey) (h : Home) : (s.setHome e h).llc = s.llc := rfl
@[simp] theorem State.setHome_fsums (s : State) (e : EvKey) (h : Home) : (s.setHome e h).fsums = s.fsums := rfl
@[simp] theorem State.setHome_quotas (s : State) (e : EvKey) (h : Home) : (s.setHome e h).quotas = s.quotas := rfl
@[simp] theorem State.setHome_keyGen (s : State) (e : EvKey) (h : Home) : (s.setHome e h).keyGen = s.keyGen := rfl
@[simp] theorem State.setHome_watches (s : State) (e : EvKey) (h : Home) : (s.setHome e h).watches = s.watches := rfl
@[simp] theorem State.setHome_farWatches (s : State) (e : EvKey) (h : Home) : (s.setHome e h).farWatches = s.farWatches := rfl
@[simp] theorem State.setHome_parts (s : State) (e : EvKey) (h : Home) : (s.setHome e h).parts = s.parts := rfl
@[simp] theorem State.setHome_isaRing (s : State) (e : EvKey) (h : Home) : (s.setHome e h).isaRing = s.isaRing := rfl
@[simp] theorem State.setHome_wgs (s : State) (e : EvKey) (h : Home) : (s.setHome e h).wgs = s.wgs := rfl
@[simp] theorem State.setHome_nextWg (s : State) (e : EvKey) (h : Home) : (s.setHome e h).nextWg = s.nextWg := rfl
@[simp] theorem State.setHome_replayNext (s : State) (e : EvKey) (h : Home) : (s.setHome e h).replayNext = s.replayNext := rfl
@[simp] theorem State.setHome_replayLogs (s : State) (e : EvKey) (h : Home) : (s.setHome e h).replayLogs = s.replayLogs := rfl
@[simp] theorem State.setHome_hostRegs (s : State) (e : EvKey) (h : Home) : (s.setHome e h).hostRegs = s.hostRegs := rfl
@[simp] theorem State.setHome_queues (s : State) (e : EvKey) (h : Home) : (s.setHome e h).queues = s.queues := rfl
@[simp] theorem State.setHome_ports (s : State) (e : EvKey) (h : Home) : (s.setHome e h).ports = s.ports := rfl
@[simp] theorem State.setHome_fw (s : State) (e : EvKey) (h : Home) : (s.setHome e h).fw = s.fw := rfl
@[simp] theorem State.setHome_power (s : State) (e : EvKey) (h : Home) : (s.setHome e h).power = s.power := rfl
@[simp] theorem State.setHome_agenda (s : State) (e : EvKey) (h : Home) : (s.setHome e h).agenda = s.agenda := rfl
@[simp] theorem State.setHome_links (s : State) (e : EvKey) (h : Home) : (s.setHome e h).links = s.links := rfl
@[simp] theorem State.setHome_out (s : State) (e : EvKey) (h : Home) : (s.setHome e h).out = s.out := rfl
@[simp] theorem State.setHome_draws (s : State) (e : EvKey) (h : Home) : (s.setHome e h).draws = s.draws := rfl
@[simp] theorem State.setHome_flagLog (s : State) (e : EvKey) (h : Home) : (s.setHome e h).flagLog = s.flagLog := rfl
@[simp] theorem State.setHome_cur (s : State) (e : EvKey) (h : Home) : (s.setHome e h).cur = s.cur := rfl

/-! ## `State.send` -/

@[simp] theorem State.send_cores (s : State) (i : Instr) : (s.send i).cores = s.cores := rfl
@[simp] theorem State.send_latches (s : State) (i : Instr) : (s.send i).latches = s.latches := rfl
@[simp] theorem State.send_homes (s : State) (i : Instr) : (s.send i).homes = s.homes := rfl
@[simp] theorem State.send_ldoms (s : State) (i : Instr) : (s.send i).ldoms = s.ldoms := rfl
@[simp] theorem State.send_probes (s : State) (i : Instr) : (s.send i).probes = s.probes := rfl
@[simp] theorem State.send_clusters (s : State) (i : Instr) : (s.send i).clusters = s.clusters := rfl
@[simp] theorem State.send_dies (s : State) (i : Instr) : (s.send i).dies = s.dies := rfl
@[simp] theorem State.send_time (s : State) (i : Instr) : (s.send i).time = s.time := rfl
@[simp] theorem State.send_cycle (s : State) (i : Instr) : (s.send i).cycle = s.cycle := rfl
@[simp] theorem State.send_slew (s : State) (i : Instr) : (s.send i).slew = s.slew := rfl
@[simp] theorem State.send_slewAt (s : State) (i : Instr) : (s.send i).slewAt = s.slewAt := rfl
@[simp] theorem State.send_alignSent (s : State) (i : Instr) : (s.send i).alignSent = s.alignSent := rfl
@[simp] theorem State.send_dev (s : State) (i : Instr) : (s.send i).dev = s.dev := rfl
@[simp] theorem State.send_mem (s : State) (i : Instr) : (s.send i).mem = s.mem := rfl
@[simp] theorem State.send_keyTag (s : State) (i : Instr) : (s.send i).keyTag = s.keyTag := rfl
@[simp] theorem State.send_memPoison (s : State) (i : Instr) : (s.send i).memPoison = s.memPoison := rfl
@[simp] theorem State.send_llc (s : State) (i : Instr) : (s.send i).llc = s.llc := rfl
@[simp] theorem State.send_fsums (s : State) (i : Instr) : (s.send i).fsums = s.fsums := rfl
@[simp] theorem State.send_quotas (s : State) (i : Instr) : (s.send i).quotas = s.quotas := rfl
@[simp] theorem State.send_keyGen (s : State) (i : Instr) : (s.send i).keyGen = s.keyGen := rfl
@[simp] theorem State.send_watches (s : State) (i : Instr) : (s.send i).watches = s.watches := rfl
@[simp] theorem State.send_farWatches (s : State) (i : Instr) : (s.send i).farWatches = s.farWatches := rfl
@[simp] theorem State.send_parts (s : State) (i : Instr) : (s.send i).parts = s.parts := rfl
@[simp] theorem State.send_isaRing (s : State) (i : Instr) : (s.send i).isaRing = s.isaRing := rfl
@[simp] theorem State.send_wgs (s : State) (i : Instr) : (s.send i).wgs = s.wgs := rfl
@[simp] theorem State.send_nextWg (s : State) (i : Instr) : (s.send i).nextWg = s.nextWg := rfl
@[simp] theorem State.send_replayNext (s : State) (i : Instr) : (s.send i).replayNext = s.replayNext := rfl
@[simp] theorem State.send_replayLogs (s : State) (i : Instr) : (s.send i).replayLogs = s.replayLogs := rfl
@[simp] theorem State.send_hostRegs (s : State) (i : Instr) : (s.send i).hostRegs = s.hostRegs := rfl
@[simp] theorem State.send_queues (s : State) (i : Instr) : (s.send i).queues = s.queues := rfl
@[simp] theorem State.send_ports (s : State) (i : Instr) : (s.send i).ports = s.ports := rfl
@[simp] theorem State.send_fw (s : State) (i : Instr) : (s.send i).fw = s.fw := rfl
@[simp] theorem State.send_power (s : State) (i : Instr) : (s.send i).power = s.power := rfl
@[simp] theorem State.send_links (s : State) (i : Instr) : (s.send i).links = s.links := rfl
@[simp] theorem State.send_out (s : State) (i : Instr) : (s.send i).out = s.out := rfl
@[simp] theorem State.send_draws (s : State) (i : Instr) : (s.send i).draws = s.draws := rfl
@[simp] theorem State.send_flagLog (s : State) (i : Instr) : (s.send i).flagLog = s.flagLog := rfl
@[simp] theorem State.send_cur (s : State) (i : Instr) : (s.send i).cur = s.cur := rfl

/-! ## `State.sendAll` -/

@[simp] theorem State.sendAll_cores (s : State) (is : List Instr) : (s.sendAll is).cores = s.cores := rfl
@[simp] theorem State.sendAll_latches (s : State) (is : List Instr) : (s.sendAll is).latches = s.latches := rfl
@[simp] theorem State.sendAll_homes (s : State) (is : List Instr) : (s.sendAll is).homes = s.homes := rfl
@[simp] theorem State.sendAll_ldoms (s : State) (is : List Instr) : (s.sendAll is).ldoms = s.ldoms := rfl
@[simp] theorem State.sendAll_probes (s : State) (is : List Instr) : (s.sendAll is).probes = s.probes := rfl
@[simp] theorem State.sendAll_clusters (s : State) (is : List Instr) : (s.sendAll is).clusters = s.clusters := rfl
@[simp] theorem State.sendAll_dies (s : State) (is : List Instr) : (s.sendAll is).dies = s.dies := rfl
@[simp] theorem State.sendAll_time (s : State) (is : List Instr) : (s.sendAll is).time = s.time := rfl
@[simp] theorem State.sendAll_cycle (s : State) (is : List Instr) : (s.sendAll is).cycle = s.cycle := rfl
@[simp] theorem State.sendAll_slew (s : State) (is : List Instr) : (s.sendAll is).slew = s.slew := rfl
@[simp] theorem State.sendAll_slewAt (s : State) (is : List Instr) : (s.sendAll is).slewAt = s.slewAt := rfl
@[simp] theorem State.sendAll_alignSent (s : State) (is : List Instr) : (s.sendAll is).alignSent = s.alignSent := rfl
@[simp] theorem State.sendAll_dev (s : State) (is : List Instr) : (s.sendAll is).dev = s.dev := rfl
@[simp] theorem State.sendAll_mem (s : State) (is : List Instr) : (s.sendAll is).mem = s.mem := rfl
@[simp] theorem State.sendAll_keyTag (s : State) (is : List Instr) : (s.sendAll is).keyTag = s.keyTag := rfl
@[simp] theorem State.sendAll_memPoison (s : State) (is : List Instr) : (s.sendAll is).memPoison = s.memPoison := rfl
@[simp] theorem State.sendAll_llc (s : State) (is : List Instr) : (s.sendAll is).llc = s.llc := rfl
@[simp] theorem State.sendAll_fsums (s : State) (is : List Instr) : (s.sendAll is).fsums = s.fsums := rfl
@[simp] theorem State.sendAll_quotas (s : State) (is : List Instr) : (s.sendAll is).quotas = s.quotas := rfl
@[simp] theorem State.sendAll_keyGen (s : State) (is : List Instr) : (s.sendAll is).keyGen = s.keyGen := rfl
@[simp] theorem State.sendAll_watches (s : State) (is : List Instr) : (s.sendAll is).watches = s.watches := rfl
@[simp] theorem State.sendAll_farWatches (s : State) (is : List Instr) : (s.sendAll is).farWatches = s.farWatches := rfl
@[simp] theorem State.sendAll_parts (s : State) (is : List Instr) : (s.sendAll is).parts = s.parts := rfl
@[simp] theorem State.sendAll_isaRing (s : State) (is : List Instr) : (s.sendAll is).isaRing = s.isaRing := rfl
@[simp] theorem State.sendAll_wgs (s : State) (is : List Instr) : (s.sendAll is).wgs = s.wgs := rfl
@[simp] theorem State.sendAll_nextWg (s : State) (is : List Instr) : (s.sendAll is).nextWg = s.nextWg := rfl
@[simp] theorem State.sendAll_replayNext (s : State) (is : List Instr) : (s.sendAll is).replayNext = s.replayNext := rfl
@[simp] theorem State.sendAll_replayLogs (s : State) (is : List Instr) : (s.sendAll is).replayLogs = s.replayLogs := rfl
@[simp] theorem State.sendAll_hostRegs (s : State) (is : List Instr) : (s.sendAll is).hostRegs = s.hostRegs := rfl
@[simp] theorem State.sendAll_queues (s : State) (is : List Instr) : (s.sendAll is).queues = s.queues := rfl
@[simp] theorem State.sendAll_ports (s : State) (is : List Instr) : (s.sendAll is).ports = s.ports := rfl
@[simp] theorem State.sendAll_fw (s : State) (is : List Instr) : (s.sendAll is).fw = s.fw := rfl
@[simp] theorem State.sendAll_power (s : State) (is : List Instr) : (s.sendAll is).power = s.power := rfl
@[simp] theorem State.sendAll_links (s : State) (is : List Instr) : (s.sendAll is).links = s.links := rfl
@[simp] theorem State.sendAll_out (s : State) (is : List Instr) : (s.sendAll is).out = s.out := rfl
@[simp] theorem State.sendAll_draws (s : State) (is : List Instr) : (s.sendAll is).draws = s.draws := rfl
@[simp] theorem State.sendAll_flagLog (s : State) (is : List Instr) : (s.sendAll is).flagLog = s.flagLog := rfl
@[simp] theorem State.sendAll_cur (s : State) (is : List Instr) : (s.sendAll is).cur = s.cur := rfl

/-! ## `State.emit` -/

@[simp] theorem State.emit_cores (s : State) (o : Out) : (s.emit o).cores = s.cores := rfl
@[simp] theorem State.emit_latches (s : State) (o : Out) : (s.emit o).latches = s.latches := rfl
@[simp] theorem State.emit_homes (s : State) (o : Out) : (s.emit o).homes = s.homes := rfl
@[simp] theorem State.emit_ldoms (s : State) (o : Out) : (s.emit o).ldoms = s.ldoms := rfl
@[simp] theorem State.emit_probes (s : State) (o : Out) : (s.emit o).probes = s.probes := rfl
@[simp] theorem State.emit_clusters (s : State) (o : Out) : (s.emit o).clusters = s.clusters := rfl
@[simp] theorem State.emit_dies (s : State) (o : Out) : (s.emit o).dies = s.dies := rfl
@[simp] theorem State.emit_time (s : State) (o : Out) : (s.emit o).time = s.time := rfl
@[simp] theorem State.emit_cycle (s : State) (o : Out) : (s.emit o).cycle = s.cycle := rfl
@[simp] theorem State.emit_slew (s : State) (o : Out) : (s.emit o).slew = s.slew := rfl
@[simp] theorem State.emit_slewAt (s : State) (o : Out) : (s.emit o).slewAt = s.slewAt := rfl
@[simp] theorem State.emit_alignSent (s : State) (o : Out) : (s.emit o).alignSent = s.alignSent := rfl
@[simp] theorem State.emit_dev (s : State) (o : Out) : (s.emit o).dev = s.dev := rfl
@[simp] theorem State.emit_mem (s : State) (o : Out) : (s.emit o).mem = s.mem := rfl
@[simp] theorem State.emit_keyTag (s : State) (o : Out) : (s.emit o).keyTag = s.keyTag := rfl
@[simp] theorem State.emit_memPoison (s : State) (o : Out) : (s.emit o).memPoison = s.memPoison := rfl
@[simp] theorem State.emit_llc (s : State) (o : Out) : (s.emit o).llc = s.llc := rfl
@[simp] theorem State.emit_fsums (s : State) (o : Out) : (s.emit o).fsums = s.fsums := rfl
@[simp] theorem State.emit_quotas (s : State) (o : Out) : (s.emit o).quotas = s.quotas := rfl
@[simp] theorem State.emit_keyGen (s : State) (o : Out) : (s.emit o).keyGen = s.keyGen := rfl
@[simp] theorem State.emit_watches (s : State) (o : Out) : (s.emit o).watches = s.watches := rfl
@[simp] theorem State.emit_farWatches (s : State) (o : Out) : (s.emit o).farWatches = s.farWatches := rfl
@[simp] theorem State.emit_parts (s : State) (o : Out) : (s.emit o).parts = s.parts := rfl
@[simp] theorem State.emit_isaRing (s : State) (o : Out) : (s.emit o).isaRing = s.isaRing := rfl
@[simp] theorem State.emit_wgs (s : State) (o : Out) : (s.emit o).wgs = s.wgs := rfl
@[simp] theorem State.emit_nextWg (s : State) (o : Out) : (s.emit o).nextWg = s.nextWg := rfl
@[simp] theorem State.emit_replayNext (s : State) (o : Out) : (s.emit o).replayNext = s.replayNext := rfl
@[simp] theorem State.emit_replayLogs (s : State) (o : Out) : (s.emit o).replayLogs = s.replayLogs := rfl
@[simp] theorem State.emit_hostRegs (s : State) (o : Out) : (s.emit o).hostRegs = s.hostRegs := rfl
@[simp] theorem State.emit_queues (s : State) (o : Out) : (s.emit o).queues = s.queues := rfl
@[simp] theorem State.emit_ports (s : State) (o : Out) : (s.emit o).ports = s.ports := rfl
@[simp] theorem State.emit_fw (s : State) (o : Out) : (s.emit o).fw = s.fw := rfl
@[simp] theorem State.emit_power (s : State) (o : Out) : (s.emit o).power = s.power := rfl
@[simp] theorem State.emit_agenda (s : State) (o : Out) : (s.emit o).agenda = s.agenda := rfl
@[simp] theorem State.emit_links (s : State) (o : Out) : (s.emit o).links = s.links := rfl
@[simp] theorem State.emit_draws (s : State) (o : Out) : (s.emit o).draws = s.draws := rfl
@[simp] theorem State.emit_flagLog (s : State) (o : Out) : (s.emit o).flagLog = s.flagLog := rfl
@[simp] theorem State.emit_cur (s : State) (o : Out) : (s.emit o).cur = s.cur := rfl

/-! ## `State.used` -/

@[simp] theorem State.used_cores (s : State) : (s.used).cores = s.cores := rfl
@[simp] theorem State.used_latches (s : State) : (s.used).latches = s.latches := rfl
@[simp] theorem State.used_homes (s : State) : (s.used).homes = s.homes := rfl
@[simp] theorem State.used_ldoms (s : State) : (s.used).ldoms = s.ldoms := rfl
@[simp] theorem State.used_probes (s : State) : (s.used).probes = s.probes := rfl
@[simp] theorem State.used_clusters (s : State) : (s.used).clusters = s.clusters := rfl
@[simp] theorem State.used_dies (s : State) : (s.used).dies = s.dies := rfl
@[simp] theorem State.used_time (s : State) : (s.used).time = s.time := rfl
@[simp] theorem State.used_cycle (s : State) : (s.used).cycle = s.cycle := rfl
@[simp] theorem State.used_slew (s : State) : (s.used).slew = s.slew := rfl
@[simp] theorem State.used_slewAt (s : State) : (s.used).slewAt = s.slewAt := rfl
@[simp] theorem State.used_alignSent (s : State) : (s.used).alignSent = s.alignSent := rfl
@[simp] theorem State.used_dev (s : State) : (s.used).dev = s.dev := rfl
@[simp] theorem State.used_mem (s : State) : (s.used).mem = s.mem := rfl
@[simp] theorem State.used_keyTag (s : State) : (s.used).keyTag = s.keyTag := rfl
@[simp] theorem State.used_memPoison (s : State) : (s.used).memPoison = s.memPoison := rfl
@[simp] theorem State.used_llc (s : State) : (s.used).llc = s.llc := rfl
@[simp] theorem State.used_fsums (s : State) : (s.used).fsums = s.fsums := rfl
@[simp] theorem State.used_quotas (s : State) : (s.used).quotas = s.quotas := rfl
@[simp] theorem State.used_keyGen (s : State) : (s.used).keyGen = s.keyGen := rfl
@[simp] theorem State.used_watches (s : State) : (s.used).watches = s.watches := rfl
@[simp] theorem State.used_farWatches (s : State) : (s.used).farWatches = s.farWatches := rfl
@[simp] theorem State.used_parts (s : State) : (s.used).parts = s.parts := rfl
@[simp] theorem State.used_isaRing (s : State) : (s.used).isaRing = s.isaRing := rfl
@[simp] theorem State.used_wgs (s : State) : (s.used).wgs = s.wgs := rfl
@[simp] theorem State.used_nextWg (s : State) : (s.used).nextWg = s.nextWg := rfl
@[simp] theorem State.used_replayNext (s : State) : (s.used).replayNext = s.replayNext := rfl
@[simp] theorem State.used_replayLogs (s : State) : (s.used).replayLogs = s.replayLogs := rfl
@[simp] theorem State.used_hostRegs (s : State) : (s.used).hostRegs = s.hostRegs := rfl
@[simp] theorem State.used_queues (s : State) : (s.used).queues = s.queues := rfl
@[simp] theorem State.used_ports (s : State) : (s.used).ports = s.ports := rfl
@[simp] theorem State.used_fw (s : State) : (s.used).fw = s.fw := rfl
@[simp] theorem State.used_power (s : State) : (s.used).power = s.power := rfl
@[simp] theorem State.used_agenda (s : State) : (s.used).agenda = s.agenda := rfl
@[simp] theorem State.used_links (s : State) : (s.used).links = s.links := rfl
@[simp] theorem State.used_out (s : State) : (s.used).out = s.out := rfl
@[simp] theorem State.used_flagLog (s : State) : (s.used).flagLog = s.flagLog := rfl
@[simp] theorem State.used_cur (s : State) : (s.used).cur = s.cur := rfl

/-! ## `State.ret` -/

@[simp] theorem State.ret_latches (s : State) (i : Instr) (rd : Reg) (v : Word) : (s.ret i rd v).latches = s.latches := rfl
@[simp] theorem State.ret_homes (s : State) (i : Instr) (rd : Reg) (v : Word) : (s.ret i rd v).homes = s.homes := rfl
@[simp] theorem State.ret_ldoms (s : State) (i : Instr) (rd : Reg) (v : Word) : (s.ret i rd v).ldoms = s.ldoms := rfl
@[simp] theorem State.ret_probes (s : State) (i : Instr) (rd : Reg) (v : Word) : (s.ret i rd v).probes = s.probes := rfl
@[simp] theorem State.ret_clusters (s : State) (i : Instr) (rd : Reg) (v : Word) : (s.ret i rd v).clusters = s.clusters := rfl
@[simp] theorem State.ret_dies (s : State) (i : Instr) (rd : Reg) (v : Word) : (s.ret i rd v).dies = s.dies := rfl
@[simp] theorem State.ret_time (s : State) (i : Instr) (rd : Reg) (v : Word) : (s.ret i rd v).time = s.time := rfl
@[simp] theorem State.ret_cycle (s : State) (i : Instr) (rd : Reg) (v : Word) : (s.ret i rd v).cycle = s.cycle := rfl
@[simp] theorem State.ret_slew (s : State) (i : Instr) (rd : Reg) (v : Word) : (s.ret i rd v).slew = s.slew := rfl
@[simp] theorem State.ret_slewAt (s : State) (i : Instr) (rd : Reg) (v : Word) : (s.ret i rd v).slewAt = s.slewAt := rfl
@[simp] theorem State.ret_alignSent (s : State) (i : Instr) (rd : Reg) (v : Word) : (s.ret i rd v).alignSent = s.alignSent := rfl
@[simp] theorem State.ret_dev (s : State) (i : Instr) (rd : Reg) (v : Word) : (s.ret i rd v).dev = s.dev := rfl
@[simp] theorem State.ret_mem (s : State) (i : Instr) (rd : Reg) (v : Word) : (s.ret i rd v).mem = s.mem := rfl
@[simp] theorem State.ret_keyTag (s : State) (i : Instr) (rd : Reg) (v : Word) : (s.ret i rd v).keyTag = s.keyTag := rfl
@[simp] theorem State.ret_memPoison (s : State) (i : Instr) (rd : Reg) (v : Word) : (s.ret i rd v).memPoison = s.memPoison := rfl
@[simp] theorem State.ret_llc (s : State) (i : Instr) (rd : Reg) (v : Word) : (s.ret i rd v).llc = s.llc := rfl
@[simp] theorem State.ret_fsums (s : State) (i : Instr) (rd : Reg) (v : Word) : (s.ret i rd v).fsums = s.fsums := rfl
@[simp] theorem State.ret_quotas (s : State) (i : Instr) (rd : Reg) (v : Word) : (s.ret i rd v).quotas = s.quotas := rfl
@[simp] theorem State.ret_keyGen (s : State) (i : Instr) (rd : Reg) (v : Word) : (s.ret i rd v).keyGen = s.keyGen := rfl
@[simp] theorem State.ret_watches (s : State) (i : Instr) (rd : Reg) (v : Word) : (s.ret i rd v).watches = s.watches := rfl
@[simp] theorem State.ret_farWatches (s : State) (i : Instr) (rd : Reg) (v : Word) : (s.ret i rd v).farWatches = s.farWatches := rfl
@[simp] theorem State.ret_parts (s : State) (i : Instr) (rd : Reg) (v : Word) : (s.ret i rd v).parts = s.parts := rfl
@[simp] theorem State.ret_isaRing (s : State) (i : Instr) (rd : Reg) (v : Word) : (s.ret i rd v).isaRing = s.isaRing := rfl
@[simp] theorem State.ret_wgs (s : State) (i : Instr) (rd : Reg) (v : Word) : (s.ret i rd v).wgs = s.wgs := rfl
@[simp] theorem State.ret_nextWg (s : State) (i : Instr) (rd : Reg) (v : Word) : (s.ret i rd v).nextWg = s.nextWg := rfl
@[simp] theorem State.ret_replayNext (s : State) (i : Instr) (rd : Reg) (v : Word) : (s.ret i rd v).replayNext = s.replayNext := rfl
@[simp] theorem State.ret_replayLogs (s : State) (i : Instr) (rd : Reg) (v : Word) : (s.ret i rd v).replayLogs = s.replayLogs := rfl
@[simp] theorem State.ret_hostRegs (s : State) (i : Instr) (rd : Reg) (v : Word) : (s.ret i rd v).hostRegs = s.hostRegs := rfl
@[simp] theorem State.ret_queues (s : State) (i : Instr) (rd : Reg) (v : Word) : (s.ret i rd v).queues = s.queues := rfl
@[simp] theorem State.ret_ports (s : State) (i : Instr) (rd : Reg) (v : Word) : (s.ret i rd v).ports = s.ports := rfl
@[simp] theorem State.ret_fw (s : State) (i : Instr) (rd : Reg) (v : Word) : (s.ret i rd v).fw = s.fw := rfl
@[simp] theorem State.ret_power (s : State) (i : Instr) (rd : Reg) (v : Word) : (s.ret i rd v).power = s.power := rfl
@[simp] theorem State.ret_agenda (s : State) (i : Instr) (rd : Reg) (v : Word) : (s.ret i rd v).agenda = s.agenda := rfl
@[simp] theorem State.ret_links (s : State) (i : Instr) (rd : Reg) (v : Word) : (s.ret i rd v).links = s.links := rfl
@[simp] theorem State.ret_out (s : State) (i : Instr) (rd : Reg) (v : Word) : (s.ret i rd v).out = s.out := rfl
@[simp] theorem State.ret_draws (s : State) (i : Instr) (rd : Reg) (v : Word) : (s.ret i rd v).draws = s.draws := rfl
@[simp] theorem State.ret_flagLog (s : State) (i : Instr) (rd : Reg) (v : Word) : (s.ret i rd v).flagLog = s.flagLog := rfl
@[simp] theorem State.ret_cur (s : State) (i : Instr) (rd : Reg) (v : Word) : (s.ret i rd v).cur = s.cur := rfl

/-! ## `State.pass` -/

@[simp] theorem State.pass_latches (s : State) (i : Instr) : (s.pass i).latches = s.latches := rfl
@[simp] theorem State.pass_homes (s : State) (i : Instr) : (s.pass i).homes = s.homes := rfl
@[simp] theorem State.pass_ldoms (s : State) (i : Instr) : (s.pass i).ldoms = s.ldoms := rfl
@[simp] theorem State.pass_probes (s : State) (i : Instr) : (s.pass i).probes = s.probes := rfl
@[simp] theorem State.pass_clusters (s : State) (i : Instr) : (s.pass i).clusters = s.clusters := rfl
@[simp] theorem State.pass_dies (s : State) (i : Instr) : (s.pass i).dies = s.dies := rfl
@[simp] theorem State.pass_time (s : State) (i : Instr) : (s.pass i).time = s.time := rfl
@[simp] theorem State.pass_cycle (s : State) (i : Instr) : (s.pass i).cycle = s.cycle := rfl
@[simp] theorem State.pass_slew (s : State) (i : Instr) : (s.pass i).slew = s.slew := rfl
@[simp] theorem State.pass_slewAt (s : State) (i : Instr) : (s.pass i).slewAt = s.slewAt := rfl
@[simp] theorem State.pass_alignSent (s : State) (i : Instr) : (s.pass i).alignSent = s.alignSent := rfl
@[simp] theorem State.pass_dev (s : State) (i : Instr) : (s.pass i).dev = s.dev := rfl
@[simp] theorem State.pass_mem (s : State) (i : Instr) : (s.pass i).mem = s.mem := rfl
@[simp] theorem State.pass_keyTag (s : State) (i : Instr) : (s.pass i).keyTag = s.keyTag := rfl
@[simp] theorem State.pass_memPoison (s : State) (i : Instr) : (s.pass i).memPoison = s.memPoison := rfl
@[simp] theorem State.pass_llc (s : State) (i : Instr) : (s.pass i).llc = s.llc := rfl
@[simp] theorem State.pass_fsums (s : State) (i : Instr) : (s.pass i).fsums = s.fsums := rfl
@[simp] theorem State.pass_quotas (s : State) (i : Instr) : (s.pass i).quotas = s.quotas := rfl
@[simp] theorem State.pass_keyGen (s : State) (i : Instr) : (s.pass i).keyGen = s.keyGen := rfl
@[simp] theorem State.pass_watches (s : State) (i : Instr) : (s.pass i).watches = s.watches := rfl
@[simp] theorem State.pass_farWatches (s : State) (i : Instr) : (s.pass i).farWatches = s.farWatches := rfl
@[simp] theorem State.pass_parts (s : State) (i : Instr) : (s.pass i).parts = s.parts := rfl
@[simp] theorem State.pass_isaRing (s : State) (i : Instr) : (s.pass i).isaRing = s.isaRing := rfl
@[simp] theorem State.pass_wgs (s : State) (i : Instr) : (s.pass i).wgs = s.wgs := rfl
@[simp] theorem State.pass_nextWg (s : State) (i : Instr) : (s.pass i).nextWg = s.nextWg := rfl
@[simp] theorem State.pass_replayNext (s : State) (i : Instr) : (s.pass i).replayNext = s.replayNext := rfl
@[simp] theorem State.pass_replayLogs (s : State) (i : Instr) : (s.pass i).replayLogs = s.replayLogs := rfl
@[simp] theorem State.pass_hostRegs (s : State) (i : Instr) : (s.pass i).hostRegs = s.hostRegs := rfl
@[simp] theorem State.pass_queues (s : State) (i : Instr) : (s.pass i).queues = s.queues := rfl
@[simp] theorem State.pass_ports (s : State) (i : Instr) : (s.pass i).ports = s.ports := rfl
@[simp] theorem State.pass_fw (s : State) (i : Instr) : (s.pass i).fw = s.fw := rfl
@[simp] theorem State.pass_power (s : State) (i : Instr) : (s.pass i).power = s.power := rfl
@[simp] theorem State.pass_agenda (s : State) (i : Instr) : (s.pass i).agenda = s.agenda := rfl
@[simp] theorem State.pass_links (s : State) (i : Instr) : (s.pass i).links = s.links := rfl
@[simp] theorem State.pass_out (s : State) (i : Instr) : (s.pass i).out = s.out := rfl
@[simp] theorem State.pass_draws (s : State) (i : Instr) : (s.pass i).draws = s.draws := rfl
@[simp] theorem State.pass_flagLog (s : State) (i : Instr) : (s.pass i).flagLog = s.flagLog := rfl
@[simp] theorem State.pass_cur (s : State) (i : Instr) : (s.pass i).cur = s.cur := rfl

/-! ## `State.hold` -/

@[simp] theorem State.hold_latches (s : State) (w : Wait) : (s.hold w).latches = s.latches := rfl
@[simp] theorem State.hold_homes (s : State) (w : Wait) : (s.hold w).homes = s.homes := rfl
@[simp] theorem State.hold_ldoms (s : State) (w : Wait) : (s.hold w).ldoms = s.ldoms := rfl
@[simp] theorem State.hold_probes (s : State) (w : Wait) : (s.hold w).probes = s.probes := rfl
@[simp] theorem State.hold_clusters (s : State) (w : Wait) : (s.hold w).clusters = s.clusters := rfl
@[simp] theorem State.hold_dies (s : State) (w : Wait) : (s.hold w).dies = s.dies := rfl
@[simp] theorem State.hold_time (s : State) (w : Wait) : (s.hold w).time = s.time := rfl
@[simp] theorem State.hold_cycle (s : State) (w : Wait) : (s.hold w).cycle = s.cycle := rfl
@[simp] theorem State.hold_slew (s : State) (w : Wait) : (s.hold w).slew = s.slew := rfl
@[simp] theorem State.hold_slewAt (s : State) (w : Wait) : (s.hold w).slewAt = s.slewAt := rfl
@[simp] theorem State.hold_alignSent (s : State) (w : Wait) : (s.hold w).alignSent = s.alignSent := rfl
@[simp] theorem State.hold_dev (s : State) (w : Wait) : (s.hold w).dev = s.dev := rfl
@[simp] theorem State.hold_mem (s : State) (w : Wait) : (s.hold w).mem = s.mem := rfl
@[simp] theorem State.hold_keyTag (s : State) (w : Wait) : (s.hold w).keyTag = s.keyTag := rfl
@[simp] theorem State.hold_memPoison (s : State) (w : Wait) : (s.hold w).memPoison = s.memPoison := rfl
@[simp] theorem State.hold_llc (s : State) (w : Wait) : (s.hold w).llc = s.llc := rfl
@[simp] theorem State.hold_fsums (s : State) (w : Wait) : (s.hold w).fsums = s.fsums := rfl
@[simp] theorem State.hold_quotas (s : State) (w : Wait) : (s.hold w).quotas = s.quotas := rfl
@[simp] theorem State.hold_keyGen (s : State) (w : Wait) : (s.hold w).keyGen = s.keyGen := rfl
@[simp] theorem State.hold_watches (s : State) (w : Wait) : (s.hold w).watches = s.watches := rfl
@[simp] theorem State.hold_farWatches (s : State) (w : Wait) : (s.hold w).farWatches = s.farWatches := rfl
@[simp] theorem State.hold_parts (s : State) (w : Wait) : (s.hold w).parts = s.parts := rfl
@[simp] theorem State.hold_isaRing (s : State) (w : Wait) : (s.hold w).isaRing = s.isaRing := rfl
@[simp] theorem State.hold_wgs (s : State) (w : Wait) : (s.hold w).wgs = s.wgs := rfl
@[simp] theorem State.hold_nextWg (s : State) (w : Wait) : (s.hold w).nextWg = s.nextWg := rfl
@[simp] theorem State.hold_replayNext (s : State) (w : Wait) : (s.hold w).replayNext = s.replayNext := rfl
@[simp] theorem State.hold_replayLogs (s : State) (w : Wait) : (s.hold w).replayLogs = s.replayLogs := rfl
@[simp] theorem State.hold_hostRegs (s : State) (w : Wait) : (s.hold w).hostRegs = s.hostRegs := rfl
@[simp] theorem State.hold_queues (s : State) (w : Wait) : (s.hold w).queues = s.queues := rfl
@[simp] theorem State.hold_ports (s : State) (w : Wait) : (s.hold w).ports = s.ports := rfl
@[simp] theorem State.hold_fw (s : State) (w : Wait) : (s.hold w).fw = s.fw := rfl
@[simp] theorem State.hold_power (s : State) (w : Wait) : (s.hold w).power = s.power := rfl
@[simp] theorem State.hold_agenda (s : State) (w : Wait) : (s.hold w).agenda = s.agenda := rfl
@[simp] theorem State.hold_links (s : State) (w : Wait) : (s.hold w).links = s.links := rfl
@[simp] theorem State.hold_out (s : State) (w : Wait) : (s.hold w).out = s.out := rfl
@[simp] theorem State.hold_draws (s : State) (w : Wait) : (s.hold w).draws = s.draws := rfl
@[simp] theorem State.hold_flagLog (s : State) (w : Wait) : (s.hold w).flagLog = s.flagLog := rfl
@[simp] theorem State.hold_cur (s : State) (w : Wait) : (s.hold w).cur = s.cur := rfl

/-! ## `State.wake` -/

@[simp] theorem State.wake_latches (s : State) (c x : Nat) : (s.wake c x).latches = s.latches := rfl
@[simp] theorem State.wake_homes (s : State) (c x : Nat) : (s.wake c x).homes = s.homes := rfl
@[simp] theorem State.wake_ldoms (s : State) (c x : Nat) : (s.wake c x).ldoms = s.ldoms := rfl
@[simp] theorem State.wake_probes (s : State) (c x : Nat) : (s.wake c x).probes = s.probes := rfl
@[simp] theorem State.wake_clusters (s : State) (c x : Nat) : (s.wake c x).clusters = s.clusters := rfl
@[simp] theorem State.wake_dies (s : State) (c x : Nat) : (s.wake c x).dies = s.dies := rfl
@[simp] theorem State.wake_time (s : State) (c x : Nat) : (s.wake c x).time = s.time := rfl
@[simp] theorem State.wake_cycle (s : State) (c x : Nat) : (s.wake c x).cycle = s.cycle := rfl
@[simp] theorem State.wake_slew (s : State) (c x : Nat) : (s.wake c x).slew = s.slew := rfl
@[simp] theorem State.wake_slewAt (s : State) (c x : Nat) : (s.wake c x).slewAt = s.slewAt := rfl
@[simp] theorem State.wake_alignSent (s : State) (c x : Nat) : (s.wake c x).alignSent = s.alignSent := rfl
@[simp] theorem State.wake_dev (s : State) (c x : Nat) : (s.wake c x).dev = s.dev := rfl
@[simp] theorem State.wake_mem (s : State) (c x : Nat) : (s.wake c x).mem = s.mem := rfl
@[simp] theorem State.wake_keyTag (s : State) (c x : Nat) : (s.wake c x).keyTag = s.keyTag := rfl
@[simp] theorem State.wake_memPoison (s : State) (c x : Nat) : (s.wake c x).memPoison = s.memPoison := rfl
@[simp] theorem State.wake_llc (s : State) (c x : Nat) : (s.wake c x).llc = s.llc := rfl
@[simp] theorem State.wake_fsums (s : State) (c x : Nat) : (s.wake c x).fsums = s.fsums := rfl
@[simp] theorem State.wake_quotas (s : State) (c x : Nat) : (s.wake c x).quotas = s.quotas := rfl
@[simp] theorem State.wake_keyGen (s : State) (c x : Nat) : (s.wake c x).keyGen = s.keyGen := rfl
@[simp] theorem State.wake_watches (s : State) (c x : Nat) : (s.wake c x).watches = s.watches := rfl
@[simp] theorem State.wake_farWatches (s : State) (c x : Nat) : (s.wake c x).farWatches = s.farWatches := rfl
@[simp] theorem State.wake_parts (s : State) (c x : Nat) : (s.wake c x).parts = s.parts := rfl
@[simp] theorem State.wake_isaRing (s : State) (c x : Nat) : (s.wake c x).isaRing = s.isaRing := rfl
@[simp] theorem State.wake_wgs (s : State) (c x : Nat) : (s.wake c x).wgs = s.wgs := rfl
@[simp] theorem State.wake_nextWg (s : State) (c x : Nat) : (s.wake c x).nextWg = s.nextWg := rfl
@[simp] theorem State.wake_replayNext (s : State) (c x : Nat) : (s.wake c x).replayNext = s.replayNext := rfl
@[simp] theorem State.wake_replayLogs (s : State) (c x : Nat) : (s.wake c x).replayLogs = s.replayLogs := rfl
@[simp] theorem State.wake_hostRegs (s : State) (c x : Nat) : (s.wake c x).hostRegs = s.hostRegs := rfl
@[simp] theorem State.wake_queues (s : State) (c x : Nat) : (s.wake c x).queues = s.queues := rfl
@[simp] theorem State.wake_ports (s : State) (c x : Nat) : (s.wake c x).ports = s.ports := rfl
@[simp] theorem State.wake_fw (s : State) (c x : Nat) : (s.wake c x).fw = s.fw := rfl
@[simp] theorem State.wake_power (s : State) (c x : Nat) : (s.wake c x).power = s.power := rfl
@[simp] theorem State.wake_agenda (s : State) (c x : Nat) : (s.wake c x).agenda = s.agenda := rfl
@[simp] theorem State.wake_links (s : State) (c x : Nat) : (s.wake c x).links = s.links := rfl
@[simp] theorem State.wake_out (s : State) (c x : Nat) : (s.wake c x).out = s.out := rfl
@[simp] theorem State.wake_draws (s : State) (c x : Nat) : (s.wake c x).draws = s.draws := rfl
@[simp] theorem State.wake_flagLog (s : State) (c x : Nat) : (s.wake c x).flagLog = s.flagLog := rfl
@[simp] theorem State.wake_cur (s : State) (c x : Nat) : (s.wake c x).cur = s.cur := rfl

/-! ## `Core.setCtx` -/

@[simp] theorem Core.setCtx_endFlags (k : Core) (x : Nat) (v : Ctx) : (k.setCtx x v).endFlags = k.endFlags := rfl
@[simp] theorem Core.setCtx_rr (k : Core) (x : Nat) (v : Ctx) : (k.setCtx x v).rr = k.rr := rfl
@[simp] theorem Core.setCtx_tvec (k : Core) (x : Nat) (v : Ctx) : (k.setCtx x v).tvec = k.tvec := rfl
@[simp] theorem Core.setCtx_htvec (k : Core) (x : Nat) (v : Ctx) : (k.setCtx x v).htvec = k.htvec := rfl
@[simp] theorem Core.setCtx_hdeleg (k : Core) (x : Nat) (v : Ctx) : (k.setCtx x v).hdeleg = k.hdeleg := rfl
@[simp] theorem Core.setCtx_mb (k : Core) (x : Nat) (v : Ctx) : (k.setCtx x v).mb = k.mb := rfl
@[simp] theorem Core.setCtx_mbFull (k : Core) (x : Nat) (v : Ctx) : (k.setCtx x v).mbFull = k.mbFull := rfl
@[simp] theorem Core.setCtx_peeked (k : Core) (x : Nat) (v : Ctx) : (k.setCtx x v).peeked = k.peeked := rfl
@[simp] theorem Core.setCtx_loc (k : Core) (x : Nat) (v : Ctx) : (k.setCtx x v).loc = k.loc := rfl
@[simp] theorem Core.setCtx_locPoison (k : Core) (x : Nat) (v : Ctx) : (k.setCtx x v).locPoison = k.locPoison := rfl
@[simp] theorem Core.setCtx_sidecar (k : Core) (x : Nat) (v : Ctx) : (k.setCtx x v).sidecar = k.sidecar := rfl
@[simp] theorem Core.setCtx_tags (k : Core) (x : Nat) (v : Ctx) : (k.setCtx x v).tags = k.tags := rfl
@[simp] theorem Core.setCtx_roles (k : Core) (x : Nat) (v : Ctx) : (k.setCtx x v).roles = k.roles := rfl
@[simp] theorem Core.setCtx_fifo (k : Core) (x : Nat) (v : Ctx) : (k.setCtx x v).fifo = k.fifo := rfl
@[simp] theorem Core.setCtx_roleChange (k : Core) (x : Nat) (v : Ctx) : (k.setCtx x v).roleChange = k.roleChange := rfl
@[simp] theorem Core.setCtx_l1 (k : Core) (x : Nat) (v : Ctx) : (k.setCtx x v).l1 = k.l1 := rfl
@[simp] theorem Core.setCtx_stbuf (k : Core) (x : Nat) (v : Ctx) : (k.setCtx x v).stbuf = k.stbuf := rfl
@[simp] theorem Core.setCtx_late (k : Core) (x : Nat) (v : Ctx) : (k.setCtx x v).late = k.late := rfl
@[simp] theorem Core.setCtx_icache (k : Core) (x : Nat) (v : Ctx) : (k.setCtx x v).icache = k.icache := rfl
@[simp] theorem Core.setCtx_wide (k : Core) (x : Nat) (v : Ctx) : (k.setCtx x v).wide = k.wide := rfl
@[simp] theorem Core.setCtx_wpBase (k : Core) (x : Nat) (v : Ctx) : (k.setCtx x v).wpBase = k.wpBase := rfl
@[simp] theorem Core.setCtx_wpCtl (k : Core) (x : Nat) (v : Ctx) : (k.setCtx x v).wpCtl = k.wpCtl := rfl
@[simp] theorem Core.setCtx_reports (k : Core) (x : Nat) (v : Ctx) : (k.setCtx x v).reports = k.reports := rfl
@[simp] theorem Core.setCtx_dbg (k : Core) (x : Nat) (v : Ctx) : (k.setCtx x v).dbg = k.dbg := rfl
@[simp] theorem Core.setCtx_enc (k : Core) (x : Nat) (v : Ctx) : (k.setCtx x v).enc = k.enc := rfl
@[simp] theorem Core.setCtx_lossOwed (k : Core) (x : Nat) (v : Ctx) : (k.setCtx x v).lossOwed = k.lossOwed := rfl
@[simp] theorem Core.setCtx_sent (k : Core) (x : Nat) (v : Ctx) : (k.setCtx x v).sent = k.sent := rfl
@[simp] theorem Core.setCtx_edge (k : Core) (x : Nat) (v : Ctx) : (k.setCtx x v).edge = k.edge := rfl
@[simp] theorem Core.setCtx_active (k : Core) (x : Nat) (v : Ctx) : (k.setCtx x v).active = k.active := rfl
@[simp] theorem Core.setCtx_held (k : Core) (x : Nat) (v : Ctx) : (k.setCtx x v).held = k.held := rfl
@[simp] theorem Core.setCtx_tiles (k : Core) (x : Nat) (v : Ctx) : (k.setCtx x v).tiles = k.tiles := rfl
@[simp] theorem Core.setCtx_lmem (k : Core) (x : Nat) (v : Ctx) : (k.setCtx x v).lmem = k.lmem := rfl
@[simp] theorem Core.setCtx_lbase (k : Core) (x : Nat) (v : Ctx) : (k.setCtx x v).lbase = k.lbase := rfl
@[simp] theorem Core.setCtx_sysdom (k : Core) (x : Nat) (v : Ctx) : (k.setCtx x v).sysdom = k.sysdom := rfl
@[simp] theorem Core.setCtx_sysv (k : Core) (x : Nat) (v : Ctx) : (k.setCtx x v).sysv = k.sysv := rfl
@[simp] theorem Core.setCtx_run (k : Core) (x : Nat) (v : Ctx) : (k.setCtx x v).run = k.run := rfl
@[simp] theorem Core.setCtx_part (k : Core) (x : Nat) (v : Ctx) : (k.setCtx x v).part = k.part := rfl
@[simp] theorem Core.setCtx_wg (k : Core) (x : Nat) (v : Ctx) : (k.setCtx x v).wg = k.wg := rfl
@[simp] theorem Core.setCtx_lastPart (k : Core) (x : Nat) (v : Ctx) : (k.setCtx x v).lastPart = k.lastPart := rfl
@[simp] theorem Core.setCtx_exch (k : Core) (x : Nat) (v : Ctx) : (k.setCtx x v).exch = k.exch := rfl
@[simp] theorem Core.setCtx_saveSeq (k : Core) (x : Nat) (v : Ctx) : (k.setCtx x v).saveSeq = k.saveSeq := rfl
@[simp] theorem Core.setCtx_image (k : Core) (x : Nat) (v : Ctx) : (k.setCtx x v).image = k.image := rfl
@[simp] theorem Core.setCtx_parked (k : Core) (x : Nat) (v : Ctx) : (k.setCtx x v).parked = k.parked := rfl
@[simp] theorem Core.setCtx_haltPend (k : Core) (x : Nat) (v : Ctx) : (k.setCtx x v).haltPend = k.haltPend := rfl
@[simp] theorem Core.setCtx_stepWide (k : Core) (x : Nat) (v : Ctx) : (k.setCtx x v).stepWide = k.stepWide := rfl
@[simp] theorem Core.setCtx_restSeq (k : Core) (x : Nat) (v : Ctx) : (k.setCtx x v).restSeq = k.restSeq := rfl
@[simp] theorem Core.setCtx_pins (k : Core) (x : Nat) (v : Ctx) : (k.setCtx x v).pins = k.pins := rfl
@[simp] theorem Core.setCtx_entropy (k : Core) (x : Nat) (v : Ctx) : (k.setCtx x v).entropy = k.entropy := rfl
@[simp] theorem Core.setCtx_issuedAt (k : Core) (x : Nat) (v : Ctx) : (k.setCtx x v).issuedAt = k.issuedAt := rfl
@[simp] theorem Core.setCtx_cycleAdd (k : Core) (x : Nat) (v : Ctx) : (k.setCtx x v).cycleAdd = k.cycleAdd := rfl
@[simp] theorem Core.setCtx_timeAdd (k : Core) (x : Nat) (v : Ctx) : (k.setCtx x v).timeAdd = k.timeAdd := rfl

/-! ## `xwrite` and `advance` -/

@[simp] theorem xwrite_live (k : Ctx) (r : Reg) (v : Word) : (xwrite k r v).live = k.live := by
  unfold xwrite; split <;> rfl
@[simp] theorem xwrite_pc (k : Ctx) (r : Reg) (v : Word) : (xwrite k r v).pc = k.pc := by
  unfold xwrite; split <;> rfl
@[simp] theorem xwrite_priv (k : Ctx) (r : Reg) (v : Word) : (xwrite k r v).priv = k.priv := by
  unfold xwrite; split <;> rfl
@[simp] theorem xwrite_status (k : Ctx) (r : Reg) (v : Word) : (xwrite k r v).status = k.status := by
  unfold xwrite; split <;> rfl
@[simp] theorem xwrite_epc (k : Ctx) (r : Reg) (v : Word) : (xwrite k r v).epc = k.epc := by
  unfold xwrite; split <;> rfl
@[simp] theorem xwrite_cause (k : Ctx) (r : Reg) (v : Word) : (xwrite k r v).cause = k.cause := by
  unfold xwrite; split <;> rfl
@[simp] theorem xwrite_tval (k : Ctx) (r : Reg) (v : Word) : (xwrite k r v).tval = k.tval := by
  unfold xwrite; split <;> rfl
@[simp] theorem xwrite_faultcap (k : Ctx) (r : Reg) (v : Word) : (xwrite k r v).faultcap = k.faultcap := by
  unfold xwrite; split <;> rfl
@[simp] theorem xwrite_hstatus (k : Ctx) (r : Reg) (v : Word) : (xwrite k r v).hstatus = k.hstatus := by
  unfold xwrite; split <;> rfl
@[simp] theorem xwrite_hepc (k : Ctx) (r : Reg) (v : Word) : (xwrite k r v).hepc = k.hepc := by
  unfold xwrite; split <;> rfl
@[simp] theorem xwrite_hcause (k : Ctx) (r : Reg) (v : Word) : (xwrite k r v).hcause = k.hcause := by
  unfold xwrite; split <;> rfl
@[simp] theorem xwrite_htval (k : Ctx) (r : Reg) (v : Word) : (xwrite k r v).htval = k.htval := by
  unfold xwrite; split <;> rfl
@[simp] theorem xwrite_hfaultcap (k : Ctx) (r : Reg) (v : Word) : (xwrite k r v).hfaultcap = k.hfaultcap := by
  unfold xwrite; split <;> rfl
@[simp] theorem xwrite_frm (k : Ctx) (r : Reg) (v : Word) : (xwrite k r v).frm = k.frm := by
  unfold xwrite; split <;> rfl
@[simp] theorem xwrite_fflags (k : Ctx) (r : Reg) (v : Word) : (xwrite k r v).fflags = k.fflags := by
  unfold xwrite; split <;> rfl
@[simp] theorem xwrite_evlim (k : Ctx) (r : Reg) (v : Word) : (xwrite k r v).evlim = k.evlim := by
  unfold xwrite; split <;> rfl
@[simp] theorem xwrite_evsel (k : Ctx) (r : Reg) (v : Word) : (xwrite k r v).evsel = k.evsel := by
  unfold xwrite; split <;> rfl
@[simp] theorem xwrite_asid (k : Ctx) (r : Reg) (v : Word) : (xwrite k r v).asid = k.asid := by
  unfold xwrite; split <;> rfl
@[simp] theorem xwrite_ptroot (k : Ctx) (r : Reg) (v : Word) : (xwrite k r v).ptroot = k.ptroot := by
  unfold xwrite; split <;> rfl
@[simp] theorem xwrite_cclass (k : Ctx) (r : Reg) (v : Word) : (xwrite k r v).cclass = k.cclass := by
  unfold xwrite; split <;> rfl
@[simp] theorem xwrite_rescls (k : Ctx) (r : Reg) (v : Word) : (xwrite k r v).rescls = k.rescls := by
  unfold xwrite; split <;> rfl
@[simp] theorem xwrite_staged (k : Ctx) (r : Reg) (v : Word) : (xwrite k r v).staged = k.staged := by
  unfold xwrite; split <;> rfl
@[simp] theorem xwrite_backoff (k : Ctx) (r : Reg) (v : Word) : (xwrite k r v).backoff = k.backoff := by
  unfold xwrite; split <;> rfl
@[simp] theorem xwrite_wait (k : Ctx) (r : Reg) (v : Word) : (xwrite k r v).wait = k.wait := by
  unfold xwrite; split <;> rfl
@[simp] theorem xwrite_pend (k : Ctx) (r : Reg) (v : Word) : (xwrite k r v).pend = k.pend := by
  unfold xwrite; split <;> rfl
@[simp] theorem xwrite_released (k : Ctx) (r : Reg) (v : Word) : (xwrite k r v).released = k.released := by
  unfold xwrite; split <;> rfl
@[simp] theorem xwrite_owed (k : Ctx) (r : Reg) (v : Word) : (xwrite k r v).owed = k.owed := by
  unfold xwrite; split <;> rfl
@[simp] theorem xwrite_relDone (k : Ctx) (r : Reg) (v : Word) : (xwrite k r v).relDone = k.relDone := by
  unfold xwrite; split <;> rfl
@[simp] theorem xwrite_rdata (k : Ctx) (r : Reg) (v : Word) : (xwrite k r v).rdata = k.rdata := by
  unfold xwrite; split <;> rfl
@[simp] theorem xwrite_recd (k : Ctx) (r : Reg) (v : Word) : (xwrite k r v).recd = k.recd := by
  unfold xwrite; split <;> rfl
@[simp] theorem xwrite_half (k : Ctx) (r : Reg) (v : Word) : (xwrite k r v).half = k.half := by
  unfold xwrite; split <;> rfl
@[simp] theorem xwrite_capturing (k : Ctx) (r : Reg) (v : Word) : (xwrite k r v).capturing = k.capturing := by
  unfold xwrite; split <;> rfl
@[simp] theorem xwrite_fetched (k : Ctx) (r : Reg) (v : Word) : (xwrite k r v).fetched = k.fetched := by
  unfold xwrite; split <;> rfl
@[simp] theorem xwrite_stale (k : Ctx) (r : Reg) (v : Word) : (xwrite k r v).stale = k.stale := by
  unfold xwrite; split <;> rfl
@[simp] theorem xwrite_flushing (k : Ctx) (r : Reg) (v : Word) : (xwrite k r v).flushing = k.flushing := by
  unfold xwrite; split <;> rfl
@[simp] theorem xwrite_logPos (k : Ctx) (r : Reg) (v : Word) : (xwrite k r v).logPos = k.logPos := by
  unfold xwrite; split <;> rfl
@[simp] theorem xwrite_trapX (k : Ctx) (r : Reg) (v : Word) : (xwrite k r v).trapX = k.trapX := by
  unfold xwrite; split <;> rfl
@[simp] theorem xwrite_faults (k : Ctx) (r : Reg) (v : Word) : (xwrite k r v).faults = k.faults := by
  unfold xwrite; split <;> rfl
@[simp] theorem xwrite_flagCyc (k : Ctx) (r : Reg) (v : Word) : (xwrite k r v).flagCyc = k.flagCyc := by
  unfold xwrite; split <;> rfl
@[simp] theorem xwrite_flagNew (k : Ctx) (r : Reg) (v : Word) : (xwrite k r v).flagNew = k.flagNew := by
  unfold xwrite; split <;> rfl
@[simp] theorem advance_live (k : Ctx) (n : Nat) : (advance k n).live = k.live := rfl
@[simp] theorem advance_x (k : Ctx) (n : Nat) : (advance k n).x = k.x := rfl
@[simp] theorem advance_priv (k : Ctx) (n : Nat) : (advance k n).priv = k.priv := rfl
@[simp] theorem advance_status (k : Ctx) (n : Nat) : (advance k n).status = k.status := rfl
@[simp] theorem advance_epc (k : Ctx) (n : Nat) : (advance k n).epc = k.epc := rfl
@[simp] theorem advance_cause (k : Ctx) (n : Nat) : (advance k n).cause = k.cause := rfl
@[simp] theorem advance_tval (k : Ctx) (n : Nat) : (advance k n).tval = k.tval := rfl
@[simp] theorem advance_faultcap (k : Ctx) (n : Nat) : (advance k n).faultcap = k.faultcap := rfl
@[simp] theorem advance_hstatus (k : Ctx) (n : Nat) : (advance k n).hstatus = k.hstatus := rfl
@[simp] theorem advance_hepc (k : Ctx) (n : Nat) : (advance k n).hepc = k.hepc := rfl
@[simp] theorem advance_hcause (k : Ctx) (n : Nat) : (advance k n).hcause = k.hcause := rfl
@[simp] theorem advance_htval (k : Ctx) (n : Nat) : (advance k n).htval = k.htval := rfl
@[simp] theorem advance_hfaultcap (k : Ctx) (n : Nat) : (advance k n).hfaultcap = k.hfaultcap := rfl
@[simp] theorem advance_frm (k : Ctx) (n : Nat) : (advance k n).frm = k.frm := rfl
@[simp] theorem advance_fflags (k : Ctx) (n : Nat) : (advance k n).fflags = k.fflags := rfl
@[simp] theorem advance_evlim (k : Ctx) (n : Nat) : (advance k n).evlim = k.evlim := rfl
@[simp] theorem advance_evsel (k : Ctx) (n : Nat) : (advance k n).evsel = k.evsel := rfl
@[simp] theorem advance_asid (k : Ctx) (n : Nat) : (advance k n).asid = k.asid := rfl
@[simp] theorem advance_ptroot (k : Ctx) (n : Nat) : (advance k n).ptroot = k.ptroot := rfl
@[simp] theorem advance_cclass (k : Ctx) (n : Nat) : (advance k n).cclass = k.cclass := rfl
@[simp] theorem advance_rescls (k : Ctx) (n : Nat) : (advance k n).rescls = k.rescls := rfl
@[simp] theorem advance_staged (k : Ctx) (n : Nat) : (advance k n).staged = k.staged := rfl
@[simp] theorem advance_backoff (k : Ctx) (n : Nat) : (advance k n).backoff = k.backoff := rfl
@[simp] theorem advance_wait (k : Ctx) (n : Nat) : (advance k n).wait = k.wait := rfl
@[simp] theorem advance_pend (k : Ctx) (n : Nat) : (advance k n).pend = k.pend := rfl
@[simp] theorem advance_released (k : Ctx) (n : Nat) : (advance k n).released = k.released := rfl
@[simp] theorem advance_owed (k : Ctx) (n : Nat) : (advance k n).owed = k.owed := rfl
@[simp] theorem advance_relDone (k : Ctx) (n : Nat) : (advance k n).relDone = k.relDone := rfl
@[simp] theorem advance_rdata (k : Ctx) (n : Nat) : (advance k n).rdata = k.rdata := rfl
@[simp] theorem advance_recd (k : Ctx) (n : Nat) : (advance k n).recd = k.recd := rfl
@[simp] theorem advance_half (k : Ctx) (n : Nat) : (advance k n).half = k.half := rfl
@[simp] theorem advance_capturing (k : Ctx) (n : Nat) : (advance k n).capturing = k.capturing := rfl
@[simp] theorem advance_fetched (k : Ctx) (n : Nat) : (advance k n).fetched = k.fetched := rfl
@[simp] theorem advance_stale (k : Ctx) (n : Nat) : (advance k n).stale = k.stale := rfl
@[simp] theorem advance_flushing (k : Ctx) (n : Nat) : (advance k n).flushing = k.flushing := rfl
@[simp] theorem advance_logPos (k : Ctx) (n : Nat) : (advance k n).logPos = k.logPos := rfl
@[simp] theorem advance_trapX (k : Ctx) (n : Nat) : (advance k n).trapX = k.trapX := rfl
@[simp] theorem advance_faults (k : Ctx) (n : Nat) : (advance k n).faults = k.faults := rfl
@[simp] theorem advance_flagCyc (k : Ctx) (n : Nat) : (advance k n).flagCyc = k.flagCyc := rfl
@[simp] theorem advance_flagNew (k : Ctx) (n : Nat) : (advance k n).flagNew = k.flagNew := rfl
@[simp] theorem advance_pc (k : Ctx) (n : Nat) : (advance k n).pc = k.pc + BitVec.ofNat 64 n := rfl

end Sys2Proof.Machine
end

