-- ==== Sys2Proof/Laws/Tables.lean ====
section
/-!
SUPPORT. The tables of Ops.lean: what a read finds after a write; and with it the cores, contexts, clusters, dies,
queues, latches and homes of a state after a named update.
-/

namespace Sys2Proof.Machine

open Sys2Proof

/-! ## Tables -/

theorem tfind_cons {α : Type} (t : Tbl α) (i j : Nat) (w : α) :
    tfind ((i, w) :: t) j = if j = i then some w else tfind t j := by simp only [tfind, eq_comm]

theorem tfind_tput {α : Type} (t : Tbl α) (k j : Nat) (v : α) :
    tfind (tput t k v) j = if j = k then some v else tfind t j := by
  induction t with
  | nil => exact tfind_cons _ _ _ _
  | cons e t ih =>
    obtain ⟨i, w⟩ := e
    simp only [tput]
    split
    · subst i; simp only [tfind_cons]; split <;> rfl
    · split
      · exact tfind_cons _ _ _ _
      · simp only [tfind_cons, ih]
        by_cases h : j = k
        · subst j; simp [Ne.symm ‹_›]
        · simp [h]

theorem tget_tput {α : Type} (d : α) (t : Tbl α) (k j : Nat) (v : α) :
    tget d (tput t k v) j = if j = k then v else tget d t j := by
  simp only [tget, tfind_tput]; split <;> rfl

theorem tfind_tdel {α : Type} (t : Tbl α) (k j : Nat) : tfind (tdel t k) j = if j = k then none else tfind t j := by
  induction t with
  | nil => simp [tdel, tfind]
  | cons e t ih =>
    obtain ⟨i, w⟩ := e
    simp only [tdel]
    by_cases h : i = k
    · subst i; simp only [if_true, ih, tfind_cons]; split <;> rfl
    · simp only [h, if_false, tfind_cons, ih]
      by_cases hj : j = k
      · subst hj; simp [Ne.symm h]
      · simp [hj]

theorem kfind_cons {κ α : Type} [DecidableEq κ] (t : List (κ × α)) (i j : κ) (w : α) :
    kfind ((i, w) :: t) j = if j = i then some w else kfind t j := by simp only [kfind, eq_comm]

theorem kfind_kput {κ α : Type} [DecidableEq κ] (t : List (κ × α)) (k j : κ) (v : α) :
    kfind (kput t k v) j = if j = k then some v else kfind t j := by
  induction t with
  | nil => exact kfind_cons _ _ _ _
  | cons e t ih =>
    obtain ⟨i, w⟩ := e
    simp only [kput]
    split
    · subst i; simp only [kfind_cons]; split <;> rfl
    · simp only [kfind_cons, ih]
      by_cases h : j = k
      · subst j; simp [Ne.symm ‹_›]
      · simp [h]

theorem kfind_kdel {κ α : Type} [DecidableEq κ] (t : List (κ × α)) (k j : κ) :
    kfind (kdel t k) j = if j = k then none else kfind t j := by
  induction t with
  | nil => simp [kdel, kfind]
  | cons e t ih =>
    obtain ⟨i, w⟩ := e
    simp only [kdel]
    by_cases h : i = k
    · subst i; simp only [if_true, ih, kfind_cons]; split <;> rfl
    · simp only [h, if_false, kfind_cons, ih]
      by_cases hj : j = k
      · subst hj; simp [Ne.symm h]
      · simp [hj]

/-- A second write under the same number replaces the first. -/
theorem tput_tput {α : Type} (t : Tbl α) (k : Nat) (v w : α) : tput (tput t k v) k w = tput t k w := by
  induction t with
  | nil => simp [tput]
  | cons e t ih =>
    obtain ⟨i, u⟩ := e
    simp only [tput]
    split
    · simp [tput]
    · split
      · simp [tput]
      · simp only [tput, *, if_false]

theorem kput_kput {κ α : Type} [DecidableEq κ] (t : List (κ × α)) (k : κ) (v w : α) : kput (kput t k v) k w = kput t k w := by
  induction t with
  | nil => simp [kput]
  | cons e t ih =>
    obtain ⟨i, u⟩ := e
    simp only [kput]
    split
    · simp [kput]
    · simp only [kput, *, if_false]

/-! ## Cores and contexts -/

@[simp] theorem State.setCore_setCore (s : State) (c : Nat) (k l : Core) : (s.setCore c k).setCore c l = s.setCore c l := by
  simp only [State.setCore, tput_tput]

@[simp] theorem Core.setCtx_setCtx (k : Core) (x : Nat) (v w : Ctx) : (k.setCtx x v).setCtx x w = k.setCtx x w := by
  simp only [Core.setCtx, tput_tput]

@[simp] theorem State.setCluster_setCluster (s : State) (n : Nat) (v w : Cluster) :
    (s.setCluster n v).setCluster n w = s.setCluster n w := by
  simp only [State.setCluster, tput_tput]

@[simp] theorem State.setLatch_setLatch (s : State) (l : LatchId) (v w : Latch) : (s.setLatch l v).setLatch l w = s.setLatch l w := by
  simp only [State.setLatch, kput_kput]

@[simp] theorem State.core_setCore (s : State) (c d : Nat) (k : Core) :
    (s.setCore c k).core d = if d = c then k else s.core d := tget_tput _ _ _ _ _

@[simp] theorem State.core_updCore (s : State) (c d : Nat) (f : Core → Core) :
    (s.updCore c f).core d = if d = c then f (s.core c) else s.core d := State.core_setCore _ _ _ _

@[simp] theorem Core.ctx_setCtx (k : Core) (x y : Nat) (v : Ctx) :
    (k.setCtx x v).ctx y = if y = x then v else k.ctx y := tget_tput _ _ _ _ _

@[simp] theorem State.core_setCtx (s : State) (c x d : Nat) (v : Ctx) :
    (s.setCtx c x v).core d = if d = c then (s.core c).setCtx x v else s.core d := State.core_setCore _ _ _ _

@[simp] theorem State.core_updCtx (s : State) (c x d : Nat) (f : Ctx → Ctx) :
    (s.updCtx c x f).core d = if d = c then (s.core c).setCtx x (f (s.ctx c x)) else s.core d := State.core_setCore _ _ _ _

@[simp] theorem State.ctx_setCtx (s : State) (c x d y : Nat) (v : Ctx) :
    (s.setCtx c x v).ctx d y = if d = c ∧ y = x then v else s.ctx d y := by
  simp only [State.ctx, State.core_setCtx]
  by_cases h : d = c
  · subst d; simp
  · simp [h]

@[simp] theorem State.ctx_updCtx (s : State) (c x d y : Nat) (f : Ctx → Ctx) :
    (s.updCtx c x f).ctx d y = if d = c ∧ y = x then f (s.ctx c x) else s.ctx d y := State.ctx_setCtx _ _ _ _ _ _

@[simp] theorem State.ctx_setCore (s : State) (c d y : Nat) (k : Core) :
    (s.setCore c k).ctx d y = if d = c then k.ctx y else s.ctx d y := by
  simp only [State.ctx, State.core_setCore]; split <;> rfl

@[simp] theorem State.ctx_updCore (s : State) (c d y : Nat) (f : Core → Core) :
    (s.updCore c f).ctx d y = if d = c then (f (s.core c)).ctx y else s.ctx d y := State.ctx_setCore _ _ _ _ _

@[simp] theorem State.setCtx_setCtx (s : State) (c x : Nat) (v w : Ctx) : (s.setCtx c x v).setCtx c x w = s.setCtx c x w := by
  simp [State.setCtx]

/-- A field of the core other than its contexts, after an update of one context. -/
theorem State.core_setCtx_field {α : Type} (g : Core → α) (hg : ∀ k t, g { k with ctxs := t } = g k) (s : State)
    (c x d : Nat) (v : Ctx) : g ((s.setCtx c x v).core d) = g (s.core d) := by
  simp only [State.core_setCtx]; split
  · subst d; exact hg _ _
  · rfl

/-! ## The running context -/

@[simp] theorem State.me_setMe (s : State) (v : Ctx) : (s.setMe v).me = v := by simp [State.me, State.setMe]
@[simp] theorem State.setMe_setMe (s : State) (v w : Ctx) : (s.setMe v).setMe w = s.setMe w := State.setCtx_setCtx _ _ _ _ _
@[simp] theorem State.ctx_setMe (s : State) (v : Ctx) (d y : Nat) :
    (s.setMe v).ctx d y = if d = s.cur.1 ∧ y = s.cur.2 then v else s.ctx d y := State.ctx_setCtx _ _ _ _ _ _
@[simp] theorem State.core_setMe (s : State) (v : Ctx) (d : Nat) :
    (s.setMe v).core d = if d = s.cur.1 then (s.core s.cur.1).setCtx s.cur.2 v else s.core d := State.core_setCtx _ _ _ _ _
@[simp] theorem State.myCore_setMyCore (s : State) (k : Core) : (s.setMyCore k).myCore = k := by
  simp [State.myCore, State.setMyCore]

/-! ## The other tables -/

@[simp] theorem State.cluster_setCluster (s : State) (n m : Nat) (v : Cluster) :
    (s.setCluster n v).cluster m = if m = n then v else s.cluster m := tget_tput _ _ _ _ _
@[simp] theorem State.die_setDie (s : State) (n m : Nat) (v : Die) :
    (s.setDie n v).die m = if m = n then v else s.die m := tget_tput _ _ _ _ _
@[simp] theorem State.queue_setQueue (s : State) (n m : Nat) (v : Queue) :
    (s.setQueue n v).queue m = if m = n then v else s.queue m := tget_tput _ _ _ _ _
@[simp] theorem State.latch_setLatch (s : State) (l m : LatchId) (v : Latch) :
    (s.setLatch l v).latch m = if m = l then v else s.latch m := by
  simp only [State.latch, State.setLatch, kfind_kput]; split <;> rfl
@[simp] theorem State.home_setHome (s : State) (e f : EvKey) (h : Home) :
    (s.setHome e h).home f = if f = e then some h else s.home f := kfind_kput _ _ _ _

/-! ## Registers (R15) -/

/-- X0 reads as zero. -/
@[simp] theorem xread_zero (k : Ctx) : xread k 0 = 0 := if_pos rfl

/-- A read after a write: the value at the written register, unless it is X0; every other register as before. -/
theorem xread_xwrite (k : Ctx) (r q : Reg) (v : Word) :
    xread (xwrite k r v) q = if q = r ∧ r ≠ 0 then v else xread k q := by
  by_cases hr : r = 0
  · rw [if_neg fun (h : q = r ∧ r ≠ 0) => h.2 hr, xwrite, if_pos hr]
  · have hw : xwrite k r v = { k with x := k.x.set r.toNat v r.isLt } := if_neg hr
    by_cases h : q = r
    · subst h
      rw [if_pos ⟨rfl, hr⟩, hw, xread, if_neg hr]
      exact Vector.getElem_set_self _
    · rw [if_neg fun e => h e.1, hw]
      unfold xread
      split
      · rfl
      · exact Vector.getElem_set_ne r.isLt q.isLt fun e => h (BitVec.eq_of_toNat_eq e.symm)

@[simp] theorem xread_advance (k : Ctx) (n : Nat) (q : Reg) : xread (advance k n) q = xread k q := rfl

/-- What `State.ret` does: the running context takes the value and moves on; nothing else changes. -/
theorem State.ret_eq (s : State) (i : Instr) (rd : Reg) (v : Word) :
    s.ret i rd v = s.setCtx s.cur.1 s.cur.2 (advance (xwrite s.me rd v) (byteLen i)) := rfl

end Sys2Proof.Machine
end

