-- ==== Sys2Proof/Laws/Frames.lean ====
section
/-!
SUPPORT. The shared ends of the meanings (`State.ret`, `State.pass`, `State.hold`, `State.setMe`, `State.trap`) in the words
of Safety.lean: what each changes, and that it changes nothing else.
-/

namespace Sys2Proof.Machine

open Sys2Proof

theorem OnlyCtx.refl (c x : Nat) (s : State) : OnlyCtx c x s s := ⟨rfl, fun _ => rfl, fun _ _ _ => rfl⟩

theorem OnlyCtx.trans {c x : Nat} {s t u : State} (h : OnlyCtx c x s t) (g : OnlyCtx c x t u) : OnlyCtx c x s u :=
  ⟨Eq.trans g.1 h.1, fun d => (g.2.1 d).trans (h.2.1 d), fun d y e => (g.2.2 d y e).trans (h.2.2 d y e)⟩

/-- An update of one context changes nothing else. -/
theorem onlyCtx_setCtx (s : State) (c x : Nat) (k : Ctx) : OnlyCtx c x s (s.setCtx c x k) := by
  refine ⟨rfl, fun d => ?_, fun d y h => ?_⟩
  · rw [State.core_setCtx]; split
    · subst d; rfl
    · rfl
  · rw [State.ctx_setCtx, if_neg]
    rintro ⟨rfl, rfl⟩
    exact h.elim (· rfl) (· rfl)

theorem onlyCtx_setMe (s : State) (k : Ctx) : OnlyCtx s.cur.1 s.cur.2 s (s.setMe k) := onlyCtx_setCtx _ _ _ _

/-- Memory is the same byte for byte. -/
theorem SameShared.memByte {s t : State} (h : SameShared s t) (a : Nat) : memByte t.mem a = memByte s.mem a := by
  have e0 := congrArg State.mem h
  have e : t.mem = s.mem := e0
  rw [e]

/-- So is every core's local space. -/
theorem OnlyCtx.locByte {c x : Nat} {s t : State} (h : OnlyCtx c x s t) (d a : Nat) : locByte t d a = locByte s d a := by
  have e0 := congrArg Core.loc (h.2.1 d)
  have e : (t.core d).loc = (s.core d).loc := e0
  rw [Machine.locByte, e, Machine.locByte]

/-- Writing rd and going to `pc`. -/
theorem writesReg_xwrite (k : Ctx) (rd : Reg) (v pc : Word) : WritesReg k { xwrite k rd v with pc := pc } rd v pc := by
  refine ⟨fun q => xread_xwrite k rd q v, rfl, ?_⟩
  unfold xwrite
  split <;> rfl

theorem writesReg_advance (k : Ctx) (rd : Reg) (v : Word) (n : Nat) :
    WritesReg k (advance (xwrite k rd v) n) rd v (k.pc + BitVec.ofNat 64 n) := by
  have h := writesReg_xwrite k rd v (k.pc + BitVec.ofNat 64 n)
  rwa [show advance (xwrite k rd v) n = { xwrite k rd v with pc := k.pc + BitVec.ofNat 64 n } by
    simp [advance, xwrite_pc]]

/-- An instruction that ends in `State.ret` gives its value and changes nothing else. -/
theorem gives_ret {i j : Instr} {s : State} {rd : Reg} {v : Word} {n : Nat} (h : exec i s = .next (s.ret j rd v))
    (hn : byteLen j = n) : Gives i s rd v n := by
  subst hn
  refine ⟨_, h, onlyCtx_setMe _ _, ?_⟩
  rw [State.ret, State.ctx_setMe, if_pos ⟨rfl, rfl⟩]
  exact writesReg_advance _ _ _ _

/-- An instruction that only changes its own context. -/
theorem becomes_setMe {i : Instr} {s : State} {k : Ctx} (h : exec i s = .next (s.setMe k)) : Becomes i s k := by
  refine ⟨_, h, onlyCtx_setMe _ _, ?_⟩
  rw [State.ctx_setMe, if_pos ⟨rfl, rfl⟩]

/-- A message for another device changes what has left the package and what its senders hold, and nothing else (R448). -/
theorem toDevice_frame (s : State) (c d : Nat) (m : Instr) :
    ({ s.toDevice c d m with out := [], links := [] } : State) = { s with out := [], links := [] } := by
  unfold State.toDevice; split <;> rfl

/-- The heads of a gang whose six cores run with MMULs at the heads of their queues (R243). -/
theorem gangHeads_of {s : State} {g : Nat} {h : Nat → Head}
    (hs : ∀ p, p < 6 → wideRuns (s.core (gangCore g p)) = true ∧ mmulHead (s.core (gangCore g p)) = some (h p)) :
    gangHeads s g = some ((List.range 6).map h) := by
  have e : ((List.range 6).filterMap fun p => let k := s.core (gangCore g p); if wideRuns k then mmulHead k else none) = (List.range 6).map h := by
    rw [← List.filterMap_eq_map]
    refine List.filterMap_congr fun p hp => ?_
    have := hs p (List.mem_range.mp hp)
    simp [this.1, this.2]
  unfold gangHeads
  rw [e]; simp

end Sys2Proof.Machine
end

