-- ==== Sys2Proof/Laws/Memory.lean ====
section
/-!
SUPPORT. Bytes of memory: a read after a write, what a write leaves alone, and that every write keeps the canonical form
(Memory.wf), so that equal memories are equal data.
-/

namespace Sys2Proof.Machine

open Sys2Proof

/-! ## Reads after writes -/

theorem memByte_memDrop (m : Memory) (a b : Nat) : memByte (memDrop m a) b = if b = a then 0 else memByte m b := by
  induction m with
  | nil => simp [memDrop, memByte]
  | cons e t ih =>
    obtain ⟨i, w⟩ := e
    simp only [memDrop, memByte]
    by_cases h : i = a
    · subst h
      simp only [if_true, ih]
      by_cases hb : b = i
      · simp [hb]
      · simp [hb, Ne.symm hb]
    · simp only [h, if_false, memByte, ih]
      by_cases hb : b = a
      · subst hb; simp [h]
      · simp [hb]

theorem memByte_memPut (m : Memory) (a b : Nat) (v : Byte) :
    memByte (memPut m a v) b = if b = a then v else memByte m b := by
  induction m with
  | nil => simp only [memPut, memByte, eq_comm]
  | cons e t ih =>
    obtain ⟨i, w⟩ := e
    simp only [memPut]
    by_cases h : i = a
    · subst h
      simp only [if_true, memByte]
      by_cases hb : b = i
      · simp [hb]
      · simp [hb, Ne.symm hb]
    · simp only [h, if_false]
      split
      · simp only [memByte]
        by_cases hb : b = a
        · simp [hb]
        · simp [hb, Ne.symm hb]
      · simp only [memByte, ih]
        by_cases hb : b = a
        · subst hb; simp [h]
        · simp [hb]

/-- A read after a write of one byte. -/
theorem memByte_memSet (m : Memory) (a b : Nat) (v : Byte) :
    memByte (memSet m a v) b = if b = a then v else memByte m b := by
  unfold memSet
  split
  · subst v; exact memByte_memDrop m a b
  · exact memByte_memPut m a b v

theorem memWrite_cons (m : Memory) (a : Nat) (v : Byte) (t : List Byte) :
    memWrite m a (v :: t) = memWrite (memSet m a v) (a + 1) t := rfl

/-- A read after a write of a run of bytes. -/
theorem memByte_memWrite (bs : List Byte) (m : Memory) (a b : Nat) :
    memByte (memWrite m a bs) b = if a ≤ b ∧ b < a + bs.length then bs.getD (b - a) 0 else memByte m b := by
  induction bs generalizing m a with
  | nil => simp only [memWrite, List.length_nil]; rw [if_neg (by omega)]
  | cons v t ih =>
    simp only [memWrite_cons, ih, memByte_memSet, List.length_cons]
    by_cases h : b = a
    · subst h; simp
    · by_cases h1 : a + 1 ≤ b ∧ b < a + 1 + t.length
      · rw [if_pos h1, if_pos (by omega), show b - a = (b - (a + 1)) + 1 by omega]; rfl
      · rw [if_neg h1, if_neg h, if_neg (by omega)]

/-- A write leaves every byte outside it alone. -/
theorem memByte_memWrite_out (bs : List Byte) (m : Memory) (a b : Nat) (h : b < a ∨ a + bs.length ≤ b) :
    memByte (memWrite m a bs) b = memByte m b := by
  rw [memByte_memWrite, if_neg (by omega)]

@[simp] theorem memRead_length (m : Memory) (a n : Nat) : (memRead m a n).length = n := by
  induction n generalizing a with
  | zero => rfl
  | succ n ih => simp [memRead, ih]

theorem memRead_getD (m : Memory) (a n i : Nat) (h : i < n) : (memRead m a n).getD i 0 = memByte m (a + i) := by
  induction n generalizing a i with
  | zero => omega
  | succ n ih =>
    cases i with
    | zero => simp [memRead]
    | succ i =>
      have := ih (a + 1) i (by omega)
      simpa [memRead, Nat.add_assoc, Nat.add_comm 1 i] using this

/-- Reading a run that was just written gives the bytes written. -/
theorem memRead_memWrite (bs : List Byte) (m : Memory) (a : Nat) : memRead (memWrite m a bs) a bs.length = bs := by
  apply List.ext_getElem
  · simp
  · intro i h1 h2
    have h := memRead_getD (memWrite m a bs) a bs.length i h2
    rw [memByte_memWrite, if_pos ⟨Nat.le_add_right a i, Nat.add_lt_add_left h2 a⟩, Nat.add_sub_cancel_left] at h
    simpa [List.getD_eq_getElem?_getD, h1, h2] using h

/-! ## The canonical form -/

/-- All addresses of a memory lie at or above a bound, rising strictly, and no byte is 0. -/
def Memory.from : Nat → Memory → Bool
  | _, [] => true
  | lo, (a, v) :: t => lo ≤ a && v != 0 && Memory.from (a + 1) t

theorem Memory.from_mono {lo hi : Nat} {m : Memory} (h : lo ≤ hi) (hm : Memory.from hi m = true) : Memory.from lo m = true := by
  cases m with
  | nil => rfl
  | cons e t =>
    obtain ⟨a, v⟩ := e
    simp only [Memory.from, Bool.and_eq_true, decide_eq_true_eq] at hm ⊢
    exact ⟨⟨by omega, hm.1.2⟩, hm.2⟩

theorem Memory.wf_iff (m : Memory) : Memory.wf m = true ↔ Memory.from 0 m = true := by
  cases m with
  | nil => simp [Memory.wf, Memory.from]
  | cons e t =>
    have key : ∀ (t : Memory) (a : Nat) (v : Byte), Memory.wf ((a, v) :: t) = (v != 0 && Memory.from (a + 1) t) := by
      intro t
      induction t with
      | nil => intro a v; simp [Memory.wf, Memory.from]
      | cons e t ih =>
        intro a v
        obtain ⟨b, w⟩ := e
        simp only [Memory.wf, ih, Memory.from, Nat.succ_le_iff, Bool.and_assoc]
    obtain ⟨a, v⟩ := e
    simp [key, Memory.from]

theorem memDrop_from (m : Memory) (a lo : Nat) (h : Memory.from lo m = true) : Memory.from lo (memDrop m a) = true := by
  induction m generalizing lo with
  | nil => rfl
  | cons e t ih =>
    obtain ⟨b, w⟩ := e
    simp only [Memory.from, Bool.and_eq_true, decide_eq_true_eq] at h
    simp only [memDrop]
    split
    · exact ih _ (Memory.from_mono (by omega) h.2)
    · simp only [Memory.from, Bool.and_eq_true, decide_eq_true_eq]
      exact ⟨h.1, ih _ h.2⟩

theorem memPut_from (m : Memory) (a lo : Nat) (v : Byte) (hv : v ≠ 0) (hl : lo ≤ a) (h : Memory.from lo m = true) :
    Memory.from lo (memPut m a v) = true := by
  have hv' : (v != 0) = true := bne_iff_ne.mpr hv
  induction m generalizing lo with
  | nil => simp only [memPut, Memory.from, hv', decide_eq_true hl, Bool.and_self]
  | cons e t ih =>
    obtain ⟨b, w⟩ := e
    simp only [Memory.from, Bool.and_eq_true, decide_eq_true_eq] at h
    simp only [memPut]
    by_cases h1 : b = a
    · subst h1
      simp only [if_true, Memory.from, hv', decide_eq_true hl, h.2, Bool.and_self]
    · by_cases h2 : a < b
      · simp only [h1, h2, if_true, if_false, Memory.from, Bool.and_eq_true, decide_eq_true_eq]
        exact ⟨⟨hl, hv'⟩, ⟨h2, h.1.2⟩, h.2⟩
      · simp only [h1, h2, if_false, Memory.from, Bool.and_eq_true, decide_eq_true_eq]
        exact ⟨h.1, ih _ (by omega) h.2⟩

/-- Every write of a byte keeps the canonical form. -/
theorem memSet_wf (m : Memory) (a : Nat) (v : Byte) (h : Memory.wf m = true) : Memory.wf (memSet m a v) = true := by
  rw [Memory.wf_iff] at h ⊢
  unfold memSet
  split
  · exact memDrop_from m a 0 h
  · exact memPut_from m a 0 v ‹_› (Nat.zero_le _) h

/-- Every write of a run of bytes keeps the canonical form. -/
theorem memWrite_wf (bs : List Byte) (m : Memory) (a : Nat) (h : Memory.wf m = true) : Memory.wf (memWrite m a bs) = true := by
  induction bs generalizing m a with
  | nil => exact h
  | cons b t ih => exact ih _ _ (memSet_wf m a b h)

/-- Taking out some of the listed bytes keeps the canonical form. -/
theorem filter_wf (m : Memory) (p : Host.Cell → Bool) (h : Memory.wf m = true) : Memory.wf (m.filter p) = true := by
  rw [Memory.wf_iff] at h ⊢
  suffices ∀ lo, Memory.from lo m = true → Memory.from lo (m.filter p) = true from this 0 h
  clear h
  induction m with
  | nil => exact fun _ h => h
  | cons e t ih =>
    intro lo h
    obtain ⟨a, v⟩ := e
    simp only [Memory.from, Bool.and_eq_true, decide_eq_true_eq] at h
    simp only [List.filter_cons]
    split
    · simp only [Memory.from, Bool.and_eq_true, decide_eq_true_eq]
      exact ⟨h.1, ih _ h.2⟩
    · exact ih _ (Memory.from_mono (by omega) h.2)

/-- The package's memory after reset has the canonical form. -/
theorem reset_mem_wf : Memory.wf State.reset.mem = true := rfl

end Sys2Proof.Machine
end

