-- ==== Sys2Proof/Laws/Access.lean ====
section
/-!
SUPPORT. The checks of R112 where they pass: an access of the local window, and one of GDDR 7 at level H; and what a
watchpoint does that is not set.
-/

namespace Sys2Proof.Machine

open Sys2Proof

/-- An enable bit of a watchpoint that is not set. -/
theorem Unwatched.kind {k : Core} (h : Unwatched k) (i : Nat) (acc : Access) : wpKind (k.wpCtl.getD i 0) acc = false := by
  have key : (k.wpCtl.getD i 0).toNat % 4 = 0 := by
    rw [List.getD_eq_getElem?_getD]
    cases e : k.wpCtl[i]? with
    | none => rfl
    | some v => exact h v (List.mem_of_getElem? e)
  generalize k.wpCtl.getD i 0 = w at key
  have h0 : w.getLsbD 0 = false := by
    rw [BitVec.getLsbD, Nat.testBit_zero]; simp; omega
  have h1 : w.getLsbD 1 = false := by
    rw [BitVec.getLsbD, Nat.testBit_eq_decide_div_mod_eq]; simp; omega
  unfold wpKind
  split <;> assumption

theorem Unwatched.none {k : Core} (h : Unwatched k) (acc : Access) (va n : Nat) : wpMatches k acc va n = [] := by
  have hf : ((List.range 4).filterMap fun i =>
      let ctl := k.wpCtl.getD i 0
      if wpKind ctl acc then
        (wpByte (bits ctl.toNat 16 16) (k.wpBase.getD i 0).toNat va n).map fun a => (i, bits ctl.toNat 8 2, a)
      else Option.none) = [] := by
    rw [List.filterMap_eq_nil_iff]
    intro i _
    simp only [h.kind, Bool.false_eq_true, if_false]
  unfold wpMatches
  rw [hf, ite_self]

theorem Unwatched.stops {k : Core} (h : Unwatched k) (acc : Access) (va n : Nat) : wpStops k acc va n = [] := by
  rw [wpStops, h.none]; rfl

/-- Without a match nothing is traced. -/
theorem Unwatched.trace {s : State} {c : Nat} (h : Unwatched (s.core c)) (x : Nat) (acc : Access) (va n : Nat) :
    traceWatch c x acc va n s = s := by
  simp [traceWatch, h.none]

theorem inWindow_iff (va : Nat) : inWindow va = true ↔ (18446744073707454464 : Nat) ≤ va := decide_eq_true_iff

theorem canonical_iff (va : Nat) : canonical va = true ↔ (va / 2 ^ 56 : Nat) = 0 ∨ (va / 2 ^ 56 : Nat) = 255 := by
  unfold canonical
  rw [Bool.or_eq_true, beq_iff_eq, beq_iff_eq]

theorem mem_banksOf (lo n b : Nat) :
    b ∈ banksOf lo n ↔ ∃ i : Nat, i < (lo + n - 1) / 65536 - lo / 65536 + 1 ∧ lo / 65536 + i = b := by
  unfold banksOf
  rw [List.mem_map]
  simp only [List.mem_range]

/-- Banks that all allow the access, with no role change in progress, pass check 3. -/
theorem checkBanks_ok {k : Core} {x : Ctx} {acc : Access} {va lo n : Nat} (hr : k.roleChange = none) (bs : List Nat)
    (h : ∀ b ∈ bs, roleAllows (k.role b) x.priv = true) : checkBanks k x acc va lo n bs = .ok true [⟨va, lo, 0, n⟩] := by
  induction bs with
  | nil => rfl
  | cons b t ih =>
    simp only [checkBanks, hr]
    rw [if_neg (by simp), if_pos (h b (by simp)), ih fun b hb => h b (by simp [hb])]

theorem LocalOpen.roles {s : State} {ea : Word} {lo n : Nat} (h : LocalOpen s ea lo n) (b : Nat) (hb : b ∈ banksOf lo n) :
    roleAllows (s.myCore.role b) s.me.priv = true := by
  obtain ⟨_, h0, h1, h2, _⟩ := h
  obtain ⟨i, hi, rfl⟩ := (mem_banksOf _ _ _).1 hb
  have := h2 (lo / 65536 + i) (by omega) (by omega) (by omega)
  rcases this with e | ⟨e, e'⟩
  · rw [e]; rfl
  · rw [e, e']; rfl

/-- Checks 1 to 3 of R112 in the local window. -/
theorem LocalOpen.place {s : State} {ea : Word} {lo n : Nat} (h : LocalOpen s ea lo n) (acc : Access) :
    checkPlace s s.cur.1 s.me acc ea.toNat n = .ok true [⟨ea.toNat, lo, 0, n⟩] := by
  have hr := h.roles
  obtain ⟨he, h0, h1, -, hc, -, -⟩ := h
  have hw : inWindow ea.toNat = true := (inWindow_iff _).2 (by omega)
  have hl : (ea.toNat + n - 1) % 2 ^ 64 = ea.toNat + n - 1 := Nat.mod_eq_of_lt (by omega)
  have hw2 : inWindow (ea.toNat + n - 1) = true := (inWindow_iff _).2 (by omega)
  have hc1 : canonical ea.toNat = true := (canonical_iff _).2 (by omega)
  have hc2 : canonical (ea.toNat + n - 1) = true := (canonical_iff _).2 (by omega)
  have hm : ea.toNat % 2 ^ 21 = lo := by omega
  unfold checkPlace
  simp only [hl, hw, hw2, hc1, hc2, hm]
  have hlt : ¬(ea.toNat + n - 1 : Nat) < ea.toNat := by omega
  have hd : decide ((ea.toNat + n - 1 : Nat) < ea.toNat) = false := decide_eq_false hlt
  rw [if_neg (by rw [hd]; decide), if_pos trivial]
  exact checkBanks_ok hc _ hr

/-- Checks 1 to 4 of R112 in the local window. -/
theorem LocalOpen.watched {s : State} {ea : Word} {lo n : Nat} (h : LocalOpen s ea lo n) (acc : Access) :
    checkWatched s s.cur.1 s.me acc ea.toNat n = .ok true [⟨ea.toNat, lo, 0, n⟩] := by
  have hw : wpStops (s.core s.cur.1) acc ea.toNat n = [] := h.2.2.2.2.2.1.stops _ _ _
  simp only [checkWatched, h.place acc, hw]

/-- The first poisoned byte of a run with no poisoned sector. -/
theorem poisonIn_none {pois : List Nat} {a n : Nat} (hn : 0 < n) (h : ∀ q ∈ pois, q < a / 256 ∨ (a + n - 1) / 256 < q) :
    poisonIn pois a n = none := by
  unfold poisonIn
  rw [List.filterMap_eq_nil_iff.2]
  · rfl
  · intro i hi
    simp only [List.mem_range] at hi
    have hd : a / 256 ≤ (a + n - 1) / 256 := Nat.div_le_div_right (by omega)
    have : pois.contains (a / 256 + i) = false := by
      rw [List.contains_eq_mem]
      simp only [decide_eq_false_iff_not]
      intro hm
      have := h _ hm
      omega
    simp only [this, Bool.false_eq_true, if_false]

/-- All the checks of R112 in the local window: of a read, where no sector is poisoned, or of a write. -/
theorem LocalOpen.access {s : State} {ea : Word} {lo n : Nat} (h : LocalOpen s ea lo n) (acc : Access) (reads : Bool)
    (hp : reads = true → LocalClean s lo n) :
    checkAccess s s.cur.1 s.me acc reads ea.toNat n = .ok true [⟨ea.toNat, lo, 0, n⟩] := by
  simp only [checkAccess, h.watched acc]
  cases reads with
  | false => rfl
  | true =>
    have hm : ea.toNat % 2 ^ 21 = lo := by have := h.1; have := h.2.1; have := h.2.2.1; omega
    have : poisonIn (s.core s.cur.1).locPoison (ea.toNat % 2 ^ 21) n = none := by
      rw [hm]; exact poisonIn_none h.2.1 (hp rfl)
    simp only [this]
    rfl

/-- No wide access stands in the way (R34). -/
theorem waitsWide_none {k : Core} (h : k.wide.queue = []) (x : Nat) (l : Bool) (ps : List Part) : waitsWide k x l ps = false := by
  have h1 : wideOverlap k = fun _ _ _ => false := by funext a b d; simp [wideOverlap, h]
  have h2 : imageOverlap k x ps = false := by simp [imageOverlap, h]
  simp [waitsWide, h1, h2]

/-- An access that is performed as one is not split. -/
theorem AtOnce.whole {ea : Word} {n : Nat} (h : AtOnce ea n) : splitAt ea.toNat n = none := by
  unfold splitAt
  rw [if_neg]
  rintro ⟨-, h1, h2⟩
  rcases h with h | h <;> omega

/-- The watchpoints of a core do not change with the fields that a load's parts write. -/
theorem State.halves_congr {s : State} {l : Bool} {ea n : Nat} {bs : List Byte} {k j : List Byte → State → State} (h0 : k bs s = j bs s)
    (h1 : ∀ cs, k cs (s.setMe { s.me with half := none }) = j cs (s.setMe { s.me with half := none })) (h2 : k bs s.used = j bs s.used) :
    s.halves l ea n bs k = s.halves l ea n bs j := by
  unfold State.halves
  split
  · exact h0
  · exact h1 _
  · simp only [h2]

/-- An access that is not split (R113): its bytes are taken at once. -/
theorem State.halves_whole {s : State} {l : Bool} {ea n : Nat} {bs : List Byte} {k : List Byte → State → State} (h : splitAt ea n = none) :
    s.halves l ea n bs k = k bs s := by
  simp only [State.halves, h]

/-- A load from the local window (R112, R113, R114): its bytes, in one step or in two parts. -/
theorem LocalOpen.loadHalves {s : State} {ea : Word} {lo n : Nat} (h : LocalOpen s ea lo n) (hp : LocalClean s lo n) (acc : Access)
    (k : List Byte → State → State) : s.load acc ea.toNat n k = s.halves true ea.toNat n (memRead s.myCore.loc lo n) k := by
  have hm : ea.toNat % 2 ^ 21 = lo := by have := h.1; have := h.2.1; have := h.2.2.1; omega
  have hu : Unwatched (s.core s.cur.1) := h.2.2.2.2.2.1
  have h1 : Unwatched ((s.setMe { s.me with half := none }).core s.cur.1) := by
    rw [State.core_setMe, if_pos rfl]; exact hu
  simp only [State.load, h.access acc true fun _ => hp, waitsWide_none h.2.2.2.2.2.2, hm]
  rw [if_neg (by decide), if_pos trivial]
  refine State.halves_congr ?_ (fun cs => ?_) ?_
  · show k _ (traceWatch s.cur.1 s.cur.2 acc ea.toNat n s) = _
    rw [hu.trace]
  · show k cs (traceWatch s.cur.1 s.cur.2 acc ea.toNat n _) = _
    rw [h1.trace]
  · show k _ (traceWatch s.cur.1 s.cur.2 acc ea.toNat n s.used) = _
    rw [Unwatched.trace (s := s.used) hu]

/-- A load from the local window that is not split: the bytes, then what the instruction does with them. -/
theorem LocalOpen.load {s : State} {ea : Word} {lo n : Nat} (h : LocalOpen s ea lo n) (hp : LocalClean s lo n) (acc : Access)
    (hw : splitAt ea.toNat n = none) (k : List Byte → State → State) :
    s.load acc ea.toNat n k = k (memRead s.myCore.loc lo n) s := by
  rw [h.loadHalves hp, State.halves_whole hw]

/-- A local store leaves the watchpoints of the core. -/
theorem storeLocal_unwatched {s : State} (h : Unwatched s.myCore) (a : Nat) (m : Option Nat) (bs : List Byte) :
    Unwatched ((storeLocal s.cur.1 a m bs s).core s.cur.1) := by
  unfold storeLocal
  split
  · rw [locWrite, State.core_updCore, if_pos rfl]; exact h
  · dsimp only
    split
    · rw [locWrite, State.core_updCore, if_pos rfl]; exact h
    · split <;>
      · rw [State.core_updCore, if_pos rfl, locWrite, State.core_updCore, if_pos rfl]; exact h

/-- A store to the local window (R113): its bytes, or one of its two parts before the other. -/
theorem LocalOpen.storeParts {s : State} {ea : Word} {lo : Nat} {bs : List Byte} (h : LocalOpen s ea lo bs.length) (acc : Access)
    (k : State → State) : s.store acc ea.toNat bs k = k (storeLocal s.cur.1 lo (splitAt ea.toNat bs.length) bs s) := by
  have hm : ea.toNat % 2 ^ 21 = lo := by have := h.1; have := h.2.1; have := h.2.2.1; omega
  have hu := storeLocal_unwatched h.2.2.2.2.2.1 lo (splitAt ea.toNat bs.length) bs
  simp only [State.store, h.access acc false (by simp), waitsWide_none h.2.2.2.2.2.2, hm, hu.trace]
  rfl

/-- A store to the local window that is not split. -/
theorem LocalOpen.store {s : State} {ea : Word} {lo : Nat} {bs : List Byte} (h : LocalOpen s ea lo bs.length) (acc : Access)
    (hw : splitAt ea.toNat bs.length = none) (k : State → State) : s.store acc ea.toNat bs k = k (locWrite s s.cur.1 lo bs) := by
  rw [h.storeParts, hw]; rfl

/-- What a write of local bytes leaves in the local spaces. -/
theorem locByte_locWrite (s : State) (c d lo a : Nat) (bs : List Byte) :
    locByte (locWrite s c lo bs) d a =
      if d = c ∧ lo ≤ a ∧ a < lo + bs.length then bs.getD (a - lo) 0 else locByte s d a := by
  simp only [locByte, locWrite, State.core_updCore]
  by_cases h : d = c
  · subst h; simp [memByte_memWrite]
  · simp [h]

/-! ## GDDR 7 at level H -/

theorem target_gddr {pa : Nat} (h : pa < 0x1800000000) : target pa = .gddr := if_pos h

theorem isGddr_of {pa : Nat} (h : pa < 0x1800000000) : isGddr pa = true := by rw [isGddr, target_gddr h]; rfl

/-- At H a GDDR 7 address translates to itself, under key ID 0 (R289). -/
theorem translate_h {s : State} {c : Nat} {x : Ctx} {va : Nat} (hx : x.priv = .h) (h : va < 0x1800000000) (acc : Access) :
    translate s c x va acc = .ok va 0 := by
  have h1 : bits va 52 5 = 0 := by unfold bits; omega
  have h2 : va % 2 ^ 52 = va := Nat.mod_eq_of_lt (by omega)
  have h3 : hasTarget s c va = true := by simp only [hasTarget, target_gddr h]
  unfold translate
  simp only [hx, h1, h2, h3, ne_eq, not_true_eq_false, if_false, if_true, Bool.not_true, Bool.false_eq_true]

theorem GddrOpen.place {s : State} {ea : Word} {n : Nat} (h : GddrOpen s ea n) (acc : Access) :
    checkPlace s s.cur.1 s.me acc ea.toNat n = .ok false [⟨ea.toNat, ea.toNat, 0, n⟩] := by
  obtain ⟨hx, h1, h0, hs, -, -, -⟩ := h
  have hl : (ea.toNat + n - 1) % 2 ^ 64 = ea.toNat + n - 1 := Nat.mod_eq_of_lt (by omega)
  have hw : inWindow ea.toNat = false := by
    rw [Bool.eq_false_iff, ne_eq, inWindow_iff]; omega
  have hw2 : inWindow (ea.toNat + n - 1) = false := by
    rw [Bool.eq_false_iff, ne_eq, inWindow_iff]; omega
  have hc1 : canonical ea.toNat = true := (canonical_iff _).2 (by omega)
  have hc2 : canonical (ea.toNat + n - 1) = true := (canonical_iff _).2 (by omega)
  have hlt : ¬(ea.toNat + n - 1 : Nat) < ea.toNat := by omega
  have hd : decide ((ea.toNat + n - 1 : Nat) < ea.toNat) = false := decide_eq_false hlt
  have hp : pagesOf (n / 4096 + 2) ea.toNat n = [(ea.toNat, n)] := by
    have hn : n ≤ 4096 - ea.toNat % 4096 := by omega
    show (if n ≤ 4096 - ea.toNat % 4096 then _ else _) = _
    rw [if_pos hn]
  unfold checkPlace
  simp only [hl, hw, hw2, hc1, hc2, hp]
  rw [if_neg (by rw [hd]; decide), if_neg (by decide)]
  simp only [checkPages, translate_h hx (show ea.toNat < 0x1800000000 by omega), List.nil_append]

theorem GddrOpen.watched {s : State} {ea : Word} {n : Nat} (h : GddrOpen s ea n) (acc : Access) :
    checkWatched s s.cur.1 s.me acc ea.toNat n = .ok false [⟨ea.toNat, ea.toNat, 0, n⟩] := by
  have hw : wpStops (s.core s.cur.1) acc ea.toNat n = [] := h.2.2.2.2.1.stops _ _ _
  simp only [checkWatched, h.place acc, hw]

/-- A read passes where the sector is not poisoned; a write always. -/
theorem GddrOpen.access {s : State} {ea : Word} {n : Nat} (h : GddrOpen s ea n) (acc : Access) (reads : Bool)
    (hp : reads = true → sectorPoisoned s s.cur.1 (ea.toNat / 256) = false) :
    checkAccess s s.cur.1 s.me acc reads ea.toNat n = .ok false [⟨ea.toNat, ea.toNat, 0, n⟩] := by
  simp only [checkAccess, h.watched acc]
  cases reads with
  | false => rfl
  | true =>
    have hg : isGddr ea.toNat = true := isGddr_of (by have := h.2.1; have := h.2.2.1; omega)
    have hs : (ea.toNat + n - 1 : Nat) / 256 - (ea.toNat : Nat) / 256 + 1 = 1 := by have := h.2.2.2.1; omega
    have hf : partsPoison s s.cur.1 [⟨ea.toNat, ea.toNat, 0, n⟩] = none := by
      simp only [partsPoison, hg, if_true, hs, List.range_one, List.map_cons, List.map_nil, Nat.add_zero]
      rw [List.find?_cons_of_neg (by rw [hp rfl]; decide)]
      rfl
    simp only [hf]
    rfl

theorem HoldsSector.clean {s : State} {ea : Word} {t : Sector} (h : HoldsSector s ea t) :
    sectorPoisoned s s.cur.1 (ea.toNat / 256) = false := by
  have h1 : tfind (s.core s.cur.1).l1 (ea.toNat / 256) = some t := h.1
  simp only [sectorPoisoned, h1, h.2.1, h.2.2.2.1]
  rfl

theorem sectorRuns_one {f a n : Nat} (_ : 0 < n) (h : a / 256 = (a + n - 1) / 256) : sectorRuns (f + 1) a n = [(a, n)] := by
  have hn : n ≤ 256 - a % 256 := by omega
  show (if n ≤ 256 - a % 256 then _ else _) = _
  rw [if_pos hn]

/-- A load that hits in the L1 (R276, R114): the bytes of the sector as the L1 holds them. -/
theorem GddrOpen.load {s : State} {ea : Word} {n : Nat} {t : Sector} (h : GddrOpen s ea n) (ht : HoldsSector s ea t) (acc : Access)
    (hw : splitAt ea.toNat n = none) (hpo : partialOut s s.cur.1 (ea.toNat / 256) = false) (k : List Byte → State → State) :
    s.load acc ea.toNat n k = k ((t.bytes.drop (ea.toNat % 256)).take n) (s.setMe { s.me with rdata := none }) := by
  have hc := h.access acc true fun _ => ht.clean
  obtain ⟨-, h1, h0, hs, hu, hb, hq⟩ := h
  obtain ⟨t1, t2, t3, -, t5⟩ := ht
  have t1' : tfind (s.core s.cur.1).l1 (ea.toNat / 256) = some t := t1
  have hb' : (s.core s.cur.1).stbuf = [] := hb
  have t5' : (s.core s.cur.1).hasL1 = true := t5
  have hg : target ea.toNat = .gddr := target_gddr (by omega)
  have hr : readRun s s.cur.1 0 ea.toNat n = .bytes ((t.bytes.drop (ea.toNat % 256)).take n) s := by
    simp only [readRun, hb', hpo, t1', t2, t3, t5', List.any_nil, Bool.or_false, Bool.false_eq_true, if_false, Bool.not_true, Option.isSome_none, if_true]
  have hgat : gather s.cur.1 [⟨ea.toNat, ea.toNat, 0, n⟩] (s.me.rdata.getD []) [] s =
      .bytes ((t.bytes.drop (ea.toNat % 256)).take n) s := by
    simp only [gather, hg, sectorRuns_one h0 hs, readRuns, hr, List.nil_append]
  have hu' : Unwatched ((s.setMe { s.me with rdata := none }).core s.cur.1) := by
    rw [State.core_setMe, if_pos rfl]; exact hu
  have hcut : [(⟨ea.toNat, ea.toNat, 0, n⟩ : Part)].flatMap (cutOut 6) = [⟨ea.toNat, ea.toNat, 0, n⟩] := by
    simp [cutOut, isGddr_of (show ea.toNat < 0x1800000000 by omega)]
  have hall : ([(⟨ea.toNat, ea.toNat, 0, n⟩ : Part)].all fun p => isGddr p.pa) = true := by
    simp [isGddr_of (show ea.toNat < 0x1800000000 by omega)]
  simp only [State.load, hc, waitsWide_none hq, Bool.false_eq_true, if_false, hcut, hgat, hall, if_true, State.halves_whole hw, hu'.trace]

end Sys2Proof.Machine
end

