-- ==== Sys2Proof/Laws/PerInstr.lean ====
section
/-!
SUPPORT. The family WordsLen of R68: the LEN field of an instruction's first word says how many words its encoding has. A machine
event has none.
-/

namespace Sys2Proof.Laws.WordsLen

open Sys2Proof

/-- The encoding has as many words as the LEN field of its first word says (R68); a machine event has no words. -/
def Statement (i : Instr) : Prop := encode i = [] ∨ wordCount ((encode i).getD 0 0) = (encode i).length

theorem len_top (n : BitVec 2) (b : BitVec 30) : fLen (n ++ b) = n := by
  apply BitVec.eq_of_toNat_eq
  have h := b.isLt
  have hn := n.isLt
  simp only [fLen, BitVec.extractLsb'_toNat, BitVec.toNat_append, Nat.shiftRight_eq_div_pow]
  rw [← Nat.shiftLeft_add_eq_or_of_lt h, Nat.shiftLeft_eq]
  omega

theorem words1_len (b : BitVec 30) : wordCount ((words1 b).getD 0 0) = (words1 b).length := by
  simp only [words1, List.getD_cons_zero, wordCount, len_top]; rfl

theorem wordsY_len (b : BitVec 30) (y : Word) : wordCount ((wordsY b y).getD 0 0) = (wordsY b y).length := by
  simp only [wordsY, List.getD_cons_zero, wordCount, len_top]; rfl

theorem wordsL_len (b : BitVec 30) (l : Word) : wordCount ((wordsL b l).getD 0 0) = (wordsL b l).length := by
  simp only [wordsL, List.getD_cons_zero, wordCount, len_top]; rfl

theorem wordsYL_len (b : BitVec 30) (y l : Word) : wordCount ((wordsYL b y l).getD 0 0) = (wordsYL b y l).length := by
  simp only [wordsYL, List.getD_cons_zero, wordCount, len_top]; rfl

theorem add : ∀ a0 a1 a2, Statement (.add a0 a1 a2) := fun _ _ _ => .inr (words1_len _)
theorem sub : ∀ a0 a1 a2, Statement (.sub a0 a1 a2) := fun _ _ _ => .inr (words1_len _)
theorem and : ∀ a0 a1 a2, Statement (.and a0 a1 a2) := fun _ _ _ => .inr (words1_len _)
theorem or : ∀ a0 a1 a2, Statement (.or a0 a1 a2) := fun _ _ _ => .inr (words1_len _)
theorem xor : ∀ a0 a1 a2, Statement (.xor a0 a1 a2) := fun _ _ _ => .inr (words1_len _)
theorem andn : ∀ a0 a1 a2, Statement (.andn a0 a1 a2) := fun _ _ _ => .inr (words1_len _)
theorem shl : ∀ a0 a1 a2, Statement (.shl a0 a1 a2) := fun _ _ _ => .inr (words1_len _)
theorem shr : ∀ a0 a1 a2, Statement (.shr a0 a1 a2) := fun _ _ _ => .inr (words1_len _)
theorem sar : ∀ a0 a1 a2, Statement (.sar a0 a1 a2) := fun _ _ _ => .inr (words1_len _)
theorem rot : ∀ a0 a1 a2, Statement (.rot a0 a1 a2) := fun _ _ _ => .inr (words1_len _)
theorem min : ∀ a0 a1 a2, Statement (.min a0 a1 a2) := fun _ _ _ => .inr (words1_len _)
theorem max : ∀ a0 a1 a2, Statement (.max a0 a1 a2) := fun _ _ _ => .inr (words1_len _)
theorem minu : ∀ a0 a1 a2, Statement (.minu a0 a1 a2) := fun _ _ _ => .inr (words1_len _)
theorem maxu : ∀ a0 a1 a2, Statement (.maxu a0 a1 a2) := fun _ _ _ => .inr (words1_len _)
theorem mul : ∀ a0 a1 a2, Statement (.mul a0 a1 a2) := fun _ _ _ => .inr (words1_len _)
theorem mulh : ∀ a0 a1 a2, Statement (.mulh a0 a1 a2) := fun _ _ _ => .inr (words1_len _)
theorem mulhu : ∀ a0 a1 a2, Statement (.mulhu a0 a1 a2) := fun _ _ _ => .inr (words1_len _)
theorem div : ∀ a0 a1 a2, Statement (.div a0 a1 a2) := fun _ _ _ => .inr (words1_len _)
theorem divu : ∀ a0 a1 a2, Statement (.divu a0 a1 a2) := fun _ _ _ => .inr (words1_len _)
theorem rem : ∀ a0 a1 a2, Statement (.rem a0 a1 a2) := fun _ _ _ => .inr (words1_len _)
theorem remu : ∀ a0 a1 a2, Statement (.remu a0 a1 a2) := fun _ _ _ => .inr (words1_len _)
theorem cmp : ∀ a0 a1 a2 a3, Statement (.cmp a0 a1 a2 a3) := fun _ _ _ _ => .inr (words1_len _)
theorem sel : ∀ a0 a1 a2 a3, Statement (.sel a0 a1 a2 a3) := fun _ _ _ _ => .inr (words1_len _)
theorem clz : ∀ a0 a1, Statement (.clz a0 a1) := fun _ _ => .inr (words1_len _)
theorem ctz : ∀ a0 a1, Statement (.ctz a0 a1) := fun _ _ => .inr (words1_len _)
theorem popc : ∀ a0 a1, Statement (.popc a0 a1) := fun _ _ => .inr (words1_len _)
theorem bext : ∀ a0 a1 a2, Statement (.bext a0 a1 a2) := fun _ _ _ => .inr (words1_len _)
theorem bins : ∀ a0 a1 a2, Statement (.bins a0 a1 a2) := fun _ _ _ => .inr (words1_len _)
theorem movi : ∀ a0 a1, Statement (.movi a0 a1) := fun _ _ => .inr (words1_len _)
theorem moviLit : ∀ a0 a1, Statement (.moviLit a0 a1) := fun _ _ => .inr (wordsL_len _ _)
theorem addi : ∀ a0 a1 a2, Statement (.addi a0 a1 a2) := fun _ _ _ => .inr (words1_len _)
theorem addiLit : ∀ a0 a1 a2, Statement (.addiLit a0 a1 a2) := fun _ _ _ => .inr (wordsL_len _ _)
theorem andi : ∀ a0 a1 a2, Statement (.andi a0 a1 a2) := fun _ _ _ => .inr (words1_len _)
theorem andiLit : ∀ a0 a1 a2, Statement (.andiLit a0 a1 a2) := fun _ _ _ => .inr (wordsL_len _ _)
theorem ori : ∀ a0 a1 a2, Statement (.ori a0 a1 a2) := fun _ _ _ => .inr (words1_len _)
theorem oriLit : ∀ a0 a1 a2, Statement (.oriLit a0 a1 a2) := fun _ _ _ => .inr (wordsL_len _ _)
theorem xori : ∀ a0 a1 a2, Statement (.xori a0 a1 a2) := fun _ _ _ => .inr (words1_len _)
theorem xoriLit : ∀ a0 a1 a2, Statement (.xoriLit a0 a1 a2) := fun _ _ _ => .inr (wordsL_len _ _)
theorem shli : ∀ a0 a1 a2, Statement (.shli a0 a1 a2) := fun _ _ _ => .inr (words1_len _)
theorem shri : ∀ a0 a1 a2, Statement (.shri a0 a1 a2) := fun _ _ _ => .inr (words1_len _)
theorem sari : ∀ a0 a1 a2, Statement (.sari a0 a1 a2) := fun _ _ _ => .inr (words1_len _)
theorem br : ∀ a0 a1 a2, Statement (.br a0 a1 a2) := fun _ _ _ => .inr (words1_len _)
theorem loop : ∀ a0 a1, Statement (.loop a0 a1) := fun _ _ => .inr (words1_len _)
theorem jmp : ∀ a0, Statement (.jmp a0) := fun _ => .inr (words1_len _)
theorem jmpLit : ∀ a0, Statement (.jmpLit a0) := fun _ => .inr (wordsL_len _ _)
theorem call : ∀ a0 a1, Statement (.call a0 a1) := fun _ _ => .inr (words1_len _)
theorem callLit : ∀ a0 a1, Statement (.callLit a0 a1) := fun _ _ => .inr (wordsL_len _ _)
theorem jr : ∀ a0 a1, Statement (.jr a0 a1) := fun _ _ => .inr (words1_len _)
theorem ret : Statement (.ret) := .inr (words1_len _)
theorem ld : ∀ a0 a1 a2 a3, Statement (.ld a0 a1 a2 a3) := fun _ _ _ _ => .inr (words1_len _)
theorem ldLit : ∀ a0 a1 a2 a3, Statement (.ldLit a0 a1 a2 a3) := fun _ _ _ _ => .inr (wordsL_len _ _)
theorem st : ∀ a0 a1 a2 a3, Statement (.st a0 a1 a2 a3) := fun _ _ _ _ => .inr (words1_len _)
theorem stLit : ∀ a0 a1 a2 a3, Statement (.stLit a0 a1 a2 a3) := fun _ _ _ _ => .inr (wordsL_len _ _)
theorem ldp : ∀ a0 a1 a2, Statement (.ldp a0 a1 a2) := fun _ _ _ => .inr (words1_len _)
theorem ldpLit : ∀ a0 a1 a2, Statement (.ldpLit a0 a1 a2) := fun _ _ _ => .inr (wordsL_len _ _)
theorem stp : ∀ a0 a1 a2, Statement (.stp a0 a1 a2) := fun _ _ _ => .inr (words1_len _)
theorem stpLit : ∀ a0 a1 a2, Statement (.stpLit a0 a1 a2) := fun _ _ _ => .inr (wordsL_len _ _)
theorem pref : ∀ a0 a1 a2, Statement (.pref a0 a1 a2) := fun _ _ _ => .inr (words1_len _)
theorem prefLit : ∀ a0 a1 a2, Statement (.prefLit a0 a1 a2) := fun _ _ _ => .inr (wordsL_len _ _)
theorem amo : ∀ a0 a1 a2 a3 a4, Statement (.amo a0 a1 a2 a3 a4) := fun _ _ _ _ _ => .inr (words1_len _)
theorem upd : ∀ a0 a1 a2 a3, Statement (.upd a0 a1 a2 a3) := fun _ _ _ _ => .inr (words1_len _)
theorem fadd : ∀ a0 a1 a2 a3 a4, Statement (.fadd a0 a1 a2 a3 a4) := fun _ _ _ _ _ => .inr (words1_len _)
theorem fsub : ∀ a0 a1 a2 a3 a4, Statement (.fsub a0 a1 a2 a3 a4) := fun _ _ _ _ _ => .inr (words1_len _)
theorem fmul : ∀ a0 a1 a2 a3 a4, Statement (.fmul a0 a1 a2 a3 a4) := fun _ _ _ _ _ => .inr (words1_len _)
theorem fdiv : ∀ a0 a1 a2 a3 a4, Statement (.fdiv a0 a1 a2 a3 a4) := fun _ _ _ _ _ => .inr (words1_len _)
theorem fsqrt : ∀ a0 a1 a2 a3, Statement (.fsqrt a0 a1 a2 a3) := fun _ _ _ _ => .inr (words1_len _)
theorem fmin : ∀ a0 a1 a2 a3, Statement (.fmin a0 a1 a2 a3) := fun _ _ _ _ => .inr (words1_len _)
theorem fmax : ∀ a0 a1 a2 a3, Statement (.fmax a0 a1 a2 a3) := fun _ _ _ _ => .inr (words1_len _)
theorem fminm : ∀ a0 a1 a2 a3, Statement (.fminm a0 a1 a2 a3) := fun _ _ _ _ => .inr (words1_len _)
theorem fmaxm : ∀ a0 a1 a2 a3, Statement (.fmaxm a0 a1 a2 a3) := fun _ _ _ _ => .inr (words1_len _)
theorem fma : ∀ a0 a1 a2 a3 a4, Statement (.fma a0 a1 a2 a3 a4) := fun _ _ _ _ _ => .inr (words1_len _)
theorem fcmp : ∀ a0 a1 a2 a3 a4, Statement (.fcmp a0 a1 a2 a3 a4) := fun _ _ _ _ _ => .inr (words1_len _)
theorem fcvt : ∀ a0 a1 a2 a3 a4, Statement (.fcvt a0 a1 a2 a3 a4) := fun _ _ _ _ _ => .inr (words1_len _)
theorem fclass : ∀ a0 a1 a2, Statement (.fclass a0 a1 a2) := fun _ _ _ => .inr (words1_len _)
theorem csrr : ∀ a0 a1, Statement (.csrr a0 a1) := fun _ _ => .inr (words1_len _)
theorem csrw : ∀ a0 a1 a2, Statement (.csrw a0 a1 a2) := fun _ _ _ => .inr (words1_len _)
theorem csrs : ∀ a0 a1 a2, Statement (.csrs a0 a1 a2) := fun _ _ _ => .inr (words1_len _)
theorem csrc : ∀ a0 a1 a2, Statement (.csrc a0 a1 a2) := fun _ _ _ => .inr (words1_len _)
theorem mbw : ∀ a0 a1, Statement (.mbw a0 a1) := fun _ _ => .inr (words1_len _)
theorem mbr : ∀ a0 a1, Statement (.mbr a0 a1) := fun _ _ => .inr (words1_len _)
theorem mbq : ∀ a0 a1, Statement (.mbq a0 a1) := fun _ _ => .inr (words1_len _)
theorem nop : Statement (.nop) := .inr (words1_len _)
theorem eret : Statement (.eret) := .inr (words1_len _)
theorem brk : Statement (.brk) := .inr (words1_len _)
theorem halt : Statement (.halt) := .inr (words1_len _)
theorem rand : ∀ a0, Statement (.rand a0) := fun _ => .inr (words1_len _)
theorem trap : ∀ a0, Statement (.trap a0) := fun _ => .inr (words1_len _)
theorem vlda : ∀ a0 a1 a2 a3, Statement (.vlda a0 a1 a2 a3) := fun _ _ _ _ => .inr (words1_len _)
theorem vsta : ∀ a0 a1 a2 a3, Statement (.vsta a0 a1 a2 a3) := fun _ _ _ _ => .inr (words1_len _)
theorem vadd : ∀ a0 a1 a2 a3 a4, Statement (.vadd a0 a1 a2 a3 a4) := fun _ _ _ _ _ => .inr (words1_len _)
theorem vsub : ∀ a0 a1 a2 a3 a4, Statement (.vsub a0 a1 a2 a3 a4) := fun _ _ _ _ _ => .inr (words1_len _)
theorem vmul : ∀ a0 a1 a2 a3 a4, Statement (.vmul a0 a1 a2 a3 a4) := fun _ _ _ _ _ => .inr (words1_len _)
theorem vfma : ∀ a0 a1 a2 a3 a4 a5, Statement (.vfma a0 a1 a2 a3 a4 a5) := fun _ _ _ _ _ _ => .inr (words1_len _)
theorem vfms : ∀ a0 a1 a2 a3 a4 a5, Statement (.vfms a0 a1 a2 a3 a4 a5) := fun _ _ _ _ _ _ => .inr (words1_len _)
theorem vmax : ∀ a0 a1 a2, Statement (.vmax a0 a1 a2) := fun _ _ _ => .inr (words1_len _)
theorem vmin : ∀ a0 a1 a2, Statement (.vmin a0 a1 a2) := fun _ _ _ => .inr (words1_len _)
theorem vabs : ∀ a0 a1, Statement (.vabs a0 a1) := fun _ _ => .inr (words1_len _)
theorem vneg : ∀ a0 a1, Statement (.vneg a0 a1) := fun _ _ => .inr (words1_len _)
theorem vclamp : ∀ a0 a1 a2 a3, Statement (.vclamp a0 a1 a2 a3) := fun _ _ _ _ => .inr (words1_len _)
theorem vscale : ∀ a0 a1 a2 a3 a4, Statement (.vscale a0 a1 a2 a3 a4) := fun _ _ _ _ _ => .inr (words1_len _)
theorem vdot : ∀ a0 a1 a2 a3 a4 a5, Statement (.vdot a0 a1 a2 a3 a4 a5) := fun _ _ _ _ _ _ => .inr (words1_len _)
theorem vand : ∀ a0 a1 a2, Statement (.vand a0 a1 a2) := fun _ _ _ => .inr (words1_len _)
theorem vor : ∀ a0 a1 a2, Statement (.vor a0 a1 a2) := fun _ _ _ => .inr (words1_len _)
theorem vxor : ∀ a0 a1 a2, Statement (.vxor a0 a1 a2) := fun _ _ _ => .inr (words1_len _)
theorem vshl : ∀ a0 a1 a2, Statement (.vshl a0 a1 a2) := fun _ _ _ => .inr (words1_len _)
theorem vshr : ∀ a0 a1 a2 a3, Statement (.vshr a0 a1 a2 a3) := fun _ _ _ _ => .inr (words1_len _)
theorem vsel : ∀ a0 a1 a2 a3 a4, Statement (.vsel a0 a1 a2 a3 a4) := fun _ _ _ _ _ => .inr (words1_len _)
theorem vcmp : ∀ a0 a1 a2 a3, Statement (.vcmp a0 a1 a2 a3) := fun _ _ _ _ => .inr (words1_len _)
theorem vperm : ∀ a0 a1 a2, Statement (.vperm a0 a1 a2) := fun _ _ _ => .inr (words1_len _)
theorem vshuf : ∀ a0 a1 a2, Statement (.vshuf a0 a1 a2) := fun _ _ _ => .inr (words1_len _)
theorem viota : ∀ a0, Statement (.viota a0) := fun _ => .inr (words1_len _)
theorem vred : ∀ a0 a1 a2, Statement (.vred a0 a1 a2) := fun _ _ _ => .inr (words1_len _)
theorem vbcast : ∀ a0 a1 a2, Statement (.vbcast a0 a1 a2) := fun _ _ _ => .inr (words1_len _)
theorem vcvt : ∀ a0 a1 a2 a3, Statement (.vcvt a0 a1 a2 a3) := fun _ _ _ _ => .inr (words1_len _)
theorem vcvtAuto : ∀ a0 a1 a2 a3, Statement (.vcvtAuto a0 a1 a2 a3) := fun _ _ _ _ => .inr (words1_len _)
theorem vexp2 : ∀ a0 a1, Statement (.vexp2 a0 a1) := fun _ _ => .inr (words1_len _)
theorem vlog2 : ∀ a0 a1, Statement (.vlog2 a0 a1) := fun _ _ => .inr (words1_len _)
theorem vrcp : ∀ a0 a1, Statement (.vrcp a0 a1) := fun _ _ => .inr (words1_len _)
theorem vrsq : ∀ a0 a1, Statement (.vrsq a0 a1) := fun _ _ => .inr (words1_len _)
theorem vtanh : ∀ a0 a1, Statement (.vtanh a0 a1) := fun _ _ => .inr (words1_len _)
theorem vsig : ∀ a0 a1, Statement (.vsig a0 a1) := fun _ _ => .inr (words1_len _)
theorem pset : ∀ a0 a1, Statement (.pset a0 a1) := fun _ _ => .inr (words1_len _)
theorem padd : ∀ a0 a1, Statement (.padd a0 a1) := fun _ _ => .inr (words1_len _)
theorem pget : ∀ a0 a1, Statement (.pget a0 a1) := fun _ _ => .inr (words1_len _)
theorem fset : ∀ a0 a1, Statement (.fset a0 a1) := fun _ _ => .inr (words1_len _)
theorem fget : ∀ a0 a1, Statement (.fget a0 a1) := fun _ _ => .inr (words1_len _)
theorem acccfg : ∀ a0, Statement (.acccfg a0) := fun _ => .inr (words1_len _)
theorem acccfgKeep : ∀ a0, Statement (.acccfgKeep a0) := fun _ => .inr (words1_len _)
theorem accsw : Statement (.accsw) := .inr (words1_len _)
theorem rep : ∀ a0 a1 a2 a3, Statement (.rep a0 a1 a2 a3) := fun _ _ _ _ => .inr (words1_len _)
theorem evdef : ∀ a0 a1, Statement (.evdef a0 a1) := fun _ _ => .inr (words1_len _)
theorem evdel : ∀ a0 a1, Statement (.evdel a0 a1) := fun _ _ => .inr (words1_len _)
theorem evstat : ∀ a0 a1 a2, Statement (.evstat a0 a1 a2) := fun _ _ _ => .inr (words1_len _)
theorem offerSync : ∀ a0, Statement (.offerSync a0) := fun _ => .inr (words1_len _)
theorem offerGive : ∀ a0 a1, Statement (.offerGive a0 a1) := fun _ _ => .inr (words1_len _)
theorem offerTake : ∀ a0 a1, Statement (.offerTake a0 a1) := fun _ _ => .inr (words1_len _)
theorem offerBoth : ∀ a0 a1 a2, Statement (.offerBoth a0 a1 a2) := fun _ _ _ => .inr (words1_len _)
theorem wdraw : ∀ a0, Statement (.wdraw a0) := fun _ => .inr (words1_len _)
theorem wdrawAll : Statement (.wdrawAll) := .inr (words1_len _)
theorem selectNb : ∀ a0, Statement (.selectNb a0) := fun _ => .inr (words1_len _)
theorem selectT : ∀ a0, Statement (.selectT a0) := fun _ => .inr (words1_len _)
theorem selectNbLimit : ∀ a0 a1, Statement (.selectNbLimit a0 a1) := fun _ _ => .inr (wordsL_len _ _)
theorem selectTLimit : ∀ a0 a1, Statement (.selectTLimit a0 a1) := fun _ _ => .inr (wordsL_len _ _)
theorem phase : ∀ a0, Statement (.phase a0) := fun _ => .inr (words1_len _)
theorem gang : Statement (.gang) := .inr (words1_len _)
theorem spawn : ∀ a0 a1 a2, Statement (.spawn a0 a1 a2) := fun _ _ _ => .inr (words1_len _)
theorem hend : Statement (.hend) := .inr (words1_len _)
theorem take : ∀ a0 a1, Statement (.take a0 a1) := fun _ _ => .inr (words1_len _)
theorem done : ∀ a0 a1, Statement (.done a0 a1) := fun _ _ => .inr (words1_len _)
theorem poolcfg : ∀ a0 a1 a2, Statement (.poolcfg a0 a1 a2) := fun _ _ _ => .inr (words1_len _)
theorem poolput : ∀ a0 a1 a2, Statement (.poolput a0 a1 a2) := fun _ _ _ => .inr (words1_len _)
theorem domset : ∀ a0, Statement (.domset a0) := fun _ => .inr (words1_len _)
theorem fifobind : ∀ a0 a1 a2, Statement (.fifobind a0 a1 a2) := fun _ _ _ => .inr (words1_len _)
theorem mldb : ∀ a0 a1 a2 a3 a4 a5 a6, Statement (.mldb a0 a1 a2 a3 a4 a5 a6) := fun _ _ _ _ _ _ _ => .inr (wordsY_len _ _)
theorem mmul : ∀ a0 a1 a2 a3 a4 a5, Statement (.mmul a0 a1 a2 a3 a4 a5) := fun _ _ _ _ _ _ => .inr (wordsY_len _ _)
theorem mcfg : ∀ a0, Statement (.mcfg a0) := fun _ => .inr (wordsY_len _ _)
theorem mstat : ∀ a0 a1, Statement (.mstat a0 a1) := fun _ _ => .inr (wordsY_len _ _)
theorem mspill : ∀ a0 a1, Statement (.mspill a0 a1) := fun _ _ => .inr (wordsY_len _ _)
theorem mfill : ∀ a0 a1, Statement (.mfill a0 a1) := fun _ _ => .inr (wordsY_len _ _)
theorem fenceL : Statement (.fenceL) := .inr (words1_len _)
theorem cflush : ∀ a0 a1, Statement (.cflush a0 a1) := fun _ _ => .inr (words1_len _)
theorem cinv : ∀ a0 a1, Statement (.cinv a0 a1) := fun _ _ => .inr (words1_len _)
theorem cinvI : ∀ a0, Statement (.cinvI a0) := fun _ => .inr (words1_len _)
theorem czero : ∀ a0, Statement (.czero a0) := fun _ => .inr (words1_len _)
theorem bankrole : ∀ a0 a1 a2, Statement (.bankrole a0 a1 a2) := fun _ _ _ => .inr (words1_len _)
theorem tlbiAll : ∀ a0, Statement (.tlbiAll a0) := fun _ => .inr (words1_len _)
theorem tlbiAsid : ∀ a0 a1, Statement (.tlbiAsid a0 a1) := fun _ _ => .inr (words1_len _)
theorem tlbiPage : ∀ a0 a1 a2, Statement (.tlbiPage a0 a1 a2) := fun _ _ _ => .inr (words1_len _)
theorem tlbiVa : ∀ a0 a1, Statement (.tlbiVa a0 a1) := fun _ _ => .inr (words1_len _)
theorem wpset : ∀ a0 a1 a2, Statement (.wpset a0 a1 a2) := fun _ _ _ => .inr (words1_len _)
theorem fifoadv : ∀ a0 a1 a2, Statement (.fifoadv a0 a1 a2) := fun _ _ _ => .inr (words1_len _)
theorem layreg : ∀ a0 a1 a2, Statement (.layreg a0 a1 a2) := fun _ _ _ => .inr (wordsY_len _ _)
theorem layregLit : ∀ a0 a1 a2, Statement (.layregLit a0 a1 a2) := fun _ _ _ => .inr (wordsYL_len _ _ _)
theorem layrel : ∀ a0 a1, Statement (.layrel a0 a1) := fun _ _ => .inr (wordsY_len _ _)
theorem copy : ∀ a0 a1 a2 a3 a4 a5, Statement (.copy a0 a1 a2 a3 a4 a5) := fun _ _ _ _ _ _ => .inr (wordsY_len _ _)
theorem copyFirst : ∀ a0 a1 a2 a3 a4 a5 a6, Statement (.copyFirst a0 a1 a2 a3 a4 a5 a6) := fun _ _ _ _ _ _ _ => .inr (wordsYL_len _ _ _)
theorem cstat : ∀ a0 a1, Statement (.cstat a0 a1) := fun _ _ => .inr (wordsY_len _ _)
theorem cstatAbort : ∀ a0 a1, Statement (.cstatAbort a0 a1) := fun _ _ => .inr (wordsY_len _ _)
theorem pbind : ∀ a0 a1, Statement (.pbind a0 a1) := fun _ _ => .inr (wordsY_len _ _)
theorem punbind : ∀ a0 a1, Statement (.punbind a0 a1) := fun _ _ => .inr (wordsY_len _ _)
theorem pstat : ∀ a0 a1 a2, Statement (.pstat a0 a1 a2) := fun _ _ _ => .inr (wordsY_len _ _)
theorem permit : ∀ a0 a1 a2, Statement (.permit a0 a1 a2) := fun _ _ _ => .inr (wordsY_len _ _)
theorem rescls : ∀ a0 a1 a2, Statement (.rescls a0 a1 a2) := fun _ _ _ => .inr (wordsY_len _ _)
theorem tcfgNew : ∀ a0 a1 a2, Statement (.tcfgNew a0 a1 a2) := fun _ _ _ => .inr (wordsY_len _ _)
theorem tcfgNewLit : ∀ a0 a1 a2, Statement (.tcfgNewLit a0 a1 a2) := fun _ _ _ => .inr (wordsYL_len _ _ _)
theorem tcfgGrow : ∀ a0 a1 a2, Statement (.tcfgGrow a0 a1 a2) := fun _ _ _ => .inr (wordsY_len _ _)
theorem tcfgGrowLit : ∀ a0 a1 a2, Statement (.tcfgGrowLit a0 a1 a2) := fun _ _ _ => .inr (wordsYL_len _ _ _)
theorem tcfgDel : ∀ a0 a1, Statement (.tcfgDel a0 a1) := fun _ _ => .inr (wordsY_len _ _)
theorem troot : ∀ a0 a1 a2, Statement (.troot a0 a1 a2) := fun _ _ _ => .inr (wordsY_len _ _)
theorem tdesc : ∀ a0 a1, Statement (.tdesc a0 a1) := fun _ _ => .inr (wordsY_len _ _)
theorem texp : ∀ a0 a1 a2 a3 a4, Statement (.texp a0 a1 a2 a3 a4) := fun _ _ _ _ _ => .inr (wordsY_len _ _)
theorem texpTerm : ∀ a0 a1 a2, Statement (.texpTerm a0 a1 a2) := fun _ _ _ => .inr (wordsY_len _ _)
theorem tback : ∀ a0 a1 a2 a3, Statement (.tback a0 a1 a2 a3) := fun _ _ _ _ => .inr (wordsY_len _ _)
theorem tbackVlo : ∀ a0 a1 a2, Statement (.tbackVlo a0 a1 a2) := fun _ _ _ => .inr (wordsY_len _ _)
theorem tbatch : ∀ a0 a1, Statement (.tbatch a0 a1) := fun _ _ => .inr (wordsY_len _ _)
theorem treuse : ∀ a0 a1 a2, Statement (.treuse a0 a1 a2) := fun _ _ _ => .inr (wordsY_len _ _)
theorem treadStats : ∀ a0 a1 a2, Statement (.treadStats a0 a1 a2) := fun _ _ _ => .inr (wordsY_len _ _)
theorem treadLinks : ∀ a0 a1 a2, Statement (.treadLinks a0 a1 a2) := fun _ _ _ => .inr (wordsY_len _ _)
theorem treadTree : ∀ a0 a1, Statement (.treadTree a0 a1) := fun _ _ => .inr (wordsY_len _ _)
theorem packageReset : ∀ a0 a1, Statement (.packageReset a0 a1) := fun _ _ => .inl rfl
theorem instructionFetchFill : ∀ a0 a1 a2, Statement (.instructionFetchFill a0 a1 a2) := fun _ _ _ => .inl rfl
theorem loadDataReturn : ∀ a0 a1 a2, Statement (.loadDataReturn a0 a1 a2) := fun _ _ _ => .inl rfl
theorem randEntropyReady : ∀ a0 a1, Statement (.randEntropyReady a0 a1) := fun _ _ => .inl rfl
theorem mbwComplete : ∀ a0 a1, Statement (.mbwComplete a0 a1) := fun _ _ => .inl rfl
theorem mbrComplete : ∀ a0 a1, Statement (.mbrComplete a0 a1) := fun _ _ => .inl rfl
theorem mailboxDeposit : ∀ a0 a1 a2 a3 a4 a5, Statement (.mailboxDeposit a0 a1 a2 a3 a4 a5) := fun _ _ _ _ _ _ => .inl rfl
theorem requestAnswer : ∀ a0 a1 a2, Statement (.requestAnswer a0 a1 a2) := fun _ _ _ => .inl rfl
theorem haltComplete : ∀ a0, Statement (.haltComplete a0) := fun _ => .inl rfl
theorem asyncTrapEntry : ∀ a0 a1, Statement (.asyncTrapEntry a0 a1) := fun _ _ => .inl rfl
theorem uncorrectable : ∀ a0 a1 a2 a3 a4 a5, Statement (.uncorrectable a0 a1 a2 a3 a4 a5) := fun _ _ _ _ _ _ => .inl rfl
theorem wideExecute : ∀ a0, Statement (.wideExecute a0) := fun _ => .inl rfl
theorem repPass : ∀ a0, Statement (.repPass a0) := fun _ => .inl rfl
theorem mmulJoin : ∀ a0, Statement (.mmulJoin a0) := fun _ => .inl rfl
theorem mmulRowBroadcast : ∀ a0, Statement (.mmulRowBroadcast a0) := fun _ => .inl rfl
theorem homeOfferArrives : ∀ a0 a1, Statement (.homeOfferArrives a0 a1) := fun _ _ => .inl rfl
theorem homeGrant : ∀ a0 a1 a2, Statement (.homeGrant a0 a1 a2) := fun _ _ _ => .inl rfl
theorem homeRefusal : ∀ a0 a1 a2, Statement (.homeRefusal a0 a1 a2) := fun _ _ _ => .inl rfl
theorem homeWoundRequest : ∀ a0 a1 a2, Statement (.homeWoundRequest a0 a1 a2) := fun _ _ _ => .inl rfl
theorem homeWithdrawal : ∀ a0 a1 a2 a3, Statement (.homeWithdrawal a0 a1 a2 a3) := fun _ _ _ _ => .inl rfl
theorem homeRetryTime : ∀ a0, Statement (.homeRetryTime a0) := fun _ => .inl rfl
theorem homeDeliveryConfirmed : ∀ a0 a1 a2, Statement (.homeDeliveryConfirmed a0 a1 a2) := fun _ _ _ => .inl rfl
theorem latchEnableNotice : ∀ a0 a1 a2 a3, Statement (.latchEnableNotice a0 a1 a2 a3) := fun _ _ _ _ => .inl rfl
theorem latchCancel : ∀ a0 a1 a2, Statement (.latchCancel a0 a1 a2) := fun _ _ _ => .inl rfl
theorem latchClaim : ∀ a0 a1 a2 a3, Statement (.latchClaim a0 a1 a2 a3) := fun _ _ _ _ => .inl rfl
theorem latchRelease : ∀ a0 a1 a2, Statement (.latchRelease a0 a1 a2) := fun _ _ _ => .inl rfl
theorem latchCommit : ∀ a0 a1 a2 a3, Statement (.latchCommit a0 a1 a2 a3) := fun _ _ _ _ => .inl rfl
theorem latchLimitExpiry : ∀ a0, Statement (.latchLimitExpiry a0) := fun _ => .inl rfl
theorem latchStop : ∀ a0, Statement (.latchStop a0) := fun _ => .inl rfl
theorem latchResume : ∀ a0, Statement (.latchResume a0) := fun _ => .inl rfl
theorem latchRefusal : ∀ a0 a1 a2 a3, Statement (.latchRefusal a0 a1 a2 a3) := fun _ _ _ _ => .inl rfl
theorem latchLastPayloadDelivered : ∀ a0 a1 a2, Statement (.latchLastPayloadDelivered a0 a1 a2) := fun _ _ _ => .inl rfl
theorem spillPoll : ∀ a0, Statement (.spillPoll a0) := fun _ => .inl rfl
theorem payloadLanding : ∀ a0 a1 a2 a3 a4 a5, Statement (.payloadLanding a0 a1 a2 a3 a4 a5) := fun _ _ _ _ _ _ => .inl rfl
theorem standingAgentOffer : ∀ a0, Statement (.standingAgentOffer a0) := fun _ => .inl rfl
theorem probeRouterVisit : ∀ a0, Statement (.probeRouterVisit a0) := fun _ => .inl rfl
theorem storeAck : ∀ a0 a1, Statement (.storeAck a0 a1) := fun _ _ => .inl rfl
theorem releaseComplete : ∀ a0 a1, Statement (.releaseComplete a0 a1) := fun _ _ => .inl rfl
theorem l1SectorFill : ∀ a0 a1 a2, Statement (.l1SectorFill a0 a1 a2) := fun _ _ _ => .inl rfl
theorem llcFill : ∀ a0 a1 a2 a3, Statement (.llcFill a0 a1 a2 a3) := fun _ _ _ _ => .inl rfl
theorem amoAtHome : ∀ a0 a1 a2, Statement (.amoAtHome a0 a1 a2) := fun _ _ _ => .inl rfl
theorem updPartialCombine : ∀ a0, Statement (.updPartialCombine a0) := fun _ => .inl rfl
theorem pageWalk : ∀ a0 a1 a2 a3, Statement (.pageWalk a0 a1 a2 a3) := fun _ _ _ _ => .inl rfl
theorem windowAccessAtTarget : ∀ a0, Statement (.windowAccessAtTarget a0) := fun _ => .inl rfl
theorem hostWindowCompletion : ∀ a0 a1 a2, Statement (.hostWindowCompletion a0 a1 a2) := fun _ _ _ => .inl rfl
theorem hostLoadTimeout : ∀ a0 a1, Statement (.hostLoadTimeout a0 a1) := fun _ _ => .inl rfl
theorem bankRoleChangeComplete : ∀ a0, Statement (.bankRoleChangeComplete a0) := fun _ => .inl rfl
theorem copyCommandRun : ∀ a0, Statement (.copyCommandRun a0) := fun _ => .inl rfl
theorem copyCompletionOffer : ∀ a0, Statement (.copyCompletionOffer a0) := fun _ => .inl rfl
theorem pipelineStageProduce : ∀ a0 a1, Statement (.pipelineStageProduce a0 a1) := fun _ _ => .inl rfl
theorem permitAgentOffer : ∀ a0 a1, Statement (.permitAgentOffer a0 a1) := fun _ _ => .inl rfl
theorem weltBind : ∀ a0, Statement (.weltBind a0) := fun _ => .inl rfl
theorem weltUnbind : ∀ a0 a1 a2 a3, Statement (.weltUnbind a0 a1 a2 a3) := fun _ _ _ _ => .inl rfl
theorem cantleOperation : ∀ a0 a1 a2 a3 a4, Statement (.cantleOperation a0 a1 a2 a3 a4) := fun _ _ _ _ _ => .inl rfl
theorem batchOffer : ∀ a0 a1, Statement (.batchOffer a0 a1) := fun _ _ => .inl rfl
theorem reclamationFree : ∀ a0 a1 a2, Statement (.reclamationFree a0 a1 a2) := fun _ _ _ => .inl rfl
theorem launchPacket : ∀ a0 a1, Statement (.launchPacket a0 a1) := fun _ _ => .inl rfl
theorem poolPacket : ∀ a0 a1, Statement (.poolPacket a0 a1) := fun _ _ => .inl rfl
theorem waitPacket : ∀ a0 a1, Statement (.waitPacket a0 a1) := fun _ _ => .inl rfl
theorem signalPacket : ∀ a0 a1, Statement (.signalPacket a0 a1) := fun _ _ => .inl rfl
theorem copyPacket : ∀ a0 a1 a2, Statement (.copyPacket a0 a1 a2) := fun _ _ _ => .inl rfl
theorem bindPacket : ∀ a0 a1, Statement (.bindPacket a0 a1) := fun _ _ => .inl rfl
theorem bindReleasePacket : ∀ a0 a1, Statement (.bindReleasePacket a0 a1) := fun _ _ => .inl rfl
theorem completionRecordWrite : ∀ a0, Statement (.completionRecordWrite a0) := fun _ => .inl rfl
theorem hostApertureAccess : ∀ a0, Statement (.hostApertureAccess a0) := fun _ => .inl rfl
theorem placement : ∀ a0, Statement (.placement a0) := fun _ => .inl rfl
theorem gangDrain : ∀ a0, Statement (.gangDrain a0) := fun _ => .inl rfl
theorem gangCompaction : ∀ a0, Statement (.gangCompaction a0) := fun _ => .inl rfl
theorem preemptionRequest : ∀ a0 a1, Statement (.preemptionRequest a0 a1) := fun _ _ => .inl rfl
theorem coreHalted : ∀ a0, Statement (.coreHalted a0) := fun _ => .inl rfl
theorem contextSwitch : ∀ a0 a1 a2 a3, Statement (.contextSwitch a0 a1 a2 a3) := fun _ _ _ _ => .inl rfl
theorem coreRestore : ∀ a0, Statement (.coreRestore a0) := fun _ => .inl rfl
theorem residentPairSwap : ∀ a0 a1, Statement (.residentPairSwap a0 a1) := fun _ _ => .inl rfl
theorem replacement : ∀ a0 a1 a2, Statement (.replacement a0 a1 a2) := fun _ _ _ => .inl rfl
theorem createPartition : ∀ a0 a1, Statement (.createPartition a0 a1) := fun _ _ => .inl rfl
theorem destroyPartition : ∀ a0 a1, Statement (.destroyPartition a0 a1) := fun _ _ => .inl rfl
theorem writeRegionRegister : ∀ a0 a1 a2 a3 a4, Statement (.writeRegionRegister a0 a1 a2 a3 a4) := fun _ _ _ _ _ => .inl rfl
theorem assignResources : ∀ a0 a1, Statement (.assignResources a0 a1) := fun _ _ => .inl rfl
theorem setupTraceReplay : ∀ a0 a1, Statement (.setupTraceReplay a0 a1) := fun _ _ => .inl rfl
theorem writeRoutingTable : ∀ a0 a1 a2 a3, Statement (.writeRoutingTable a0 a1 a2 a3) := fun _ _ _ _ => .inl rfl
theorem preemptWorkgroupRequest : ∀ a0 a1 a2, Statement (.preemptWorkgroupRequest a0 a1 a2) := fun _ _ _ => .inl rfl
theorem debugBlockRequest : ∀ a0 a1 a2 a3, Statement (.debugBlockRequest a0 a1 a2 a3) := fun _ _ _ _ => .inl rfl
theorem flushTraceRequest : ∀ a0 a1, Statement (.flushTraceRequest a0 a1) := fun _ _ => .inl rfl
theorem dbgHaltreq : ∀ a0, Statement (.dbgHaltreq a0) := fun _ => .inl rfl
theorem dbgResume : ∀ a0, Statement (.dbgResume a0) := fun _ => .inl rfl
theorem dbgStep : ∀ a0, Statement (.dbgStep a0) := fun _ => .inl rfl
theorem stopComplete : ∀ a0, Statement (.stopComplete a0) := fun _ => .inl rfl
theorem stepComplete : ∀ a0, Statement (.stepComplete a0) := fun _ => .inl rfl
theorem dbgdataRead : ∀ a0, Statement (.dbgdataRead a0) := fun _ => .inl rfl
theorem dbgdataWrite : ∀ a0 a1, Statement (.dbgdataWrite a0 a1) := fun _ _ => .inl rfl
theorem dbgstatRead : ∀ a0, Statement (.dbgstatRead a0) := fun _ => .inl rfl
theorem registerWrite : ∀ a0 a1, Statement (.registerWrite a0 a1) := fun _ _ => .inl rfl
theorem traceSample : ∀ a0, Statement (.traceSample a0) := fun _ => .inl rfl
theorem traceCountRecord : ∀ a0, Statement (.traceCountRecord a0) := fun _ => .inl rfl
theorem segmentSeal : ∀ a0 a1, Statement (.segmentSeal a0 a1) := fun _ _ => .inl rfl
theorem segmentWriteAck : ∀ a0 a1, Statement (.segmentWriteAck a0 a1) := fun _ _ => .inl rfl
theorem powerGate : ∀ a0, Statement (.powerGate a0) := fun _ => .inl rfl
theorem replayLogEnd : ∀ a0 a1, Statement (.replayLogEnd a0 a1) := fun _ _ => .inl rfl
theorem timebaseAlignment : ∀ a0, Statement (.timebaseAlignment a0) := fun _ => .inl rfl
theorem laneFailure : ∀ a0 a1, Statement (.laneFailure a0 a1) := fun _ _ => .inl rfl
theorem portRetrainComplete : ∀ a0 a1, Statement (.portRetrainComplete a0 a1) := fun _ _ => .inl rfl
theorem portDown : ∀ a0, Statement (.portDown a0) := fun _ => .inl rfl
theorem flitCrcRetry : ∀ a0, Statement (.flitCrcRetry a0) := fun _ => .inl rfl
theorem pldmPassComponentTable : ∀ a0, Statement (.pldmPassComponentTable a0) := fun _ => .inl rfl
theorem pldmUpdateComponent : ∀ a0 a1 a2, Statement (.pldmUpdateComponent a0 a1 a2) := fun _ _ _ => .inl rfl
theorem pldmRequestFirmwareData : ∀ a0, Statement (.pldmRequestFirmwareData a0) := fun _ => .inl rfl
theorem pldmTransferComplete : ∀ a0, Statement (.pldmTransferComplete a0) := fun _ => .inl rfl
theorem pldmVerifyComplete : Statement (.pldmVerifyComplete) := .inl rfl
theorem pldmApplyComplete : Statement (.pldmApplyComplete) := .inl rfl
theorem pldmActivateFirmware : Statement (.pldmActivateFirmware) := .inl rfl
theorem commitWindowEnd : Statement (.commitWindowEnd) := .inl rfl
theorem spdmRequest : ∀ a0, Statement (.spdmRequest a0) := fun _ => .inl rfl
theorem powerLimitSet : ∀ a0, Statement (.powerLimitSet a0) := fun _ => .inl rfl
theorem pldmPlatformRead : ∀ a0, Statement (.pldmPlatformRead a0) := fun _ => .inl rfl
theorem qtailDoorbellWrite : ∀ a0 a1, Statement (.qtailDoorbellWrite a0 a1) := fun _ _ => .inl rfl
theorem postedWriteErrorMessage : Statement (.postedWriteErrorMessage) := .inl rfl

end Sys2Proof.Laws.WordsLen
end

