-- ==== Sys2Proof/Tests/Slice0.lean ====
section
/-!
SUPPORT. The model's own tests: words of the spec's encoding examples and what they decode to; terms that the well-formedness
check refuses; and, for the statements that have hypotheses, states and operands that meet them.
-/

namespace Sys2Proof.Tests

open Sys2Proof Sys2Proof.Machine

/-! ## Decoding: the words that the entries of the spec give as examples -/

/-- 04_control_instructions.md R100-R105. -/
theorem test_decode_integer :
    decodeList [0x008C8501] = .ok (.sub 3 4 5) ∧ decodeList [0x011D0904] = .ok (.divu 7 8 9) ∧
    decodeList [0x01886404] = .ok (.cmp 4 2 3 4) ∧ decodeList [0x02086448] = .ok (.sel 2 9 3 4) ∧
    decodeList [0x0294C002] = .ok (.popc 5 6) ∧ decodeList [0x041080FF] = .ok (.andi 4 4 0xFF) ∧
    decodeList [0x03280FFF] = .ok (.movi 10 0xFFF) ∧ decodeList [0x05A94014] = .ok (.shli 10 10 20) := by decide

/-- 04 R106-R110: BR.NEZ X5, -2 words; LOOP X11, -4 words; a literal JMP; CALL X1, +3 words. -/
theorem test_decode_control_flow :
    decodeList [0x0814FFFE] = .ok (.br 1 5 (BitVec.ofInt 15 (-2))) ∧ decodeList [0x08AC7FFC] = .ok (.loop 11 (BitVec.ofInt 15 (-4))) ∧
    decodeList [0x89000000, 0x00001000, 0x00000400] = .ok (.jmpLit 0x0000040000001000) ∧
    decodeList [0x09840003] = .ok (.call 1 3) ∧ decodeList [0x0A00E000] = .ok (.jr 0 7) ∧ decodeList [0x0A800000] = .ok .ret := by decide

/-- 04 R111-R115, 12_memory_model.md R314, R316. -/
theorem test_decode_memory :
    decodeList [0x0C0C5BFC] = .ok (.ld 6 3 2 (BitVec.ofInt 10 (-4))) ∧ decodeList [0x0C954C08] = .ok (.st 3 5 10 8) ∧
    decodeList [0x0D215C00] = .ok (.ldp 8 10 0) ∧ decodeList [0x0E052040] = .ok (.pref 1 9 64) ∧
    decodeList [0x0E94CCE0] = .ok (.amo 5 6 3 7 0) ∧ decodeList [0x0E90DD07] = .ok (.amo 4 6 7 8 7) ∧
    decodeList [0x0F00C8EA] = .ok (.upd 6 2 7 10) := by decide

/-- 04 R116-R120. -/
theorem test_decode_float :
    decodeList [0x100C8590] = .ok (.fadd 3 4 5 1 1) ∧ decodeList [0x108C8530] = .ok (.fma 3 4 5 6 0) ∧
    decodeList [0x11086481] = .ok (.fcmp 1 1 2 3 4) ∧ decodeList [0x1194C801] = .ok (.fcvt 5 6 2 0 1) ∧
    decodeList [0x121D0080] = .ok (.fclass 7 8 1) := by decide

/-- 04 R121-R130. -/
theorem test_decode_system :
    decodeList [0x14140002] = .ok (.csrr 5 2) ∧ decodeList [0x1480C001] = .ok (.csrw 0 1 6) ∧ decodeList [0x16140012] = .ok (.mbr 5 2) ∧
    decodeList [0x1600E003] = .ok (.mbw 3 7) ∧ decodeList [0x16800000] = .ok .nop ∧ decodeList [0x16800001] = .ok .eret ∧
    decodeList [0x16800002] = .ok .brk ∧ decodeList [0x16800003] = .ok .halt ∧ decodeList [0x16A40004] = .ok (.rand 9) ∧
    decodeList [0x17000011] = .ok (.trap 17) := by decide

/-- 05_wide_instructions.md R139-R152. -/
theorem test_decode_wide :
    decodeList [0x182821C0] = .ok (.vlda 5 2 7 0) ∧ decodeList [0x18019021] = .ok (.vsta 3 1 0 1) ∧
    decodeList [0x189103C3] = .ok (.vfma 2 2 0 1 7 0) ∧ decodeList [0x18888805] = .ok (.vmax 1 1 4) ∧
    decodeList [0x18888FCA] = .ok (.vscale 1 1 7 7 0) ∧ decodeList [0x18801409] = .ok (.vclamp 0 0 1 2) ∧
    decodeList [0x18918007] = .ok (.vabs 2 3) ∧ decodeList [0x188003CB] = .ok (.vdot 0 0 0 1 7 0) ∧
    decodeList [0x19220602] = .ok (.vxor 4 4 3) ∧ decodeList [0x19110244] = .ok (.vshr 2 2 1 1) := by decide

/-- 05 R145-R152. -/
theorem test_decode_wide_rearranging :
    decodeList [0x19831441] = .ok (.vcmp 1 6 2 1) ∧ decodeList [0x19BB1400] = .ok (.vsel 7 6 2 1 0) ∧
    decodeList [0x19908C02] = .ok (.vperm 2 1 6) ∧ decodeList [0x19888083] = .ok (.vshuf 1 1 2) ∧
    decodeList [0x19800004] = .ok (.viota 0) ∧ decodeList [0x19802085] = .ok (.vred 2 0 2) ∧
    decodeList [0x19C80046] = .ok (.vbcast 9 0 1) ∧ decodeList [0x1A000BC1] = .ok (.vcvtAuto 0 5 7 0) ∧
    decodeList [0x1A998000] = .ok (.vexp2 3 3) := by decide

/-- 05 R153-R156. -/
theorem test_decode_wide_control :
    decodeList [0x1B00A300] = .ok (.pset 3 5) ∧ decodeList [0x1B00C301] = .ok (.padd 3 6) ∧ decodeList [0x1B1C0302] = .ok (.pget 7 3) ∧
    decodeList [0x1B010403] = .ok (.fset 4 8) ∧ decodeList [0x1B240404] = .ok (.fget 9 4) ∧ decodeList [0x1B014005] = .ok (.acccfg 10) ∧
    decodeList [0x1B014006] = .ok (.acccfgKeep 10) ∧ decodeList [0x1B000007] = .ok .accsw ∧
    decodeList [0x1B807888] = .ok (.rep 15 1 1 0) := by decide

/-- 07_event_instructions.md R203-R221. -/
theorem test_decode_events :
    decodeList [0x2014C000] = .ok (.evdef 5 6) ∧ decodeList [0x2014C010] = .ok (.evdel 5 6) ∧ decodeList [0x2014C720] = .ok (.evstat 5 6 7) ∧
    decodeList [0x2000C030] = .ok (.offerSync 6) ∧ decodeList [0x2000C731] = .ok (.offerGive 6 7) ∧
    decodeList [0x2020C032] = .ok (.offerTake 8 6) ∧ decodeList [0x2020C733] = .ok (.offerBoth 8 6 7) ∧
    decodeList [0x20000042] = .ok (.wdraw 2) ∧ decodeList [0x20000048] = .ok .wdrawAll ∧ decodeList [0x20140052] = .ok (.selectT 5) ∧
    decodeList [0xA0140051, 0x000007D0, 0x00000000] = .ok (.selectNbLimit 5 2000) ∧ decodeList [0x20140060] = .ok (.phase 5) := by decide

/-- 07 R222-R232. -/
theorem test_decode_execution :
    decodeList [0x2094C700] = .ok (.spawn 5 6 7) ∧ decodeList [0x20800010] = .ok .hend ∧ decodeList [0x2080C720] = .ok (.take 6 7) ∧
    decodeList [0x2080C730] = .ok (.done 6 7) ∧ decodeList [0x2094C740] = .ok (.poolcfg 5 6 7) ∧ decodeList [0x2094C750] = .ok (.poolput 5 6 7) ∧
    decodeList [0x2080C060] = .ok (.domset 6) ∧ decodeList [0x20A0C770] = .ok (.fifobind 8 6 7) := by decide

/-- 09_joint_array.md R251-R261. -/
theorem test_decode_matrix :
    decodeList [0x6400C700, 0x500004FF, 0] = .ok (.mldb 6 7 5 0 0 1 255) ∧ decodeList [0x6400C000, 0x302003FF, 0] = .ok (.mldb 6 0 3 1 0 0 1023) ∧
    decodeList [0x64000001, 0x024C001F, 0] = .ok (.mmul 0 2 2 3 0 31) ∧ decodeList [0x64000001, 0x403E0007, 0] = .ok (.mmul 4 0 1 7 1 7) ∧
    decodeList [0x64012002, 0, 0] = .ok (.mcfg 9) ∧ decodeList [0x64140003, 9, 0] = .ok (.mstat 5 9) ∧
    decodeList [0x64010004, 0xFF, 0] = .ok (.mspill 8 0xFF) ∧ decodeList [0x64010005, 0x0F, 0] = .ok (.mfill 8 0x0F) := by decide

/-- 12 R317-R327. -/
theorem test_decode_memory_control :
    decodeList [0x28000000] = .ok .fenceL ∧ decodeList [0x2800A001] = .ok (.cflush 0 5) ∧ decodeList [0x2804A001] = .ok (.cflush 1 5) ∧
    decodeList [0x2800A002] = .ok (.cinv 0 5) ∧ decodeList [0x2800A003] = .ok (.cinvI 5) ∧ decodeList [0x2800A004] = .ok (.czero 5) ∧
    decodeList [0x2814C705] = .ok (.bankrole 5 6 7) ∧ decodeList [0x2808A606] = .ok (.tlbiPage 0 5 6) ∧
    decodeList [0x2804A607] = .ok (.wpset 1 5 6) ∧ decodeList [0x2814C708] = .ok (.fifoadv 5 6 7) ∧
    decodeList [0x6C14C007, 3, 0] = .ok (.layreg 3 5 6) ∧ decodeList [0x6C14C008, 0, 0] = .ok (.layrel 5 6) := by decide

/-- 13_engines_and_pipelines.md R338, R339, R356-R360. -/
theorem test_decode_engines :
    decodeList [0x6C14C700, 7, 0x10] = .ok (.copy 7 0 5 6 7 8) ∧ decodeList [0x6C14C001, 1, 0] = .ok (.cstatAbort 5 6) ∧
    decodeList [0x6C14C002, 0, 0] = .ok (.pbind 5 6) ∧ decodeList [0x6C14C003, 0, 0] = .ok (.punbind 5 6) ∧
    decodeList [0x6C20C705, 0, 0] = .ok (.permit 8 6 7) ∧ decodeList [0x6C14C704, 0, 0] = .ok (.pstat 5 6 7) ∧
    decodeList [0x6C14C006, 1, 0] = .ok (.rescls 1 5 6) := by decide

/-- 14_search_tree_engine.md R378-R386. -/
theorem test_decode_tree :
    decodeList [0x7014C700, 0, 0] = .ok (.tcfgNew 5 6 7) ∧ decodeList [0xF0140700, 1, 0, 0, 0x40] = .ok (.tcfgGrowLit 5 7 0x4000000000) ∧
    decodeList [0x70140700, 2, 0] = .ok (.tcfgDel 5 7) ∧ decodeList [0x7014C701, 0, 0] = .ok (.troot 5 6 7) ∧
    decodeList [0x7014C002, 0, 0] = .ok (.tdesc 5 6) ∧ decodeList [0x7014C005, 0, 0] = .ok (.tbatch 5 6) ∧
    decodeList [0x7014C706, 0, 0] = .ok (.treuse 5 6 7) ∧ decodeList [0x7014C703, 3, 0x10] = .ok (.texp 5 6 7 8 3) ∧
    decodeList [0x7014C704, 0, 0x10] = .ok (.tback 5 6 7 8) ∧ decodeList [0x7014C704, 1, 0] = .ok (.tbackVlo 5 6 7) ∧
    decodeList [0x7010C707, 0, 0] = .ok (.treadStats 4 6 7) := by decide

/-- 03_encoding_and_assembly.md R79: an unassigned opcode, a LEN its opcode does not take, a reserved condition, a field that must be zero. -/
theorem test_decode_refuses :
    decodeList [0x00000000] = .illegal 1 ∧ decodeList [0x57000011] = .illegal 2 ∧ decodeList [0x01886406] = .illegal 3 ∧
    decodeList [0x16840000] = .illegal 4 := by decide


/-! ## Well-formedness: a term for each check, which the check refuses -/

/-- Reserved conditions, sizes, hints, registers and rounding modes of the control side (R75, R77, R107-R120, R315-R317). -/
theorem test_ill_formed_control :
    wellFormed (.cmp 6 1 2 3) = false ∧ wellFormed (.br 6 1 0) = false ∧ wellFormed (.loop 0 1) = false ∧ wellFormed (.ld 7 1 2 0) = false ∧
    wellFormed (.ldLit 7 1 2 0) = false ∧ wellFormed (.st 4 1 2 0) = false ∧ wellFormed (.stLit 4 1 2 0) = false ∧
    wellFormed (.ldp 3 2 0) = false ∧ wellFormed (.ldpLit 3 2 0) = false ∧ wellFormed (.stp 3 2 0) = false ∧ wellFormed (.stpLit 3 2 0) = false ∧
    wellFormed (.pref 3 1 0) = false ∧ wellFormed (.prefLit 3 1 0) = false ∧ wellFormed (.amo 1 2 3 4 31) = false ∧
    wellFormed (.upd 1 3 2 31) = false ∧ wellFormed (.fadd 1 2 3 0 5) = false ∧ wellFormed (.fsub 1 2 3 0 6) = false ∧
    wellFormed (.fmul 1 2 3 0 5) = false ∧ wellFormed (.fdiv 1 2 3 0 5) = false ∧ wellFormed (.fsqrt 1 2 0 5) = false ∧
    wellFormed (.fcmp 0 4 1 2 3) = false ∧ wellFormed (.fcvt 1 2 0 0 7) = false ∧ wellFormed (.fcvt 1 2 0 1 5) = false := by decide

/-- The same of the wide and matrix side (R136, R139, R153, R251-R258). -/
theorem test_ill_formed_wide :
    wellFormed (.vlda 0 0 5 0) = false ∧ wellFormed (.vsta 0 0 5 0) = false ∧ wellFormed (.vadd 0 0 0 5 0) = false ∧
    wellFormed (.vsub 0 0 0 5 0) = false ∧ wellFormed (.vmul 0 0 0 5 0) = false ∧ wellFormed (.vfma 0 0 0 0 6 0) = false ∧
    wellFormed (.vfms 0 0 0 0 6 0) = false ∧ wellFormed (.vscale 0 0 0 6 0) = false ∧ wellFormed (.vdot 0 0 0 0 6 0) = false ∧
    wellFormed (.vcmp 0 0 0 4) = false ∧ wellFormed (.vshuf 0 0 7) = false ∧ wellFormed (.vred 0 0 5) = false ∧
    wellFormed (.vcvt 0 0 5 0) = false ∧ wellFormed (.vcvtAuto 0 0 5 0) = false ∧ wellFormed (.pset 8 1) = false ∧
    wellFormed (.padd 8 1) = false ∧ wellFormed (.pget 1 8) = false ∧ wellFormed (.fset 3 1) = false ∧ wellFormed (.fset 16 1) = false ∧
    wellFormed (.fget 1 16) = false ∧ wellFormed (.mldb 1 2 0 0 0 0 0) = false ∧ wellFormed (.mstat 1 7) = false ∧
    wellFormed (.mstat 1 16) = false := by decide

/-- The same of memory control, engines and trees (R319, R326, R338, R360, R380, R386). -/
theorem test_ill_formed_engines :
    wellFormed (.cflush 2 1) = false ∧ wellFormed (.cinv 2 1) = false ∧ wellFormed (.layreg 0 1 2) = false ∧
    wellFormed (.layregLit 0 1 2) = false ∧ wellFormed (.copy 5 0 1 2 3 4) = false ∧ wellFormed (.copyFirst 6 0 1 2 3 4 0) = false ∧
    wellFormed (.rescls 3 1 2) = false ∧ wellFormed (.texp 1 2 3 4 0) = false ∧ wellFormed (.texp 1 2 3 4 257) = false ∧
    wellFormed (.treadStats 3 1 2) = false ∧ wellFormed (.treadLinks 0 1 2) = false ∧ wellFormed (.treadTree 5 1) = false := by decide

/-- A machine event names units that exist: cores below 576, contexts below 11, mailboxes below 8 (R6, R13, R35). -/
theorem test_ill_formed_core_events :
    wellFormed (.instructionFetchFill 576 0 0) = false ∧ wellFormed (.loadDataReturn 0 11 []) = false ∧
    wellFormed (.randEntropyReady 576 0) = false ∧ wellFormed (.mbwComplete 576 0) = false ∧ wellFormed (.mbrComplete 0 11) = false ∧
    wellFormed (.mailboxDeposit 0 8 0 ⟨0, 0⟩ ⟨0, 0⟩ 0) = false ∧ wellFormed (.requestAnswer 0 11 (.evdel 0 0)) = false ∧
    wellFormed (.haltComplete 576) = false ∧ wellFormed (.asyncTrapEntry 0 11) = false ∧ wellFormed (.uncorrectable 576 0 0 .load 1 0) = false ∧
    wellFormed (.wideExecute 576) = false ∧ wellFormed (.repPass 576) = false ∧ wellFormed (.storeAck 576 0) = false ∧
    wellFormed (.releaseComplete 0 11) = false ∧ wellFormed (.l1SectorFill 576 0 0) = false ∧
    wellFormed (.amoAtHome 0 11 ⟨0, 0, 0, 8, 0, 0, 0⟩) = false ∧ wellFormed (.pageWalk 0 11 0 .load) = false ∧
    wellFormed (.hostWindowCompletion 576 0 .aborted) = false ∧ wellFormed (.hostLoadTimeout 0 11) = false ∧
    wellFormed (.bankRoleChangeComplete 576) = false ∧ wellFormed (.coreHalted 576) = false ∧ wellFormed (.coreRestore 576) = false ∧
    wellFormed (.dbgHaltreq 576) = false ∧ wellFormed (.dbgResume 576) = false ∧ wellFormed (.dbgStep 576) = false ∧
    wellFormed (.stopComplete 576) = false ∧ wellFormed (.stepComplete 576) = false ∧ wellFormed (.dbgdataRead 576) = false ∧
    wellFormed (.dbgdataWrite 576 0) = false ∧ wellFormed (.dbgstatRead 576) = false ∧ wellFormed (.traceSample 576) = false ∧
    wellFormed (.traceCountRecord 576) = false ∧ wellFormed (.debugBlockRequest ⟨0, 0, 0⟩ 576 0 none) = false ∧
    wellFormed (.weltUnbind 576 0 0 0) = false := by decide

/-- The same of gangs, homes, clusters, dies, trees, queues and ports (R1, R7, R190, R348, R361, R430, R465, R445). -/
theorem test_ill_formed_unit_events :
    wellFormed (.mmulJoin 96) = false ∧ wellFormed (.mmulRowBroadcast 96) = false ∧ wellFormed (.homeOfferArrives 672 []) = false ∧
    wellFormed (.copyCommandRun 24) = false ∧ wellFormed (.copyCompletionOffer 24) = false ∧ wellFormed (.pipelineStageProduce 2 0) = false ∧
    wellFormed (.pipelineStageProduce 0 512) = false ∧ wellFormed (.permitAgentOffer 2 0) = false ∧
    wellFormed (.cantleOperation 0 0 0 64 (.desc 0)) = false ∧ wellFormed (.batchOffer 24 0) = false ∧
    wellFormed (.reclamationFree 0 64 0) = false ∧ wellFormed (.launchPacket 64 []) = false ∧ wellFormed (.poolPacket 64 []) = false ∧
    wellFormed (.waitPacket 64 []) = false ∧ wellFormed (.signalPacket 64 []) = false ∧ wellFormed (.copyPacket 64 [] .aborted) = false ∧
    wellFormed (.bindPacket 64 []) = false ∧ wellFormed (.bindReleasePacket 64 []) = false ∧ wellFormed (.completionRecordWrite 64) = false ∧
    wellFormed (.placement 64) = false ∧ wellFormed (.gangDrain 64) = false ∧ wellFormed (.gangCompaction 64) = false ∧
    wellFormed (.qtailDoorbellWrite 64 0) = false ∧ wellFormed (.writeRegionRegister ⟨0, 0, 0⟩ 24 0 0 0) = false ∧
    wellFormed (.writeRoutingTable ⟨0, 0, 0⟩ 2 0 []) = false ∧ wellFormed (.flushTraceRequest ⟨0, 0, 0⟩ 24) = false ∧
    wellFormed (.segmentSeal 24 0) = false ∧ wellFormed (.segmentWriteAck 0 2) = false ∧ wellFormed (.powerGate 24) = false ∧
    wellFormed (.laneFailure 18 0) = false ∧ wellFormed (.portRetrainComplete 18 8) = false ∧ wellFormed (.portDown 18) = false ∧
    wellFormed (.flitCrcRetry 18) = false := by decide


set_option maxRecDepth 10000
set_option Elab.async false

/-! ## States for the statements that have hypotheses: one core, one context -/

/-- X registers with these values, the others 0. -/
def regs (l : List (Nat × Word)) : Vector Word 32 := l.foldl (fun v e => v.setIfInBounds e.1 e.2) (Vector.replicate 32 0)

/-- A live context at level H with these registers. -/
def ctxH (l : List (Nat × Word)) : Ctx := { Ctx.reset with live := true, x := regs l, priv := .h }

/-- A package whose core 0 is `k`, with `w` as its control context, which runs. -/
def one (k : Core) (w : Ctx) : State := { State.reset with cores := [(0, { k with ctxs := [(0, w)] })] }

/-- The same for a helper context. -/
def oneHelper (k : Core) (x : Nat) (w : Ctx) : State := { State.reset with cores := [(0, { k with ctxs := [(x, w)] })], cur := (0, x) }

/-- The running control context with these registers. -/
def plain (l : List (Nat × Word)) : State := one Core.reset (ctxH l)

/-- A core without a workgroup keeps no replay log. -/
theorem unlogged_of_none (s : State) (c : Nat) (h : s.wgOf c = none) : Unlogged s c := by
  intro n w hw; rw [h] at hw; cases hw

/-- Byte 0 of bank 16, the first SCRATCH bank, and the last byte of bank 23, through the local window. -/
def local16 : Word := 0xFFFFFFFFFFF00000
def local23 : Word := 0xFFFFFFFFFFF7FFFF

/-- A sector of the L1, clean, for key 0. -/
def sector : Sector := { way := 0, bytes := List.replicate 256 0, dirty := [], pois := false, key := 0, upd := none, hurt := false, by_ := 0 }

/-- No watchpoint set, as a computation. -/
theorem unwatched_of (k : Core) (h : (k.wpCtl.all fun v => v.toNat % 4 == 0) = true) : Unwatched k := by
  intro v hv; simpa using List.all_eq_true.mp h v hv

/-- CompareBitAndImmediateFormsSetRd: relations that hold and that do not, a selection either way, an empty and a set word. -/
theorem test_hyp_compare_and_bits :
    (cmpHolds 5 0 0 ∧ ¬cmpHolds 4 0 0 ∧ cmpHolds 2 (-1) 0 ∧ ¬cmpHolds 3 (-1) 0) ∧
    (xread (plain [(1, 1)]).me 1 ≠ 0 ∧ xread (plain [(1, 1)]).me 0 = 0) := by
  unfold cmpHolds; and_intros <;> decide +kernel

/-- TransfersGoToTheirTarget: each relation at its edge, a counter that reaches 0 and one that does not, targets in and out of line. -/
theorem test_hyp_transfers :
    (brHolds 0 0 ∧ ¬brHolds 1 0 ∧ brHolds 2 (-1) ∧ ¬brHolds 2 0 ∧ brHolds 3 0 ∧ brHolds 4 1 ∧ ¬brHolds 4 0 ∧ brHolds 5 0) ∧
    (5 : BitVec 3).toNat ≤ 5 ∧ (1 : Reg) ≠ 0 ∧ (0x1000 : BitVec 64).toNat % 4 = 0 ∧ (0x1001 : BitVec 64).toNat % 4 ≠ 0 ∧
    (xread (plain [(1, 4)]).me 1).toNat % 4 = 0 ∧ (xread (plain [(1, 3)]).me 1).toNat % 4 ≠ 0 := by
  unfold brHolds; and_intros <;> decide +kernel

/-- LoadsGiveTheBytes and StoresWriteTheBytes, the local window: the first doubleword and the last byte of SCRATCH, a pair; a doubleword that crosses a
16-byte boundary, before and after its first part. -/
theorem test_hyp_local_accesses :
    (AtOnce local16 8 ∧ AtOnce (local16 + 8) 8 ∧ AtOnce (local16 + 9) 4 ∧ ¬AtOnce (local16 + 12) 8 ∧ LocalOpen (plain []) (xread (plain []).me 2 + (local16 + 12)) 0x10000C 8 ∧
      LocalClean (plain []) 0x10000C 8 ∧ (plain []).me.half = none ∧ (one Core.reset { ctxH [] with half := some (true, [1, 2, 3, 4]) }).me.half = some (true, [1, 2, 3, 4]) ∧
      (plain []).myCore.late = []) ∧
    LocalOpen (plain [(2, local16)]) (xread (plain [(2, local16)]).me 2 + BitVec.ofInt 64 ((0 : BitVec 10).toInt)) 0x100000 8 ∧
    LocalOpen (plain []) (xread (plain []).me 2 + local23) 0x17FFFF 1 ∧ LocalClean (plain []) 0x17FFFF 1 ∧
    LocalOpen (plain []) (xread (plain []).me 2 + local16) 0x100000 16 ∧ LocalClean (plain []) 0x100000 16 ∧ (30 : Reg).toNat % 2 = 0 := by
  unfold LocalOpen LocalClean AtOnce; and_intros <;> first | exact unwatched_of _ (by decide +kernel) | decide +kernel

/-- A core whose L1 holds the sector at 0x400; X2 names its last byte. -/
def cached : State := one { Core.reset with l1 := [(4, sector)] } (ctxH [(2, 0x4FF)])

/-- LoadsGiveTheBytes and StoresWriteTheBytes, GDDR 7: the last byte of a sector that the L1 holds, and the last byte of the map. -/
theorem test_hyp_gddr_accesses :
    GddrOpen cached (xread cached.me 2 + BitVec.ofInt 64 ((0 : BitVec 10).toInt)) 1 ∧
    HoldsSector cached (xread cached.me 2 + BitVec.ofInt 64 ((0 : BitVec 10).toInt)) sector ∧
    GddrOpen cached (0x17FFFFFFFF : Word) 1 ∧ sector.bytes.length = 256 ∧ cached.me.rdata = none ∧
    NoPartials cached ∧ NoAmos cached ∧ AtOnce (0x4FF : Word) 1 := by
  unfold GddrOpen HoldsSector NoPartials NoAmos AtOnce; and_intros <;> first | exact fun _ => rfl | exact unwatched_of _ (by decide +kernel) | decide +kernel

/-- PrefetchesAskForFills: the local window, a sector that the L1 holds, one that it does not. -/
theorem test_hyp_prefetches :
    18446744073707454464 ≤ (0xFFFFFFFFFFE00000 : Word).toNat ∧ GddrOpen cached 0x400 1 ∧ GddrOpen cached 0x500 1 ∧
    sectorPoisoned cached cached.cur.1 ((0x500 : Word).toNat / 256) = false ∧ tfind cached.myCore.l1 4 = some sector ∧ 4 / 4 = (0x400 : Word).toNat / 1024 ∧
    tfind cached.myCore.l1 5 = none ∧ 5 / 4 = (0x500 : Word).toNat / 1024 ∧ (2 : Reg).toNat ≤ 2 ∧ cached.myCore.hasL1 = true := by
  unfold GddrOpen; and_intros <;> first | exact unwatched_of _ (by decide +kernel) | decide +kernel

/-- Addresses in X2 (SCRATCH), X3 and X4 (GDDR 7, the latter out of line). -/
def atoms : State := plain [(2, local16), (3, 0x500), (4, 0x501)]

/-- AtomicsAndUpdates: an aligned 16-byte element in SCRATCH, an 8-byte one in GDDR 7, and one out of line. -/
theorem test_hyp_atomics :
    wellFormed (.amo 6 2 7 8 7) = true ∧ wellFormed (.upd 2 3 8 0) = true ∧ LocalOpen atoms (xread atoms.me 2) 0x100000 16 ∧
    LocalClean atoms 0x100000 16 ∧ (xread atoms.me 2).toNat % 16 = 0 ∧
    wellFormed (.amo 6 3 3 8 0) = true ∧ GddrOpen atoms (xread atoms.me 3) 8 ∧ (xread atoms.me 3).toNat % 8 = 0 ∧ atoms.myCore.l1 = [] ∧
    sectorPoisoned atoms atoms.cur.1 ((xread atoms.me 3).toNat / 256) = false ∧ (xread atoms.me 4).toNat % 8 ≠ 0 := by
  unfold LocalOpen LocalClean GddrOpen; and_intros <;> first | exact unwatched_of _ (by decide +kernel) | decide +kernel

/-- A core whose L1 holds one dirty byte of the line at 0x400. -/
def dirtied : State := one { Core.reset with l1 := [(4, { sector with dirty := [255] })] } (ctxH [(1, 0x400), (2, local16 + 255)])

/-- CacheControlActs: nothing owed; a line in GDDR 7, one dirty byte in it; the first sector of SCRATCH. -/
theorem test_hyp_cache_control :
    NothingOwed dirtied ∧ (1 : Reg).toNat ≤ 1 ∧ GddrOpen dirtied (xread dirtied.me 1) 1 ∧ NoPartials dirtied ∧
    4 / 4 = (xread dirtied.me 1).toNat / 1024 ∧ tget (0, 0) dirtied.keyTag 4 = keyNow dirtied 0 ∧
    LocalOpen dirtied (BitVec.ofNat 64 ((xread dirtied.me 2).toNat / 256 * 256)) 0x100000 256 := by
  unfold NothingOwed NoPartials GddrOpen LocalOpen; and_intros <;> first | exact unwatched_of _ (by decide +kernel) | decide +kernel

/-- Control contexts that ask for a role of bank 31: SCRATCH, which it may take; OPERAND, which it has. -/
def roles31 (r : Word) : State := plain [(1, 31), (2, r)]

/-- Bank 31 is a FIFO bank bound to a channel. -/
def boundFifo : Core := { Core.reset with roles := defaultRoles.setIfInBounds 31 .fifo, fifo := [(31, ⟨0, 0, some (1, 64, 0), 0, 0, 0⟩)] }

/-- A change of bank 31 to FIFO, which context 0 waits for. -/
def changing : State := one { Core.reset with roleChange := some ⟨31, .fifo, 0, 5⟩ } { ctxH [] with wait := .roleChange }

/-- BankRolesChange: the role that the bank has, a change that is refused, one that may begin, and one that is drained. -/
theorem test_hyp_bank_roles :
    ((xread (roles31 2).me 1).toNat < 32 ∧ (xread (roles31 4).me 2).toNat ≤ 4 ∧ (roles31 2).cur.2 = 0 ∧ (roles31 2).me.priv = .h ∧
      roleFits 31 (roleOf 2) = true ∧ (roles31 2).myCore.role 31 = roleOf 2) ∧
    ((one boundFifo (ctxH [])).myCore.role 31 ≠ roleOf 1 ∧ roleFits 31 (roleOf 1) = true ∧ roleRefusal (one boundFifo (ctxH [])) 0 31 ≠ 0) ∧
    ((roles31 1).myCore.role 31 ≠ roleOf 1 ∧ roleRefusal (roles31 1) (roles31 1).cur.1 31 = 0 ∧ (roles31 1).myCore.wide.queue = [] ∧
      landingDue (roles31 1) (roles31 1).cur.1 31 = false ∧ (roles31 1).myCore.held = []) ∧
    ((changing.core 0).roleChange = some ⟨31, .fifo, 0, 5⟩ ∧ (changing.core 0).wide.queue = [] ∧ landingDue changing 0 31 = false ∧ (changing.core 0).held = [] ∧
      31 < 32 ∧ (changing.core 0).role 31 ≠ .cache ∧
      (changing.ctx 0 0).wait = .roleChange) := by
  and_intros <;> decide +kernel

/-- A context that walks its table. -/
def inWalk0 : State := one Core.reset { ctxH [] with wait := .walk 0 .load }

/-- TranslationsWatchpointsAndFifos: a level above U, no walk in flight, one in flight; a base on 16 bytes, no REMOTE; an unbound FIFO bank, a HEAD move of all 24 bits and a
TAIL move. -/
theorem test_hyp_tlbi_wpset_fifoadv :
    (plain []).me.priv ≠ .u ∧ walksIn (plain []) (tlbiScope (plain []) 0) = [] ∧ walksIn inWalk0 (tlbiScope inWalk0 0) ≠ [] ∧ (plain []).me.relDone = false ∧
    (0x10 : Word).toNat % 16 = 0 ∧ (0xFFFF0303 : Word).toNat / 8 % 2 = 0 ∧ (plain []).myCore.wpBase.length = 4 ∧
    (plain []).myCore.wpCtl.length = 4 ∧ (0x1FFFFFF : Word).toNat < 2 ^ 25 ∧ (31 : Word).toNat < 32 ∧
    (one boundFifo (ctxH [])).myCore.role 31 = .fifo ∧ (one boundFifo (ctxH [])).myCore.wide.queue = [] ∧
    (one boundFifo (ctxH [])).myCore.wg = none := by
  and_intros <;> decide +kernel

/-- At level U. -/
def atU : State := one Core.reset { ctxH [(1, 7)] with priv := .u }

/-- At level S, with a return to U. -/
def atS : State := one Core.reset { ctxH [(1, 7)] with priv := .s }

/-- CsrAccessesAreChecked and CsrAccessesReadAndWrite: the last address, an S register from U, a read-only one; U, S and H. -/
theorem test_hyp_csrs :
    (¬∃ e ∈ csrTable, e.1 = (0xFFF : BitVec 12).toNat ∧ e.2.1 ≤ atU.me.priv.code) ∧
    (¬∃ e ∈ csrTable, e.1 = (0x400 : BitVec 12).toNat ∧ e.2.1 ≤ atU.me.priv.code) ∧
    (¬∃ e ∈ csrTable, e.1 = (0xA40 : BitVec 12).toNat ∧ e.2.1 ≤ (plain []).me.priv.code ∧ e.2.2 = true) ∧
    (∃ e ∈ csrTable, e.1 = (0xA40 : BitVec 12).toNat ∧ e.2.1 ≤ (plain []).me.priv.code) ∧
    Unlogged (plain []) (plain []).cur.1 ∧ atS.me.priv ≠ .u ∧ (plain []).me.priv = .h := by
  and_intros <;> first | exact unlogged_of_none _ _ (by decide +kernel) | decide +kernel

/-- Mailbox 7 holds a word. -/
def mail7 : Core := { Core.reset with mbFull := 0x80 }

/-- MailboxesPassWords: an empty and a full mailbox, contexts that wait for either, a deposit from another core's latch. -/
theorem test_hyp_mailboxes :
    (plain []).myCore.mbFull.getLsbD (7 : BitVec 3).toNat = false ∧ (one mail7 (ctxH [])).myCore.mbFull.getLsbD (7 : BitVec 3).toNat = true ∧
    ((one Core.reset { ctxH [] with wait := .mbw 7 5 }).ctx 0 0).wait = .mbw (7 : BitVec 3).toNat 5 ∧
    ((one mail7 { ctxH [] with wait := .mbr 7 5 }).ctx 0 0).wait = .mbr (7 : BitVec 3).toNat 5 ∧
    routerHolds (plain []) (ctxLatch (plain []) 0 0) = false ∧ Unlogged (plain []) (plain []).cur.1 := by
  and_intros <;> first | exact unlogged_of_none _ _ (by decide +kernel) | decide +kernel

/-- TrapsEnterAndReturn: causes to H (from H, code 64, not delegated) and to S; ERET at each level. -/
theorem test_hyp_traps :
    ((plain []).core 0).dbg.trctl.getLsbD 1 = false ∧ Unlogged (plain []) 0 ∧ ((plain []).ctx 0 0).priv = .h ∧
    (64 ≤ (cause 64 0).code ∧ ¬64 ≤ (cause 63 0).code) ∧ (atU.core 0).hdeleg.getLsbD 2 = false ∧
    ((one { Core.reset with hdeleg := 4 } { ctxH [] with priv := .u }).core 0).hdeleg.getLsbD 2 = true ∧ atU.me.priv = .u ∧
    Priv.u.code = atS.me.status.toNat / 4 % 4 ∧ atS.me.priv = .s ∧ Priv.u.code = (plain []).me.hstatus.toNat / 4 % 4 := by
  and_intros <;> first | exact unlogged_of_none _ _ (by decide +kernel) | decide +kernel

/-- Core 0 runs a workgroup of cores 0 and 1. -/
def inGroup (w : Ctx) : State :=
  { one { Core.reset with wg := some 3 } w with
    wgs := [(3, { part := 0, num := 3, map := [(0, 0), (1, 1)], queue := 0, pkt := [], ldomBase := 4096, preempt := false, repl := false,
                  pair := false, bsp := false, image := 0, mode := .off, log := [], ended := [], saved := false, moving := false, images := [], was := [] })] }

/-- SystemInstructionsAct: BRKSTOP clear and set, the control context and a helper, an entropy source that holds bits and one that does not; a HALT
that waits alone, and one in a workgroup whose other core goes on. -/
theorem test_hyp_system :
    ((plain []).myCore.dbg.ctl.getLsbD 8 = false ∧ (one { Core.reset with dbg := { Dbg.reset with ctl := 0x100 } } (ctxH [])).myCore.dbg.ctl.getLsbD 8 = true) ∧
    (plain []).cur.2 = 0 ∧ (oneHelper Core.reset 1 (ctxH [])).cur.2 ≠ 0 ∧ Unlogged (plain []) (plain []).cur.1 ∧
    (plain []).myCore.entropy = true ∧ (one { Core.reset with entropy := false } (ctxH [])).myCore.entropy = false ∧
    (((one Core.reset { ctxH [] with wait := .halt }).core 0).run = .running ∧
      ((one Core.reset { ctxH [] with wait := .halt }).ctx 0 0).wait = .halt ∧ ((one Core.reset { ctxH [] with wait := .halt }).ctx 0 0).live = true ∧
      (one Core.reset { ctxH [] with wait := .halt }).wgOf 0 = none) ∧
    (((inGroup (ctxH [])).wgOf 0).map (·.1) = some 3 ∧ (((inGroup (ctxH [])).wgOf 0).map fun w => w.2.cores.any fun d => d != 0 && !w.2.ended.contains d) = some true) ∧
    (((one Core.reset { ctxH [] with wait := .rand 5 }).ctx 0 0).wait = .rand 5) := by
  and_intros <;> first | exact unlogged_of_none _ _ (by decide +kernel) | decide +kernel

/-- AsynchronousCausesAndErrors: a pending cause that is taken (from U; at H with IE), and one that is not (at H without IE). -/
theorem test_hyp_async :
    ((one Core.reset { ctxH [] with priv := .u, pend := [cause 0x20 0] }).ctx 0 0).pend = [cause 0x20 0] ∧
    ((one Core.reset { ctxH [] with hstatus := 1 }).ctx 0 0).hstatus.getLsbD 0 = true ∧ ((plain []).ctx 0 0).hstatus.getLsbD 0 = false ∧
    ((plain []).core 0).reports = [] ∧ (cause 0x20 0).code ≠ 0x21 ∧ ((plain []).core 0).roleChange = none ∧ ((plain []).core 0).run = .running ∧
    ((plain []).ctx 0 0).live = true := by
  and_intros <;> decide +kernel

/-- FloatSelectionAndConversion and RoundingKeepsRepresentedValues: the last relation; two kinds; the largest finite FP32 code, 1.0 in FP64. -/
theorem test_hyp_floats :
    (3 : BitVec 3).toNat ≤ 3 ∧ ((5 : BitVec 3).toNat ≤ 5 ∧ (5 : BitVec 3) ≠ 0 ∧ (0 : BitVec 3).toNat < 2) ∧
    (0x7F7FFFFF < 2 ^ fp32.width ∧ decodeCode fp32 0x7F7FFFFF = .fin false 0xFFFFFF 1 104) ∧
    (0x3FF0000000000000 < 2 ^ fp64.width ∧ decodeCode fp64 0x3FF0000000000000 = .fin false (2 ^ 52) 1 (-52)) := by
  and_intros <;> decide +kernel

/-- Every pointer names bank 16; pointer 7 has the block format F3, of 8-bit integers in blocks of 64. -/
def wideAt (q : List WEntry) : Wide :=
  { Wide.reset with ptr := List.replicate 7 0x100000 ++ [0x100000 + 3 * 2 ^ 50 + 2 ^ 62], fmt := lset Wide.reset.fmt 3 0x10340071, origin := List.replicate 8 0x100000, queue := q }

def wideCore (q : List WEntry) : Core := { Core.reset with wide := wideAt q }

/-- An entry of the queue for an instruction. -/
def entry (i : Instr) : WEntry :=
  { i := i, v1 := 0, v2 := 0, rm := 0, e := 0, j := 0, afmt := 0, row := 0, joined := false, body := [], pass := 0, helpers := [], runs := [], pages := [] }

/-- A control context beside these queue entries. -/
def wideS (q : List WEntry) : State := one (wideCore q) (ctxH [(1, 0x10010), (2, 0x100000), (3, 0xC000000000000000), (4, 0x40000000), (5, 7)])

/-- Whether the checks of queue entry pass, and which cause they raise. -/
def checked (q : List WEntry) (i : Instr) : Option Nat := match wformCheck (wideS q).myCore (queueView (wideS q) 0) i with
  | .ok _ => none
  | .error z => some z.code

/-- WideSideTakesInstructions, opcodes 0x30 to 0x35: a helper; seven and eight entries queued; row 15 and pointer 7; a pointer into a CACHE bank. -/
theorem test_hyp_wide_entry :
    isWForm (.vadd 15 15 6 0 0) = true ∧ isWForm (.vcvt 15 7 0 0) = true ∧ (oneHelper (wideCore []) 1 (ctxH [])).cur.2 ≠ 0 ∧ (wideS []).cur.2 = 0 ∧
    8 ≤ (wideS (List.replicate 8 (entry .accsw))).myCore.wide.queue.length ∧ (wideS (List.replicate 7 (entry .accsw))).myCore.wide.queue.length < 8 ∧
    checked [] (.vadd 15 15 6 0 0) = none ∧ checked [] (.vcvt 15 7 0 0) = none ∧
    checked (List.replicate 7 (entry (.pset 6 1))) (.vadd 15 15 6 0 0) = some 5 := by
  and_intros <;> decide +kernel

/-- WideSideTakesInstructions, the control instructions: MODE 3 and another one, a valid and an invalid format, a valid and an invalid shape, U
and H, a matrix configuration. -/
theorem test_hyp_wide_control :
    (xread (wideS []).me 2).toNat / 2 ^ 62 ≠ 3 ∧ (xread (wideS []).me 3).toNat / 2 ^ 62 = 3 ∧
    fmtValid ((xread (wideS []).me 4).setWidth 32) = true ∧ fmtValid ((xread (wideS []).me 2).setWidth 32) = false ∧
    ((xread (wideS []).me 1).toNat % 32 = 16 ∧ (xread (wideS []).me 1).toNat / 2 ^ 16 % 128 = 1) ∧
    (1 ≤ (0x400110 : Word).toNat % 32 ∧ (0x400110 : Word).toNat % 32 ≤ 16 ∧ (0x400110 : Word).toNat / 32 % 8 = 0 ∧ (0x400110 : Word).toNat / 512 % 128 = 0 ∧
      (0x400110 : Word).toNat / 2 ^ 16 % 128 = 64 ∧ (0x400110 : Word).toNat / 2 ^ 23 = 0) ∧
    (wideS []).me.priv ≠ .u ∧ atU.me.priv = .u ∧ mcfgBad (wideS []).me.priv (queueView (wideS []) 0).mcfg (xread (wideS []).me 5) = false := by
  and_intros <;> decide +kernel

/-- A core whose operand bank 24 holds one format, and whose gang is placed. -/
def matrixS : State :=
  one { wideCore [] with tags := [(24, 0x10200071)], wide := { wideAt [] with fmt := List.replicate 16 0x10200071, gangE := 1 } } (ctxH [(1, 0x100000), (2, 0x100000), (3, 0x1000)])

/-- What the checks of an image find: whether they pass, and not in the local window. -/
def imaged (acc : Access) (x : Nat) (mask : BitVec 8) : Bool := match imageCheck matrixS acc x (maskBanks mask) [] with
  | .ok false _ => true
  | _ => false

/-- WideSideTakesInstructions, the matrix instructions: MLDB of the last row, MMUL at row 15 of depth 4, MSPILL and MFILL of one bank. -/
theorem test_hyp_matrix_entry :
    (matrixS.cur.2 = 0 ∧ matrixS.myCore.wide.queue = [] ∧ (1023 : BitVec 10).toNat + 1 ≤ 1024 ∧ (xread matrixS.me 1).toNat + 64 * 1 ≤ 2 ^ 21 ∧
      mayUse matrixS.myCore matrixS.myCore.wide.mcfg 24 = true ∧ fmtKind (matrixS.myCore.wide.fmt.getD 1 0) ≤ 1 ∧
      ¬(fmtScaled (matrixS.myCore.wide.fmt.getD 1 0) = true ∧ fmtBlen (matrixS.myCore.wide.fmt.getD 1 0) = 32) ∧
      refusedByte matrixS.myCore .scratch [(0x100000, 64)] = none ∧ matrixS.myCore.role 24 = .operand ∧
      poisonedByte matrixS.myCore [(0x100000, 64)] = none) ∧
    ((15 : BitVec 4).toNat + 1 ≤ matrixS.myCore.wide.acc.rows ∧ mmulBanks 3 ≤ mcLen matrixS.myCore.wide.mcfg ∧ chainInHalf matrixS.myCore.wide.mcfg = true ∧
      (usedBanks matrixS.myCore.wide.mcfg 3).all (mayUse matrixS.myCore matrixS.myCore.wide.mcfg) = true ∧ matrixS.myCore.wide.gangE ≠ 0 ∧ usedBanks matrixS.myCore.wide.mcfg 3 = [24] ∧
      mmulFits matrixS.myCore.wide.acc.int (matrixS.myCore.view.p 0) (matrixS.myCore.view.pf 0) 7 [0x10200071] (mmulK 3) = true ∧
      notOperand matrixS.myCore [24] = none ∧
      poisonedByte matrixS.myCore (readRuns' matrixS.myCore (.mmul 15 0 0 7 0 3) (matrixS.myCore.view.uses [⟨0, mmulK 3, false⟩]).1 ++
        bankRuns matrixS.myCore.wide.mcfg 3) = none ∧
      refusedByte matrixS.myCore .scratch (readRuns' matrixS.myCore (.mmul 15 0 0 7 0 3) (matrixS.myCore.view.uses [⟨0, mmulK 3, false⟩]).1) = none ∧
      ((matrixS.myCore.view.uses [⟨0, mmulK 3, false⟩]).1.all fun u => !fmtScaled u.fmt) = true) ∧
    ((0x80 : BitVec 8) ≠ 0 ∧ mayUse matrixS.myCore matrixS.myCore.wide.mcfg 31 = true ∧ Unwatched matrixS.myCore ∧ (xread matrixS.me 3).toNat % 4096 = 0 ∧ notOperand matrixS.myCore [31] = none ∧
      maskBanks 0x80 = [31] ∧ imaged .store 0x1000 0x80 = true ∧ imaged .load 0x1000 0x80 = true) := by
  and_intros <;> first | exact unwatched_of _ (by decide +kernel) | decide +kernel

/-- WideControlHasItsEffect: an empty queue and one entry queued; a head of each kind, pointers with and without a window. -/
theorem test_hyp_wide_values :
    (wideS []).myCore.wide.queue = [] ∧ (wideS [entry .accsw]).myCore.wide.queue ≠ [] ∧ (wideS [entry .accsw]).myCore.wide.queue.length < 8 ∧
    HeadIs (wideS [entry (.padd 7 1)]) 0 (entry (.padd 7 1)) [] ∧ pWrap ((wideS []).myCore.wide.ptr.getD 7 0) = 0 ∧ pWrap (2 ^ 34 : Word) ≠ 0 ∧
    HeadIs (one (wideCore [entry (.pget 5 7)]) { ctxH [] with wait := .wideVal }) 0 (entry (.pget 5 7)) [] ∧
    ((one (wideCore [entry (.pget 5 7)]) { ctxH [] with wait := .wideVal }).ctx 0 0).wait = .wideVal := by
  unfold HeadIs; and_intros <;> decide +kernel

/-- The lengths of the lanes of A, of B and of B as numbers, which an instruction at the head of the queue reads. -/
def laneLengths (i : Instr) : List Nat :=
  let k := wideCore [entry i]
  let ab := operandLanes k (wideRm i 0) i (k.view.uses (wUses k.view i)).1
  [ab.1.length, ab.2.1.length, ab.2.2.1.length]

/-- Whether an instruction at the head of the queue can execute. -/
def canExecute (mb : BitVec 8) (i : Instr) : Bool := wReady (one { wideCore [entry i] with mbFull := mb } (ctxH [])) 0 i

/-- WideLanesExecute: an instruction with two pointers, one, and none, at row 15, which can execute; mailbox 7 empty and full as each needs it. -/
theorem test_hyp_wide_lanes :
    HeadIs (wideS [entry (.vfma 15 15 7 6 0 0)]) 0 (entry (.vfma 15 15 7 6 0 0)) [] ∧
    (byLane (.vfma 15 15 5 6 0 0) = true ∧ wDst (.vfma 15 15 5 6 0 0) = some 15 ∧ wSrc (.vfma 15 15 5 6 0 0) = some 15 ∧
      canExecute 0 (.vfma 15 15 5 6 0 0) = true ∧ laneLengths (.vfma 15 15 5 6 0 0) = [64, 64, 64]) ∧
    (byLane (.vadd 0 15 6 0 0) = true ∧ canExecute 0 (.vadd 0 15 6 0 0) = true ∧ laneLengths (.vadd 0 15 6 0 0) = [64, 64, 64]) ∧
    (byLane (.vneg 0 15) = true ∧ canExecute 0 (.vneg 0 15) = true ∧ laneLengths (.vneg 0 15) = [64, 64, 64]) ∧
    (byLane (.vscale 0 15 6 0 0) = true ∧ laneLengths (.vscale 0 15 6 0 0) = [64, 64, 64]) ∧
    (wideS []).myCore.wide.acc.lanes.length = 1024 ∧ (wideS []).myCore.wide.acc.st.length = 16 := by
  unfold HeadIs; and_intros <;> decide +kernel

/-- WideLanesExecute, rows: each of these at the head of the queue can execute, and reads 64 lanes; VLDA and the stores have one use. -/
theorem test_hyp_wide_rows :
    canExecute 0 (.vlda 15 6 0 0) = true ∧ laneLengths (.vlda 15 6 0 0) = [64, 64, 64] ∧ ((wideCore []).view.uses (wUses (wideCore []).view (.vlda 15 6 0 0))).1.length = 1 ∧
    canExecute 0 (.vdot 15 0 5 6 0 0) = true ∧ laneLengths (.vdot 15 0 5 6 0 0) = [64, 64, 64] ∧
    canExecute 0x80 (.vsel 15 0 6 7 0) = true ∧ laneLengths (.vsel 15 0 6 7 0) = [64, 64, 64] ∧
    canExecute 0 (.vperm 15 0 6) = true ∧ laneLengths (.vperm 15 0 6) = [64, 64, 64] ∧ canExecute 0 (.vshuf 15 0 6) = true ∧ canExecute 0 (.viota 15) = true ∧
    canExecute 0x80 (.vbcast 15 7 1) = true ∧ canExecute 0 (.vcmp 7 0 6 3) = true ∧ laneLengths (.vcmp 7 0 6 3) = [64, 64, 64] ∧
    canExecute 0 (.vred 7 0 4) = true ∧ laneLengths (.vred 7 0 4) = [64, 64, 64] := by
  and_intros <;> decide +kernel

/-- An MSPILL or MFILL of banks 24 and 26, whose image lies in 17 pages from 0x40000 on. -/
def imageE (i : Instr) : WEntry := { entry i with v1 := 0x100000, pages := (List.range 17).map fun j => (0x100 + j, 0x40 + j, 0) }

/-- RepeatedBodiesRun, images: each byte of the image has its place, and no two share one; the sum of an image's parts is below 0x10810. -/
theorem test_hyp_images (i : Instr) :
    ImageLies (wideS [imageE i]) (imageE i) 24 (fun j => 0x40000 + j) ∧ (∀ a b : Nat, 0x40000 + a = 0x40000 + b → a = b) ∧
    (wideS [imageE i]).myCore.l1 = [] ∧ (wideS [imageE i]).watches = [] ∧ maskBanks 0x5 = [24, 26] ∧ HeadIs (wideS [imageE i]) 0 (imageE i) [] := by
  refine ⟨⟨by simp [imageE], fun j hj => ⟨0, ?_, ?_, rfl⟩⟩, fun _ _ h => by omega, rfl, rfl, by decide, ?_⟩
  · have h : ∀ p < 17, ((List.range 17).map fun j => (0x100 + j, 0x40 + j, 0)).find? (fun e => e.1 == 0x100 + p) = some (0x100 + p, 0x40 + p, 0) := by decide
    have hp : j / 4096 < 17 := by omega
    have hv : ((0x100000 : Word).toNat + 0x11000 * (24 - 24)) % 2 ^ 64 + j = 0x100000 + j := by simp
    unfold pagePlace
    rw [show (imageE i).v1 = 0x100000 from rfl, hv, show (0x100000 + j) / 4096 = 0x100 + j / 4096 by omega,
      show (imageE i).pages = (List.range 17).map fun j => (0x100 + j, 0x40 + j, 0) from rfl, h _ hp]
    simp only [Option.map_some, Option.some.injEq, Prod.mk.injEq, and_true]; omega
  · unfold isGddr target; rw [if_pos (show 0x40000 + j < 0x1800000000 by omega)]; rfl
  · unfold HeadIs; and_intros <;> rfl

/-- A gang, each of whose cores has an MMUL of number (5, 9) at the head of its queue; the K of the last one's may differ. -/
def mmulE (joined : Bool) (km1 : BitVec 8) : WEntry := { entry (.mmul 1 1 0 7 1 km1) with e := 5, j := 9, afmt := 0x10200071, joined := joined }
def kOf (last : BitVec 8) (p : Nat) : BitVec 8 := if p = 5 then last else 3
def gangS (joined : Bool) (last : BitVec 8) : State :=
  { State.reset with cores := (List.range 6).map fun p => (gangCore 3 p, { wideCore [mmulE joined (kOf last p)] with tags := [(24, 0x10200071)] }) }
def headOf (joined : Bool) (last : BitVec 8) (p : Nat) : Head := ⟨mmulE joined (kOf last p), 1, 2, 0, true, 7, kOf last p⟩

/-- MatrixUnitRuns: six MMULs with one shape, and ones with two; six that have joined, at row 0. -/
theorem test_hyp_gang :
    (∀ j, GangHas (gangS j 3) 3 (headOf j 3) (5, 9) j) ∧ GangHas (gangS false 4) 3 (headOf false 4) (5, 9) false ∧
    (∀ p, p < 6 → (headOf true 3 p).e.row = 0 ∧ ((gangS true 3).core (gangCore 3 p)).wide.acc.lanes.length = 1024 ∧ (headOf true 3 p).d + 0 < 16) ∧
    (∀ q, q < 6 → (headOf false 3 q).km1 = (headOf false 3 0).km1) ∧ (headOf false 4 5).km1 ≠ (headOf false 4 0).km1 := by
  unfold GangHas; and_intros <;> decide +kernel

/-- WideLanesExecute, stores: VSTA and VCVT have one use, the pointer's; no watch stands. VCVT writes one block of 64 elements. -/
theorem test_hyp_wide_stores :
    canExecute 0 (.vsta 15 6 0 0) = true ∧ canExecute 0 (.vcvt 15 7 0 0) = true ∧ canExecute 0 (.vcvtAuto 15 7 0 0) = true ∧
    (((wideCore []).view.uses (wUses (wideCore []).view (.vsta 15 6 0 0))).1.map fun u => pMode u.w) = [0] ∧
    (((wideCore []).view.uses (wUses (wideCore []).view (.vcvt 15 7 0 0))).1.map fun u => (useBlocks u).length) = [1] ∧ (wideS []).watches = [] := by
  and_intros <;> decide +kernel

/-- A REP at address 0 with the word of VADD behind it, in memory and in the instruction cache. -/
def repS : State :=
  { State.reset with cores := [(0, { (wideCore []) with icache := [(1, (0, 0x18800C00))], ctxs := [(0, ctxH [])] })], mem := [(5, 0x0C), (6, 0x80), (7, 0x18)] }

/-- Whether the words behind the REP are fetched, with nothing else changed, and every pass of its body passes its checks. -/
def repChecked (cnt : Nat) : Bool := match fetchFrom 0 0 1 ((repS.me.pc.toNat + 4) % 2 ^ 64) [] repS with
  | .words ws u => decide (ws = [0x18800C00]) && decide (u = repS) && (match passesCheck repS.myCore 0 0 [.vadd 0 0 6 0 0] (cnt + 1) 0 (queueView repS 0) [] with
    | .ok _ => true
    | .error _ => false)
  | _ => false

/-- RepeatedBodiesRun: a body whose first word is no wide instruction; a REP of VADD with one pass and with four, whose body can be fetched; one at the head whose pass can execute. -/
theorem test_hyp_rep :
    (match repBody [0x16800000] with
      | .error z => decide (z.code = 2)
      | .ok _ => false) = true ∧
    (repS.cur.2 = 0 ∧ repS.myCore.wide.queue.length < 8 ∧ repBody [0x18800C00] = .ok [.vadd 0 0 6 0 0] ∧ repChecked 0 = true ∧ repChecked 3 = true) ∧
    (HeadIs (wideS [{ entry (.rep 1 0 0 0) with body := [.vadd 0 0 6 0 0] }]) 0 { entry (.rep 1 0 0 0) with body := [.vadd 0 0 6 0 0] } [] ∧
      isWForm (.vadd 0 0 6 0 0) = true ∧ canExecute 0 (stagger 1 0 0 (.vadd 0 0 6 0 0)) = true) := by
  unfold HeadIs; and_intros <;> decide +kernel

/-- MatrixUnitRuns: MLDB at the head; an MSPILL of two banks, and of the last. -/
theorem test_hyp_matrix_unit :
    (HeadIs (wideS [entry (.mspill 1 0x90)]) 0 (entry (.mspill 1 0x90)) [] ∧ maskBanks 0x90 = [28, 31] ∧ maskBanks 0x80 = [31] ∧
      ((wideS []).core 0).stbuf = []) ∧
    HeadIs (wideS [entry (.mldb 1 2 0 7 1023 0 0)]) 0 (entry (.mldb 1 2 0 7 1023 0 0)) [] := by
  unfold HeadIs; and_intros <;> decide +kernel

/-- A partition of cluster 0 with cache class 0. -/
def part0 : Partition :=
  { clusters := [0], classes := [0], key := 1, queues := [0], hostRanges := [(0x10000, 0x1000)], spill := (0, 0), save := (0, 0), ring := 0, bell := 0,
    lead := 0, set := none, peers := [], stalls := 0, handled := 0 }

/-- A layout record of one page of FP32 elements, for reads and writes. -/
def layout0 : Layout :=
  { part := 0, gen := 0, kinds := 3, base := 0x10000, format := 0x40000000, ccls := 0, rcls := 0, dims := [64], strs := [], sbase := 0,
    pages := [(0x10, 0x10, 0)] }

/-- The records of the requests, in SCRATCH: an event descriptor at 0, a task at 256, a pipeline at 512, a tree at 768, an extent at 1024, a child at
1280. -/
def records : Memory :=
  [(0x100000, 7), (0x100004, 0x10),
   (0x100118, 1), (0x100120, 1), (0x100124, 7),
   (0x100203, 0x20), (0x100207, 0x80), (0x100210, 1), (0x100216, 0x10),
   (0x10030C, 7), (0x100310, 1), (0x10031A, 1), (0x100320, 64),
   (0x100408, 64)]

/-- The registers: a name (5), 15, 7, bank 31, the handle of the layout record, and the addresses of the records. -/
def reqRegs : List (Nat × Word) :=
  [(1, 5), (2, 15), (3, 7), (4, 31), (5, 0x80000000), (6, local16), (7, local16 + 256), (8, local16 + 512), (9, local16 + 768), (10, local16 + 1024),
   (11, local16 + 1280), (12, 63), (13, 0xFFFFFF), (14, 64), (15, 0x1000000), (16, 0x800001000)]

/-- A core of the partition, placed for workgroup 3. -/
def placedCore : Core := { boundFifo with part := some 0, wg := some 3, loc := records, fifo := [] }

/-- A package with the partition, the layout record, and the six cores of gang 0 placed for one workgroup. -/
def world : State :=
  { State.reset with
    cores := (0, { placedCore with ctxs := [(0, ctxH reqRegs)] }) :: (List.range 5).map fun p => (p + 1, placedCore)
    parts := [(0, part0)], dies := [(0, { Die.reset with layouts := [(0, layout0)] })] }

/-- Its control context waits for a request of 4 bytes. -/
def asked : State :=
  { world with cores := (0, { placedCore with ctxs := [(0, { ctxH reqRegs with wait := .request 4 })] }) :: (List.range 5).map fun p => (p + 1, placedCore) }

theorem world_unlogged : Unlogged world 0 := unlogged_of_none _ _ (by decide +kernel)
theorem asked_unlogged : Unlogged asked 0 := unlogged_of_none _ _ (by decide +kernel)

/-- The bytes of the record at an offset. -/
def recordAt (off n : Nat) : List Byte := (List.range n).map fun i => locByte world 0 (0x100000 + off + i)

/-- RequestsAreSent, registers alone: a valid name, the last pool and the last configuration, bank 31 with and without a name, nothing owed. -/
theorem test_hyp_requests :
    (world.cur.1 < 576 ∧ IsName world (xread world.me 1) ∧ isPhaseName world 5 = false ∧ isTakeName 5 = false ∧ homeDev (nameHome world 0 5) = world.dev ∧
      Awaits asked 0 0 4) ∧
    NothingOwed world ∧ ((xread world.me 2).toNat ≤ 15 ∧ (xread world.me 3).toNat ≤ 7) ∧
    ((xread world.me 4).toNat < 32 ∧ world.myCore.role 31 = .fifo ∧ world.myCore.fifo = [] ∧ xread world.me 0 = 0) ∧
    ((1 : BitVec 2) ≠ 1 ∨ world.me.priv ≠ .u) ∧ Unlogged world world.cur.1 := by
  refine ⟨⟨by decide +kernel, ?_, by decide +kernel, by decide +kernel, by decide +kernel, ?_⟩, ?_, by decide +kernel, by decide +kernel, by decide +kernel, world_unlogged⟩
  · unfold IsName; decide +kernel
  · unfold Awaits; and_intros <;> decide +kernel
  · unfold NothingOwed; and_intros <;> decide +kernel

/-- RequestsAreSent, records: each record lies in the local window, and its fields are as its entry demands. -/
theorem test_hyp_records :
    (LocalOpen world (xread world.me 6) 0x100000 80 ∧ LocalClean world 0x100000 80 ∧
      nameValid world world.myCore.part (field (recordAt 0 80) 0 4) = true ∧ (readDesc world 0 world.myGid (recordAt 0 80)).isSome = true ∧
      homeDev (nameHome world 0 (field (recordAt 0 80) 0 4)) = world.dev) ∧
    (LocalOpen world (xread world.me 7) 0x100100 48 ∧ taskDescOk (recordAt 256 48) = true ∧
      nameValid world world.myCore.part (field (recordAt 256 48) 36 4) = true) ∧
    (LocalOpen world (xread world.me 8) 0x100200 32 ∧ nameValid world world.myCore.part (field (recordAt 512 32) 0 4) = true ∧
      nameScope (field (recordAt 512 32) 0 4) = 1 ∧ pipeSource world 0 (recordAt 512 32) = some (0, layout0) ∧
      pipeDescOk world 0 (recordAt 512 32) layout0.format = true) ∧
    (LocalOpen world (xread world.me 9) 0x100300 64 ∧ (xread world.me 12).toNat < 64 ∧
      nameValid world world.myCore.part (field (recordAt 768 64) 12 4) = true ∧ treeDescOk world 0 (recordAt 768 64) = true) ∧
    (LocalOpen world (xread world.me 10) 0x100400 16 ∧ extentOk (recordAt 1024 16) 0 = true) ∧
    (LocalOpen world (xread world.me 11) 0x100500 (8 * (1 : BitVec 9).toNat) ∧ (xread world.me 13).toNat < 2 ^ 24) := by
  unfold LocalOpen LocalClean; and_intros <;> first | exact unwatched_of _ (by decide +kernel) | decide +kernel

/-- RequestsAreSent, trees: the last tree and node, and the first numbers beyond them. -/
theorem test_hyp_tree_requests :
    (xread world.me 12).toNat < 64 ∧ (xread world.me 13).toNat < 2 ^ 24 ∧ 64 ≤ (xread world.me 14).toNat ∧ 2 ^ 24 ≤ (xread world.me 15).toNat := by
  and_intros <;> decide +kernel

/-- The record that came back for the waiting instruction. -/
def returned : State := one Core.reset { ctxH [(1, 5), (2, local16)] with recd := some (List.replicate 64 0) }

/-- RecordsAreStored: before the record is asked for, and when its 64 bytes are back. -/
theorem test_hyp_stored_records :
    LocalOpen returned (xread returned.me 2) 0x100000 64 ∧ Unlogged returned returned.cur.1 ∧ returned.cur.1 < 576 ∧
    IsName returned (xread returned.me 1) ∧ (world.me.recd = none ∧ world.me.stale = false) ∧ returned.me.recd = some (List.replicate 64 0) := by
  refine ⟨?_, unlogged_of_none _ _ (by decide +kernel), by decide +kernel, ?_, by decide +kernel, by decide +kernel⟩
  · unfold LocalOpen; and_intros <;> first | exact unwatched_of _ (by decide +kernel) | decide +kernel
  · unfold IsName; decide +kernel

/-- The key of event 7 on core 0, and its entry for a SYNC event of contexts 0 and 1. -/
def ev7 : EvKey := ⟨0, 7⟩
def desc7 : EventDesc := { name := 7, mode := .sync, size := 0, op := 0, all := false, format := 0, root := 0, parts := [0, 1] }
def home7 : Home := newHome desc7 false

/-- A task at slot 0 with one interval. -/
def task0 : Task :=
  { code := 0, frame := 0, lo := 0, hi := 4, grain := 1, cevent := ev7, gen := 0, age := 0, retired := 3, intervals := [(3, 4)], refused := false }

/-- Pool 15 of cluster 0 with this pool. -/
def withPool (q : Pool) : State := { asked with clusters := [(0, { Cluster.reset with pools := [(15, q)] })] }

/-- RequestsGetTheirAnswers, events and pools: an answer without a cause; a free and a defined name; a pool that is idle, full, and one with a free
slot; the last item of a task. -/
theorem test_hyp_answers :
    ((asked.ctx 0 0).wait = .request 4 ∧ (answerReg 5 0).trap = none ∧ (answerReg 5 0).refresh = false) ∧
    (field (recordAt 0 80) 0 4 = 7 ∧ (readDesc asked 0 (gidOf asked.dev 0 0) (recordAt 0 80)).isSome = true ∧ asked.home (evKey asked 0 7) = none ∧
      isGangName 7 = false) ∧
    (({ asked with homes := [(ev7, home7)] } : State).home (evKey asked 0 7) = some home7 ∧ home7.st ≠ .commit) ∧
    poolBusy asked (clusterOf 0) 15 = false ∧
    (((withPool { Pool.reset with tasks := (List.range 64).map fun i => (i, task0) }).pool 0 15).en = true ∧
      ∀ i, i < 64 → (tfind ((withPool { Pool.reset with tasks := (List.range 64).map fun i => (i, task0) }).pool 0 15).tasks i).isSome = true) ∧
    (tfind ((withPool { Pool.reset with tasks := [(0, task0)] }).pool 0 15).tasks 1 = none ∧
      (∀ i, i < 1 → (tfind ((withPool { Pool.reset with tasks := [(0, task0)] }).pool 0 15).tasks i).isSome = true) ∧
      intervalCount ((withPool { Pool.reset with tasks := [(0, task0)] }).pool 0 15) < 256) ∧
    (taskOf (withPool { Pool.reset with tasks := [(0, task0)] }) (clusterOf 0) 0x8000000F = some (15, 0, task0) ∧
      task0.retired + (1 : Word).toNat ≤ task0.hi.toNat - task0.lo.toNat) := by
  and_intros <;> decide +kernel

/-- A channel and a ready event of core 0's FIFO agent. -/
def fifoEvents : State :=
  { asked with homes := [(⟨0, 5⟩, newHome { desc7 with name := 5, mode := .channel, size := 64, parts := [0, 14] } false),
                         (⟨0, 6⟩, newHome { desc7 with name := 6, parts := [0, 14] } false)] }

/-- A pipeline that core 0's control context has bound. -/
def sub0 : Sub :=
  { part := 0, core := 0, ctx := 0, wg := 4, gen := 0, pbase := 0x20000000, src := 0, desc := recordAt 512 32, st := .running, chain := [0], k := 0, age := 0,
    total := 1, fmt := 0x40000000, seq := 0, passCount := 0, got := [], tile := none, ends := false, lands := none, fresh := false, passPend := false, passes := 0, flags := 0, pcnt := 0 }

def withSub (s : State) : State := { s with dies := [(0, { Die.reset with layouts := [(0, layout0)], subs := [(0, sub0)] })] }

/-- RequestsGetTheirAnswers, engines: a handle that names a record that is free, one in use, one that names none; FIFO banks; a ready event. -/
theorem test_hyp_engine_answers :
    (layoutOf asked (coreDie 0) (partNum (asked.core 0)) 5 = none ∧ layoutOf asked (coreDie 0) (partNum (asked.core 0)) 0x80000000 = some (0, layout0) ∧
      layoutBusy asked (coreDie 0) 0 = false ∧ layoutBusy (withSub asked) (coreDie 0) 0 = true) ∧ Unlogged asked 0 ∧
    fifoBusy asked 0 31 = false ∧ ((5 : Word) ≠ 0 ∧ (fifoEvents.core 0).fifo = [] ∧ fifoChannel fifoEvents (gidOf fifoEvents.dev 0 14) ⟨0, 5⟩ = some 64 ∧ fifoReady fifoEvents (gidOf fifoEvents.dev 0 14) ⟨0, 6⟩ = true ∧
      fifoChannel fifoEvents (gidOf fifoEvents.dev 0 14) ⟨0, 6⟩ = none ∧ fifoReady fifoEvents (gidOf fifoEvents.dev 0 14) ⟨0, 5⟩ = false ∧ fifoEvents.dev < 2 ^ 12 ∧
      homeDev (⟨0, 5⟩ : EvKey).home = fifoEvents.dev ∧ homeDev (evKey fifoEvents 0 5).home = fifoEvents.dev ∧ homeDev (⟨65536, 5⟩ : EvKey).home ≠ fifoEvents.dev) ∧
    (servePstat (withSub world) 0 0x80000000).isSome = true := by
  and_intros <;> first | exact asked_unlogged | decide +kernel

/-- Seven offers staged, of the names 0x100 to 0x106. -/
def staged7 : Tbl Staged := (List.range 7).map fun i => (i, ⟨0x100 + i, .sync, none, none, none⟩)

/-- Registers with a name, region descriptors (SCRATCH bytes to the end of bank 23; mailbox 7, 8 bytes), a handle, a pool and an address. -/
def stageRegs : List (Nat × Word) :=
  [(1, 5), (2, 0x1000017FF00), (3, 0x8000000800000007), (4, 0x80000000), (5, 15), (6, 0x17FFD0), (7, 0)]

def staging : State :=
  { world with cores := (0, { placedCore with roles := defaultRoles, ctxs := [(0, { ctxH stageRegs with staged := staged7 })] }) :: (List.range 5).map fun p => (p + 1, placedCore) }

/-- What the two region descriptors say, as a give and as a take. -/
def regionsParsed : List (Option Region) :=
  [parseRegion (xread staging.me 2) true false 16, parseRegion (xread staging.me 3) false true 16]

/-- OffersAreStaged: the last of eight slots; a name that is free; SCRATCH bytes that end at bank 23, a mailbox; the last pool; a record for reads and
writes; a permit slot. -/
theorem test_hyp_staging :
    (TakesSlot staging 7 ∧ IsName staging (xread staging.me 1) ∧ (∀ e ∈ staging.me.staged, e.2.name ≠ (5 : Nat))) ∧
    (regionsParsed = [some ⟨.scratch, 256, 0x17FF00⟩, some ⟨.mailbox, 8, 7⟩] ∧ regionRefused staging.myCore (some ⟨.scratch, 256, 0x17FF00⟩) = none ∧
      regionRefused staging.myCore (some ⟨.mailbox, 8, 7⟩) = none) ∧
    ((xread staging.me 5).toNat ≤ 15 ∧ (xread staging.me 6).toNat + 48 ≤ 2 ^ 21 ∧ regionRefused staging.myCore (some ⟨.scratch, 48, 0x17FFD0⟩) = none) ∧
    (layoutWith staging (xread staging.me 4) 0 = some layout0 ∧ layoutWith staging (xread staging.me 4) 1 = some layout0 ∧ 63 < layout0.count) ∧
    (boundBy (withSub staging) 0 0 0x80000000 = some (0, 0, sub0) ∧ (xread staging.me 7).toNat = 0 ∧ 0 < pdSlots sub0.desc ∧ sub0.pbase + 0 < 2 ^ 32 ∧
      nameValid (withSub staging) staging.myCore.part (sub0.pbase + 0) = true ∧ (xread staging.me 3).toNat / 2 ^ 32 % 2 ^ 13 = 8) := by
  refine ⟨⟨?_, ?_, by decide +kernel⟩, by decide +kernel, by decide +kernel, by decide +kernel, by decide +kernel⟩
  · unfold TakesSlot; decide +kernel
  · unfold IsName; decide +kernel

/-- An exchange plan with no entries, past its first phase. -/
def exch0 : Exchange := { plan := 0x1000, key := 0, nstep := 1, step := 0, phase := 9, past := true, left := [], running := false, refused := none }

/-- The six cores of gang 0, placed; core 0 with the exchange plan. -/
def exchS : State := { world with cores := (0, { placedCore with exch := some exch0, ctxs := [(0, ctxH [])] }) :: (List.range 5).map fun p => (p + 1, placedCore) }

/-- SelectArmsTheStagedSet: nothing staged, seven offers; the largest limit; a gang placed; a plan step that may begin. -/
theorem test_hyp_select :
    world.me.staged = [] ∧ staging.me.staged ≠ [] ∧ NothingOwed staging ∧ Unlogged staging staging.cur.1 ∧ (0xFFFFFFFF : Word).toNat < 2 ^ 32 ∧
    (staging.cur.2 = 0 ∧ gangPlaced staging 0 = true) ∧
    (NothingOwed exchS ∧ Unlogged exchS exchS.cur.1 ∧ exchS.cur.2 = 0 ∧ exchS.myCore.exch = some exch0 ∧ exch0.past = true ∧ exch0.refused = none ∧ exch0.running = false ∧ exchS.cur.1 < 576 ∧
      planFault exchS (planStep exchS exch0 exch0.step) = none) := by
  unfold NothingOwed; and_intros <;> first | exact unlogged_of_none _ _ (by decide +kernel) | decide +kernel

/-- A core whose helpers below number `n` are live. -/
def helpers (n : Nat) (r : Word) : State :=
  { State.reset with cores := [(0, { Core.reset with ctxs := (0, ctxH [(1, r), (2, 9)]) :: (List.range n).map fun i => (i + 1, { Ctx.reset with live := true }) })] }

/-- The sixteen domains of a launch on core 0, which is in the first. -/
def domS (v : Word) : State :=
  { one { placedCore with lmem := 1, lbase := 4096 } (ctxH [(1, v)]) with
    ldoms := (List.range 16).map fun i => (4096 + i, { part := 0, wg := 3, scope := 2, members := if i = 0 then [0, 16] else [16], running := true }) }

/-- HelpersAndDomains: no helper free, the last one free; an entry out of line; a DOMSET from domain 4096 to domain 4111, and one in U. -/
theorem test_hyp_helpers_and_domains :
    ((helpers 10 0x1000).cur.2 = 0 ∧ (xread (helpers 10 0x1000).me 1).toNat % 4 = 0 ∧ (∀ k, 1 ≤ k → k < 11 → ((helpers 10 0x1000).ctx 0 k).live = true)) ∧
    (((helpers 9 0x1000).ctx 0 10).live = false ∧ ∀ k, 1 ≤ k → k < 10 → ((helpers 9 0x1000).ctx 0 k).live = true) ∧
    (xread (helpers 9 0x1002).me 1).toNat % 4 ≠ 0 ∧ (oneHelper Core.reset 10 (ctxH [])).cur.2 ≠ 0 ∧
    ((domS 0x8000800000000000).me.priv ≠ .u ∧ (xread (domS 0x8000800000000000).me 1).toNat % 2 ^ 35 = 0 ∧
      (xread (domS 0x8000800000000000).me 1).toNat / 2 ^ 48 = 0x8000 ∧ (xread (domS 0x8000800000000000).me 1).toNat / 2 ^ 35 % 2 ^ 13 = 4096 ∧
      baseValid (domS 0x8000800000000000) (domS 0x8000800000000000).myCore.part 4096 = true ∧ memberships 1 4096 = [4096] ∧ memberships 0x8000 4096 = [4111] ∧
      domainUsed (domS 0x8000800000000000) 4096 = false ∧ domainUsed (domS 0x8000800000000000) 4111 = false ∧
      (tfind (domS 0x8000800000000000).ldoms 4111).isSome = true) ∧
    (atU.me.priv = .u ∧ (xread (domS 1).me 1).toNat % 2 ^ 35 ≠ 0) := by
  and_intros <;> decide +kernel

/-- A core whose control context waits for something. -/
def waiting (w : Wait) : State := one Core.reset { ctxH [] with wait := w }

/-- AnswersOfMemoryAndHost: a load, AMOs of 8 and of 16 bytes, a record, a fetch from a window, no wait; a context that waits for an abandoned answer; records
that stand on their core. -/
theorem test_hyp_data :
    (OnItsCore (waiting (.data 0x500 8)) 0 0 ∧ ((waiting (.data 0x500 8)).ctx 0 0).stale = false ∧ ((waiting (.request 4)).ctx 0 0).wait = .request 4 ∧
      ((waiting (.fetch 0x8000000000 0)).ctx 0 0).wait = .fetch 0x8000000000 0 ∧
      ((one Core.reset { ctxH [] with wait := .stale, stale := true }).ctx 0 0).stale = true ∧ OnItsCore (one Core.reset { ctxH [] with wait := .stale, stale := true }) 0 0) ∧
    ((waiting (.data 0x500 8)).ctx 0 0).wait = .data 0x500 8 ∧ ((waiting (.amo 5 8 0x500)).ctx 0 0).wait = .amo 5 8 0x500 ∧
    ((waiting (.amo 4 16 0x500)).ctx 0 0).wait = .amo 4 16 0x500 ∧ ((waiting .none).ctx 0 0).wait = .none ∧ Unlogged (waiting (.data 0x500 8)) 0 := by
  unfold OnItsCore; and_intros <;> first | exact unlogged_of_none _ _ (by decide +kernel) | decide +kernel

/-- A table at page 1 of cluster 0, in its region, with the tables of the levels below at pages 2 to 5 and, where `leaf` says so, a leaf. -/
def walkS (leaf : Bool) : State :=
  { one Core.reset { ctxH [] with priv := .s, ptroot := 0x8000000000001000, wait := .walk 0 .load } with
    clusters := [(0, { Cluster.reset with regions := [(0, 0x8000000000000007, 0x17FFFFF000)] })],
    mem := [(0x1000, 1), (0x1001, 0x20), (0x2000, 1), (0x2001, 0x30), (0x3000, 1), (0x3001, 0x40), (0x4000, 1), (0x4001, 0x50)] ++
      if leaf then [(0x5000, 0xDF), (0x5001, 0x60)] else [] }

/-- Whether a walk ends in a translation; the code of the fault it ends in. -/
def walkEnds (s : State) : Option Nat := match walkFrom s 0 (s.ctx 0 0) 0 .load 5 1 ((s.ctx 0 0).ptroot.toNat / 4096 % 2 ^ 40) (s.cluster 0).walkCache with
  | (.leaf _, _) => none
  | (.fault z, _) => some z.code

/-- FillsAndWalks: an empty L1; a line that no class has filled yet; the last word of GDDR 7; a walk that ends in a leaf, one in a fault. -/
theorem test_hyp_fills :
    ((plain []).core 0).l1 = [] ∧ ((plain []).core 0).hasL1 = true ∧ ((plain []).core 0).stbuf = [] ∧ KeyHolds (plain []) 0 4 ∧
    (tfind (plain []).llc 1 = none ∧ 0 < tget 0 ({ plain [] with quotas := [(3, 1)] } : State).quotas 3 ∧ (plain []).llc = []) ∧
    (0x17FFFFFFFC < 0x1800000000 ∧ 0x17FFFFFFFC % 4 = 0 ∧ KeyHolds (plain []) 0 (0x17FFFFFFFC / 256) ∧ ((plain []).core 0).icache = [] ∧ OnItsCore (waiting (.fetch 0x17FFFFFFFC 0)) 0 0 ∧
      ((waiting (.fetch 0x17FFFFFFFC 0)).ctx 0 0).wait = .fetch 0x17FFFFFFFC 0 ∧ ((waiting (.fetch 0x17FFFFFFFC 0)).ctx 0 0).priv = .h) ∧
    (((walkS true).ctx 0 0).wait = .walk 0 .load ∧ walkers (walkS true) (clusterOf 0) ((walkS true).ctx 0 0) 0 = [(0, 0, 0, .load)] ∧
      walkEnds (walkS true) = none ∧ walkEnds (walkS false) = some 6) := by
  unfold KeyHolds OnItsCore; and_intros <;> decide +kernel

/-- A direct store of two bytes across a sector boundary. -/
def direct : StEntry := { ctx := 0, pa := 0x4FF, key := 0, data := [1, 2], direct := true }
def storing : State := one { Core.reset with stbuf := [direct] } { ctxH [] with owed := 1 }

/-- The last AMO of a sector, and its request. -/
def amo8 : AmoReq := { rt := 5, pa := 0x4F8, key := 0, n := 8, op := 0, v := 1, c := 0 }

/-- An access through core 0's own window to bank 16. -/
def winAcc (op : WinOp) : WinAcc := { dev := 0, core := 0, ctx := 0, pa := windowPa 0 0 0x100000, len := 8, op := op }

/-- StoresArePerformedAndReleased: a store across two sectors; nothing left to send, in a release and in a DONE; a load, a store and an AMO at the last
bytes of a bank and at its first. -/
theorem test_hyp_stores_and_windows :
    (oldestDirect storing 0 0 = some direct ∧ 0 ≠ 11 ∧ direct.pa + direct.data.length ≤ 0x1800000000 ∧ 0 < direct.data.length ∧
      (∀ q ∈ sectorsOf direct.pa direct.data.length, KeyHolds storing 0 q) ∧ storing.watches = []) ∧
    (((waiting .release).ctx 0 0).released = [] ∧ ((waiting .release).ctx 0 0).owed = 0 ∧ ((waiting .release).core 0).stbuf = [] ∧
      (waiting .release).agenda = [] ∧ ((waiting .release).core 0).wide.queue = [] ∧
      (∀ e ∈ [entry (.vbcast 15 7 1)], (comesBefore 0 e && touchesBytes e) = false) ∧ ((waiting .release).ctx 0 0).wait = .release ∧
      ((waiting (.storeAcks 1 2)).ctx 0 0).wait = .storeAcks 1 2) ∧
    ((winAcc .load).dev = (plain []).dev ∧ target (winAcc .load).pa = .window (plain []).dev 0 0x100000 ∧ ((plain []).core 0).locPoison = [] ∧
      (0 < 8 ∧ 0x10FFF8 / 65536 = (0x10FFF8 + 8 - 1) / 65536) ∧ ((plain []).core 0).role (0x100000 / 65536) = .scratch) := by
  unfold KeyHolds; and_intros <;> decide +kernel

/-- An update-only partial of the first element of a sector. -/
def partial8 : UpdMsg := { core := 0, sector := 4, key := 0, op := 0, n := 8, elems := [⟨0x4F8, 5, 0, 0, false, false, false⟩] }

/-- AmosAndPartialsAtTheHome: the last element of a sector, poisoned and not; the context that waits. -/
theorem test_hyp_home_operations :
    OnItsCore (waiting (.amo 5 8 0x4F8)) 0 0 ∧ (0 < amo8.n ∧ amo8.pa / 256 = (amo8.pa + amo8.n - 1) / 256 ∧ KeyHolds (waiting (.amo 5 8 0x4F8)) 0 (amo8.pa / 256) ∧
      (waiting (.amo 5 8 0x4F8)).watches = [] ∧ amo8.pa / 256 ∉ (waiting (.amo 5 8 0x4F8)).memPoison ∧
      amo8.pa / 256 ∈ ({ waiting (.amo 5 8 0x4F8) with memPoison := [4] } : State).memPoison ∧
      ((waiting (.amo 5 8 0x4F8)).ctx 0 0).wait = .amo 5 8 0x4F8) ∧
    (partial8.op ≠ 10 ∧ 0x4F8 / 256 = partial8.sector ∧ (0x4F8 + partial8.n - 1) / 256 = partial8.sector ∧ KeyHolds (plain []) 0 partial8.sector ∧ 0 < partial8.n) := by
  unfold KeyHolds OnItsCore; and_intros <;> decide +kernel

/-- The latches of contexts 0 and 1 of core 0, and their offers of event 7. -/
def lat (x : Nat) : LatchId := ctxLatch (plain []) 0 x
def offer7 (x : Nat) : OfferMsg :=
  { latch := lat x, arm := 1, slot := 0, name := 7, dir := .sync, give := none, take := none, copy := none, bytes := [], got := [], seq := false, armed := 0 }

/-- The home of core 0 with event 7 in this state. -/
def atHome (h : Home) : State := { plain [] with homes := [(ev7, h)] }
def stamp7 : Stamp := ⟨0, 0, 7⟩
def both7 : Home := { home7 with offers := [offer7 0, offer7 1], stamp := some stamp7 }

/-- HomesClaimInOrder: an offer that leaves another absent, the last one, one refused; the first claim granted or refused; a wound request to a claiming and
to a committed event; the retry; a withdrawal; an offer during
the commit of the event's last occurrence. -/
theorem test_hyp_homes :
    ((atHome { both7 with st := .commit }).entry ev7 = some { both7 with st := .commit } ∧ (∃ p ∈ both7.offers, p.latch = (offer7 0).latch) ∧
      (lat 0, 1) ∉ both7.late ∧ (offer7 0).name = ev7.name) ∧
    ((atHome home7).entry ev7 = some home7 ∧ isTakeName ev7.name = false ∧ isTakeName home7.desc.name = false ∧ home7.spilled = false ∧ home7.st = .waiting ∧
      (offer7 0).name = ev7.name ∧ offerWhy home7 (offer7 0) = 0 ∧ allPresent { home7 with offers := home7.offers ++ [offer7 0] } = false) ∧
    (offerWhy { home7 with offers := [offer7 0] } (offer7 1) = 0 ∧ allPresent { home7 with offers := [offer7 0] ++ [offer7 1] } = true ∧
      claimOrder ([offer7 0] ++ [offer7 1]) = [offer7 0, offer7 1]) ∧
    offerWhy home7 { offer7 0 with dir := .give } ≠ 0 ∧
    (isClaimed { both7 with st := .claiming 0 } (lat 0) 1 = true ∧ (claimOrder both7.offers)[1]? = some (offer7 1)) ∧
    ((lat 0) ∈ ({ both7 with st := .claiming 1, granted := [lat 0] } : Home).granted ∧ ∃ p ∈ both7.offers, p.latch = lat 0 ∧ p.arm = 1) ∧
    ((atHome { both7 with st := .backoff }).entry ev7 = some { both7 with st := .backoff } ∧ allPresent { both7 with st := .backoff } = true ∧
      claimOrder both7.offers = [offer7 0, offer7 1]) ∧
    ((both7.offers.find? fun p => p.latch == lat 1 && p.arm == 1) = some (offer7 1) ∧
      allPresent { both7 with offers := both7.offers.filter (· != offer7 1), st := .waiting } = false) := by
  and_intros <;> decide +kernel

/-- A CHANNEL of one byte between contexts 0 and 1, both offers stored. -/
def channel7 : Home :=
  { both7 with desc := { desc7 with mode := .channel, size := 1 },
               offers := [{ offer7 0 with dir := .give, give := some ⟨.scratch, 1, 0x100000⟩ }, { offer7 1 with dir := .take, take := some ⟨.scratch, 1, 0x100001⟩ }],
               granted := [lat 0], st := .claiming 1 }

/-- CommitsDeliverAndEnd: the last grant of a SYNC and of a CHANNEL; the last confirmation and one before it. -/
theorem test_hyp_commits :
    (isPhaseName (atHome channel7) ev7.name = false ∧ channel7.front = false ∧ (lat 1, 1) ∉ channel7.late ∧ (atHome channel7).wgs = [] ∧ channel7.stamp = some stamp7 ∧ isClaimed channel7 (lat 1) 1 = true ∧
      (claimOrder channel7.offers)[2]? = none ∧ deliveries ev7 channel7 ≠ []) ∧
    (isClaimed { both7 with granted := [lat 0], st := .claiming 1 } (lat 1) 1 = true ∧ both7.desc.mode = .sync ∧ deliveries ev7 both7 = []) ∧
    (({ channel7 with st := .commit, due := [(lat 1, 1)] } : Home).desc.mode ≠ .reduce ∧ kfind [(lat 1, 1)] (lat 1) = some 1 ∧ kfind [(lat 1, 2)] (lat 1) = some 2) := by
  and_intros <;> decide +kernel

/-- A latch of context 0 armed with offers of events 7 and 8. -/
def ev8 : EvKey := ⟨0, 8⟩
def armed7 : Latch := { Latch.reset with st := .armed, arm := 1, offers := [(ev7, offer7 0), (ev8, { offer7 0 with slot := 1, name := 8 })] }
def withLatch (m : Latch) : State := { waiting (.select false 5 4) with latches := [(lat 0, m)] }

/-- LatchesFollowTheirTable: each state of the latch; a stamp above and one below; a wound pending, a stop pending. -/
theorem test_hyp_latches :
    ((∃ o, kfind armed7.offers ev7 = some o ∧ regionLen o.give = 0 ∧ regionLen o.take = 0) ∧
      (withLatch { armed7 with st := .claimed ev7 stamp7, stopPend := true }).latch (lat 0) = { armed7 with st := .claimed ev7 stamp7, stopPend := true }) ∧
    ((withLatch armed7).latch (lat 0) = armed7 ∧ isCtxLatch (lat 0) = true ∧ (withLatch armed7).wgs = [] ∧ armed7.arm = 1 ∧ (kfind armed7.offers ev7).isSome = true) ∧
    ((∀ n ∈ armed7.notices, n.1 ≠ ev7 → stampAbove n.2 stamp7 = false) ∧
      (∃ n ∈ ({ armed7 with notices := [(ev8, ⟨1, 0, 8⟩)] } : Latch).notices, n.1 ≠ ev7 ∧ stampAbove n.2 stamp7 = true)) ∧
    ((kfind ({ armed7 with st := .claimed ev8 ⟨0, 5, 8⟩ } : Latch).offers ev7).isSome = true ∧ ev7 ≠ ev8 ∧ stampAbove stamp7 ⟨0, 5, 8⟩ = true ∧
      stampAbove ⟨0, 9, 7⟩ ⟨0, 5, 8⟩ = false) ∧
    (withLatch { armed7 with st := .dormant }).latch (lat 0) = { armed7 with st := .dormant } ∧
    (withLatch { armed7 with st := .claimed ev7 stamp7, wound := some (ev8, ⟨1, 0, 8⟩) }).latch (lat 0) = { armed7 with st := .claimed ev7 stamp7, wound := some (ev8, ⟨1, 0, 8⟩) } := by
  and_intros <;> decide +kernel

/-- SelectsReturn: a committed event's last payload; a limit that expires; a home's refusal; a poll at back-off level 6. -/
theorem test_hyp_selects :
    (((withLatch armed7).ctx 0 0).wait = .select false 5 4 ∧ ctxLatch (withLatch armed7) 0 0 = lat 0 ∧ Unlogged (withLatch armed7) 0 ∧
      (withLatch { armed7 with st := .committed ev7 }).latch (lat 0) = { armed7 with st := .committed ev7 } ∧ armed7.gave = 0 ∧
      kfind armed7.offers ev7 = some (offer7 0) ∧ (offer7 0).slot < 8 ∧ 0 < 11 ∧ 0 < 576 ∧
      (({ withLatch { armed7 with st := .committed ev7 } with cores := [(0, { Core.reset with run := .halted, ctxs := [(0, { ctxH [] with wait := .select false 5 4 })] })] } : State).core 0).run = .halted ∧
      ({ armed7 with st := .committed ev7, past := true } : Latch).past = true ∧ ((withLatch armed7).core 0).run = .running ∧ isGangName ev7.name = false) ∧
    (15 < 16 ∧ (offer7 0).slot < 16 ∧ (armed7.offers.find? fun p => p.1.name == 7) = some (ev7, offer7 0)) ∧
    (({ waiting (.select true 5 4) with latches := [(lat 0, { armed7 with offers := [] })] } : State).ctx 0 0).wait = .select true 5 4 ∧
    ((one Core.reset { ctxH [] with wait := .select false 5 4, backoff := 6 }).ctx 0 0).backoff < 7 := by
  and_intros <;> first | exact unlogged_of_none _ _ (by decide +kernel) | decide +kernel

/-- An armed latch of context 1 that takes 256 bytes at the end of bank 23; the core running, or stopped with nearly full router storage. -/
def taking : OfferMsg := { offer7 1 with dir := .take, take := some ⟨.scratch, 256, 0x17FF00⟩ }
def landing (run : Run) : State :=
  { one { Core.reset with run := run, fifo := [(31, ⟨0, 0, some (5, 64, 0), 0, 0, 0⟩)] } (ctxH []) with latches := [(lat 1, { armed7 with offers := [(ev7, taking)] })] }

/-- A probe of a domain of cores 0 and 1, at core 0. -/
def probe2 : Probe :=
  { scope := 2, domain := 0, members := [0, 1], pos := 0, black := false, sum := 0, enabled := [], still := true, quiet := false, stalled := false }

/-- PayloadsAndAgentsAndProbes: the last byte of SCRATCH; a stopped core; an idle FIFO agent that has room; a probe with a core after this one. -/
theorem test_hyp_payloads :
    (isCtxLatch (lat 1) = true ∧ (lat 1).sub ≠ 0xFFFF ∧ (landing .running).watches = [] ∧ routerHolds (landing .running) (lat 1) = false ∧ Unlogged (landing .running) (gidCore (lat 1).gid) ∧
      kfind ((landing .running).latch (lat 1)).offers ev7 = some taking ∧ taking.take = some ⟨.scratch, 256, 0x17FF00⟩ ∧ 255 < 65536 ∧ ([1] : List Byte) ≠ [] ∧
      Unwatched ((landing .running).core (gidCore (lat 1).gid))) ∧
    (routerHolds (landing .stopped) (lat 1) = true ∧ heldBytes ((landing .stopped).core (gidCore (lat 1).gid)) + 4096 ≤ 16384 ∧
      16384 < heldBytes ((landing .stopped).core (gidCore (lat 1).gid)) + 16385) ∧
    (((landing .running).latch (fifoLatch (landing .running) 0 31 false)).st = .idle ∧ wantsOf (landing .running) (fifoLatch (landing .running) 0 31 false) ≠ []) ∧
    (tfind ({ plain [] with probes := [(0, probe2)] } : State).probes 0 = some probe2 ∧ probe2.members[probe2.pos]? = some 0 ∧ probe2.pos + 1 < probe2.members.length) := by
  and_intros <;> first | exact unlogged_of_none _ _ (by decide +kernel) | exact unwatched_of _ (by decide +kernel) | decide +kernel

/-- A tree of 64 nodes in one page, with node 0 allocated and unexpanded. -/
def tree0 : Tree :=
  { part := 0, wg := 4, c := 0, fpv := 0, vlv := 0, bev := ev7, ccls := 0, rcls := 0, alt := false, bsz := 2, extents := [⟨[(0x20, 0)], 64⟩], alloc := [(0, 1)],
    reclaim := [], root := some 0, gen := 0, openB := [], closed := [], seq := 0, berr := false, refused := false }

def withTree (t : Tree) : State := { world with clusters := [(0, { Cluster.reset with trees := [(63, t)] })] }

/-- Whether node 0 is read, unexpanded and not terminal, and whether its live chain is that node alone. -/
def node0 : Bool := match readNode (withTree tree0) tree0 0 with
  | .ok x => !x.exp && !x.term && !x.pend && decide (x.vl < 65535) && decide (x.depth < 65535)
  | .error _ => false
def chain0 : Bool := match liveChain (withTree tree0) tree0 maxDepth 0 with
  | .ok [p] => p.1 == 0
  | _ => false
def bytes0 : Bool := match nodeBytes (withTree tree0) tree0 0 with
  | .ok bs => bs.length == 64
  | .error _ => false

/-- CantleAnswers: no tree, a tree; a run of 63 nodes; no root; an open batch with room, closed batches that are few; a node to reclaim. -/
theorem test_hyp_cantle :
    tfind (world.cluster 0).trees 63 = none ∧ tfind ((withTree tree0).cluster 0).trees 63 = some tree0 ∧
    latchBusy (withTree tree0) (batchLatch (withTree tree0) 0 63) = false ∧ OnItsCore (withTree tree0) 0 0 ∧ findRun tree0 63 = some 1 ∧ findRun tree0 1 = some 1 ∧
    ({ tree0 with root := none } : Tree).root = none ∧ tree0.root = some 0 ∧ node0 = true ∧ tree0.openB.length + 1 < tree0.bsz ∧
    tree0.closed.length < 3 ∧ ({ tree0 with openB := [0] } : Tree).openB ≠ [] ∧ chain0 = true ∧ nodeAllocated tree0 0 = true ∧ bytes0 = true ∧
    Unlogged (withTree tree0) 0 ∧ 0 ∈ ({ tree0 with reclaim := [0] } : Tree).reclaim := by
  unfold OnItsCore; and_intros <;> first | exact unlogged_of_none _ _ (by decide +kernel) | decide +kernel

/-- The tree after an expansion of node 0 into nodes 1 and 2, the first of which is to be searched. -/
def tree2 : Tree := { tree0 with alloc := [(0, 3)] }
def grown : State :=
  { withTree tree2 with mem := [(0x2000A, 1), (0x20013, 0x80), (0x20014, 1), (0x20018, 2), (0x2005A, 1), (0x2009A, 1)] }

/-- The nodes of a list that a read gives, with what a reader wants to know of them. -/
def met (r : Except Nat (List (Nat × Node))) : List (Nat × Bool × Nat) := match r with
  | .ok l => l.map fun e => (e.1, e.2.exp, e.2.vl)
  | .error _ => []
def metOf (r : Except Nat (List Nat)) : List Nat := match r with
  | .ok l => l
  | .error _ => []

/-- CantleAnswers, nodes: each node has a place of its own; a path of two nodes down, a chain of two up; a child of the root with what is below
it, and a node that is none; room for an extent. -/
theorem test_hyp_nodes :
    TreeLies grown tree2 (fun i => 0x20000 + 64 * i) ∧ met (descend grown tree2 maxDepth 0) = [(0, true, 0), (1, false, 0)] ∧
    met (liveChain grown tree2 maxDepth 2) = [(2, false, 0), (0, true, 0)] ∧ metOf (subtree grown tree2 (treeCap tree2 + 1) [2]) = [2] ∧
    findRun tree2 61 = some 3 ∧ (2 < 1 + 2 ∧ 1 + 2 ≤ 3) ∧ tree2.extents.length < 8 ∧ treeCap tree2 + 64 ≤ 2 ^ 24 ∧ tree2.openB.length + 1 ≠ tree2.bsz := by
  have h : ∀ i < 64, nodePa tree2.extents i = some (0x20000 + 64 * i, 0) ∧ isGddr (0x20000 + 64 * i) = true ∧
      KeyHolds grown 0 ((0x20000 + 64 * i) / 256) := by unfold KeyHolds; decide +kernel
  refine ⟨⟨rfl, fun i hi => ⟨0, h i hi⟩, fun i j _ _ e => by dsimp only at e; omega⟩, ?_⟩
  and_intros <;> decide +kernel

/-- The pipeline's entries: a FETCH that has made nothing, and the MCAST behind it. -/
def fetchE : Entry :=
  { part := 0, kind := 1, bytes := [], handle := 1, pages := [(0x10, 0x10, 0)], cyc := true, catchUp := false, infmt := 0x40000000, pred := none, next := 0,
    alt := none, nextAlt := 0, turn := false, refs := [1], owner := 1, src := 0, made := 0, held := [], done := [], todo := [] }
def mcastE (next : Nat) : Entry := { fetchE with kind := 4, cyc := false, pred := some 0, next := next }
def tileE : Entry := { fetchE with kind := 3, cyc := false, pred := some 0, next := 0 }
def prod0 : Prod := { num := 0, tile := 0, bytes := [], pois := false }

/-- A die with these entries and the subscription at entry 1. -/
def welt (es : Tbl Entry) : State :=
  { asked with dies := [(0, { Die.reset with layouts := [(0, layout0)], entries := es, subs := [(1, { sub0 with chain := [0, 1], pbase := 16 })] })] }

/-- A die whose 512 entries are taken. -/
def fullDie : Die := { Die.reset with entries := (List.range 512).map fun i => (i, fetchE) }

theorem tfind_row {α : Type} (v : α) : ∀ n a i, a ≤ i → i < a + n → tfind ((List.range' a n).map fun j => (j, v)) i = some v
  | 0, _, _, h, h' => by omega
  | n + 1, a, i, h, h' => by
    rw [List.range'_succ, List.map_cons, tfind]
    split
    · rfl
    · exact tfind_row v n (a + 1) i (by omega) (by omega)

theorem fullDie_full (n : Nat) : freeEntries fullDie n = [] := by
  unfold freeEntries
  rw [List.filter_eq_nil_iff.mpr, List.take_nil]
  intro i hi
  have h := tfind_row fetchE 512 0 i (Nat.zero_le _) (by simpa using hi)
  rw [← List.range_eq_range'] at h
  simp [fullDie, h]

/-- WeltAnswersAndProduces: no room, room; a free landing in SCRATCH and free names; a handle that names nothing and one that names a subscription; banks of another
role, a landing that is taken, a defined name; a FETCH and a stage behind it that can produce; agents with something to offer. -/
theorem test_hyp_welt :
    (OnItsCore asked 0 0 ∧ wrongBank { asked with cores := [(0, { Core.reset with roles := Vector.replicate 32 .caddy })] } (recordAt 512 32) = true ∧
      landsOn { Die.reset with subs := [(0, sub0)] } (recordAt 512 32) = true ∧
      ∃ ev ∈ pipeEvents asked 0 (gidOf asked.dev 0 0) (recordAt 512 32),
        ({ asked with homes := [(⟨homeNum asked.dev 0, ev.name⟩, home7)] } : State).home ⟨homeNum asked.dev 0, ev.name⟩ ≠ none) ∧
    (pipeSource asked 0 (recordAt 512 32) = some (0, layout0) ∧ (stagesOf (recordAt 512 32) layout0).length = 2 ∧
      (freeEntries fullDie 2).length < 2 ∧ 2 ≤ (freeEntries (asked.die 0) 2).length ∧
      wrongBank asked (recordAt 512 32) = false ∧ landsOn (asked.die 0) (recordAt 512 32) = false ∧
      ∀ ev ∈ pipeEvents asked 0 (gidOf asked.dev 0 0) (recordAt 512 32), asked.home ⟨homeNum asked.dev 0, ev.name⟩ = none) ∧
    (boundBy asked 0 0 0x80000000 = none ∧ (boundBy (withSub asked) 0 0 0x80000000).isSome = true ∧ permitCommits (withSub asked) sub0 = false) ∧
    (canProduce ((welt [(0, fetchE), (1, mcastE 0)]).die 0) 0 = true ∧ tfind ((welt [(0, fetchE), (1, mcastE 0)]).die 0).layouts fetchE.src = some layout0 ∧
      (tfind ((welt [(0, fetchE), (1, mcastE 0)]).die 0).subs fetchE.owner).isSome = true) ∧
    (canProduce ((welt [(0, { fetchE with held := [prod0] }), (1, { mcastE 0 with pred := some 2 }), (2, tileE)]).die 0) 2 = true ∧ tileE.kind ≠ 1 ∧
      nextProd ((welt [(0, { fetchE with held := [prod0] }), (1, { mcastE 0 with pred := some 2 }), (2, tileE)]).die 0).entries tileE = some prod0) ∧
    (((welt [(0, { fetchE with held := [prod0] }), (1, mcastE 0)]).latch (permitLatch (welt []) 0 1)).st = .idle ∧
      wantsOf (welt [(0, { fetchE with held := [prod0] }), (1, mcastE 0)]) (permitLatch (welt []) 0 1) ≠ []) ∧
    (((withTree { tree0 with closed := [(0, [0])] }).latch (batchLatch world 0 63)).st = .idle ∧
      wantsOf (withTree { tree0 with closed := [(0, [0])] }) (batchLatch world 0 63) ≠ []) := by
  unfold OnItsCore; and_intros <;> first | (rw [fullDie_full]; decide) | decide +kernel

/-- A copy from record 0 to record 1. -/
def copy0 : CopyCmd := { kick := 9, src := 0x80000000, dst := 0x80000001, compl := 7, first := 63, rm := 0, sat := false, kicker := 0 }
def layout1 : Layout := { layout0 with pages := [(0x10, 0x11, 0)] }

/-- An engine of cluster 0 with a command, between these records. -/
def copying (g : CopyEngine) (a b : Layout) : State :=
  { world with clusters := [(0, { Cluster.reset with copy := g })], dies := [(0, { Die.reset with layouts := [(0, a), (1, b)] })] }

/-- CopyCommandsRun: a command whose record is gone, one whose records overlap, one that starts at the last element; one that has ended. -/
theorem test_hyp_copies :
    (layoutOf world (0 / 12) (partNum (world.core (gidCore copy0.kicker))) copy0.dst = none) ∧
    (layoutOf (copying CopyEngine.reset layout0 layout1) (0 / 12) (partNum (world.core (gidCore copy0.kicker))) copy0.src = some (0, layout0) ∧
      layoutOf (copying CopyEngine.reset layout0 layout1) (0 / 12) (partNum (world.core (gidCore copy0.kicker))) copy0.dst = some (1, layout1) ∧
      recordsOverlap layout0 layout0 = true ∧ recordsOverlap layout0 layout1 = false ∧ copy0.first < layout0.count) ∧
    (((copying { CopyEngine.reset with queue := [copy0] } layout0 layout1).cluster 0).copy.run = none ∧
      ((copying { CopyEngine.reset with queue := [copy0] } layout0 layout1).cluster 0).copy.queue = [copy0]) ∧
    (({ CopyEngine.reset with owed := 1 } : CopyEngine).owed ≠ 0 ∧ CopyEngine.reset.owed = 0) := by
  and_intros <;> decide +kernel

/-- CopyCommandsRun, bytes: each byte of the destination lies in GDDR 7 under its key, and belongs to one element. -/
theorem test_hyp_copied :
    (∀ i < 64, ∀ p ∈ layPlaces layout1 (elemVa layout1 i) (layEs layout1), isGddr p.1 = true ∧ KeyHolds (copying CopyEngine.reset layout0 layout1) p.2 (p.1 / 256)) ∧
    (∀ i < 64, ((copiedTo (copying CopyEngine.reset layout0 layout1) layout0 layout1 copy0 i).map (·.1)) = (List.range 4).map fun j => 0x11000 + 4 * i + j) ∧
    fmtScaled layout1.format = false ∧ copy0.first < layout0.count ∧ layout0.count = 64 := by
  unfold KeyHolds; and_intros <;> decide +kernel

/-- A packet of 256 bytes with these. -/
def packet (l : List (Nat × Byte)) : List Byte := (List.range 256).map fun i => (l.lookup i).getD 0

/-- An image of core 0 alone, in a region of partition 0; a queue of that partition with a packet. -/
def queue0 : Queue := { Queue.reset with en := true, part := 0, qtail := 1 }
def front (u : Queue) (pools : Tbl Pool) : State :=
  { State.reset with parts := [(0, { part0 with key := 0 })], mem := [(0x10000, 1)], hostRegs := { HostRegs.reset with ready := true }, queues := [(0, u)],
                     clusters := [(0, { Cluster.reset with regions := [(0, 0x8000000000000007, 0x17FFFFF000)], pools := pools })] }

def poolPkt : List Byte := packet [(0, 2), (16, 15), (56, 1), (64, 1), (68, 7)]
def copyPkt (d : Byte) : List Byte := packet [(0, 5), (18, 1), (26, 2), (32, 8), (39, d)]
def launchPkt : List Byte := packet [(0, 1), (18, 1), (24, 1)]

/-- QueuePacketsAreTaken: a packet of each kind that keeps its rules, and one that does not; a pool disabled and enabled; both directions of COPY; an image that
fits, and one that has no core. -/
theorem test_hyp_packets :
    (mayTake (front queue0 []) 0 = true ∧ ((front queue0 []).queue 0).part = 0) ∧
    (headerOk (front queue0 []) 0 3 (packet [(0, 3), (16, 7)]) = true ∧ signalOk (front queue0 []) 0 false (packet [(0, 3), (16, 7)]) = true ∧
      headerOk (front queue0 []) 0 3 (packet [(0, 4)]) = false) ∧
    (headerOk (front queue0 []) 0 4 (packet [(0, 4), (16, 7), (20, 1)]) = true ∧ signalOk (front queue0 []) 0 true (packet [(0, 4), (16, 7), (20, 1)]) = true ∧
      field (packet [(0, 4), (16, 7), (20, 1)]) 20 4 % 2 = 1) ∧
    (headerOk (front queue0 []) 0 2 poolPkt = true ∧ poolOk (front queue0 []) 0 poolPkt = true ∧ bits (field poolPkt 16 4) 0 4 = 15 ∧
      ((front queue0 [(15, { Pool.reset with en := false })]).pool 0 15).en = false ∧ ((front queue0 []).pool 0 15).en = true ∧
      (placeTask ((front queue0 []).pool 0 15) 15 ((poolPkt.drop 32).take 48) ev7).isSome = true) ∧
    ((partOf (front queue0 []) 0).isSome = true ∧ headerOk (front queue0 []) 0 5 (copyPkt 0) = true ∧ copyPacketOk (copyPkt 0) = true ∧
      bits (field (copyPkt 0) 32 8) 0 40 = 8 ∧ inRegions (front queue0 []) 0 (field (copyPkt 0) 24 8) 8 = true ∧
      inHostRange { part0 with key := 0 } (field (copyPkt 0) 16 8) 8 = true ∧ field (copyPkt 0) 32 8 < 2 ^ 63 ∧
      headerOk (front queue0 []) 0 5 (copyPkt 0x80) = true ∧ copyPacketOk (copyPkt 0x80) = true ∧ 2 ^ 63 ≤ field (copyPkt 0x80) 32 8) ∧
    (headerOk (front queue0 []) 0 6 (packet [(0, 6), (18, 3), (24, 3)]) = true ∧ field (packet [(0, 6), (18, 3), (24, 3)]) 24 4 ≤ 3 ∧
      inRegions (front queue0 []) 0 (field (packet [(0, 6), (18, 3), (24, 3)]) 16 8) 64 = true ∧ zeroFrom (packet [(0, 6), (18, 3), (24, 3)]) 28 144 = true ∧
      bits (field (packet [(0, 6), (24, 4)]) 24 4) 2 30 = 1 ∧ zeroFrom (packet [(0, 6), (24, 4)]) 32 144 = true) ∧
    (headerOk (front queue0 []) 0 1 launchPkt = true ∧ launchBodyOk (front queue0 []) 0 launchPkt = true ∧
      imageFits (front queue0 []) 0 launchPkt (imageHead (front queue0 []) 0 (lpImage launchPkt)) = true ∧
      imageFits { front queue0 [] with mem := [] } 0 launchPkt (imageHead { front queue0 [] with mem := [] } 0 (lpImage launchPkt)) = false ∧
      headerOk (front queue0 []) 0 1 (packet [(0, 2)]) = false) := by
  and_intros <;> decide +kernel

/-- A record of one FP32 element at 0x30000, and what a BIND packet and a RELEASE find on a die that holds these. -/
def bindS (ls : Tbl Layout) (us : Tbl Sub) : State :=
  { front queue0 [] with mem := [(0x30002, 4), (0x3000B, 0x40), (0x30010, 1), (0x30014, 1), (0x30018, 1), (0x3001C, 1)],
                         dies := [(0, { Die.reset with layouts := ls, subs := us })] }
def bindPkt : List Byte := packet [(0, 6), (18, 3), (24, 3)]
def releasePkt : List Byte := packet [(0, 6), (24, 4), (31, 0x80)]
def after (s : State) (pkt : List Byte) : State := buffersBefore (taken s 0) (partCores s 0) pkt
def bound (s : State) : Bool × Bool × Option Nat :=
  let s1 := after s bindPkt
  let c := bindCore s1 0 0
  let l := parseLayout 0 0 3 (partBytes s1 0 (field bindPkt 16 8) 64)
  (layoutValid s1 (some 0) (partBytes s1 0 (field bindPkt 16 8) 64) l, (match pinLayout s1 c bindCtx l with
    | .ok ps => ps.length == 1
    | .error _ => false), freeLayout (s1.die 0))

/-- QueuePacketsAreTaken, BIND: a record that is valid and pinned, one that is not valid; a handle that names a record that is free, one in use, one
that names none; packets that break their rules. -/
theorem test_hyp_binds :
    mayTake (bindS [] []) 0 = true ∧ bound (bindS [] []) = (true, true, some 0) ∧ (bound { bindS [] [] with mem := [] }).1 = false ∧
    layoutOf (after (bindS [(0, layout0)] []) releasePkt) 0 0 (field releasePkt 28 4) = some (0, layout0) ∧
    layoutBusy (after (bindS [(0, layout0)] []) releasePkt) 0 0 = false ∧ layoutBusy (after (bindS [(0, layout0)] [(0, sub0)]) releasePkt) 0 0 = true ∧
    layoutOf (after (bindS [] []) releasePkt) 0 0 (field releasePkt 28 4) = none ∧
    (headerOk (bindS [] []) 0 6 bindPkt = true ∧ 1 ≤ field bindPkt 24 4 ∧ field bindPkt 24 4 ≤ 3 ∧ inRegions (bindS [] []) 0 (field bindPkt 16 8) 64 = true ∧
      zeroFrom bindPkt 28 144 = true ∧ ¬field (packet [(0, 6), (24, 4)]) 24 4 ≤ 3) ∧
    (headerOk (bindS [] []) 0 6 releasePkt = true ∧ field releasePkt 24 4 / 4 = 1 ∧ zeroFrom releasePkt 32 144 = true ∧ ¬field bindPkt 24 4 / 4 = 1) := by
  and_intros <;> decide +kernel

/-- QueuesAndAperturesWork: a doorbell at the end of the ring and one beyond; a record and room for it; bytes inside a host range and outside of all. -/
theorem test_hyp_queues :
    ((16 - ((front queue0 []).queue 0).qhead : Half).toNat ≤ 2 ^ ((front queue0 []).queue 0).log ∧
      2 ^ ((front queue0 []).queue 0).log < (17 - ((front queue0 []).queue 0).qhead : Half).toNat ∧ (front queue0 []).hostRegs.ready = true) ∧
    ((((front queue0 []).queue 0).qctail - ((front queue0 []).queue 0).qchead).toNat < 2 ^ ((front queue0 []).queue 0).log ∧ (crec (packet []) 0 0 true).cevent = 0) ∧
    ((⟨true, 0x1000, 8, none⟩ : HostAcc).regs = true ∧ (⟨true, 0x1000, 8, none⟩ : HostAcc).data = none ∧ (⟨false, 0x1000, 8, none⟩ : HostAcc).regs = false) ∧
    (hostOwner (front queue0 []) 0xFFFF 1 = none ∧ (hostOwner (front queue0 []) 0x10FF8 8).isSome = true ∧ (front queue0 []).wgs = [] ∧
      ∀ sec ∈ sectorsOf 0x10FF8 8, KeyHolds (front queue0 []) 0 sec) := by
  unfold KeyHolds; and_intros <;> decide +kernel

/-- A queue whose candidate is a launch of core 0, at its own place; with patience, and one that has waited for it. -/
def placing : State := front { queue0 with stage := .candidate launchPkt 0 } []

/-- The candidate, its cores and its placement, as the front end finds them. -/
def found : Option (Nat × Bool × List (Nat × Nat) × Bool) := (placeNext placing).map fun r =>
  (r.1.q, r.1.wg.isNone && (pairHost placing r.1).isNone && !lpSysv r.1.pkt && !lpBsp r.1.pkt && lpNev r.1.pkt == 0 && lpPhase r.1.pkt == 0,
    pickPlacement placing (candHead placing r.1) (lpExact r.1.pkt) r.2,
    (relocate (loadSections (buffersBefore placing [0] r.1.pkt) r.1.part (lpImage r.1.pkt) (candHead placing r.1)) r.1.part (lpImage r.1.pkt) (newBase placing) (candHead placing r.1)
      (pickPlacement placing (candHead placing r.1) (lpExact r.1.pkt) r.2)).isSome)

/-- An image of one whole gang, row 0; the row is taken by a workgroup that may be moved, for whose end the candidate has waited twice its patience of 1 us. -/
def gangPkt : List Byte := packet [(0, 1), (18, 1), (24, 1), (26, 1)]
def movableWg : Wg :=
  { part := 0, num := 3, map := [(0, 0)], queue := 1, pkt := packet [], ldomBase := 4096, preempt := true, repl := true, pair := false, bsp := false, image := 0,
    mode := .off, log := [], ended := [], saved := false, moving := false, images := [], was := [] }
def draining (rows : List (Nat × Nat)) : State :=
  { front { queue0 with stage := .candidate gangPkt 0, drained := rows } [] with
    mem := [(0x10000, 1), (0x10059, 0x40), (0x1005A, 1)], cycle := 2200, wgs := [(3, movableWg)], cores := [(0, { Core.reset with part := some 0, wg := some 3 })] }

/-- What the candidate of a queue is due for. -/
def dueFor (rows : List (Nat × Nat)) : Option (Bool × Option Nat × Bool × List Nat) :=
  (candOf (0, (draining rows).queue 0)).map fun c => (drainDue (draining rows) c, drainRow (draining rows) c, compactionDue (draining rows) c, toMove (draining rows) 0)

/-- CandidatesArePlaced: the candidate that is placed next; one for which a row is to be drained, and one whose drained row is to be compacted. -/
theorem test_hyp_placement :
    found = some (0, true, [(0, 0)], true) ∧ dueFor [] = some (true, some 0, false, []) ∧ dueFor [(0, 0)] = some (false, none, true, [3]) := by
  and_intros <;> decide +kernel

/-- Image of a workgroup of core 0, and workgroups 3 (on its core) and 4 (saved). -/
def image0 : Image :=
  { seq := 0, part := 0, wg := 4, haltt := 0, ctxs := [(0, ctxH [])], rr := 0, tvec := 0, htvec := 0, hdeleg := 0, mb := Vector.replicate 8 0, mbFull := 0,
    wpBase := List.replicate 4 0, wpCtl := List.replicate 4 0, watches := [], reports := [], roles := defaultRoles, lmem := 0, lbase := 0, sysdom := 0, sysv := false,
    wide := Wide.reset, exch := none, banks := [], loc := [], locPoison := [], sidecar := [], tags := [], fifo := [], places := [], dbg := none, pair := false }
def saved4 : Wg := { movableWg with num := 4, saved := true, images := [(0, image0)] }

/-- Core 0, with a CADDY bank, in this state of running. -/
def caddyCore (run : Run) : Core :=
  { Core.reset with roles := defaultRoles.setIfInBounds 23 .caddy, run := run, part := some 0, wg := some 3, lastPart := some 0, parked := some image0 }
def halted (k : Core) (ws : Tbl Wg) : State := { State.reset with cores := [(0, k)], wgs := ws }

/-- A core that a stop finds in a SELECT whose event has just committed. -/
def committing : State :=
  { halted { caddyCore .halting with ctxs := [(0, { ctxH [] with wait := .select false 5 4 })] } [(3, movableWg)] with
    latches := [(⟨0, 64⟩, { armed7 with st := .committed ev7 })] }

/-- A stopped core that is owed an acknowledgement of a store. -/
def owedStore : Core := { caddyCore .stopped with ctxs := [(0, { ctxH [] with owed := 1 })] }

/-- PreemptionSavesAndRestores: a workgroup that runs, one whose core is stepped, one whose core is stopped; a core that halts; a switch out, and one in; a
halted core, one that a switch has brought in and that is owed an answer; a parked partner; a workgroup to move, and one without REPL. -/
theorem test_hyp_preemption :
    ((∀ d ∈ movableWg.cores, ((halted (caddyCore (.stepping 0 true)) [(3, movableWg)]).core d).run ≠ .stopped) ∧
      ((halted (caddyCore (.stepping 0 true)) [(3, movableWg)]).core 0).run = .stepping 0 true ∧ (caddyCore .stopped).run = .stopped ∧
      (caddyCore .stopped).image = none ∧ (caddyCore .stopped).caddies = [23] ∧ movableWg.map = [(0, 0)] ∧ storesDone (caddyCore .stopped) = true ∧
      storesDone owedStore = false ∧ savesNow (halted { caddyCore .stopped with haltPend := true } [(3, movableWg)]) 0 = true) ∧
    (haltsNow committing 0 = true ∧ (committing.latch (ctxLatch committing 0 0)).st = .committed ev7 ∧
      (committing.latch (ctxLatch committing 0 0)).past = false ∧ ∀ e ∈ (committing.core 0).ctxs, e.1 < 16) ∧
    ((∀ e ∈ (caddyCore .halted).ctxs, owesAnswer e.2 = false) ∧ ({ caddyCore .halted with image := some image0 } : Core).image ≠ none ∧
      (∃ e ∈ ({ caddyCore .halted with ctxs := [(0, { ctxH [] with wait := .request 4 })] } : Core).ctxs, owesAnswer e.2 = true) ∧
      (caddyCore .halted).image = none) ∧
    (movableWg.repl = true ∧ ({ movableWg with repl := false } : Wg).repl = false) ∧
    (wgNamed (halted (caddyCore .running) [(3, movableWg)]) 0 3 = some (3, movableWg) ∧ movableWg.saved = false ∧ movableWg.cores.Nodup) ∧
    (((halted (caddyCore .halting) [(3, movableWg)]).core 0).run = .halting ∧ haltsNow (halted (caddyCore .halting) [(3, movableWg)]) 0 = true ∧
      (caddyCore .halting).caddies = [23] ∧ (caddyCore .halting).wg = some 3) ∧
    (wgNamed (halted { caddyCore .halted with parked := none } [(3, movableWg)]) 0 9 = none ∧
      switchReady (halted { caddyCore .halted with parked := none } [(3, movableWg)]) (some (3, movableWg)) none = true) ∧
    (wgNamed (halted { Core.reset with lastPart := some 0 } [(4, saved4)]) 0 4 = some (4, saved4) ∧ saved4.map = [(0, 0)] ∧
      switchReady (halted { Core.reset with lastPart := some 0 } [(4, saved4)]) none (some (4, saved4)) = true ∧ tfind saved4.images 0 = some image0 ∧
      image0.dbg = none) ∧
    ((caddyCore .halted).run = .halted ∧ (caddyCore .halted).held = [] ∧ (caddyCore .halted).tiles = []) ∧
    (swapReady (halted (caddyCore .halted) [(3, movableWg)]) movableWg = true ∧ (caddyCore .halted).parked = some image0) ∧
    (moveBlocked (halted (caddyCore .halted) [(3, movableWg)]) 3 movableWg (movableWg.map.filterMap fun p => placed [(0, 575)] p.2) = false ∧
      movableWg.map ≠ [] ∧
      (∀ d ∈ movableWg.cores, quiet (halted (caddyCore .halted) [(3, movableWg)]) d = true) ∧ (∀ d ∈ movableWg.cores, (placed [(0, 575)] d).isSome = true)) := by
  and_intros <;> decide +kernel

/-- A parked image whose context waits for an answer. -/
def owedImage : Image := { image0 with ctxs := [(0, { ctxH [] with wait := .request 4 })] }
def owedParked : State := halted { caddyCore .running with parked := some owedImage } [(3, movableWg)]

/-- RequestsGetTheirAnswers and AsynchronousCausesAndErrors, an answer and a cause for a context whose image is parked: workgroup 4's context 0 is number 80. -/
theorem test_hyp_saved_contexts :
    (isHere owedParked 0 80 = false ∧ imageAt owedParked 0 80 = some (.parked, owedImage) ∧ (tfind owedImage.ctxs (80 % 16)).isSome = true ∧
      ((tfind owedImage.ctxs (80 % 16)).getD Ctx.reset).wait = .request 4 ∧ 0 < 576) ∧
    ((owedParked.core 0).parked = some owedImage ∧ 80 / 16 = owedImage.wg + 1 ∧ wgTag (owedParked.core 0) ≠ owedImage.wg + 1 ∧
      (tget Ctx.reset owedImage.ctxs (80 % 16)).live = true ∧ 10 < 11 ∧ (owedParked.core 0).image = none) := by
  and_intros <;> decide +kernel

/-- TrapsEnterAndReturn: a core whose REP stands inside a pass. -/
theorem test_hyp_mid_pass :
    midPass (wideCore [{ entry (.rep 1 1 0 0) with body := [.vadd 0 0 6 0 0, .vadd 1 1 6 0 0], row := 1 }]) = true ∧ midPass (wideCore []) = false := by
  and_intros <;> decide +kernel

/-- A request to create partition 31, and resources for partition 0. -/
def spec31 : PartSpec :=
  { part := 31, clusters := [23], classes := [15], key := 63, queues := [63], hostRanges := [], regions := [], spill := (0, 2 ^ 20), save := (0, 0), ring := 0x2000, bell := 0,
    entry := 0x1000, set := none, peers := [] }
def assign0 : AssignSpec := { part := 0, classes := [1], quotas := [(1, 16)], queues := [(0, 65535, 3)], hostRanges := [] }
def trace0 : TraceSpec := { cluster := 23, stream := 1, base := 0, slots := 64, wg := some (0, 2, 3) }

/-- RequestsAreCarriedOut: requesters 0, 1 and 33; requests at the ends of their ranges, and ones beyond; a partition there and one not there. -/
theorem test_hyp_requests_of_partitions :
    ((⟨1, 0, 0⟩ : CfgRef).owner ≠ 0 ∧ (⟨0, 0, 0⟩ : CfgRef).owner = 0) ∧
    (tfind world.parts spec31.part = none ∧ spec31.part < 32 ∧ spec31.clusters ≠ [] ∧ (∀ k ∈ spec31.clusters, k < 24) ∧
      (∀ e ∈ world.parts, e.1 ≠ spec31.part → ∀ x ∈ spec31.clusters, x ∉ e.2.clusters) ∧ spec31.classes ≠ [] ∧ (∀ k ∈ spec31.classes, k < 16) ∧
      (∀ e ∈ world.parts, e.1 ≠ spec31.part → ∀ x ∈ spec31.classes, x ∉ e.2.classes) ∧ 1 ≤ spec31.key ∧ spec31.key < 64 ∧
      (∀ e ∈ world.parts, e.2.key ≠ spec31.key) ∧ (∀ i ∈ spec31.queues, i < 64) ∧ (∀ e ∈ world.parts, e.1 ≠ spec31.part → ∀ x ∈ spec31.queues, x ∉ e.2.queues) ∧
      2 ^ 20 ≤ spec31.spill.2 ∧ (∀ e ∈ spec31.regions, e.1 ∈ spec31.clusters) ∧
      ∀ k ∈ spec31.clusters, (spec31.regions.filter fun e => e.1 == k).length ≤ 8) ∧
    (∃ e ∈ world.parts, e.2.key = ({ spec31 with key := 1 } : PartSpec).key) ∧ 64 ≤ ({ spec31 with key := 64 } : PartSpec).key ∧
    (∃ e ∈ world.parts, e.1 ≠ spec31.part ∧ ∃ x ∈ ({ spec31 with clusters := [0] } : PartSpec).clusters, x ∈ e.2.clusters) ∧
    (tfind world.parts 0 = some part0 ∧ tfind world.parts 31 = none) ∧ (23 < 24 ∧ 7 < 8) ∧
    (assign0.classes ≠ [] ∧ (∀ c ∈ assign0.classes, c < 16) ∧ (∀ e ∈ world.parts, e.1 ≠ assign0.part → ∀ x ∈ assign0.classes, x ∉ e.2.classes) ∧
      (∀ e ∈ assign0.quotas, e.1 ∈ assign0.classes) ∧ quotaSum (newQuotas world assign0) ≤ 16 ∧
      (∀ e ∈ assign0.queues, e.1 < 64 ∧ 1 ≤ e.2.1 ∧ e.2.1 ≤ 65535 ∧ e.2.2 ≤ 3) ∧ (assign0.queues.map (·.1)).Nodup ∧
      (∀ e ∈ world.parts, e.1 ≠ assign0.part → ∀ x ∈ assign0.queues.map (·.1), x ∉ e.2.queues) ∧
      16 < quotaSum (newQuotas world { assign0 with quotas := [(1, 17)] })) ∧
    (trace0.cluster < 24 ∧ trace0.stream < 2 ∧ 2 ≤ trace0.slots ∧ trace0.slots ≤ 64 ∧ trace0.base + trace0.slots * 2 ^ 20 ≤ 96 * 2 ^ 30 ∧
      trace0.wg = some (0, 2, 3) ∧ 2 ≤ 2 ∧ ({ trace0 with slots := 1 } : TraceSpec).slots = 1) ∧
    (1 < 2 ∧ 4095 < 4096 ∧ [0, 1, 2, 17].length ≤ 4 ∧ ∀ i ∈ [0, 1, 2, 17], i < 18) ∧
    (wgNamed (halted (caddyCore .running) [(3, movableWg)]) 0 3 = some (3, movableWg) ∧ (⟨1, 0, 0⟩ : CfgRef).owner = 0 + 1 ∧ wgNamed world 0 3 = none) ∧
    (∀ i, clusterPart world (clusterOf 0) = some i → (⟨2, 0, 0⟩ : CfgRef).owner ≠ i + 1) ∧
    (575 < 576 ∧ clusterPart world (clusterOf 0) = some 0 ∧ clusterPart world (clusterOf 575) = none ∧ (⟨33, 0, 0⟩ : CfgRef).owner = 33) := by
  and_intros <;> decide +kernel

/-- A core in a state of running, with DBGSEL and DBGCTL, and its context 10. -/
def debugged (run : Run) (sel ctl : Word) (w : Ctx) : State :=
  { State.reset with cores := [(0, { Core.reset with run := run, dbg := { Dbg.reset with sel := sel, ctl := ctl }, ctxs := [(0, ctxH []), (10, w)] })] }

/-- A core whose L1 holds sector 0, and where that lies in bank 0. -/
def heldSector : Core := { Core.reset with l1 := [(0, sector)] }

/-- DebuggerStopsAndSteps: each state of running; context 10 live and not; the last item of each class. -/
theorem test_hyp_debug :
    (((debugged .running 0 0 (ctxH [])).core 0).run = .running ∧ ((debugged .stopped 0 0 (ctxH [])).core 0).run = .stopped ∧
      ((debugged .running 0 0 (ctxH [])).core 0).haltPend = false ∧ (∀ e ∈ ((debugged .running 0 0 (ctxH [])).core 0).ctxs, e.1 < 16) ∧
      ((debugged (.stopping 4 0 3) 0 0 (ctxH [])).core 0).run = .stopping 4 0 3 ∧ stopsNow (debugged (.stopping 4 0 3) 0 0 (ctxH [])) 0 = true ∧
      ((debugged .stopped 0 0 (ctxH [])).core 0).held = [] ∧ ((debugged .stopped 0 0 (ctxH [])).core 0).tiles = []) ∧
    ((((debugged .stopped 0 0xA0 (ctxH [])).core 0).ctx (stepCtx ((debugged .stopped 0 0xA0 (ctxH [])).core 0))).live = true ∧
      (((debugged .stopped 0 0xA0 Ctx.reset).core 0).ctx (stepCtx ((debugged .stopped 0 0xA0 Ctx.reset).core 0))).live = false) ∧
    (((debugged (.stepping 10 true) 0 0 (ctxH [])).core 0).run = .stepping 10 true ∧ (((debugged (.stepping 10 true) 0 0 (ctxH [])).core 0).ctx 10).wait = .none ∧
      (((debugged (.stepping 10 true) 0 0 (ctxH [])).core 0).ctx 10).recd = none ∧
      ((debugged (.stepping 10 true) 0 0 (ctxH [])).core 0).stepWide = false ∧
      (((debugged (.stepping 10 false) 0 0 { ctxH [] with wait := .halt }).core 0).ctx 10).wait = .halt) ∧
    ((selClass 0x1F0A = 0 ∧ selCtx 0x1F0A = 10 ∧ selIndex 0x1F0A = 31) ∧ (selClass 0x2A = 2 ∧ selCtx 0x2A = 10 ∧ selIndex 0x2A = 0) ∧
      (selClass 0x4001A = 1 ∧ selCtx 0x4001A = 10 ∧ selIndex 0x4001A = 0x400) ∧ (selClass 0x730 = 3 ∧ selIndex 0x730 = 7) ∧
      ((0xC000000000000000 : Word).toNat / 2 ^ 62 = 3 ∧ (0x8000000000000000 : Word).toNat / 2 ^ 62 ≠ 3) ∧ (selClass 0x340 = 4 ∧ selIndex 0x340 = 3) ∧
      (selClass 0x760 = 6 ∧ selIndex 0x760 = 7) ∧ (selClass 0x3FFFF70 = 7 ∧ selIndex 0x3FFFF70 = 262143)) ∧
    (bankSector ((debugged .stopped 0 0 (ctxH [])).core 0) (8 * 262143) = none ∧ bankSector Core.reset (8 * 262143) = none ∧
      bankSector heldSector 0 = some (0, sector) ∧ sector.pois = false) ∧
    (8 * 262143 / 256 ∉ ((debugged .stopped 0 0 (ctxH [])).core 0).locPoison ∧ 8 * 262143 / 256 ∈ ({ Core.reset with locPoison := [8191] } : Core).locPoison) := by
  and_intros <;> decide +kernel

/-- A core that samples and counts. -/
def tracing : State := one { Core.reset with dbg := { Dbg.reset with trctl := 0x404 } } (ctxH [])

/-- A stream whose open segment has no room for the record in the buffer. -/
def rec32 : TraceRec := { time := 0, ty := 0, gid := 0, arg := 0, payload := [] }
def fullStream : Stream := { Stream.reset with slots := 2, recs := List.replicate 32762 rec32 }
def sealing : State := { State.reset with clusters := [(23, { Cluster.reset with buffer := [rec32], streams := [(0, fullStream)] })] }

/-- 32,762 records of 32 bytes leave no room for another. -/
theorem recs_full : ∀ n a, ((List.replicate n rec32).map recBytes).foldl (· + ·) a = a + 32 * n
  | 0, a => by simp
  | n + 1, a => by
    have h : recBytes rec32 = 32 := by decide
    rw [List.replicate_succ, List.map_cons, List.foldl_cons, recs_full n, h]; omega

/-- A replayed workgroup with nothing left in its log. -/
def replayed : Wg := { movableWg with mode := .replay }

/-- TraceRecordsAndSegments: sampling and counting on and off, with nothing buffered; a segment to seal; a log at its end. -/
theorem test_hyp_trace :
    (((tracing.core 0).dbg.trctl.getLsbD 2 = true ∧ (tracing.core 0).dbg.trctl.getLsbD 10 = true ∧ ((plain []).core 0).dbg.trctl.getLsbD 2 = false) ∧
      ((tracing.core 0).enc = [] ∧ (tracing.core 0).lossOwed = 0 ∧ (tracing.cluster (clusterOf 0)).buffer = [] ∧ (tracing.cluster (clusterOf 0)).streams = [])) ∧
    sealDue sealing 23 0 = true ∧ (stream sealing 23 0).slots ≠ 0 ∧
    (wgNamed (halted (caddyCore .running) [(3, replayed)]) 0 3 = some (3, replayed) ∧ logEnded (halted (caddyCore .running) [(3, replayed)]) 3 replayed = true) := by
  refine ⟨by decide +kernel, ?_, by decide, by decide +kernel⟩
  have h : recsBytes fullStream.recs = 1048384 := by unfold recsBytes fullStream; rw [recs_full]
  have hs : stream sealing 23 0 = fullStream := rfl
  have hb : (sealing.cluster 23).buffer = [rec32] := rfl
  unfold sealDue canSeal
  rw [hs, hb]
  dsimp only
  rw [show fullStream.recs.isEmpty = false from rfl, show fullStream.slots = 2 from rfl]
  simp only [List.find?_cons, show (streamOf rec32 == 0) = true from rfl, h]
  decide

/-- A device other than the reference, with a route to it over a port that is UP. -/
def linked : State :=
  { State.reset with
      dev := Config.refDevice + 1, dies := [(0, { Die.reset with routes := [(Config.refDevice, [0])] })]
      ports := [(0, { Port.reset with state := 2, lanes := 8 })] }

/-- PortsAndTime: the lane counts that train, a port that is UP and one that loses lanes; no move. -/
theorem test_hyp_ports :
    ((2 : Nat) = 8 ∨ (2 : Nat) = 4 ∨ (2 : Nat) = 2) ∧ (({ Port.reset with state := 2, lanes := 8 } : Port).state = 2 ∧ 7 < ({ Port.reset with state := 2, lanes := 8 } : Port).lanes) ∧
    (({ Port.reset with state := 1, good := 7 } : Port).good < 8 ∧ 4 ≤ ({ Port.reset with state := 1, good := 7 } : Port).good) ∧
    (canLeave linked 0 Config.refDevice = true ∧ linked.dev ≠ Config.refDevice) ∧
    moves State.reset = [] := by
  and_intros <;> first | decide +kernel | simp [linked, canLeave, usablePorts, State.die, State.port, tget, tfind, portUp]

/-- FirmwareUpdatesInSteps: components, sizes and states at their ends (either answer of the signature check is met by the model's free function); the largest
limit; the last sensor of a port. -/
theorem test_hyp_firmware :
    ((4 : Nat) ∈ [2, 3, 4] ∧ (1 : Nat) ∉ [2, 3, 4] ∧ (4 : Nat) ∈ ({ Firmware.reset with table := [4] } : Firmware).table ∧ 1 ≤ 1) ∧
    (({ Firmware.reset with stage := .transferring, size := 2, staged := [1] } : Firmware).stage = .transferring ∧ 1 + 0 < 2 ∧ (List.replicate 65536 (0 : Byte)).length ≤ 65536 ∧
      ([1] : List Byte).length ≠ 2 ∧ ([1, 2] : List Byte).length = 2) ∧
    (tfind ({ Firmware.reset with pending := [(4, (1, []))] } : Firmware).pending 4 = some (1, []) ∧ tfind Firmware.reset.pending 4 = none) ∧
    (Firmware.reset.window = none ∧ ({ Firmware.reset with window := some 0 } : Firmware).window.isSome = true) ∧ (1600 ≤ 1600 ∧ 1600 < 1601 ∧ 17 < 18 ∧ 18 ≤ 18) := by
  refine ⟨by decide, ⟨rfl, by decide, by rw [List.length_replicate], by decide, rfl⟩, by decide, by decide, by decide⟩

/-- PackageResetClears: the last error code and the last device number. -/
theorem test_hyp_reset : 7 ≤ 7 ∧ 4095 < 4096 := by decide

/-- DecodingInvertsEncoding and EncodingInvertsDecoding: an instruction with words; five words that decode. -/
theorem test_hyp_encoding :
    wellFormed (.add 3 4 5) = true ∧ encode (.add 3 4 5) ≠ [] ∧ ([0x008C8501, 0, 0, 0, 0] : List Half).length = 5 ∧
    decodeList [0x008C8501, 0, 0, 0, 0] = .ok (.sub 3 4 5) := by decide

/-- One context that may issue: a NOP at address 0, in memory and in its instruction cache. -/
def ready : State := State.reset.withFetchWord 32 0x16800000

/-- Whether the words at its PC are those of NOP. -/
def fetchesNop : Bool := match fetchInstr (atIssue ready.cur.1 ready.cur.2 ready) ready.cur.1 ready.cur.2 with
  | .words ws _ => decide (ws = [0x16800000])
  | _ => false

/-- A package that can issue and can drop a copy: two moves, of which it takes the issue. -/
def twoMoves : State := { ready with clusters := [(0, { Cluster.reset with walkCache := [(0, 0)] })] }

/-- StepRunsTheDecodedInstruction and StepsKeepMemoryCanonical: one move, whose words decode to NOP; memory in its form. -/
theorem test_hyp_step :
    moves ready = [.issue ready.cur.1 ready.cur.2] ∧ (moves twoMoves).length = 2 ∧ fetchesNop = true ∧ decodeList [0x16800000] = .ok .nop ∧ Memory.wf ready.mem = true := by
  and_intros <;> decide +kernel

/-- OnlyTrapsAndEretChangeTheLevel: an instruction with words that traps from U. -/
theorem test_hyp_level : encode (.trap 17) ≠ [] ∧ (.trap 17 : Instr) ≠ .eret ∧ exec (.trap 17) atU = .next (atU.trap (cause 0x0D 17)) := by
  refine ⟨by decide, by decide, rfl⟩

end Sys2Proof.Tests
end

/-! # Ports, the timebase, and the passing of time (R1, R444-R448, R453) -/

namespace Sys2Proof.Machine

open Sys2Proof

/-! ## One port written -/

@[simp] theorem State.port_setPort (s : State) (n m : Nat) (p : Port) :
    (s.setPort n p).port m = if m = n then p else s.port m := tget_tput _ _ _ _ _

/-- Port `n` holds `q` after a move from `s` to `t`; the other ports, memory and the cores are as they were. -/
def WritesPort (s : State) (n : Nat) (q : Port) (t : State) : Prop :=
  t.port n = q ∧ (∀ m, m ≠ n → t.port m = s.port m) ∧ t.mem = s.mem ∧ t.cores = s.cores

theorem writesPort_setPort (s : State) (n : Nat) (q : Port) : WritesPort s n q (s.setPort n q) :=
  ⟨by simp, fun m hm => by simp [hm], rfl, rfl⟩

/-! ## The report of lost routes -/

/-- What no message to the outside changes, the report of lost routes does not change either. -/
theorem reportLost_field {α : Type} (g : State → α) (hg : ∀ t o, g (t.emit o) = g t) (before s : State) :
    g (reportLost before s) = g s := by
  have hfold : ∀ (l : List Nat) (t : State), g (l.foldl (fun t dev => t.emit (.routeLost dev)) t) = g t := by
    intro l
    induction l with
    | nil => exact fun _ => rfl
    | cons dev l ih => exact fun t => (ih _).trans (hg t _)
  unfold reportLost
  dsimp only
  split
  · exact (hg _ _).trans (hfold _ _)
  · exact hfold _ _

/-- A port that is written and whose lost routes are reported. -/
theorem writesPort_reportLost (before s : State) (n : Nat) (q : Port) :
    WritesPort s n q (reportLost before (s.setPort n q)) := by
  obtain ⟨hport, hother, hmem, hcores⟩ := writesPort_setPort s n q
  exact ⟨(reportLost_field (·.port n) (fun _ _ => rfl) _ _).trans hport,
    fun m hm => (reportLost_field (·.port m) (fun _ _ => rfl) _ _).trans (hother m hm),
    (reportLost_field (·.mem) (fun _ _ => rfl) _ _).trans hmem,
    (reportLost_field (·.cores) (fun _ _ => rfl) _ _).trans hcores⟩

/-! ## Widths and port states (R444) -/

theorem portUp_iff (p : Port) : portUp p = true ↔ p.state = 2 ∨ p.state = 3 := by simp [portUp]

theorem widthOf_le (good : Nat) : widthOf good ≤ good := by
  unfold widthOf; split_ifs <;> omega

/-- The widths at which a port trains again, each with the working lanes that give it. -/
theorem eq_widthOf_of_band {good lanes : Nat}
    (h : 8 ≤ good ∧ lanes = 8 ∨ 4 ≤ good ∧ good < 8 ∧ lanes = 4 ∨ 2 ≤ good ∧ good < 4 ∧ lanes = 2) :
    lanes ≠ 0 ∧ lanes = widthOf good := by
  unfold widthOf; split_ifs <;> omega

/-! ## What each event of a port does -/

section
variable (s : State) (n lanes : Nat)

theorem exec_portRetrainComplete : exec (.portRetrainComplete n lanes) s = execPortRetrainComplete n lanes s := rfl

theorem exec_laneFailure : exec (.laneFailure n lanes) s = execLaneFailure n lanes s := rfl

/-- Training ends for a port that was DOWN: all the lanes that have come up work. -/
theorem exec_portRetrainComplete_of_down (h0 : (s.port n).state = 0) (hl : lanes = 8 ∨ lanes = 4 ∨ lanes = 2) :
    exec (.portRetrainComplete n lanes) s = .next (s.setPort n
      { s.port n with lanes := lanes, good := lanes, state := if lanes = 8 then 2 else 3,
                      peer := (Config.portPeer n).1, peerPort := (Config.portPeer n).2 }) := by
  have hup : portUp (s.port n) = false := by simp [portUp, h0]
  have hok : (lanes == 8 || lanes == 4 || lanes == 2) = true := by simpa [or_assoc] using hl
  rw [exec_portRetrainComplete]
  simp only [execPortRetrainComplete, h0, hup, hok, if_true, Bool.not_true, Bool.or_self, Bool.false_eq_true, if_false]

/-- Training ends for a port that trained again: it runs at the width of its working lanes. -/
theorem exec_portRetrainComplete_of_retraining (h1 : (s.port n).state = 1) (h0 : lanes ≠ 0)
    (hw : lanes = widthOf (s.port n).good) :
    exec (.portRetrainComplete n lanes) s = .next (s.setPort n
      { s.port n with lanes := lanes, state := if lanes = 8 then 2 else 3,
                      peer := (Config.portPeer n).1, peerPort := (Config.portPeer n).2 }) := by
  have hup : portUp (s.port n) = false := by simp [portUp, h1]
  have hok : (lanes != 0 && lanes == widthOf (s.port n).good) = true := by simp [h0, ← hw]
  rw [exec_portRetrainComplete]
  simp only [execPortRetrainComplete, h1, hup, hok, Nat.one_ne_zero, if_false, Bool.not_true, Bool.or_self, Bool.false_eq_true]

/-- A port that trains again does not come up at another width. -/
theorem exec_portRetrainComplete_of_ne_width (h1 : (s.port n).state = 1) (hw : lanes ≠ widthOf (s.port n).good) :
    exec (.portRetrainComplete n lanes) s = .next s := by
  rw [exec_portRetrainComplete]
  simp [execPortRetrainComplete, h1, hw]

/-- A port that carries traffic loses a lane that it uses. -/
theorem exec_laneFailure_of_used (hup : portUp (s.port n) = true) (hg : lanes ≤ (s.port n).good)
    (hl : lanes < (s.port n).lanes) :
    exec (.laneFailure n lanes) s = .next (reportLost s (s.setPort n
      { s.port n with lanes := 0, good := lanes, state := if lanes < 2 then 0 else 1 })) := by
  have hup' : portUp { s.port n with good := lanes } = true := hup
  rw [exec_laneFailure]
  simp [execLaneFailure, Nat.min_eq_right hg, hup', Nat.not_le.mpr hl]

/-- A port loses a lane that it does not use. -/
theorem exec_laneFailure_of_unused (hg : lanes ≤ (s.port n).good) (hl : (s.port n).lanes ≤ lanes) :
    exec (.laneFailure n lanes) s = .next (s.setPort n { s.port n with good := lanes }) := by
  rw [exec_laneFailure]
  simp [execLaneFailure, Nat.min_eq_right hg, hl]

theorem exec_portDown :
    exec (.portDown n) s = .next (reportLost s (s.setPort n { s.port n with lanes := 0, state := 0 })) := rfl

theorem exec_flitCrcRetry :
    exec (.flitCrcRetry n) s = .next (s.setPort n { s.port n with retries := ((s.port n).retries + 1) % 2 ^ 32 }) := rfl

end

/-! ## The timebase (R453) -/

theorem aligned_iff (s : State) :
    aligned s = true ↔ s.dev = Config.refDevice ∨ canLeave s 0 Config.refDevice = true ∨ canLeave s 1 Config.refDevice = true := by
  simp [aligned, or_assoc]

theorem exec_timebaseAlignment (s : State) (ahead : Bool) :
    exec (.timebaseAlignment ahead) s =
      .next (if s.dev = Config.refDevice ∨ !aligned s then s else { s with slew := some ahead }) := rfl

theorem exec_timebaseAlignment_of_route (s : State) (ahead : Bool) (hd : s.dev ≠ Config.refDevice)
    (hr : canLeave s 0 Config.refDevice = true) :
    exec (.timebaseAlignment ahead) s = .next { s with slew := some ahead } := by
  have ha : aligned s = true := (aligned_iff s).mpr (.inr (.inl hr))
  rw [exec_timebaseAlignment, if_neg (by simp [hd, ha])]

theorem exec_timebaseAlignment_of_no_correction (s : State) (ahead : Bool)
    (h : s.dev = Config.refDevice ∨ canLeave s 0 Config.refDevice = false ∧ canLeave s 1 Config.refDevice = false) :
    exec (.timebaseAlignment ahead) s = .next s := by
  rw [exec_timebaseAlignment, if_pos]
  rcases h with hd | ⟨h0, h1⟩
  · exact .inl hd
  · by_cases hd : s.dev = Config.refDevice
    · exact .inl hd
    · exact .inr (by simp [aligned, hd, h0, h1])

/-- The events of a port, each with the port that it leaves, and the corrections of the timebase. -/
theorem portsAndTimebase : PortsAndTimebase := by
  intro s n lanes ahead
  refine ⟨fun h0 hl => ?down, fun h1 => ⟨fun hband => ?retrain, fun hlow => ?refused⟩, fun hg => ⟨fun hup hl => ?used, fun hl => ?unused⟩,
    ⟨_, exec_portDown s n, writesPort_reportLost _ _ _ _⟩, ⟨_, exec_flitCrcRetry s n, writesPort_setPort _ _ _⟩,
    exec_timebaseAlignment_of_route s ahead, exec_timebaseAlignment_of_no_correction s ahead⟩
  case down => exact ⟨_, _, _, exec_portRetrainComplete_of_down s n lanes h0 hl, writesPort_setPort _ _ _⟩
  case retrain =>
    obtain ⟨hne, hw⟩ := eq_widthOf_of_band hband
    exact ⟨_, _, _, exec_portRetrainComplete_of_retraining s n lanes h1 hne hw, writesPort_setPort _ _ _⟩
  case refused =>
    exact exec_portRetrainComplete_of_ne_width s n lanes h1 ((widthOf_le _).trans_lt hlow).ne'
  case used =>
    have hloss := exec_laneFailure_of_used s n lanes ((portUp_iff _).mpr hup) hg hl
    constructor
    · intro h2
      rw [if_neg (Nat.not_lt.mpr h2)] at hloss
      exact ⟨_, hloss, writesPort_reportLost _ _ _ _⟩
    · intro h2
      rw [if_pos h2] at hloss
      exact ⟨_, hloss, writesPort_reportLost _ _ _ _⟩
  case unused => exact ⟨_, exec_laneFailure_of_unused s n lanes hg hl, writesPort_setPort _ _ _⟩

/-! ## The passing of time (R1, R453) -/

/-- Without a move, a step lets time pass. -/
theorem step_of_no_move {s : State} (h : moves s = []) : step s = .next (idle s) := by
  simp [step, stepWith, h, chosen]

/-- A correction of the timebase that falls into one cycle or more: only the distance from the latest one counts. -/
theorem slews_of_pos {n : Nat} (hn : 1 ≤ n) (s : State) :
    slews n s = (s.slew.isSome && s.slewAt.all fun a => decide (a + 64 ≤ s.cycle.toNat + n)) := by
  have hne : (n != 0) = true := bne_iff_ne.mpr (Nat.ne_of_gt hn)
  simp [slews, hne]

theorem idleTimePasses : IdleTimePasses := by
  intro s hs
  have hpos : 1 ≤ 1 + Config.elapsed s.draws := Nat.le_add_right 1 _
  refine ⟨_, hpos, (step_of_no_move hs).trans ?_⟩
  rw [← slews_of_pos hpos s]
  cases hm : slews (1 + Config.elapsed s.draws) s <;> simp [idle, pass, hm]

/-- Settles O57: each event of a port writes that port alone, whose new record is read off the event's one case (R444-R448); the
timebase takes a correction just where the device is not the reference and has a route to it; and without a move a step is `idle`. -/
theorem portsAndTime : Obligations.PortsAndTime := ⟨portsAndTimebase, idleTimePasses⟩

end Sys2Proof.Machine
/-! # Which instructions change a level (R16) -/

namespace Sys2Proof.Machine

open Sys2Proof

/-- The level of a context, its PC, and the registers of the two trap levels that hold a PC and a level (R16, R19). -/
structure SavedRegs where
  priv : Priv
  pc : Word
  epc : Word
  status : Word
  hepc : Word
  hstatus : Word

def Ctx.saved (k : Ctx) : SavedRegs := ⟨k.priv, k.pc, k.epc, k.status, k.hepc, k.hstatus⟩

@[simp] theorem Ctx.saved_eq_iff (k j : Ctx) : k.saved = j.saved ↔
    k.priv = j.priv ∧ k.pc = j.pc ∧ k.epc = j.epc ∧ k.status = j.status ∧ k.hepc = j.hepc ∧ k.hstatus = j.hstatus := by
  simp [Ctx.saved]

/-- Two contexts agree in level and trap registers, if not in the PC. -/
def Ctx.SameEntry (k j : Ctx) : Prop :=
  k.priv = j.priv ∧ k.epc = j.epc ∧ k.status = j.status ∧ k.hepc = j.hepc ∧ k.hstatus = j.hstatus

@[simp] theorem Ctx.sameEntry_iff (k j : Ctx) : k.SameEntry j ↔
    k.priv = j.priv ∧ k.epc = j.epc ∧ k.status = j.status ∧ k.hepc = j.hepc ∧ k.hstatus = j.hstatus := Iff.rfl

/-- Which context is running, and what every context has in those registers. -/
structure Levels where
  cur : Nat × Nat
  regs : Nat → Nat → SavedRegs

def State.levels (s : State) : Levels := ⟨s.cur, fun c x => (s.ctx c x).saved⟩

/-- From the level and PC of `a` to the registers of `b`: the level is kept, or raised by a trap entry (R19). -/
def RaisedByTrap (a b : SavedRegs) : Prop :=
  b.priv = a.priv ∨
  (a.priv.code ≤ b.priv.code ∧
    ((b.priv = .s ∧ b.epc = a.pc ∧ b.status.toNat / 4 % 4 = a.priv.code) ∨
     (b.priv = .h ∧ b.hepc = a.pc ∧ b.hstatus.toNat / 4 % 4 = a.priv.code)))

/-- R16 of the context that runs in `a`. -/
def LevelOk (a b : Levels) : Prop := RaisedByTrap (a.regs a.cur.1 a.cur.2) (b.regs a.cur.1 a.cur.2)

/-- R16 of what an instruction answers. -/
structure AnsLevelOk (s : State) (r : Ans) : Prop where
  of_next : ∀ t, r = .next t → LevelOk s.levels t.levels

@[simp] theorem ansLevelOk_next (s t : State) : AnsLevelOk s (.next t) ↔ LevelOk s.levels t.levels :=
  ⟨fun h => h.of_next t rfl, fun h => ⟨fun _ e => by cases e; exact h⟩⟩

@[simp] theorem LevelOk.refl (a : Levels) : LevelOk a a := Or.inl rfl

theorem levelOk_of_priv {s t : State} (h : (t.ctx s.cur.1 s.cur.2).priv = s.me.priv) : LevelOk s.levels t.levels := Or.inl h

/-! ## What keeps the levels -/

theorem levels_eq {s t : State} (hcur : t.cur = s.cur) (h : ∀ c x, (t.ctx c x).saved = (s.ctx c x).saved) :
    t.levels = s.levels := by
  simp [State.levels, hcur, h]

@[simp] theorem levels_setCtx {s : State} {c x : Nat} {v : Ctx} (h : v.saved = (s.ctx c x).saved) :
    (s.setCtx c x v).levels = s.levels := by
  refine levels_eq rfl fun d y => ?_
  rw [State.ctx_setCtx]
  split
  next e => obtain ⟨rfl, rfl⟩ := e; exact h
  next => rfl

@[simp] theorem levels_updCtx {s : State} {c x : Nat} {f : Ctx → Ctx} (h : (f (s.ctx c x)).saved = (s.ctx c x).saved) :
    (s.updCtx c x f).levels = s.levels := levels_setCtx h

@[simp] theorem levels_setMe {s : State} {v : Ctx} (h : v.saved = s.me.saved) : (s.setMe v).levels = s.levels :=
  levels_setCtx h

@[simp] theorem levels_setCore {s : State} {c : Nat} {k : Core} (h : k.ctxs = (s.core c).ctxs) :
    (s.setCore c k).levels = s.levels := by
  refine levels_eq rfl fun d y => ?_
  rw [State.ctx_setCore]
  split
  next e => subst e; simp [Core.ctx, State.ctx, h]
  next => rfl

@[simp] theorem levels_updCore {s : State} {c : Nat} {f : Core → Core} (h : (f (s.core c)).ctxs = (s.core c).ctxs) :
    (s.updCore c f).levels = s.levels := levels_setCore h

theorem levels_foldl {α : Type} {f : State → α → State} (h : ∀ t a, (f t a).levels = t.levels) (l : List α) (s : State) :
    (l.foldl f s).levels = s.levels := by
  induction l generalizing s with
  | nil => rfl
  | cons a l ih => rw [List.foldl_cons, ih, h]

@[simp] theorem levels_setCluster (s : State) (k : Nat) (v : Cluster) : (s.setCluster k v).levels = s.levels := rfl
@[simp] theorem levels_setDie (s : State) (d : Nat) (v : Die) : (s.setDie d v).levels = s.levels := rfl
@[simp] theorem levels_setLatch (s : State) (l : LatchId) (v : Latch) : (s.setLatch l v).levels = s.levels := rfl
@[simp] theorem levels_send (s : State) (i : Instr) : (s.send i).levels = s.levels := rfl
@[simp] theorem levels_sendAll (s : State) (is : List Instr) : (s.sendAll is).levels = s.levels := rfl
@[simp] theorem levels_emit (s : State) (o : Out) : (s.emit o).levels = s.levels := rfl
@[simp] theorem levels_used (s : State) : s.used.levels = s.levels := rfl
@[simp] theorem levels_record (s : State) (n : Nat) (w : Wg) (it : LogItem) : (s.record n w it).levels = s.levels := rfl

@[simp] theorem levels_hold (s : State) (w : Wait) : (s.hold w).levels = s.levels := levels_setMe rfl

@[simp] theorem levels_holdFor (s : State) (b : Bool) (w : Wait) : (s.holdFor b w).levels = s.levels := by
  unfold State.holdFor; split <;> simp

/-! ## The trace and the replay log -/

@[simp] theorem levels_drainTrace (s : State) (c : Nat) : (s.drainTrace c).levels = s.levels := by
  simp [State.drainTrace]

@[simp] theorem levels_trace (s : State) (c : Nat) (r : TraceRec) : (s.trace c r).levels = s.levels := by
  unfold State.trace; simp only; split <;> simp

@[simp] theorem levels_traceIf (s : State) (c x ty arg : Nat) (ws : List Word) :
    (s.traceIf c x ty arg ws).levels = s.levels := by
  unfold State.traceIf; split <;> simp

@[simp] theorem levels_logNext (s : State) (n : Nat) (w : Wg) (c x : Nat) : (s.logNext n w c x).levels = s.levels := by
  unfold State.logNext
  split
  · exact levels_updCtx rfl
  · rfl

@[simp] theorem Core.stop_ctxs (k : Core) (why x wp : Nat) : (k.stop why x wp).ctxs = k.ctxs := by
  unfold Core.stop; split <;> rfl

@[simp] theorem levels_stopCores (why : Nat) (cs : List Nat) (s : State) : (stopCores why cs s).levels = s.levels := by
  induction cs generalizing s with
  | nil => rfl
  | cons c cs ih => rw [stopCores, ih]; simp

@[simp] theorem levels_diverge (s : State) (n : Nat) (w : Wg) (c reason pos : Nat) (e f : Word) :
    (s.diverge n w c reason pos e f).levels = s.levels := by
  simp only [State.diverge, levels_stopCores, levels_trace]; rfl

@[simp] theorem levels_logInput (s : State) (c x kind : Nat) (v : Word) : (s.logInput c x kind v).2.levels = s.levels := by
  unfold State.logInput; simp only; repeat' split
  all_goals simp

@[simp] theorem levels_input (s : State) (c x kind : Nat) (v : Word) : (s.input c x kind v).2.levels = s.levels := by
  unfold State.input; simp only; split <;> simp

@[simp] theorem levels_checkTrap (s : State) (c x code : Nat) (pc : Word) (old : Vector Word 32) :
    (s.checkTrap c x code pc old).levels = s.levels := by
  unfold State.checkTrap; simp only; repeat' split
  all_goals simp

@[simp] theorem levels_logTrap (s : State) (c x code : Nat) (pc : Word) : (s.logTrap c x code pc).levels = s.levels := by
  unfold State.logTrap; simp only; repeat' split
  all_goals simp

/-! ## The running context goes on, or takes a trap -/

theorem levelOk_setCtx {a : Levels} {s : State} {c x : Nat} {v : Ctx} (h : v.SameEntry (s.ctx c x)) :
    LevelOk a (s.setCtx c x v).levels ↔ LevelOk a s.levels := by
  by_cases e : a.cur.1 = c ∧ a.cur.2 = x
  · obtain ⟨rfl, rfl⟩ := e
    simp only [Ctx.SameEntry] at h
    simp [LevelOk, RaisedByTrap, State.levels, Ctx.saved, State.ctx_setCtx, h]
  · simp [LevelOk, State.levels, State.ctx_setCtx, e]

@[simp] theorem levelOk_setMe {a : Levels} {s : State} {v : Ctx} (h : v.SameEntry s.me) :
    LevelOk a (s.setMe v).levels ↔ LevelOk a s.levels := levelOk_setCtx h

@[simp] theorem levelOk_ret (a : Levels) (s : State) (i : Instr) (rd : Reg) (v : Word) :
    LevelOk a (s.ret i rd v).levels ↔ LevelOk a s.levels := levelOk_setMe (by simp)

@[simp] theorem levelOk_pass (a : Levels) (s : State) (i : Instr) : LevelOk a (s.pass i).levels ↔ LevelOk a s.levels :=
  levelOk_setMe (by simp)

theorem statusEnter_pp (st : Word) (p : Priv) : (statusEnter st p).toNat / 4 % 4 = p.code := by
  have h : (st.extractLsb' 0 1).toNat < 2 := (st.extractLsb' 0 1).isLt
  cases p <;> simp only [statusEnter, Priv.code, BitVec.toNat_ofNat] <;> omega

/-- R19: the entry goes to S or H, not below the level, and saves the PC and the level there. -/
theorem raisedByTrap_enterTrap (k : Core) (x : Ctx) (cz : Cause) : RaisedByTrap x.saved (enterTrap k x cz).saved := by
  right
  unfold enterTrap
  split
  next h =>
    have hp : x.priv ≠ .h := by rintro hp; simp [trapTarget, hp] at h
    refine ⟨?_, .inl ⟨rfl, rfl, statusEnter_pp _ _⟩⟩
    show x.priv.code ≤ 1
    cases hx : x.priv <;> simp_all [Priv.code]
  next =>
    refine ⟨?_, .inr ⟨rfl, rfl, statusEnter_pp _ _⟩⟩
    show x.priv.code ≤ 2
    cases x.priv <;> simp [Priv.code]

theorem levelOk_enterAt (s : State) (cz : Cause) : LevelOk s.levels (s.enterAt s.cur.1 s.cur.2 cz).levels := by
  simp only [State.enterAt, levels_logTrap, levels_traceIf]
  rw [levels_updCore rfl]
  simpa [LevelOk, State.levels, State.ctx_setCtx] using raisedByTrap_enterTrap _ _ _

@[simp] theorem levelOk_trap {a : Levels} {s : State} (h : s.levels = a) (cz : Cause) : LevelOk a (s.trap cz).levels := by
  subst h
  unfold State.trap State.trapAt
  split
  · rw [levels_updCtx rfl]; exact .refl _
  · exact levelOk_enterAt s cz

@[simp] theorem levelOk_ill {a : Levels} {s : State} (h : s.levels = a) (i : Instr) (item : Nat) :
    LevelOk a (s.ill i item).levels := levelOk_trap h _

/-! ## Accesses and the caches -/

@[simp] theorem levels_toDevice (s : State) (c d : Nat) (m : Instr) : (s.toDevice c d m).levels = s.levels := by
  unfold State.toDevice; split <;> rfl

@[simp] theorem levels_traceWatch (c x : Nat) (acc : Access) (va n : Nat) (s : State) :
    (traceWatch c x acc va n s).levels = s.levels := levels_foldl (by simp) _ _

@[simp] theorem levels_stopFor (s : State) (why wp : Nat) : (s.stopFor why wp).levels = s.levels := by
  simp [State.stopFor]

@[simp] theorem levelOk_refuse {a : Levels} {s : State} (h : s.levels = a) (acc : Access) (r : Chk) :
    LevelOk a (s.refuse acc r).levels := by
  cases r <;> simp [State.refuse, h]

@[simp] theorem levels_settle (s : State) (a n : Nat) : (settle s a n).levels = s.levels := rfl

@[simp] theorem levels_homeRead (s : State) (key a n : Nat) : (homeRead s key a n).2.levels = s.levels := rfl

@[simp] theorem levels_rekey (s : State) (key sec : Nat) : (rekey s key sec).levels = s.levels := by
  unfold rekey; split <;> rfl

@[simp] theorem levels_llcNew (s : State) (line key cls rcls : Nat) : (llcNew s line key cls rcls).levels = s.levels := by
  unfold llcNew; simp only; repeat' split
  all_goals rfl

@[simp] theorem levels_llcInsert (s : State) (line key cls rcls : Nat) :
    (llcInsert s line key cls rcls).levels = s.levels := by
  unfold llcInsert; repeat' split
  all_goals simp
  rfl

@[simp] theorem levels_homeTouch (s : State) (key line : Nat) (x : Ctx) : (homeTouch s key line x).levels = s.levels := by
  unfold homeTouch; split <;> simp

@[simp] theorem levels_locWrite (s : State) (c a : Nat) (bs : List Byte) : (locWrite s c a bs).levels = s.levels :=
  levels_updCore rfl

@[simp] theorem levels_count (s : State) (c i n : Nat) : (count s c i n).levels = s.levels := levels_updCore rfl

@[simp] theorem levels_countRefused (s : State) (c a n : Nat) : (countRefused s c a n).levels = s.levels := by
  simp [countRefused]

@[simp] theorem levels_writeDirty (key base : Nat) (bytes : List Byte) (is : List Nat) (s : State) :
    (writeDirty key base bytes is s).levels = s.levels := by
  induction is generalizing s with
  | nil => rfl
  | cons i is ih => rw [writeDirty, ih]; exact levels_rekey s key (base / 256)

@[simp] theorem levels_writeBack (s : State) (c sec : Nat) : (writeBack s c sec).levels = s.levels := by
  unfold writeBack
  split
  · rfl
  · split
    · rfl
    · rw [levels_updCore rfl]
      exact (levels_writeDirty ..).trans (levels_homeTouch ..)

@[simp] theorem levels_sendUpd (s : State) (m : UpdMsg) : (sendUpd s m).levels = s.levels := by simp [sendUpd]

@[simp] theorem levels_sendPartial (s : State) (c sec : Nat) : (sendPartial s c sec).levels = s.levels := by
  unfold sendPartial; repeat' split
  all_goals simp

@[simp] theorem levels_dropSector (s : State) (c sec : Nat) : (dropSector s c sec).levels = s.levels := by
  simp [dropSector]

@[simp] theorem levels_evictLine (s : State) (c line : Nat) : (evictLine s c line).levels = s.levels :=
  levels_foldl (by simp) _ _

@[simp] theorem levels_allocWay (s : State) (c sec : Nat) : (allocWay s c sec).2.levels = s.levels := by
  unfold allocWay; simp only; repeat' split
  all_goals simp

@[simp] theorem levels_putSector (s : State) (c sec : Nat) (t : Sector) : (putSector s c sec t).levels = s.levels :=
  levels_updCore rfl

@[simp] theorem levels_askFill (s : State) (c x sec key : Nat) : (askFill s c x sec key).levels = s.levels := by
  unfold askFill; simp only; repeat' split
  all_goals simp

@[simp] theorem levels_refresh (s : State) (c : Nat) : (refresh s c).levels = s.levels := by
  unfold refresh
  rw [levels_updCore rfl, levels_foldl]
  intro t e
  split <;> simp

@[simp] theorem levels_releaseSend (s : State) (c x : Nat) : (releaseSend s c x).levels = s.levels := by
  unfold releaseSend
  rw [levels_updCtx rfl, levels_foldl (by simp)]

/-- Behind a release an instruction goes on from a state with the same levels. -/
theorem levelOk_release {a : Levels} {s : State} {go : State → State} (h : s.levels = a)
    (hgo : ∀ t, t.levels = a → LevelOk a (go t).levels) : LevelOk a (s.release go).levels := by
  unfold State.release
  split
  · exact hgo _ (by simp [h])
  · simp only
    split
    · exact hgo _ (by simp [h])
    · simp [h]

/-! ## Table walks, loads and stores -/

@[simp] theorem levels_entryTouch (s : State) (c : Nat) (x : Ctx) (a : Addr) : (entryTouch s c x a).levels = s.levels := by
  unfold entryTouch; repeat' split
  all_goals simp

@[simp] theorem levels_walked (s : State) (c : Nat) (x : Ctx) (va : Addr) (acc : Access) :
    (walked s c x va acc).2.levels = s.levels := by
  simp only [walked, levels_setCluster]
  exact levels_foldl (by simp) _ _

/-- Gathered bytes, or a sector that is missed, come with a state of the levels `a`. -/
def Gather.Keeps (a : Levels) : Gather → Prop
  | .bytes _ s => s.levels = a
  | .miss _ _ s => s.levels = a
  | .ask _ _ => True

theorem readRun_keeps (s : State) (c key a n : Nat) : (readRun s c key a n).Keeps s.levels := by
  unfold readRun; simp only; repeat' split
  all_goals simp [Gather.Keeps]

theorem readRuns_keeps {l : Levels} (c key : Nat) (rs : List (Addr × Nat)) (bs : List Byte) (s : State) (h : s.levels = l) :
    (readRuns c key rs bs s).Keeps l := by
  induction rs generalizing bs s with
  | nil => exact h
  | cons r rs ih =>
    have hk := readRun_keeps s c key r.1 r.2
    rw [readRuns]
    split
    next e => rw [e] at hk; exact ih _ _ (hk.trans h)
    next => exact h ▸ hk

theorem gather_keeps {l : Levels} (c : Nat) (ps : List Part) (rd bs : List Byte) (s : State) (h : s.levels = l) :
    (gather c ps rd bs s).Keeps l := by
  induction ps generalizing rd bs s with
  | nil => exact h
  | cons p ps ih =>
    rw [gather]
    split
    · have hk := readRuns_keeps c p.key (sectorRuns (p.len / 256 + 2) p.pa p.len) [] s h
      split
      next e => rw [e] at hk; exact ih _ _ _ hk
      next => exact hk
    · split
      · exact ih _ _ _ h
      · split
        · exact h
        · trivial

@[simp] theorem levels_askWindow (s : State) (pa len : Nat) (op : WinOp) : (askWindow s pa len op).levels = s.levels := by
  unfold askWindow; simp only; split <;> rfl

@[simp] theorem levels_ask (s : State) (w : Wait) (pa len : Nat) (op : WinOp) : (s.ask w pa len op).levels = s.levels := by
  unfold State.ask; split <;> simp

theorem levelOk_halves {a : Levels} {s : State} {isLocal : Bool} {ea n : Nat} {bs : List Byte}
    {k : List Byte → State → State} (h : s.levels = a) (hk : ∀ bs t, t.levels = a → LevelOk a (k bs t).levels) :
    LevelOk a (s.halves isLocal ea n bs k).levels := by
  unfold State.halves
  split
  · exact hk _ _ h
  · exact hk _ _ (by simp [h])
  · simp only
    split
    · exact hk _ _ h
    · simp [h]

/-- A load goes on with its bytes from a state with the same levels; else its context traps or waits. -/
theorem levelOk_load {a : Levels} {s : State} {acc : Access} {ea n : Nat} {k : List Byte → State → State} (h : s.levels = a)
    (hk : ∀ bs t, t.levels = a → LevelOk a (k bs t).levels) : LevelOk a (s.load acc ea n k).levels := by
  have hw : ∀ bs t, t.levels = a → LevelOk a (k bs (traceWatch s.cur.1 s.cur.2 acc ea n t)).levels :=
    fun bs t ht => hk _ _ (by simp [ht])
  unfold State.load
  split
  next isLocal ps _ =>
    split
    · simp [h]
    split
    · exact levelOk_halves h hw
    have hg := gather_keeps s.cur.1 (ps.flatMap (cutOut 6)) (s.me.rdata.getD []) [] s h
    simp only
    split
    next bs s1 e =>
      rw [e] at hg
      have h1 : s1.levels = a := hg
      have h2 : (s1.setMe { s1.me with rdata := none }).levels = a := by simp [h1]
      split
      · exact levelOk_halves h2 hw
      · exact hw _ _ h2
    next sec key s1 e =>
      rw [e] at hg
      have h1 : s1.levels = a := hg
      split <;> simp [h1]
    next => simp [h]
  next => exact levelOk_refuse h _ _

@[simp] theorem levels_storeL1 (s : State) (c x key a : Nat) (bs : List Byte) : (storeL1 s c x key a bs).levels = s.levels := by
  unfold storeL1
  rw [levels_updCtx rfl]
  split
  · split <;> simp only [levels_putSector, levels_allocWay, levels_dropSector]
  · simp only [levels_putSector, levels_allocWay]

@[simp] theorem levels_storeRun (c x key a : Nat) (bs : List Byte) (s : State) : (storeRun c x key a bs s).levels = s.levels := by
  unfold storeRun
  simp only
  split
  · simp
  · split
    · rw [levels_askFill, levels_updCore rfl, apply_ite State.levels, levels_dropSector, ite_self]
    · simp

@[simp] theorem levels_storeRuns (c x key : Nat) (rs : List (Addr × Nat)) (bs : List Byte) (s : State) :
    (storeRuns c x key rs bs s).levels = s.levels := by
  induction rs generalizing bs s with
  | nil => rfl
  | cons r rs ih => rw [storeRuns, ih, levels_storeRun]

@[simp] theorem levels_storeOut (c x pa : Nat) (bs : List Byte) (s : State) : (storeOut c x pa bs s).levels = s.levels := by
  unfold storeOut; simp only; split <;> simp

@[simp] theorem levels_storePart (c x : Nat) (p : Part) (bs : List Byte) (s : State) :
    (storePart c x p bs s).levels = s.levels := by
  unfold storePart; split <;> simp

@[simp] theorem levels_storeParts (c x : Nat) (ps : List Part) (bs : List Byte) (s : State) :
    (storeParts c x ps bs s).levels = s.levels := by
  induction ps generalizing bs s with
  | nil => rfl
  | cons p ps ih => rw [storeParts, ih, levels_storePart]

@[simp] theorem levels_storeLate (c x : Nat) (p : Part) (bs : List Byte) (s : State) :
    (storeLate c x p bs s).levels = s.levels := by
  unfold storeLate; split <;> simp

@[simp] theorem levels_storeSplit (c x m : Nat) (ps : List Part) (bs : List Byte) (s : State) :
    (storeSplit c x m ps bs s).levels = s.levels := by
  unfold storeSplit; repeat' split
  all_goals simp

@[simp] theorem levels_storeLocal (c a : Nat) (split : Option Nat) (bs : List Byte) (s : State) :
    (storeLocal c a split bs s).levels = s.levels := by
  unfold storeLocal; simp only; repeat' split
  all_goals simp

/-- A store goes on from a state with the same levels; else its context traps or waits. -/
theorem levelOk_store {a : Levels} {s : State} {acc : Access} {ea : Nat} {bs : List Byte} {k : State → State} (h : s.levels = a)
    (hk : ∀ t, t.levels = a → LevelOk a (k t).levels) : LevelOk a (s.store acc ea bs k).levels := by
  unfold State.store
  split
  · split
    · simp [h]
    split
    · exact hk _ (by simp [h])
    simp only
    split
    · simp [h]
    · refine hk _ ?_
      rw [levels_traceWatch]
      split <;> simp [h]
  · exact levelOk_refuse h _ _

@[simp] theorem levels_prefGo (hint : Reg) (s : State) (r : Chk) : (prefGo hint s r).levels = s.levels := by
  unfold prefGo
  repeat' split
  all_goals try simp
  refine levels_foldl (fun t i => ?_) _ _
  split <;> simp

/-! ## AMO, UPD and the memory-control instructions -/

theorem amoWrite_sameEntry (k : Ctx) (rt : Reg) (n old : Nat) : (amoWrite k rt n old).SameEntry k := by
  unfold amoWrite; split <;> simp

@[simp] theorem levels_locPut (s : State) (c a n v : Nat) : (locPut s c a n v).levels = s.levels := by simp [locPut]

@[simp] theorem levels_updL1 (s : State) (c x op n v : Nat) (key pa : Addr) : (updL1 s c x op n v key pa).levels = s.levels := by
  unfold updL1
  simp only
  rw [levels_updCtx rfl]
  repeat' split
  all_goals simp

@[simp] theorem levels_updOut (s : State) (c x op n v : Nat) (pa : Addr) : (updOut s c x op n v pa).levels = s.levels := by
  simp [updOut]

@[simp] theorem levels_flushLine (s : State) (c line : Nat) (drop : Bool) : (flushLine s c line drop).levels = s.levels := by
  refine levels_foldl (fun t q => ?_) _ _
  split <;> simp

@[simp] theorem levels_unwatchFor (s : State) (c n x : Nat) : (unwatchFor s c n x).levels = s.levels := by
  unfold unwatchFor; simp only; split
  · rw [levels_toDevice]; rfl
  · rfl

@[simp] theorem levels_unwatch (s : State) (c n : Nat) : (unwatch s c n).levels = s.levels := levels_unwatchFor ..

@[simp] theorem levels_watchFar (s : State) (c n x : Nat) (pa : Addr) (base ctl : Word) :
    (watchFar s c n x pa base ctl).levels = s.levels := by simp [watchFar]

@[simp] theorem levels_setWp (s : State) (c n : Nat) (base ctl : Word) : (setWp s c n base ctl).levels = s.levels :=
  levels_updCore rfl

@[simp] theorem levels_ite {p : Prop} [Decidable p] {a b : State} {l : Levels} (ha : a.levels = l) (hb : b.levels = l) :
    (if p then a else b).levels = l := by split <;> assumption

@[simp] theorem levelOk_ite {p : Prop} [Decidable p] {a b : State} {l : Levels} :
    LevelOk l (if p then a else b).levels ↔ (p → LevelOk l a.levels) ∧ (¬p → LevelOk l b.levels) := by
  split <;> simp [*]

@[simp] theorem levels_watches (s : State) (ws : List (Nat × Nat × Nat × Nat)) :
    ({ s with watches := ws } : State).levels = s.levels := rfl

/-! ## The control side's own instructions -/

theorem setRR_levelOk (i : Instr) (rd rs1 rs2 : Reg) (f : Word → Word → Word) (s : State) :
    AnsLevelOk s (setRR i rd rs1 rs2 f s) := by simp [setRR]

theorem setR_levelOk (i : Instr) (rd rs1 : Reg) (f : Word → Word) (s : State) : AnsLevelOk s (setR i rd rs1 f s) := by
  simp [setR]

theorem ret_levelOk (i : Instr) (rd : Reg) (v : Word) (s : State) : AnsLevelOk s (.next (s.ret i rd v)) := by simp

@[simp] theorem levelOk_jump (a : Levels) (s : State) (i : Instr) (rd : Reg) (t : Word) :
    LevelOk a (s.jump i rd t).levels ↔ LevelOk a s.levels := levelOk_setMe (by simp)

theorem jump_levelOk (i : Instr) (rd : Reg) (t : Word) (s : State) : AnsLevelOk s (.next (s.jump i rd t)) := by simp

theorem jumpChecked_levelOk (i : Instr) (rd : Reg) (t : Word) (s : State) : AnsLevelOk s (.next (s.jumpChecked i rd t)) := by
  simp [State.jumpChecked]

theorem execBr_levelOk (cond : BitVec 3) (rs1 : Reg) (off : BitVec 15) (s : State) : AnsLevelOk s (execBr cond rs1 off s) := by
  simp [execBr]

theorem execLoop_levelOk (rs1 : Reg) (off : BitVec 15) (s : State) : AnsLevelOk s (execLoop rs1 off s) := by
  simp only [execLoop, ansLevelOk_next]
  rw [levelOk_setMe (by split <;> simp)]
  exact .refl _

theorem retF_levelOk (i : Instr) (rd : Reg) (v : Word) (f : FFlags) (s : State) : AnsLevelOk s (.next (s.retF i rd v f)) := by
  simp [State.retF]

theorem loadAt_levelOk (i : Instr) (sz : BitVec 3) (rt : Reg) (ea : Addr) (s : State) : AnsLevelOk s (loadAt i sz rt ea s) := by
  simpa [loadAt] using levelOk_load rfl fun bs t ht => by simp [ht]

theorem loadPairAt_levelOk (i : Instr) (rt : Reg) (ea : Addr) (s : State) : AnsLevelOk s (loadPairAt i rt ea s) := by
  simpa [loadPairAt] using levelOk_load rfl fun bs t ht => by simp [ht]

theorem storeAt_levelOk (i : Instr) (sz : BitVec 3) (rt : Reg) (ea : Addr) (s : State) : AnsLevelOk s (storeAt i sz rt ea s) := by
  simpa [storeAt] using levelOk_store rfl fun t ht => by simp [ht]

theorem storePairAt_levelOk (i : Instr) (rt : Reg) (ea : Addr) (s : State) : AnsLevelOk s (storePairAt i rt ea s) := by
  simpa [storePairAt] using levelOk_store rfl fun t ht => by simp [ht]

theorem prefAt_levelOk (i : Instr) (hint : Reg) (ea : Addr) (s : State) : AnsLevelOk s (prefAt i hint ea s) := by
  simp only [prefAt, ansLevelOk_next, levelOk_ite, levelOk_pass, LevelOk.refl, implies_true, true_and]
  intro _
  split <;> simp

theorem levelOk_amoWrite (a : Levels) (s : State) (rt : Reg) (n old len : Nat) :
    LevelOk a (s.setMe (advance (amoWrite s.me rt n old) len)).levels ↔ LevelOk a s.levels :=
  levelOk_setMe (amoWrite_sameEntry ..)

theorem execAmo_levelOk (rt rb : Reg) (sz : BitVec 3) (rv aop : Reg) (s : State) : AnsLevelOk s (execAmo rt rb sz rv aop s) := by
  simp only [execAmo, ansLevelOk_next]
  split
  · simp
  split
  · simp
  split
  · split
    · simp
    split
    · rw [levelOk_amoWrite, levels_traceWatch]
      split <;> simp
    split
    · split <;> simp
    · split <;> simp
  · simp

theorem execUpd_levelOk (rb : Reg) (sz : BitVec 3) (rv aop : Reg) (s : State) : AnsLevelOk s (execUpd rb sz rv aop s) := by
  simp only [execUpd, ansLevelOk_next]
  split
  · simp
  split
  · simp
  split
  · split
    · simp
    split
    · simp
    split
    · simp
    · simp
  · simp

theorem execFenceL_levelOk (s : State) : AnsLevelOk s (execFenceL s) := by
  simpa [execFenceL] using levelOk_release rfl fun t ht => by simp [ht]

theorem flush_levelOk (i : Instr) (depth rs1 : Reg) (drop : Bool) (s : State) : AnsLevelOk s (.next (flush i depth rs1 drop s)) := by
  simp only [ansLevelOk_next, flush]
  split
  · simp
  · split
    · simp
    split
    · simp
    · split
      · exact (levelOk_pass _ _ i).2 (by rw [levels_flushLine]; exact .refl _)
      · simp
  · simp

theorem execCinvI_levelOk (rs1 : Reg) (s : State) : AnsLevelOk s (execCinvI rs1 s) := by
  simp only [execCinvI, ansLevelOk_next]
  split
  · simp
  · simp
  · split <;> simp

theorem execCzero_levelOk (rs1 : Reg) (s : State) : AnsLevelOk s (execCzero rs1 s) := by
  simp only [execCzero, ansLevelOk_next]
  split
  · simp
  · exact levelOk_store rfl fun t ht => by simp [ht]

theorem execBankrole_levelOk (rd rs1 rs2 : Reg) (s : State) : AnsLevelOk s (execBankrole rd rs1 rs2 s) := by
  simp [execBankrole]

theorem execFifoadv_levelOk (rd rs1 rs2 : Reg) (s : State) : AnsLevelOk s (execFifoadv rd rs1 rs2 s) := by
  simp [execFifoadv]

theorem tlbi_levelOk (i : Instr) (part : BitVec 1) (drop : TlbEntry → Bool) (s : State) :
    AnsLevelOk s (.next (tlbi i part drop s)) := by
  simp only [ansLevelOk_next, tlbi]
  split
  · simp
  split
  · simp
  · rw [levelOk_pass, levels_foldl (by simp)]
    simp

theorem execWpset_levelOk (n : BitVec 2) (rs1 rs2 : Reg) (s : State) : AnsLevelOk s (execWpset n rs1 rs2 s) := by
  simp only [execWpset, ansLevelOk_next]
  repeat' split
  all_goals simp

theorem csrTake_levels (s : State) (a : Nat) : (csrTake s a).2.levels = s.levels := by
  unfold csrTake; simp only; split <;> simp

theorem execCsrr_levelOk (rd : Reg) (csr : BitVec 12) (s : State) : AnsLevelOk s (execCsrr rd csr s) := by
  simp [execCsrr, csrTake_levels]

theorem execMbw_levelOk (n : BitVec 3) (rs1 : Reg) (s : State) : AnsLevelOk s (execMbw n rs1 s) := by
  have h : (s.setMyCore (mbFill s.myCore n.toNat (xread s.me rs1))).levels = s.levels := levels_setCore rfl
  simp [execMbw, h]

theorem execMbr_levelOk (rd : Reg) (n : BitVec 3) (s : State) : AnsLevelOk s (execMbr rd n s) := by
  have h : (s.setMyCore (mbEmpty s.myCore n.toNat)).levels = s.levels := levels_setCore rfl
  simp [execMbr, h]

theorem execMbq_levelOk (rd : Reg) (n : BitVec 3) (s : State) : AnsLevelOk s (execMbq rd n s) := by simp [execMbq]

theorem execBrk_levelOk (s : State) : AnsLevelOk s (execBrk s) := by simp [execBrk]

theorem execHalt_levelOk (s : State) : AnsLevelOk s (execHalt s) := by simp [execHalt]

@[simp] theorem levels_randTake (s : State) (c x : Nat) : (randTake s c x).2.levels = s.levels := by simp [randTake]

theorem execRand_levelOk (rd : Reg) (s : State) : AnsLevelOk s (execRand rd s) := by simp [execRand]

theorem levelOk_setCtx_of_priv {s : State} {c x : Nat} {v : Ctx} (h : v.priv = ((s.core c).ctx x).priv) :
    LevelOk s.levels (s.setCtx c x v).levels := by
  refine levelOk_of_priv ?_
  rw [State.ctx_setCtx]
  split
  next e => obtain ⟨rfl, rfl⟩ := e; exact h
  next => rfl

/-- A CSR write leaves the level alone: STATUS and HSTATUS show it, and do not hold it. -/
theorem csrWrite_levelOk (s : State) (c x a : Nat) (v : Word) : LevelOk s.levels (csrWrite s c x a v).levels := by
  simp [csrWrite, levelOk_setCtx_of_priv]

theorem csrModify_levelOk (i : Instr) (rd : Reg) (csr : BitVec 12) (wr : Bool) (f : Word → Word) (s : State) :
    AnsLevelOk s (csrModify i rd csr wr f s) := by
  simp [csrModify, csrWrite_levelOk]

/-! ## Events, homes and engines -/

@[simp] theorem levels_armLatch (s : State) (l : LatchId) (seq : Bool) (limit n : Nat) (ws : List Want) :
    (armLatch s l seq limit n ws).levels = s.levels := by simp [armLatch]

@[simp] theorem levels_request (s : State) (len home : Nat) (r : Request) : (s.request len home r).levels = s.levels := by
  unfold State.request; simp only; split <;> simp

@[simp] theorem levels_stage (s : State) (o : Staged) : (stage s o).levels = s.levels := by
  unfold stage; split <;> simp

@[simp] theorem levels_checkArming (s : State) (evs : List EvKey) : (checkArming s evs).levels = s.levels := by
  unfold checkArming; split <;> simp

@[simp] theorem levels_armExchange (s : State) (es : List PlanEntry) (left : List Nat) :
    (armExchange s es left).levels = s.levels := by
  refine levels_foldl (fun t i => ?_) _ _
  simp only
  split <;> simp

@[simp] theorem levels_setMember (s : State) (c d : Nat) (here : Bool) : (setMember s c d here).levels = s.levels := by
  unfold setMember; split <;> rfl

@[simp] theorem levels_askTree (s : State) (tree : Nat) (op : TreeOp) : (askTree s tree op).levels = s.levels := by
  simp [askTree]

theorem request_levelOk (s : State) (len home : Nat) (r : Request) : AnsLevelOk s (.next (s.request len home r)) := by simp

theorem execEvdef_levelOk (rd rs1 : Reg) (s : State) : AnsLevelOk s (execEvdef rd rs1 s) := by
  simpa only [execEvdef, ansLevelOk_next] using levelOk_load rfl fun bs t ht => by simp [ht]

theorem execEvdel_levelOk (rd rs1 : Reg) (s : State) : AnsLevelOk s (execEvdel rd rs1 s) := by
  simp only [execEvdel, ansLevelOk_next]
  split <;> simp

theorem storeRecord_levelOk (i : Instr) (rd : Reg) (ea : Addr) (bs : List Byte) (v : Word) (s : State) :
    LevelOk s.levels (storeRecord i rd ea bs v s).levels :=
  levelOk_store rfl fun t ht => by simp [ht]

theorem recordAt_levelOk {ea : Addr} {ask : State → State} {got : List Byte → State} {s : State}
    (ha : (ask s).levels = s.levels) (hg : ∀ bs, LevelOk s.levels (got bs).levels) :
    LevelOk s.levels (recordAt ea ask got s).levels := by
  unfold recordAt
  split
  · exact hg _
  · split
    · simp
    split
    · simp
    split
    · rw [ha]; exact .refl _
    · simp

theorem execEvstat_levelOk (rd rs1 rs2 : Reg) (s : State) : AnsLevelOk s (execEvstat rd rs1 rs2 s) := by
  simp only [execEvstat, ansLevelOk_next]
  split
  · simp
  · exact recordAt_levelOk (by simp) fun bs => storeRecord_levelOk ..

theorem execPstat_levelOk (rd rs1 rs2 : Reg) (s : State) : AnsLevelOk s (execPstat rd rs1 rs2 s) := by
  simp only [execPstat, ansLevelOk_next]
  split
  · simp
  · exact recordAt_levelOk (by simp) fun bs => storeRecord_levelOk ..

theorem offer_levelOk (i : Instr) (dir : Dir) (nv : Word) (gv tv : Option Word) (s : State) :
    AnsLevelOk s (.next (offer i dir nv gv tv s)) := by
  simp only [ansLevelOk_next, offer]
  split
  · simp
  split
  · simp
  split <;> simp

theorem execPermit_levelOk (rt rs1 rs2 : Reg) (s : State) : AnsLevelOk s (execPermit rt rs1 rs2 s) := by
  simp only [execPermit, ansLevelOk_next]
  split
  · simp
  split
  · simp
  · exact (ansLevelOk_next _ _).1 (offer_levelOk ..)

theorem execWdraw_levelOk (slot : BitVec 3) (s : State) : AnsLevelOk s (execWdraw slot s) := by simp [execWdraw]

theorem execWdrawAll_levelOk (s : State) : AnsLevelOk s (execWdrawAll s) := by simp [execWdrawAll]

theorem select_levelOk (i : Instr) (t : Bool) (rd : Reg) (limit : Nat) (s : State) :
    AnsLevelOk s (.next (select i t rd limit s)) := by
  simp only [ansLevelOk_next, select]
  split
  · simp
  split
  · simp
  · exact levelOk_release rfl fun u hu => by simp [hu]

theorem selectLit_levelOk (i : Instr) (t : Bool) (rd : Reg) (lit : Word) (s : State) :
    AnsLevelOk s (.next (selectLit i t rd lit s)) := by
  unfold selectLit
  split
  · simp
  · exact select_levelOk ..

theorem execPhase_levelOk (rd : Reg) (s : State) : AnsLevelOk s (execPhase rd s) := by
  simp only [execPhase, ansLevelOk_next]
  split
  · simp
  split
  · simp
  split
  · simp
  split
  · simp
  split
  · simp
  · exact levelOk_release rfl fun u hu => by simp [hu]

theorem execGang_levelOk (s : State) : AnsLevelOk s (execGang s) := by
  simp only [execGang, ansLevelOk_next]
  split
  · simp
  split
  · simp
  split
  · simp
  · exact levelOk_release rfl fun u hu => by simp [hu]

theorem freeHelper_pos {k : Core} {h : Nat} (e : freeHelper k = some h) : h ≠ 0 := by
  have := List.mem_of_find?_eq_some e
  simp only [List.mem_map] at this
  obtain ⟨n, _, rfl⟩ := this
  omega

/-- SPAWN makes a helper, and the control context that spawns keeps its level. -/
theorem execSpawn_levelOk (rd rs1 rs2 : Reg) (s : State) : AnsLevelOk s (execSpawn rd rs1 rs2 s) := by
  simp only [execSpawn, ansLevelOk_next]
  split
  · simp
  next h0 =>
    split
    · simp
    next h e =>
      have hx : s.cur.2 ≠ h := fun hc => freeHelper_pos e (by rw [← hc]; simpa using (not_or.1 h0).1)
      rw [levelOk_ret]
      refine levelOk_of_priv ?_
      rw [State.ctx_setCtx, if_neg (by simp [hx])]
      show (((s.updCore _ _).core _).ctx _).priv = _
      simp [State.core_updCore, queueBefore, Core.ctx, State.me, State.ctx]

theorem execHend_levelOk (s : State) : AnsLevelOk s (execHend s) := by simp [execHend]

theorem execTake_levelOk (rs1 rs2 : Reg) (s : State) : AnsLevelOk s (execTake rs1 rs2 s) := by
  simp only [execTake, ansLevelOk_next]
  split
  · simp
  split <;> simp

theorem execDone_levelOk (rs1 rs2 : Reg) (s : State) : AnsLevelOk s (execDone rs1 rs2 s) := by simp [execDone]

theorem execPoolcfg_levelOk (rd rs1 rs2 : Reg) (s : State) : AnsLevelOk s (execPoolcfg rd rs1 rs2 s) := by
  simp [execPoolcfg]

theorem execPoolput_levelOk (rd rs1 rs2 : Reg) (s : State) : AnsLevelOk s (execPoolput rd rs1 rs2 s) := by
  simpa only [execPoolput, ansLevelOk_next] using levelOk_load rfl fun bs t ht => by simp [ht]

theorem execDomset_levelOk (rs1 : Reg) (s : State) : AnsLevelOk s (execDomset rs1 s) := by
  simp [execDomset, levels_foldl]

theorem execFifobind_levelOk (rs3 rs1 rs2 : Reg) (s : State) : AnsLevelOk s (execFifobind rs3 rs1 rs2 s) := by
  simp [execFifobind]

theorem layregAt_levelOk (i : Instr) (acc : BitVec 2) (rd : Reg) (addr : Word) (s : State) :
    AnsLevelOk s (layregAt i acc rd addr s) := by
  simpa only [layregAt, ansLevelOk_next] using levelOk_load rfl fun bs t ht => by simp [ht]

theorem execRescls_levelOk (cls : BitVec 2) (rd rs1 : Reg) (s : State) : AnsLevelOk s (execRescls cls rd rs1 s) := by
  simp [execRescls]

theorem copyAt_levelOk (i : Instr) (rm : BitVec 3) (sat : BitVec 1) (k src dst c : Word) (first : Nat) (s : State) :
    AnsLevelOk s (.next (copyAt i rm sat k src dst c first s)) := by
  simp only [ansLevelOk_next, copyAt]
  split
  · simp
  · simp
  · split <;> simp

theorem cstatAt_levelOk (i : Instr) (rd rs1 : Reg) (abort : Bool) (s : State) :
    AnsLevelOk s (.next (cstatAt i rd rs1 abort s)) := by
  simp only [ansLevelOk_next, cstatAt]
  split <;> simp

theorem execPbind_levelOk (rd rs1 : Reg) (s : State) : AnsLevelOk s (execPbind rd rs1 s) := by
  simp only [execPbind, ansLevelOk_next]
  refine levelOk_load rfl fun bs t ht => levelOk_release ht fun u hu => ?_
  split
  · simp [hu]
  split <;> simp [hu]

theorem execPunbind_levelOk (rd rs1 : Reg) (s : State) : AnsLevelOk s (execPunbind rd rs1 s) := by simp [execPunbind]

theorem treeOp_levelOk (i : Instr) (tv node : Word) (op : Nat → TreeOp) (s : State) : AnsLevelOk s (treeOp i tv node op s) := by
  simp only [treeOp, ansLevelOk_next]
  split
  · simp
  split
  · simp
  · exact levelOk_release rfl fun u hu => by simp [hu]

theorem tcfgRecord_levelOk (i : Instr) (new : Bool) (rd : Reg) (addr tv : Word) (s : State) :
    AnsLevelOk s (tcfgRecord i new rd addr tv s) := by
  simp only [tcfgRecord, ansLevelOk_next]
  split
  · simp
  · refine levelOk_load rfl fun bs t ht =>
      levelOk_ite.2 ⟨fun _ => by simp [ht], fun _ => levelOk_ite.2 ⟨fun _ => by simp [ht], fun _ => ?_⟩⟩
    exact levelOk_release ht fun u hu => by simp [hu]

theorem execTexp_levelOk (rd rs1 rs2 rs3 : Reg) (k : BitVec 9) (s : State) : AnsLevelOk s (execTexp rd rs1 rs2 rs3 k s) := by
  simp only [execTexp, ansLevelOk_next]
  split
  · simp
  split
  · simp
  · exact levelOk_load rfl fun bs t ht => levelOk_release ht fun u hu => by simp [hu]

theorem execTreadTree_levelOk (rd rs1 : Reg) (s : State) : AnsLevelOk s (execTreadTree rd rs1 s) := by
  unfold execTreadTree
  split
  · simp
  · exact treeOp_levelOk ..

/-! ## The wide and matrix side -/

@[simp] theorem levels_queueUp (s : State) (e : WEntry) : (s.queueUp e).levels = s.levels := levels_setCore rfl

theorem wideEnter_levelOk {s : State} {i : Instr} {k : WView → State} (h : ∀ v, LevelOk s.levels (k v).levels) :
    AnsLevelOk s (s.wideEnter i k) := by
  simp [State.wideEnter, h]

@[simp] theorem levelOk_enqueue (a : Levels) (s : State) (e : WEntry) :
    LevelOk a (s.enqueue e).levels ↔ LevelOk a s.levels := by simp [State.enqueue]

theorem enterW_levelOk (i : Instr) (s : State) : AnsLevelOk s (enterW i s) := by
  refine wideEnter_levelOk fun v => ?_
  split <;> simp

theorem enterPlain_levelOk (i : Instr) (v1 : Word) (bad : WView → Bool) (s : State) : AnsLevelOk s (enterPlain i v1 bad s) :=
  wideEnter_levelOk fun v => by simp

theorem execAccsw_levelOk (s : State) : AnsLevelOk s (execAccsw s) := by
  unfold execAccsw
  split
  · simp
  · exact enterPlain_levelOk ..

theorem wideValue_levelOk (i : Instr) (rd : Reg) (now : Core → Word) (s : State) : AnsLevelOk s (wideValue i rd now s) :=
  wideEnter_levelOk fun v => by simp

@[simp] theorem mstatClear_ctxs (sel : BitVec 32) (k : Core) : (mstatClear sel k).ctxs = k.ctxs := by
  unfold mstatClear; split <;> rfl

theorem execMstat_levelOk (rd : Reg) (sel : BitVec 32) (s : State) : AnsLevelOk s (execMstat rd sel s) := by
  unfold execMstat
  exact wideEnter_levelOk fun v => by simp

theorem execMldb_levelOk (rs1 rs2 : Reg) (ft : BitVec 4) (bank : BitVec 3) (row0 : BitVec 10) (sc : BitVec 1) (nrm1 : BitVec 10)
    (s : State) : AnsLevelOk s (execMldb rs1 rs2 ft bank row0 sc nrm1 s) := by
  unfold execMldb
  refine wideEnter_levelOk fun v => ?_
  simp only
  split
  · simp
  split
  · simp
  split
  · simp
  split
  · simp
  split <;> simp

theorem execMmul_levelOk (d nrm1 : BitVec 4) (pa pm1 : BitVec 3) (z : BitVec 1) (km1 : BitVec 8) (s : State) :
    AnsLevelOk s (execMmul d nrm1 pa pm1 z km1 s) := by
  unfold execMmul
  refine wideEnter_levelOk fun v => ?_
  simp only [levelOk_ite]
  generalize (if (posOf s.cur.1 == 0) = true then (v.uses _).1 else []) = us
  refine ⟨fun _ => by simp, fun _ => ⟨fun _ => by simp, fun _ => ⟨fun _ => by simp, fun _ => ?_⟩⟩⟩
  split
  · simp
  · split <;> simp

theorem enterImage_levelOk (i : Instr) (acc : Access) (rs1 : Reg) (mask : BitVec 8) (s : State) :
    AnsLevelOk s (enterImage i acc rs1 mask s) := by
  refine wideEnter_levelOk fun v => ?_
  simp only
  split
  · simp
  split
  · simp
  split <;> simp [levels_foldl]

theorem cachedWord_levels (s : State) (key pa : Nat) (w : Half) : (cachedWord s key pa w).2.levels = s.levels := by
  simp only [cachedWord, apply_ite (fun r : Half × State => r.2.levels), levels_used, ite_self]

/-- Words are fetched without a change of the levels. -/
theorem fetchFrom_levels {c x n : Nat} {va : Addr} {ws vs : List Half} {s t : State}
    (h : fetchFrom c x n va ws s = .words vs t) : t.levels = s.levels := by
  induction n generalizing va ws s with
  | zero => cases h; rfl
  | succ n ih =>
    rw [fetchFrom] at h
    split at h
    · cases h
    · cases h
    · split at h
      · split at h <;> cases h
      · exact (ih h).trans (cachedWord_levels ..)

/-- What a capture answers comes with a state of the levels `a`. -/
def Captured.Keeps (a : Levels) : Captured → Prop
  | .body _ s => s.levels = a
  | .trap _ s => s.levels = a
  | .wait _ _ => True

theorem captureBody_keeps {a : Levels} {c x n : Nat} {va : Addr} {is : List Instr} {s : State} (h : s.levels = a) :
    (captureBody c x n va is s).Keeps a := by
  induction n generalizing va is s with
  | zero => exact h
  | succ n ih =>
    rw [captureBody]
    split
    · exact h
    · trivial
    next e =>
      have h1 := (fetchFrom_levels e).trans h
      split
      · exact h1
      · exact ih h1

theorem execRep_levelOk (cnt : BitVec 12) (ni rowstep : BitVec 4) (ptrstep : BitVec 3) (s : State) :
    AnsLevelOk s (execRep cnt ni rowstep ptrstep s) := by
  unfold execRep
  refine wideEnter_levelOk fun v => ?_
  have hk := captureBody_keeps (c := s.cur.1) (x := s.cur.2) (n := ni.toNat + 1) (va := (s.me.pc.toNat + 4) % 2 ^ 64)
    (is := []) (s := s) rfl
  simp only
  split
  next s1 e =>
    rw [e] at hk
    have h1 : s1.levels = s.levels := hk
    simp [h1]
  next => simp
  next s0 e =>
    rw [e] at hk
    have h0 : s0.levels = s.levels := hk
    split <;> simp [h0]

theorem pass_levelOk (i : Instr) (s : State) : AnsLevelOk s (.next (s.pass i)) := by simp

theorem trap_levelOk (cz : Cause) (s : State) : AnsLevelOk s (.next (s.trap cz)) := by simp

theorem farith_levelOk (i : Instr) (rd rs1 rs2 : Reg) (d : BitVec 1) (rm : BitVec 3)
    (op : Rm → Val → Val → Val × FFlags) (s : State) :
    AnsLevelOk s (farith i rd rs1 rs2 d rm op s) := by
  unfold farith; exact retF_levelOk ..

theorem fselect_levelOk (i : Instr) (rd rs1 rs2 : Reg) (d : BitVec 1) (op : Nat) (s : State) :
    AnsLevelOk s (fselect i rd rs1 rs2 d op s) := by
  unfold fselect; exact retF_levelOk ..

/-- R16 of every program instruction but ERET: an instruction has words, a machine event has none. -/
theorem exec_levelOk (i : Instr) (hp : encode i ≠ []) (he : i ≠ .eret) (s : State) : AnsLevelOk s (exec i s) := by
  cases i with
  | add | sub | and | or | xor | andn | shl | shr | sar | rot | min | max | minu | maxu | mul | mulh | mulhu | div | divu | rem |
    remu | cmp | sel | bext | bins => dsimp only [exec]; exact setRR_levelOk ..
  | clz | ctz | popc | addi | addiLit | andi | andiLit | ori | oriLit | xori | xoriLit | shli | shri | sari =>
    dsimp only [exec]; exact setR_levelOk ..
  | movi | moviLit | fclass => dsimp only [exec]; exact ret_levelOk ..
  | br => dsimp only [exec]; exact execBr_levelOk ..
  | loop => dsimp only [exec]; exact execLoop_levelOk ..
  | jmp | call => dsimp only [exec]; exact jump_levelOk ..
  | jmpLit | callLit | jr | ret => dsimp only [exec]; exact jumpChecked_levelOk ..
  | ld | ldLit => dsimp only [exec]; exact loadAt_levelOk ..
  | st | stLit => dsimp only [exec]; exact storeAt_levelOk ..
  | ldp | ldpLit => dsimp only [exec]; exact loadPairAt_levelOk ..
  | stp | stpLit => dsimp only [exec]; exact storePairAt_levelOk ..
  | pref | prefLit => dsimp only [exec]; exact prefAt_levelOk ..
  | amo => dsimp only [exec]; exact execAmo_levelOk ..
  | upd => dsimp only [exec]; exact execUpd_levelOk ..
  | fadd | fsub | fmul | fdiv | fsqrt => dsimp only [exec]; exact farith_levelOk ..
  | fmin | fmax | fminm | fmaxm => dsimp only [exec]; exact fselect_levelOk ..
  | fma | fcmp | fcvt => dsimp only [exec]; exact retF_levelOk ..
  | csrr => dsimp only [exec]; exact execCsrr_levelOk ..
  | csrw | csrs | csrc => dsimp only [exec]; exact csrModify_levelOk ..
  | mbw => dsimp only [exec]; exact execMbw_levelOk ..
  | mbr => dsimp only [exec]; exact execMbr_levelOk ..
  | mbq => dsimp only [exec]; exact execMbq_levelOk ..
  | nop => dsimp only [exec]; exact pass_levelOk ..
  | eret => exact absurd rfl he
  | brk => dsimp only [exec]; exact execBrk_levelOk ..
  | halt => dsimp only [exec]; exact execHalt_levelOk ..
  | rand => dsimp only [exec]; exact execRand_levelOk ..
  | trap => dsimp only [exec]; exact trap_levelOk ..
  | vlda | vsta | vadd | vsub | vmul | vfma | vfms | vmax | vmin | vabs | vneg | vclamp | vscale | vdot | vand | vor | vxor | vshl
  | vshr | vsel | vcmp | vperm | vshuf | viota | vred | vbcast | vcvt | vcvtAuto | vexp2 | vlog2 | vrcp | vrsq | vtanh | vsig =>
    dsimp only [exec]; exact enterW_levelOk ..
  | pset | padd | fset | acccfg | acccfgKeep | mcfg => dsimp only [exec]; exact enterPlain_levelOk ..
  | pget | fget => dsimp only [exec]; exact wideValue_levelOk ..
  | accsw => dsimp only [exec]; exact execAccsw_levelOk ..
  | rep => dsimp only [exec]; exact execRep_levelOk ..
  | evdef => dsimp only [exec]; exact execEvdef_levelOk ..
  | evdel => dsimp only [exec]; exact execEvdel_levelOk ..
  | evstat => dsimp only [exec]; exact execEvstat_levelOk ..
  | offerSync | offerGive | offerTake | offerBoth => dsimp only [exec]; exact offer_levelOk ..
  | wdraw => dsimp only [exec]; exact execWdraw_levelOk ..
  | wdrawAll => dsimp only [exec]; exact execWdrawAll_levelOk ..
  | selectNb | selectT => dsimp only [exec]; exact select_levelOk ..
  | selectNbLimit | selectTLimit => dsimp only [exec]; exact selectLit_levelOk ..
  | phase => dsimp only [exec]; exact execPhase_levelOk ..
  | gang => dsimp only [exec]; exact execGang_levelOk ..
  | spawn => dsimp only [exec]; exact execSpawn_levelOk ..
  | hend => dsimp only [exec]; exact execHend_levelOk ..
  | take => dsimp only [exec]; exact execTake_levelOk ..
  | done => dsimp only [exec]; exact execDone_levelOk ..
  | poolcfg => dsimp only [exec]; exact execPoolcfg_levelOk ..
  | poolput => dsimp only [exec]; exact execPoolput_levelOk ..
  | domset => dsimp only [exec]; exact execDomset_levelOk ..
  | fifobind => dsimp only [exec]; exact execFifobind_levelOk ..
  | mldb => dsimp only [exec]; exact execMldb_levelOk ..
  | mmul => dsimp only [exec]; exact execMmul_levelOk ..
  | mstat => dsimp only [exec]; exact execMstat_levelOk ..
  | mspill | mfill => dsimp only [exec]; exact enterImage_levelOk ..
  | fenceL => dsimp only [exec]; exact execFenceL_levelOk ..
  | cflush | cinv => dsimp only [exec]; exact flush_levelOk ..
  | cinvI => dsimp only [exec]; exact execCinvI_levelOk ..
  | czero => dsimp only [exec]; exact execCzero_levelOk ..
  | bankrole => dsimp only [exec]; exact execBankrole_levelOk ..
  | tlbiAll | tlbiAsid | tlbiPage | tlbiVa => dsimp only [exec]; exact tlbi_levelOk ..
  | wpset => dsimp only [exec]; exact execWpset_levelOk ..
  | fifoadv => dsimp only [exec]; exact execFifoadv_levelOk ..
  | layreg | layregLit => dsimp only [exec]; exact layregAt_levelOk ..
  | layrel => dsimp only [exec]; exact request_levelOk ..
  | copy | copyFirst => dsimp only [exec]; exact copyAt_levelOk ..
  | cstat | cstatAbort => dsimp only [exec]; exact cstatAt_levelOk ..
  | pbind => dsimp only [exec]; exact execPbind_levelOk ..
  | punbind => dsimp only [exec]; exact execPunbind_levelOk ..
  | pstat => dsimp only [exec]; exact execPstat_levelOk ..
  | permit => dsimp only [exec]; exact execPermit_levelOk ..
  | rescls => dsimp only [exec]; exact execRescls_levelOk ..
  | tcfgNew | tcfgNewLit | tcfgGrow | tcfgGrowLit => dsimp only [exec]; exact tcfgRecord_levelOk ..
  | tcfgDel | troot | tdesc | texpTerm | tback | tbackVlo | tbatch | treuse | treadStats | treadLinks =>
    dsimp only [exec]; exact treeOp_levelOk ..
  | texp => dsimp only [exec]; exact execTexp_levelOk ..
  | treadTree => dsimp only [exec]; exact execTreadTree_levelOk ..
  | _ => exact absurd rfl hp

/-- Settles O60: what each program instruction does to the levels and trap registers, by shared operation. -/
theorem onlyTrapsAndEretChangeTheLevel : Obligations.OnlyTrapsAndEretChangeTheLevel := by
  intro s t i hp he h
  exact (exec_levelOk i hp he s).of_next t h

end Sys2Proof.Machine

/-! # Package reset (R13, R37, R483, R485) -/

namespace Sys2Proof.Machine

open Sys2Proof

/-- The state that a package reset leaves: that of reset, but for what bring-up sets up. -/
def afterReset (s : State) (err dev : Nat) : State :=
  let e := if err ≤ 7 then err else 0
  { State.reset with
      dev := dev % 4096, fw := resetFirmware s.fw, out := s.out, draws := s.draws + 1,
      clusters := if e = 0 then (List.range 24).map fun k => (k, bootCluster k) else [],
      isaRing := if e = 0 then some bootRing else none,
      hostRegs := { HostRegs.reset with
        device := dev % 4096, booterr := e, stage := bringupStage e s.pick, fault := e != 0, ready := e == 0 } }

theorem exec_packageReset (s : State) (err dev : Nat) : exec (.packageReset err dev) s = .next (afterReset s err dev) := rfl

/-- No core is listed after the reset, so each is as core reset leaves it (R13). -/
theorem afterReset_core (s : State) (err dev c : Nat) : (afterReset s err dev).core c = Core.reset := rfl

theorem afterReset_ctx (s : State) (err dev c x : Nat) : (afterReset s err dev).ctx c x = Ctx.reset := rfl

theorem xread_reset (r : Reg) : xread Ctx.reset r = 0 := by
  unfold xread
  split
  · rfl
  · exact Vector.getElem_replicate r.isLt

/-- The default roles (R37): a bank of the first half is a cache bank, of the third quarter scratch, of the last operand. -/
theorem reset_role : ∀ b < 32, Core.reset.role b = if b < 16 then .cache else if b < 24 then .scratch else .operand := by decide

theorem tfind_map_self {α : Type} (f : Nat → α) (l : List Nat) (k : Nat) (h : k ∈ l) :
    tfind (l.map fun i => (i, f i)) k = some (f k) := by
  induction l with
  | nil => cases h
  | cons j l ih =>
    rw [List.map_cons, tfind_cons]
    split
    next e => rw [e]
    next e => exact ih ((List.mem_cons.1 h).resolve_left e)

/-- A successful bring-up gives each cluster its trace rings (R483). -/
theorem afterReset_cluster (s : State) (dev k : Nat) (hk : k < 24) : (afterReset s 0 dev).cluster k = bootCluster k := by
  show (tfind ((List.range 24).map fun k => (k, bootCluster k)) k).getD Cluster.reset = _
  rw [tfind_map_self bootCluster _ k (List.mem_range.2 hk)]
  rfl

/-- A ring of bring-up is empty, and has 2 to 64 segments (R430). -/
theorem bootCluster_ring (k st : Nat) (hst : st < 2) :
    let m := tget Stream.reset (bootCluster k).streams st
    2 ≤ m.slots ∧ m.slots ≤ 64 ∧ m.recs = [] ∧ m.seq = 0 := by
  have h : (tget Stream.reset (bootCluster k).streams st).slots = (Config.traceRing k st).2.val + 2 ∧
      (tget Stream.reset (bootCluster k).streams st).recs = [] ∧ (tget Stream.reset (bootCluster k).streams st).seq = 0 := by
    obtain rfl | rfl : st = 0 ∨ st = 1 := by omega
    · exact ⟨rfl, rfl, rfl⟩
    · exact ⟨rfl, rfl, rfl⟩
  obtain ⟨hs, hr, hq⟩ := h
  have := (Config.traceRing k st).2.isLt
  exact ⟨by omega, by omega, hr, hq⟩

/-- Settles O51: no table of the state keeps a row, so every record is as reset leaves it, but for what bring-up sets up. -/
theorem packageResetClears : Obligations.PackageResetClears := by
  intro s err dev herr hdev
  have hrole : ∀ c b, b < 32 → ((afterReset s err dev).core c).role b = _ := fun c b hb =>
    (congrArg (Core.role · b) (afterReset_core s err dev c)).trans (reset_role b hb)
  refine ⟨_, exec_packageReset s err dev, fun c x => ?_, rfl, rfl, fun a => rfl, fun c a => rfl, fun e => rfl, fun l => rfl, rfl, rfl,
    fun c b hb => ?_, fun c b h1 h2 => ?_, fun c b h1 h2 => ?_, fun c n => by simp [afterReset_core, Core.reset],
    Nat.mod_eq_of_lt hdev, Nat.mod_eq_of_lt hdev, if_pos herr, ?_, ?_, ?_⟩
  · rw [afterReset_ctx]; exact ⟨rfl, rfl, xread_reset, rfl⟩
  · rw [hrole c b (by omega), if_pos hb]
  · rw [hrole c b (by omega), if_neg (by omega), if_pos h2]
  · rw [hrole c b h2, if_neg (by omega), if_neg (by omega)]
  · simp [afterReset, herr]
  · simp [afterReset, herr]
  · rintro rfl
    refine ⟨rfl, rfl, fun k st hk hst => ?_⟩
    unfold stream
    rw [afterReset_cluster s dev k hk]
    exact bootCluster_ring k st hst

end Sys2Proof.Machine

/-! # Control and status registers (R22-R25, R121) -/

namespace Sys2Proof.Machine

open Sys2Proof

/-! ## Which accesses are allowed -/

/-- The addresses of the table of R23, in rising order. -/
def csrAddresses : List Nat :=
  [0x001, 0x002, 0x010, 0x200, 0x201] ++ List.range' 0x210 3 ++ [0x220, 0x230] ++ List.range' 0x240 16 ++ [0x250, 0x251, 0x400, 0x405] ++
    List.range' 0x441 3 ++ [0x480, 0x481, 0x490, 0x491] ++ List.range' 0x4A0 4 ++ List.range' 0x4A8 4 ++
    [0x640, 0x6C0, 0x800, 0x802, 0x805] ++ List.range' 0x841 3 ++ [0xA40]

theorem csrTable_addresses : (csrTable.map Prod.fst).Perm csrAddresses := by decide

theorem csrAssigned_iff (a : Nat) : csrAssigned a = true ↔ ∃ e ∈ csrTable, e.1 = a := by
  rw [← List.mem_map, csrTable_addresses.mem_iff]
  simp only [csrAssigned, csrAddresses, Bool.or_eq_true, Bool.and_eq_true, beq_iff_eq, decide_eq_true_eq, List.mem_append,
    List.mem_range'_1, List.mem_cons, List.not_mem_nil, or_false, or_assoc, Nat.lt_add_one_iff, Nat.reduceAdd]

/-- Bits [11:10] of an address are its lowest level, and bit 9 says that it is read-only (R22). -/
theorem csrTable_fields : ∀ e ∈ csrTable, e.2.1 = bits e.1 10 2 ∧ e.2.2 = !nbit e.1 9 := by decide

theorem csrAllowed_iff (p : Priv) (a : Nat) (write : Bool) :
    csrAllowed p a write = true ↔ ∃ e ∈ csrTable, e.1 = a ∧ e.2.1 ≤ p.code ∧ (write = true → e.2.2 = true) := by
  simp only [csrAllowed, Bool.and_eq_true, decide_eq_true_eq, csrAssigned_iff]
  constructor
  · rintro ⟨⟨⟨e, he, rfl⟩, hp⟩, hw⟩
    obtain ⟨h1, h2⟩ := csrTable_fields e he
    exact ⟨e, he, rfl, h1 ▸ hp, fun h => by simpa [h2, h] using hw⟩
  · rintro ⟨e, he, rfl, hp, hw⟩
    obtain ⟨h1, h2⟩ := csrTable_fields e he
    refine ⟨⟨⟨e, he, rfl⟩, h1 ▸ hp⟩, ?_⟩
    cases write <;> simp_all

theorem csrAllowed_read {p : Priv} {a : Nat} (h : ¬∃ e ∈ csrTable, e.1 = a ∧ e.2.1 ≤ p.code) : csrAllowed p a false = false := by
  rw [← Bool.not_eq_true, csrAllowed_iff]
  simpa using h

theorem csrAllowed_write {p : Priv} {a : Nat} (h : ¬∃ e ∈ csrTable, e.1 = a ∧ e.2.1 ≤ p.code ∧ e.2.2 = true) :
    csrAllowed p a true = false := by
  rw [← Bool.not_eq_true, csrAllowed_iff]
  simpa using h

/-! ## The CSR instructions -/

theorem exec_csrr (rd : Reg) (csr : BitVec 12) (s : State) : exec (.csrr rd csr) s = execCsrr rd csr s := rfl

theorem exec_csrw (rd : Reg) (csr : BitVec 12) (rs1 : Reg) (s : State) : exec (.csrw rd csr rs1) s =
    csrModify (.csrw rd csr rs1) rd csr true (fun _ => xread s.me rs1) s := rfl

theorem exec_csrs (rd : Reg) (csr : BitVec 12) (rs1 : Reg) (s : State) : exec (.csrs rd csr rs1) s =
    csrModify (.csrs rd csr rs1) rd csr (rs1 != 0) (fun old => old ||| xread s.me rs1) s := rfl

theorem exec_csrc (rd : Reg) (csr : BitVec 12) (rs1 : Reg) (s : State) : exec (.csrc rd csr rs1) s =
    csrModify (.csrc rd csr rs1) rd csr (rs1 != 0) (fun old => old &&& ~~~(xread s.me rs1)) s := rfl

theorem execCsrr_refused {s : State} {csr : BitVec 12} (rd : Reg) (h : csrAllowed s.me.priv csr.toNat false = false) :
    execCsrr rd csr s = .next (s.ill (.csrr rd csr) 6) := by simp [execCsrr, h]

theorem csrModify_refused {s : State} {csr : BitVec 12} (i : Instr) (rd : Reg) (wr : Bool) (f : Word → Word)
    (h : csrAllowed s.me.priv csr.toNat true = false) : csrModify i rd csr wr f s = .next (s.ill i 6) := by
  simp [csrModify, h]

/-- Settles O11: the model's test of an address is a row of R23's table with its level and its write bit. -/
theorem csrAccessesAreChecked : Obligations.CsrAccessesAreChecked := by
  intro s rd rs1 csr
  refine ⟨fun h => ?_, fun h => ⟨?_, ?_, ?_⟩⟩
  · exact (exec_csrr ..).trans (execCsrr_refused rd (csrAllowed_read h))
  · exact (exec_csrw ..).trans (csrModify_refused _ _ _ _ (csrAllowed_write h))
  · exact (exec_csrs ..).trans (csrModify_refused _ _ _ _ (csrAllowed_write h))
  · exact (exec_csrc ..).trans (csrModify_refused _ _ _ _ (csrAllowed_write h))

/-! ## Without a replay log (R435) -/

theorem Unlogged.logInput {s : State} {c : Nat} (h : Unlogged s c) (x kind : Nat) (v : Word) :
    s.logInput c x kind v = (v, s) := by
  unfold State.logInput
  split
  · rfl
  next n w e => simp only [h n w e]

theorem Unlogged.records {s : State} {c : Nat} (h : Unlogged s c) : s.records c = false := by
  unfold State.records
  split
  next n w e => rw [h n w e]; rfl
  · rfl

/-- An input is its own value, and leaves no trace of it. -/
theorem Unlogged.input {s : State} {c : Nat} (h : Unlogged s c) (x kind : Nat) (v : Word) : s.input c x kind v = (v, s) := by
  simp only [State.input, h.logInput, h.records, Bool.false_eq_true, if_false]

theorem Unlogged.replayFull {s : State} {c : Nat} (h : Unlogged s c) : s.replayFull c = false := by
  unfold State.replayFull
  split
  · rfl
  next n w e => simp [h n w e]

/-! ## Reads -/

/-- What a level may access, a higher one may. -/
theorem csrAllowed_of_le {p : Priv} {a : Nat} {write : Bool} (q : Priv) (hq : q.code ≤ p.code) (h : csrAllowed q a write = true) :
    csrAllowed p a write = true := by
  rw [csrAllowed_iff] at h ⊢
  obtain ⟨e, he, ha, hl, hw⟩ := h
  exact ⟨e, he, ha, hl.trans hq, hw⟩

theorem csrr_gives {s : State} {rd : Reg} {a : BitVec 12} {v : Word} (hu : Unlogged s s.cur.1)
    (ha : csrAllowed s.me.priv a.toNat false = true) (hv : csrRead s s.cur.1 s.cur.2 a.toNat = v) :
    Gives (.csrr rd a) s rd v 4 := by
  have ht : csrTake s a.toNat = (v, s) := by simp [csrTake, hv, hu.input]
  refine gives_ret (j := .csrr rd a) ?_ rfl
  rw [exec_csrr]
  simp [execCsrr, ha, hu.replayFull, ht]

/-- A sum of hexadecimal digits, which ROLE0 and ROLE1 are. -/
theorem hexSum_digit (f : Nat → Nat) (hf : ∀ i, f i < 16) (n : Nat) :
    ((List.range n).map fun i => f i * 16 ^ i).foldl (· + ·) 0 < 16 ^ n ∧
    ∀ b < n, ((List.range n).map fun i => f i * 16 ^ i).foldl (· + ·) 0 / 16 ^ b % 16 = f b := by
  induction n with
  | zero => simp
  | succ n ih =>
    obtain ⟨hlt, hd⟩ := ih
    rw [List.range_succ, List.map_append, List.foldl_append]
    generalize ((List.range n).map fun i => f i * 16 ^ i).foldl (· + ·) 0 = m at hlt hd
    have hn := hf n
    simp only [List.map_cons, List.map_nil, List.foldl_cons, List.foldl_nil]
    refine ⟨by rw [pow_succ]; nlinarith, fun b hb => ?_⟩
    obtain rfl | hlt' := Nat.eq_or_lt_of_le (Nat.lt_succ_iff.1 hb)
    · rw [Nat.add_mul_div_right _ _ (by positivity), Nat.div_eq_of_lt hlt, Nat.zero_add, Nat.mod_eq_of_lt hn]
    · obtain ⟨d, rfl⟩ := Nat.exists_eq_add_of_lt hlt'
      have e : f (b + d + 1) * 16 ^ (b + d + 1) = f (b + d + 1) * 16 ^ d * 16 * 16 ^ b := by ring
      rw [e, Nat.add_mul_div_right _ _ (by positivity), Nat.add_mul_mod_self_right, hd b hlt']

theorem roleCode_lt (r : Role) : r.code < 16 := by cases r <;> decide

theorem roleWord_digit (k : Core) (first b : Nat) (hb : b < 16) :
    (roleWord k first).toNat / 16 ^ b % 16 = (k.role (first + b)).code := by
  obtain ⟨hlt, hd⟩ := hexSum_digit (fun i => (k.role (first + i)).code) (fun i => roleCode_lt _) 16
  rw [roleWord, BitVec.toNat_ofNat, Nat.mod_eq_of_lt (hlt.trans_eq (by norm_num)), hd b hb]

theorem csrRead_accStatus (s : State) (c x i : Nat) (hi : i < 16) : csrRead s c x (0x240 + i) =
    if i < (s.core c).wide.acc.rows then ((s.core c).wide.acc.st.getD i 0).setWidth 64 else 0 := by
  unfold csrRead
  simp only
  repeat rw [if_neg (by omega)]
  rw [if_pos (by omega), Nat.add_sub_cancel_left]

theorem csrRead_wpBase (s : State) (c x i : Nat) (hi : i < 4) : csrRead s c x (0x4A0 + i) = (s.core c).wpBase.getD i 0 := by
  unfold csrRead
  simp only
  repeat rw [if_neg (by omega)]
  rw [if_pos (by omega), Nat.add_sub_cancel_left]

theorem csrRead_wpCtl (s : State) (c x i : Nat) (hi : i < 4) : csrRead s c x (0x4A8 + i) = (s.core c).wpCtl.getD i 0 := by
  unfold csrRead
  simp only
  repeat rw [if_neg (by omega)]
  rw [if_pos (by omega), Nat.add_sub_cancel_left]

theorem toNat_csr (a i : Nat) (h : a + i < 4096) : (BitVec.ofNat 12 (a + i)).toNat = a + i := by
  rw [BitVec.toNat_ofNat, Nat.mod_eq_of_lt h]

theorem csrAllowed_accStatus : ∀ i < 16, csrAllowed .u (0x240 + i) false = true := by decide

theorem csrAllowed_watch (write : Bool) :
    ∀ i < 4, csrAllowed .s (0x4A0 + i) write = true ∧ csrAllowed .s (0x4A8 + i) write = true := by
  revert write; decide

theorem Priv.one_le_code {p : Priv} (h : p ≠ .u) : Priv.s.code ≤ p.code := by cases p <;> simp_all [Priv.code]

theorem csrReadsGiveTheRegister : CsrReadsGiveTheRegister := by
  intro s rd hu k g
  have hg : ∀ (q : Priv) (a : BitVec 12) (v : Word), q.code ≤ s.me.priv.code → csrAllowed q a.toNat false = true →
      csrRead s s.cur.1 s.cur.2 a.toNat = v → g a v :=
    fun q a v hq ha hv => csrr_gives hu (csrAllowed_of_le q hq ha) hv
  have hU : Priv.u.code ≤ s.me.priv.code := Nat.zero_le _
  refine ⟨⟨hg .u _ _ hU rfl rfl, hg .u _ _ hU rfl rfl, hg .u _ _ hU rfl rfl, hg .u _ _ hU rfl rfl, hg .u _ _ hU rfl rfl,
    hg .u _ _ hU rfl rfl, hg .u _ _ hU rfl rfl, hg .u _ _ hU rfl rfl, hg .u _ _ hU rfl rfl, hg .u _ _ hU rfl rfl, fun i hi => ?_,
    roleWord k 0, roleWord k 16, hg .u _ _ hU rfl rfl, hg .u _ _ hU rfl rfl, fun b hb => ⟨?_, roleWord_digit k 16 b hb⟩⟩,
    fun hp => ?_, fun hp => ?_⟩
  · refine hg .u _ _ hU ?_ ?_ <;> rw [toNat_csr 0x240 i (by omega)]
    · exact csrAllowed_accStatus i hi
    · exact csrRead_accStatus _ _ _ i hi
  · simpa using roleWord_digit k 0 b hb
  · have hS := Priv.one_le_code hp
    refine ⟨hg .s _ _ hS rfl rfl, hg .s _ _ hS rfl rfl, hg .s _ _ hS rfl rfl, hg .s _ _ hS rfl rfl, hg .s _ _ hS rfl rfl,
      hg .s _ _ hS rfl rfl, hg .s _ _ hS rfl rfl, hg .s _ _ hS rfl rfl, hg .s _ _ hS rfl rfl, hg .s _ _ hS rfl rfl,
      fun i hi => ⟨?_, ?_⟩, hg .s _ _ hS rfl rfl⟩
    · refine hg .s _ _ hS ?_ ?_ <;> rw [toNat_csr 0x4A0 i (by omega)]
      · exact (csrAllowed_watch false i hi).1
      · exact csrRead_wpBase _ _ _ i hi
    · refine hg .s _ _ hS ?_ ?_ <;> rw [toNat_csr 0x4A8 i (by omega)]
      · exact (csrAllowed_watch false i hi).2
      · exact csrRead_wpCtl _ _ _ i hi
  · have hH : Priv.h.code ≤ s.me.priv.code := by rw [hp]
    exact ⟨hg .h _ _ hH rfl rfl, hg .h _ _ hH rfl rfl, hg .h _ _ hH rfl rfl, hg .h _ _ hH rfl rfl, hg .h _ _ hH rfl rfl,
      hg .h _ _ hH rfl rfl, hg .h _ _ hH rfl rfl⟩

/-! ## Writes -/

/-- A permitted CSRW, CSRS or CSRC of a register that no other device's bank watches. -/
theorem csrModify_allowed {s : State} {a : BitVec 12} (i : Instr) (rd : Reg) (wr : Bool) (f : Word → Word)
    (ha : csrAllowed s.me.priv a.toNat true = true) (hf : wpFar s a.toNat = false) :
    csrModify i rd a wr f s = .next ((if wr then csrWrite s s.cur.1 s.cur.2 a.toNat (f (csrRead s s.cur.1 s.cur.2 a.toNat)) else s).ret
      i rd (csrRead s s.cur.1 s.cur.2 a.toNat)) := by
  simp [csrModify, ha, hf, State.holdFor]

/-- A register of the context: its write replaces the context. -/
theorem ret_setMe (s : State) (k : Ctx) (i : Instr) (rd : Reg) (v : Word) :
    (s.setMe k).ret i rd v = s.setMe (advance (xwrite k rd v) (byteLen i)) := by
  show (s.setMe k).setMe _ = _
  rw [State.setMe_setMe, State.me_setMe]

theorem csrWrites_of {s : State} {a : BitVec 12} {rd rs1 : Reg} {old : Word} {put : Word → Ctx}
    (ha : csrAllowed s.me.priv a.toNat true = true) (hf : wpFar s a.toNat = false) (hr : csrRead s s.cur.1 s.cur.2 a.toNat = old)
    (hw : ∀ v, csrWrite s s.cur.1 s.cur.2 a.toNat v = s.setMe (put v)) : CsrWrites s a rd rs1 old put := by
  subst hr
  refine ⟨becomes_setMe ?_, becomes_setMe ?_, becomes_setMe ?_⟩
  · rw [exec_csrw, csrModify_allowed _ _ _ _ ha hf, if_pos rfl, hw, ret_setMe]; rfl
  · rw [exec_csrs, csrModify_allowed _ _ _ _ ha hf, hw]
    by_cases h : rs1 = 0
    · simp only [h, bne_self_eq_false, Bool.false_eq_true, if_false, if_true]; rfl
    · simp only [h, bne_iff_ne, ne_eq, not_false_eq_true, if_true, if_false, ret_setMe]; rfl
  · rw [exec_csrc, csrModify_allowed _ _ _ _ ha hf, hw]
    by_cases h : rs1 = 0
    · simp only [h, bne_self_eq_false, Bool.false_eq_true, if_false, if_true]; rfl
    · simp only [h, bne_iff_ne, ne_eq, not_false_eq_true, if_true, if_false, ret_setMe]; rfl

theorem bits_low (v w : Nat) : bits v 0 w = v % 2 ^ w := by simp [bits]

theorem statusWrite_eq (old v : Word) (top : Nat) : statusWrite old v top =
    BitVec.ofNat 64 (4 * (if v.toNat / 4 % 4 ≤ top then v.toNat / 4 % 4 else old.toNat / 4 % 4) + v.toNat % 4) := by
  simp only [statusWrite, bits_low]
  rfl

theorem csrWrite_frm (s : State) (v : Word) : csrWrite s s.cur.1 s.cur.2 0x001 v =
    s.setMe { s.me with frm := if v.toNat % 8 ≤ 4 then v.setWidth 3 else s.me.frm } := by
  show s.setMe { s.me with frm := if bits v.toNat 0 3 ≤ 4 then BitVec.ofNat 3 v.toNat else s.me.frm } = _
  rw [bits_low, BitVec.ofNat_toNat]
  rfl

theorem csrWritesFollowTheFields : CsrWritesFollowTheFields := by
  intro s rd rs1 m st cur
  have hw : ∀ (q : Priv) (a : BitVec 12) (old : Word) (put : Word → Ctx), q.code ≤ s.me.priv.code →
      csrAllowed q a.toNat true = true → wpFar s a.toNat = false → csrRead s s.cur.1 s.cur.2 a.toNat = old →
      (∀ v, csrWrite s s.cur.1 s.cur.2 a.toNat v = s.setMe (put v)) → CsrWrites s a rd rs1 old put :=
    fun q a old put hq ha hf hr hv => csrWrites_of (csrAllowed_of_le q hq ha) hf hr hv
  have hU : Priv.u.code ≤ s.me.priv.code := Nat.zero_le _
  refine ⟨⟨hw .u _ _ _ hU rfl rfl rfl (csrWrite_frm s), hw .u _ _ _ hU rfl rfl rfl fun v => rfl, hw .u _ _ _ hU rfl rfl rfl fun v => rfl⟩,
    fun hp => ?_, fun hp => ?_⟩
  · have hS := Priv.one_le_code hp
    refine ⟨hw .s _ _ _ hS rfl rfl rfl fun v => ?_, hw .s _ _ _ hS rfl rfl rfl fun v => rfl, hw .s _ _ _ hS rfl rfl rfl fun v => rfl,
      hw .s _ _ _ hS rfl rfl rfl fun v => rfl, hw .s _ _ _ hS rfl rfl rfl fun v => rfl, hw .s _ _ _ hS rfl rfl rfl fun v => rfl,
      hw .s _ _ _ hS rfl rfl rfl fun v => ?_, hw .s _ _ _ hS rfl rfl rfl fun v => ?_⟩
    · show s.setMe { s.me with status := statusWrite s.me.status v 1 } = _
      rw [statusWrite_eq]
    · show s.setMe { s.me with cclass := if classHeld s s.myCore.part (bits v.toNat 0 4) then v.setWidth 4 else s.me.cclass } = _
      rw [bits_low]; rfl
    · show s.setMe { s.me with rescls := if bits v.toNat 0 2 ≤ 2 then v.setWidth 2 else s.me.rescls } = _
      rw [bits_low]; rfl
  · have hH : Priv.h.code ≤ s.me.priv.code := by rw [hp]
    refine ⟨hw .h _ _ _ hH rfl rfl rfl fun v => ?_, hw .h _ _ _ hH rfl rfl rfl fun v => rfl, hw .h _ _ _ hH rfl rfl rfl fun v => rfl,
      hw .h _ _ _ hH rfl rfl rfl fun v => rfl⟩
    show s.setMe { s.me with hstatus := statusWrite s.me.hstatus v 2 } = _
    rw [statusWrite_eq]

/-! ## A core and one of its contexts written -/

/-- A core written beside its contexts: its contexts are as before. -/
theorem ctx_setCore_of_ctxs {s : State} {c : Nat} {k : Core} (hk : k.ctxs = (s.core c).ctxs) (d y : Nat) :
    (s.setCore c k).ctx d y = s.ctx d y := by
  rw [State.ctx_setCore]
  split
  next e => subst e; simp [Core.ctx, State.ctx, hk]
  next => rfl

theorem setsCore_setCtx {i : Instr} {s : State} {c x : Nat} {k : Core} {w : Ctx} (hk : k.ctxs = (s.core c).ctxs)
    (h : exec i s = .next ((s.setCore c k).setCtx c x w)) : SetsCore i s c k.shell x w := by
  refine ⟨_, h, rfl, ?_, ?_, fun y hy => ?_, fun d hd => ?_⟩
  · rw [State.core_setCtx, if_pos rfl, State.core_setCore, if_pos rfl]; rfl
  · rw [State.ctx_setCtx, if_pos ⟨rfl, rfl⟩]
  · rw [State.ctx_setCtx, if_neg fun e => hy e.2, ctx_setCore_of_ctxs hk]
  · rw [State.core_setCtx, if_neg hd, State.core_setCore, if_neg hd]

/-- A write that keeps the contexts, then the instruction's end. -/
theorem setsCore_setMe {i : Instr} {s : State} {k : Core} {f : Ctx → Ctx} (hk : k.ctxs = s.myCore.ctxs)
    (h : exec i s = .next ((s.setMyCore k).setMe (f (s.setMyCore k).me))) : SetsCore i s s.cur.1 k.shell s.cur.2 (f s.me) := by
  rw [show (s.setMyCore k).me = s.me from ctx_setCore_of_ctxs hk _ _] at h
  exact setsCore_setCtx hk h

theorem setsCore_ret {i j : Instr} {s : State} {k : Core} {rd : Reg} {v : Word} (hk : k.ctxs = s.myCore.ctxs)
    (h : exec i s = .next ((s.setMyCore k).ret j rd v)) :
    SetsCore i s s.cur.1 k.shell s.cur.2 (advance (xwrite s.me rd v) (byteLen j)) :=
  setsCore_setMe (f := fun m => advance (xwrite m rd v) (byteLen j)) hk h

/-! ## TVEC, HTVEC and HDELEG -/

/-- The two low bits of a word, and the rest. -/
theorem word_low_bits (v w : Word) : (v &&& ~~~3) ||| (w &&& 3) = BitVec.ofNat 64 (v.toNat / 4 * 4 + w.toNat % 4) := by
  refine BitVec.eq_of_getLsbD_eq fun i hi => ?_
  have e : v.toNat / 4 * 4 + w.toNat % 4 = 2 ^ 2 * (v.toNat / 4) + w.toNat % 4 := by omega
  have h3 : BitVec.getLsbD (3 : Word) i = decide (i < 2) := by
    rw [show (3 : Word) = BitVec.ofNat 64 (2 ^ 2 - 1) from rfl, BitVec.getLsbD_ofNat, Nat.testBit_two_pow_sub_one]
    simp [hi]
  have hw : (w.toNat % 4).testBit i = (decide (i < 2) && w.getLsbD i) := Nat.testBit_mod_two_pow _ 2 i
  have hv : 2 ≤ i → (v.toNat / 4).testBit (i - 2) = v.getLsbD i := fun h => by
    rw [show v.toNat / 4 = v.toNat / 2 ^ 2 from rfl, Nat.testBit_div_two_pow, Nat.sub_add_cancel h]; rfl
  rw [e, BitVec.getLsbD_or, BitVec.getLsbD_and, BitVec.getLsbD_and, BitVec.getLsbD_not, BitVec.getLsbD_ofNat, h3,
    Nat.testBit_two_pow_mul_add _ (show w.toNat % 4 < 2 ^ 2 by omega), hw]
  by_cases h2 : i < 2
  · simp [hi, h2]
  · simp [hi, h2, hv (by omega)]

theorem tvecWrite_eq (old v : Word) : tvecWrite old v =
    if v.toNat % 4 ≤ 1 then v else BitVec.ofNat 64 (v.toNat / 4 * 4 + old.toNat % 4) := by
  have hm : v.extractLsb' 0 2 ≤ 1 ↔ v.toNat % 4 ≤ 1 := by simp [BitVec.le_def]
  unfold tvecWrite
  split
  next h => rw [if_pos (hm.1 h), word_low_bits, Nat.div_add_mod', BitVec.ofNat_toNat, BitVec.setWidth_eq]
  next h => rw [if_neg (fun e => h (hm.2 e)), word_low_bits]

/-- A CSR that the contexts of a core share. -/
theorem csrWrites_core {s : State} {a : BitVec 12} {rd rs1 : Reg} {old : Word} {put : Word → Core}
    (ha : csrAllowed s.me.priv a.toNat true = true) (hf : wpFar s a.toNat = false) (hr : csrRead s s.cur.1 s.cur.2 a.toNat = old)
    (hw : ∀ v, csrWrite s s.cur.1 s.cur.2 a.toNat v = s.setMyCore (put v)) (hk : ∀ v, (put v).ctxs = s.myCore.ctxs) :
    let x := xread s.me rs1
    let done := advance (xwrite s.me rd old) 4
    SetsCore (.csrw rd a rs1) s s.cur.1 (put x).shell s.cur.2 done ∧
    (rs1 ≠ 0 → SetsCore (.csrs rd a rs1) s s.cur.1 (put (old ||| x)).shell s.cur.2 done ∧
      SetsCore (.csrc rd a rs1) s s.cur.1 (put (old &&& ~~~x)).shell s.cur.2 done) ∧
    (rs1 = 0 → Becomes (.csrs rd a rs1) s done ∧ Becomes (.csrc rd a rs1) s done) := by
  subst hr
  refine ⟨setsCore_ret (j := .csrw rd a rs1) (hk _) ?_, fun h => ⟨setsCore_ret (j := .csrs rd a rs1) (hk _) ?_,
    setsCore_ret (j := .csrc rd a rs1) (hk _) ?_⟩, fun h => ⟨becomes_setMe ?_, becomes_setMe ?_⟩⟩
  · rw [exec_csrw, csrModify_allowed _ _ _ _ ha hf, if_pos rfl, hw]
  · rw [exec_csrs, csrModify_allowed _ _ _ _ ha hf, if_pos (by simpa using h), hw]
  · rw [exec_csrc, csrModify_allowed _ _ _ _ ha hf, if_pos (by simpa using h), hw]
  · rw [exec_csrs, csrModify_allowed _ _ _ _ ha hf, if_neg (by simp [h])]; rfl
  · rw [exec_csrc, csrModify_allowed _ _ _ _ ha hf, if_neg (by simp [h])]; rfl

theorem csrWritesOfTheCore : CsrWritesOfTheCore := by
  intro s rd rs1 k x vec claim
  have hvec : ∀ old v, vec old v = tvecWrite old v := fun old v => (tvecWrite_eq old v).symm
  refine ⟨fun hp => ?_, fun hp => ⟨?_, ?_⟩⟩
  · have h := csrWrites_core (s := s) (a := 0x405) (rd := rd) (rs1 := rs1) (put := fun v => { s.myCore with tvec := tvecWrite s.myCore.tvec v })
      (csrAllowed_of_le .s (Priv.one_le_code hp) rfl) rfl rfl (fun v => rfl) (fun v => rfl)
    simp only [claim, hvec]
    exact h
  · have h := csrWrites_core (s := s) (a := 0x805) (rd := rd) (rs1 := rs1) (put := fun v => { s.myCore with htvec := tvecWrite s.myCore.htvec v })
      (csrAllowed_of_le .h (by rw [hp]) rfl) rfl rfl (fun v => rfl) (fun v => rfl)
    simp only [claim, hvec]
    exact h
  · exact csrWrites_core (s := s) (a := 0x802) (rd := rd) (rs1 := rs1) (put := fun v => { s.myCore with hdeleg := v })
      (csrAllowed_of_le .h (by rw [hp]) rfl) rfl rfl (fun v => rfl) (fun v => rfl)

/-- Settles O12: an access that the checks let pass is a read of `csrRead` and a write of `csrWrite`, address by address. -/
theorem csrAccessesReadAndWrite : Obligations.CsrAccessesReadAndWrite :=
  ⟨csrReadsGiveTheRegister, csrWritesFollowTheFields, csrWritesOfTheCore⟩

end Sys2Proof.Machine

/-! # Mailboxes (R35, R123, R124) -/

namespace Sys2Proof.Machine

open Sys2Proof

theorem exec_mbw (n : BitVec 3) (rs1 : Reg) (s : State) : exec (.mbw n rs1) s = execMbw n rs1 s := rfl
theorem exec_mbr (rd : Reg) (n : BitVec 3) (s : State) : exec (.mbr rd n) s = execMbr rd n s := rfl
theorem exec_mbq (rd : Reg) (n : BitVec 3) (s : State) : exec (.mbq rd n) s = execMbq rd n s := rfl
theorem exec_mbwComplete (c x : Nat) (s : State) : exec (.mbwComplete c x) s = execMbwComplete c x s := rfl
theorem exec_mbrComplete (c x : Nat) (s : State) : exec (.mbrComplete c x) s = execMbrComplete c x s := rfl
theorem exec_mailboxDeposit (c mb : Nat) (v : Word) (ev : EvKey) (l : LatchId) (arm : Nat) (s : State) :
    exec (.mailboxDeposit c mb v ev l arm) s = execMailboxDeposit c mb v ev l arm s := rfl

theorem mbFill_ctxs (k : Core) (n : Nat) (v : Word) : (mbFill k n v).ctxs = k.ctxs := rfl
theorem mbEmpty_ctxs (k : Core) (n : Nat) : (mbEmpty k n).ctxs = k.ctxs := rfl

/-- Each of the eight mailboxes takes its value. -/
theorem mbFill_shell (k : Core) (n : BitVec 3) (v : Word) : (mbFill k n.toNat v).shell =
    { k.shell with mb := k.mb.set n.toNat v n.isLt, mbFull := k.mbFull ||| ((1 : BitVec 8) <<< n.toNat) } := by
  have h : n.toNat < 8 := n.isLt
  simp [mbFill, Core.shell, h]

theorem mbValue_toNat (k : Core) (n : BitVec 3) : mbValue k n.toNat = k.mb[n.toNat]'n.isLt := dif_pos n.isLt

theorem confirmLanding_agenda (s : State) (ev : EvKey) (l : LatchId) (arm : Nat) : ∃ more,
    (confirmLanding s ev l arm).agenda = s.agenda ++ .homeDeliveryConfirmed ev l arm :: more ∧
      ((s.latch l).sole = false → more = []) := by
  refine ⟨_, rfl, fun h => ?_⟩
  simp [h]

/-- Settles O13: each instruction and each end of a wait is the mailbox written and one context, and a deposit the mailbox alone. -/
theorem mailboxesPassWords : Obligations.MailboxesPassWords := by
  intro s rd rs1 n c x v ev l arm full filled emptied k w
  have hfilled : ∀ k v, filled k v = (mbFill k n.toNat v).shell := fun k v => (mbFill_shell k n v).symm
  have hat : ∀ k, mbFullAt k n.toNat = full k := fun k => rfl
  simp only [hfilled]
  refine ⟨fun h => ?_, fun h => becomes_setMe ?_, fun h => ?_, fun h => becomes_setMe ?_, fun hu => gives_ret (j := .mbq rd n) ?_ rfl,
    fun hw h => ?_, fun hw h => ?_, fun h hr => ?_⟩
  · refine setsCore_setMe (f := fun m => advance m 4) (mbFill_ctxs ..) ?_
    rw [exec_mbw]; simp [execMbw, hat, h]; rfl
  · rw [exec_mbw]; simp [execMbw, hat, h, State.hold]
  · rw [← mbValue_toNat]
    refine setsCore_ret (j := .mbr rd n) (mbEmpty_ctxs ..) ?_
    rw [exec_mbr]; simp [execMbr, hat, h]
  · rw [exec_mbr]; simp [execMbr, hat, h, State.hold]
  · rw [exec_mbq]; simp [execMbq, hat, hu.replayFull, hu.input]
  · refine setsCore_setCtx (k := mbFill (s.core c) n.toNat v) (mbFill_ctxs ..) ?_
    rw [exec_mbwComplete]
    simp only [execMbwComplete, show (s.ctx c x).wait = _ from hw, hat, show full (s.core c) = _ from h, Bool.false_eq_true, if_false,
      State.updCtx, ctx_setCore_of_ctxs (mbFill_ctxs _ _ _)]
    rfl
  · rw [← mbValue_toNat]
    refine setsCore_setCtx (k := mbEmpty (s.core c) n.toNat) (mbEmpty_ctxs ..) ?_
    rw [exec_mbrComplete]
    simp only [execMbrComplete, show (s.ctx c x).wait = _ from hw, hat, show full (s.core c) = _ from h, if_true,
      State.updCtx, ctx_setCore_of_ctxs (mbEmpty_ctxs _ _)]
    rfl
  · obtain ⟨more, ha, hm⟩ := confirmLanding_agenda (s.setCore c (mbFill (s.core c) n.toNat v)) ev l arm
    refine ⟨_, more, ?_, ?_, ha, hm, fun d y => ctx_setCore_of_ctxs (mbFill_ctxs ..) d y, fun d hd => ?_⟩
    · rw [exec_mailboxDeposit]; simp [execMailboxDeposit, hat, show full (s.core c) = _ from h, hr]
    · exact congrArg Core.shell ((State.core_setCore ..).trans (if_pos rfl))
    · exact (State.core_setCore ..).trans (if_neg hd)

end Sys2Proof.Machine

/-! # Traps and returns (R19-R21, R126) -/

namespace Sys2Proof.Machine

open Sys2Proof

/-! ## The words of a trap entry and of a return -/

theorem clear_low_bits (v : Word) : v &&& ~~~3 = BitVec.ofNat 64 (v.toNat / 4 * 4) := by
  simpa using word_low_bits v 0

theorem extractLsb'_toNat_div (v : Word) (lo w : Nat) : (v.extractLsb' lo w).toNat = v.toNat / 2 ^ lo % 2 ^ w := by
  rw [BitVec.extractLsb'_toNat, Nat.shiftRight_eq_div_pow]

theorem statusEnter_eq (st : Word) (p : Priv) : statusEnter st p = BitVec.ofNat 64 (4 * p.code + 2 * (st.toNat % 2)) := by
  rw [statusEnter, extractLsb'_toNat_div, Nat.pow_zero, Nat.div_one]
  rfl

theorem statusReturn_eq (st : Word) : statusReturn st = BitVec.ofNat 64 (2 + st.toNat / 2 % 2) := by
  rw [statusReturn, extractLsb'_toNat_div]
  rfl

theorem trapVector_eq (tvec : Word) (code : Nat) (isAsync : Bool) : trapVector tvec code isAsync =
    let base := BitVec.ofNat 64 (tvec.toNat / 4 * 4)
    if tvec.toNat % 4 = 1 then base + BitVec.ofNat 64 (256 * (if isAsync then 2 else if code ≤ 0x0D then 0 else 1)) else base := by
  have h : tvec.extractLsb' 0 2 = 1 ↔ tvec.toNat % 4 = 1 := by
    rw [← BitVec.toNat_inj, extractLsb'_toNat_div, Nat.pow_zero, Nat.div_one]
    rfl
  simp only [trapVector, clear_low_bits, h]
  rfl

theorem trapTarget_eq (hdeleg : Word) (p : Priv) (code : Nat) :
    (trapTarget hdeleg p code = .h ↔ p = .h ∨ 64 ≤ code ∨ hdeleg.getLsbD code = false) ∧
    (trapTarget hdeleg p code = .s ↔ ¬(p = .h ∨ 64 ≤ code ∨ hdeleg.getLsbD code = false)) := by
  unfold trapTarget
  split <;> simp_all

theorem enterTrap_of_h {k : Core} {x : Ctx} {z : Cause} (h : trapTarget k.hdeleg x.priv z.code = .h) : enterTrap k x z =
    { x with hepc := x.pc, hcause := causeWord z, htval := z.tval, hfaultcap := faultcap z, hstatus := statusEnter x.hstatus x.priv, priv := .h,
             pc := trapVector k.htvec z.code z.isAsync, wait := .none, relDone := false, rdata := none, recd := none, half := none,
             fetched := [] } := by
  rw [enterTrap, h]

theorem enterTrap_of_s {k : Core} {x : Ctx} {z : Cause} (h : trapTarget k.hdeleg x.priv z.code = .s) : enterTrap k x z =
    { x with epc := x.pc, cause := causeWord z, tval := z.tval, faultcap := faultcap z, status := statusEnter x.status x.priv, priv := .s,
             pc := trapVector k.tvec z.code z.isAsync, wait := .none, relDone := false, rdata := none, recd := none, half := none,
             fetched := [] } := by
  rw [enterTrap, h]

/-! ## The entry -/

theorem Unlogged.of_eq {s t : State} {c : Nat} (h : Unlogged s c) (hw : t.wgs = s.wgs) (hc : (t.core c).wg = (s.core c).wg) :
    Unlogged t c := by
  have e : t.wgOf c = s.wgOf c := by simp only [State.wgOf, hw, hc]
  exact fun n w ht => h n w (e ▸ ht)

theorem Unlogged.all_off {s : State} {c : Nat} (h : Unlogged s c) : (s.wgOf c).all (·.2.mode == .off) = true := by
  cases e : s.wgOf c with
  | none => rfl
  | some p => simp [h p.1 p.2 e]

theorem Unlogged.logTrap {s : State} {c : Nat} (h : Unlogged s c) (x code : Nat) (pc : Word) : s.logTrap c x code pc = s := by
  simp [State.logTrap, h.all_off]

/-- An entry that is neither traced nor logged: the context enters, and a step of it ends. -/
theorem enterAt_quiet {s : State} {c x : Nat} {z : Cause} (ht : (s.core c).dbg.trctl.getLsbD 1 = false) (hu : Unlogged s c) :
    s.enterAt c x z = (s.setCtx c x (enterTrap (s.core c) (s.ctx c x) z)).updCore c fun k => k.stepped x := by
  have hc : ((s.setCtx c x (enterTrap (s.core c) (s.ctx c x) z)).updCore c fun k => k.stepped x).core c =
      ((s.core c).setCtx x (enterTrap (s.core c) (s.ctx c x) z)).stepped x := by simp
  have hu1 := hu.of_eq (t := (s.setCtx c x (enterTrap (s.core c) (s.ctx c x) z)).updCore c fun k => k.stepped x) rfl
    (by rw [hc]; rfl)
  have ht1 : (((s.setCtx c x (enterTrap (s.core c) (s.ctx c x) z)).updCore c fun k => k.stepped x).core c).dbg.trctl.getLsbD 1 = false := by
    rw [hc]; exact ht
  simp only [State.enterAt, State.traceIf, ht1, Bool.false_eq_true, if_false, hu1.logTrap]

theorem trapAt_quiet {s : State} {c x : Nat} {z : Cause} (hm : ¬(x = 0 ∧ midPass (s.core c) = true))
    (ht : (s.core c).dbg.trctl.getLsbD 1 = false) (hu : Unlogged s c) :
    s.trapAt c x z = (s.setCtx c x (enterTrap (s.core c) (s.ctx c x) z)).updCore c fun k => k.stepped x := by
  rw [State.trapAt, if_neg hm, enterAt_quiet ht hu]

theorem trapEntrySavesAndEnters : TrapEntrySavesAndEnters := by
  intro s c x z k toH word entered base group handler idle t
  refine ⟨fun hx hm => ?_, fun hm ht hu => ?_⟩
  · have e : t = s.setCtx c x { k with wait := .trapping z } := if_pos ⟨hx, hm⟩
    rw [e]
    exact ⟨onlyCtx_setCtx .., (State.ctx_setCtx ..).trans (if_pos ⟨rfl, rfl⟩)⟩
  · have e : t = _ := trapAt_quiet hm ht hu
    have hctx : ∀ y, t.ctx c y = if y = x then enterTrap (s.core c) k z else s.ctx c y := fun y => by
      rw [e, State.ctx_updCore, if_pos rfl, State.core_setCtx, if_pos rfl]
      exact Core.ctx_setCtx ..
    have hvec : ∀ v, trapVector v z.code z.isAsync = handler v := fun v => trapVector_eq v z.code z.isAsync
    refine ⟨by rw [e]; rfl, ?_, fun d hd => ?_, fun y hy => (hctx y).trans (if_neg hy), fun h => ?_, fun h => ?_⟩
    · rw [e, State.core_updCore, if_pos rfl, State.core_setCtx, if_pos rfl]; rfl
    · rw [e, State.core_updCore, if_neg hd, State.core_setCtx, if_neg hd]
    · rw [hctx, if_pos rfl, enterTrap_of_h ((trapTarget_eq ..).1.2 h), statusEnter_eq, hvec]; rfl
    · rw [hctx, if_pos rfl, enterTrap_of_s ((trapTarget_eq ..).2.2 h), statusEnter_eq, hvec]; rfl

/-! ## ERET -/

theorem exec_eret (s : State) : exec .eret s = execEret s := rfl

theorem Unlogged.setMe {s : State} {c : Nat} (h : Unlogged s c) (k : Ctx) : Unlogged (s.setMe k) c :=
  h.of_eq rfl (State.core_setCtx_field Core.wg (fun _ _ => rfl) ..)

theorem Unlogged.faultLog {s : State} (h : Unlogged s s.cur.1) (p : Priv) : faultLog p s = s := by
  rw [Machine.faultLog, if_pos h.all_off]

theorem Unlogged.eretLog {s : State} (h : Unlogged s s.cur.1) : eretLog s = s := by
  unfold Machine.eretLog
  split
  next n w e _ => rw [h n w e]
  next => rfl

theorem leaveTrap_of_s {x : Ctx} (h : x.priv = .s) : leaveTrap x =
    { x with pc := x.epc &&& ~~~3, priv := privOf (x.status.extractLsb' 2 2).toNat, status := statusReturn x.status } := by
  rw [leaveTrap, h]

theorem leaveTrap_of_h {x : Ctx} (h : x.priv = .h) : leaveTrap x =
    { x with pc := x.hepc &&& ~~~3, priv := privOf (x.hstatus.extractLsb' 2 2).toNat, hstatus := statusReturn x.hstatus } := by
  rw [leaveTrap, h]

theorem privOf_code (p : Priv) : privOf p.code = p := by cases p <;> rfl

/-- A return at S or H that no log takes note of. -/
theorem eret_becomes {s : State} (hu : Unlogged s s.cur.1) (h : s.me.priv ≠ .u) : Becomes .eret s (leaveTrap s.me) := by
  refine becomes_setMe ?_
  have hl : ∀ p, eretLog (faultLog p (s.setMe (leaveTrap s.me))) = s.setMe (leaveTrap s.me) := fun p => by
    have hm : Unlogged (s.setMe (leaveTrap s.me)) (s.setMe (leaveTrap s.me)).cur.1 := hu.setMe _
    rw [hm.faultLog, hm.eretLog]
  rw [exec_eret]
  unfold execEret
  split
  next e => exact absurd e h
  next => simp only [hu.replayFull, Bool.false_eq_true, if_false, hl]

theorem eretReturns : EretReturns := by
  intro s p k left at4
  refine ⟨fun h => ?_, fun hu h hp => ?_, fun hu h hp => ?_⟩
  · show exec .eret s = .next (s.ill .eret 6)
    rw [exec_eret]
    unfold execEret
    rw [show s.me.priv = .u from h]
  · have hq : privOf (s.me.status.toNat / 2 ^ 2 % 2 ^ 2) = p := (congrArg privOf hp.symm).trans (privOf_code p)
    have e : leaveTrap s.me = { k with pc := at4 k.epc, priv := p, status := left k.status } := by
      rw [leaveTrap_of_s h, extractLsb'_toNat_div, statusReturn_eq, clear_low_bits, hq]
    exact e ▸ eret_becomes hu (by rw [show s.me.priv = .s from h]; decide)
  · have hq : privOf (s.me.hstatus.toNat / 2 ^ 2 % 2 ^ 2) = p := (congrArg privOf hp.symm).trans (privOf_code p)
    have e : leaveTrap s.me = { k with pc := at4 k.hepc, priv := p, hstatus := left k.hstatus } := by
      rw [leaveTrap_of_h h, extractLsb'_toNat_div, statusReturn_eq, clear_low_bits, hq]
    exact e ▸ eret_becomes hu (by rw [show s.me.priv = .h from h]; decide)

/-- Settles O14: `enterTrap` and `leaveTrap` in the words of R19 and R21, where neither the trace nor a log adds to them. -/
theorem trapsEnterAndReturn : Obligations.TrapsEnterAndReturn := ⟨trapEntrySavesAndEnters, eretReturns⟩

end Sys2Proof.Machine

/-! # Asynchronous causes and uncorrectable errors (R18, R287, R329, R410) -/

namespace Sys2Proof.Machine

open Sys2Proof

theorem exec_asyncTrapEntry (c x : Nat) (s : State) : exec (.asyncTrapEntry c x) s = execAsyncTrapEntry c x s := rfl

/-! ## Asynchronous causes (R18) -/

/-- R18: below the target level a cause is taken, at it where IE is set. -/
theorem takes_iff (k : Core) (x : Ctx) (z : Cause) :
    let toH := x.priv = .h ∨ 64 ≤ z.code ∨ k.hdeleg.getLsbD z.code = false
    takes k x z = true ↔ (toH ∧ (x.priv ≠ .h ∨ x.hstatus.getLsbD 0 = true)) ∨ (¬toH ∧ (x.priv = .u ∨ x.status.getLsbD 0 = true)) := by
  intro toH
  by_cases h : toH
  · have ht : trapTarget k.hdeleg x.priv z.code = .h := (trapTarget_eq ..).1.2 h
    have hp : x.priv.code < Priv.h.code ↔ x.priv ≠ .h := by cases x.priv <;> decide
    simp only [takes, ht, hp, h, true_and, not_true, false_and, or_false, reduceCtorEq, if_false]
    by_cases hx : x.priv = .h <;> simp [hx]
  · have ht : trapTarget k.hdeleg x.priv z.code = .s := (trapTarget_eq ..).2.2 h
    have hp : x.priv.code < Priv.s.code ↔ x.priv = .u := by cases x.priv <;> decide
    simp only [takes, ht, hp, h, not_false_iff, true_and, false_and, false_or, if_true]
    by_cases hx : x.priv = .u <;> simp [hx]

/-- The one cause that waits is taken next, where the context takes it. -/
theorem nextCause_single {s : State} {c x : Nat} {z : Cause} (hp : (s.ctx c x).pend = [z]) (hr : x = 0 → (s.core c).reports = []) :
    nextCause s c x = if takes (s.core c) (s.ctx c x) z then some z else none := by
  have hw : waitingCauses s c x = [z] := by
    unfold waitingCauses
    by_cases h : x = 0
    · simp [h, hr h, h ▸ hp]
    · simp [h, hp]
  rw [nextCause, hw]
  cases h : takes (s.core c) (s.ctx c x) z <;> simp [h]

theorem updCore_updCtx_self {s : State} {c x : Nat} {g : Ctx → Ctx} {f : Core → Core}
    (h : f ((s.core c).setCtx x (g (s.ctx c x))) = (s.core c).setCtx x (g (s.ctx c x))) :
    (s.updCtx c x g).updCore c f = s.updCtx c x g := by
  rw [State.updCore, State.core_updCtx, if_pos rfl, h]
  exact State.setCore_setCore ..

/-- A context that waits for nothing takes a cause: it is pending no more, and its trap is entered. -/
theorem takeCause_idle {s : State} {c x : Nat} {z : Cause} (hw : (s.ctx c x).wait = .none) (hp : (s.ctx c x).pend = [z])
    (hz : z.code ≠ 0x21) (hr : (s.core c).roleChange = none) :
    takeCause s c x z = (s.updCtx c x fun k => { k with pend := [] }).trapAt c x z := by
  have ha : abandonData s c x = s := by simp [abandonData, hw]
  have hd : dropCause z (s.ctx c x).pend = [] := by simp [hp, dropCause]
  have e1 : s.updCtx c x (fun k => { k with pend := dropCause z k.pend }) = s.updCtx c x fun k => { k with pend := [] } := by
    simp only [State.updCtx, hd]
  rw [takeCause, ha, e1, if_neg hz, updCore_updCtx_self]
  simp [Core.setCtx, hr]

/-- A context that waits for nothing is at a boundary. -/
theorem execAsyncTrapEntry_idle {s : State} {c x : Nat} {z : Cause} (hn : nextCause s c x = some z) (hw : (s.ctx c x).wait = .none) :
    execAsyncTrapEntry c x s = .next (takeCause s c x z) := by
  unfold execAsyncTrapEntry
  rw [hn]
  dsimp only
  rw [hw]
  have ha : abandonable .none = true := rfl
  rw [if_neg (by split <;> simp [ha])]
  rfl

theorem asyncCausesAreTaken : AsyncCausesAreTaken := by
  intro s c x z k toH taken hw hp hr hz hrc _
  have hn := nextCause_single hp hr
  have ht : takes (s.core c) k z = true ↔ taken := takes_iff (s.core c) k z
  refine ⟨fun h => ?_, fun h => ?_⟩
  · have hn' := hn.trans (if_pos (ht.2 h))
    rw [← takeCause_idle hw hp hz hrc]
    exact execAsyncTrapEntry_idle hn' hw
  · rw [if_neg fun e => h (ht.1 e)] at hn
    rw [exec_asyncTrapEntry, execAsyncTrapEntry, hn]

/-! ## Uncorrectable errors (R287, R329, R410) -/

theorem mem_nadd (l : List Nat) (k q : Nat) : q ∈ nadd l k ↔ q ∈ l ∨ q = k := by
  induction l with
  | nil => simp [nadd]
  | cons j t ih =>
    rw [nadd]
    split
    next e => subst e; simp only [List.mem_cons]; tauto
    next =>
      split
      · simp only [List.mem_cons]; tauto
      · simp only [List.mem_cons, ih]; tauto

/-- The error changes of the cores only poison: lines of the L1, and sectors of local banks. -/
theorem poisonedBy_core_field {α : Type} (g : Core → α) (hg : ∀ (k : Core) l p, g { k with l1 := l, locPoison := p } = g k) (s : State)
    (c : Nat) (agent : Gid) (reason a d : Nat) : g ((poisonedBy s c agent reason a).core d) = g (s.core d) := by
  unfold poisonedBy
  split
  · simp only
    split <;> (rw [State.core_updCore]; split)
    · next e => subst e; exact hg _ _ (s.core d).locPoison
    · rfl
    · next e => subst e; exact hg _ (s.core d).l1 _
    · rfl
  · rfl
  · rfl
  · simp only; split <;> rfl
  · rfl

theorem poisonedBy_ctx (s : State) (c : Nat) (agent : Gid) (reason a d e : Nat) :
    (poisonedBy s c agent reason a).ctx d e = s.ctx d e :=
  congrArg (tget Ctx.reset · e) (poisonedBy_core_field Core.ctxs (fun _ _ _ => rfl) ..)

theorem poisonedBy_mem (s : State) (c : Nat) (agent : Gid) (reason a : Nat) : (poisonedBy s c agent reason a).mem = s.mem := by
  unfold poisonedBy
  split <;> simp only <;> split <;> rfl

/-- A local bank that is no way of the L1 takes the poison of reason 1. -/
theorem mem_poisonedBy_locPoison (s : State) (c : Nat) (agent : Gid) (reason a q : Nat) :
    q ∈ ((poisonedBy s c agent reason a).core c).locPoison ↔ q ∈ (s.core c).locPoison ∨
      (reason = 1 ∧ (s.core c).role (a % 2 ^ 21 / 65536) ≠ .cache ∧ q = a % 2 ^ 21 / 256) := by
  by_cases h1 : reason = 1
  · subst h1
    show q ∈ (State.core (if (s.core c).role (a % 2 ^ 21 / 65536) = .cache then _ else _) c).locPoison ↔ _
    generalize a % 2 ^ 21 = lo
    split
    next h => simp [h]
    next h => simp [h, mem_nadd]
  · simp only [h1, false_and, or_false]
    unfold poisonedBy
    split
    · exact absurd rfl h1
    · rfl
    · rfl
    · simp only; split <;> rfl
    · rfl

theorem mem_poisonedBy_l1 {s : State} {c a : Nat} (agent : Gid) (h : (s.core c).role (a % 2 ^ 21 / 65536) = .cache)
    (e : Nat × Sector) : e ∈ ((poisonedBy s c agent 1 a).core c).l1 ↔ ∃ u, (e.1, u) ∈ (s.core c).l1 ∧
      e.2 = if liesAt (a % 2 ^ 21) (e.1, u) then { u with pois := true, hurt := true } else u := by
  have hl : ((poisonedBy s c agent 1 a).core c).l1 = (s.core c).l1.map fun e =>
      if liesAt (a % 2 ^ 21) e then (e.1, { e.2 with pois := true, hurt := true }) else e := by
    show (State.core (if (s.core c).role (a % 2 ^ 21 / 65536) = .cache then _ else _) c).l1 = _
    rw [if_pos h, State.core_updCore, if_pos rfl]
  rw [hl, List.mem_map]
  constructor
  · rintro ⟨⟨n, u⟩, hu, rfl⟩
    refine ⟨u, ?_, ?_⟩ <;> split <;> simp_all
  · rintro ⟨u, hu, he⟩
    refine ⟨(e.1, u), hu, ?_⟩
    split at he
    next hw => exact (if_pos hw).trans (Prod.ext rfl he.symm)
    next hw => exact (if_neg hw).trans (Prod.ext rfl he.symm)

theorem mem_poisonedBy_memPoison (s : State) (c : Nat) (agent : Gid) (reason a q : Nat) :
    q ∈ (poisonedBy s c agent reason a).memPoison ↔ q ∈ s.memPoison ∨ ((reason = 2 ∨ reason = 3) ∧ q = a / 256) := by
  unfold poisonedBy
  split
  · simp only; split <;> simp
  · simp [mem_nadd]
  · simp [mem_nadd]
  · simp only; split <;> simp
  · simp_all

/-- Reason 4 ends the command that the engine runs. -/
theorem poisonedBy_abort {s : State} {c : Nat} {agent : Gid} {a : Nat} (h : gidCtx agent = 11) (v : CopyRun)
    (hv : ((poisonedBy s c agent 4 a).cluster (clusterOf (gidCore agent))).copy.run = some v) : v.abort = true := by
  have hg : (poisonedBy s c agent 4 a).cluster (clusterOf (gidCore agent)) = { s.cluster (clusterOf (gidCore agent)) with
      copy := { (s.cluster (clusterOf (gidCore agent))).copy with
        run := (s.cluster (clusterOf (gidCore agent))).copy.run.map fun r => { r with abort := true } } } := by
    show (State.cluster (if gidCtx agent = 11 then _ else _) _) = _
    rw [if_pos h, State.cluster_setCluster, if_pos rfl]
  rw [hg] at hv
  obtain ⟨r, -, rfl⟩ := Option.map_eq_some_iff.1 hv
  rfl

/-! ## Where the cause is left pending -/

theorem isHere_of_lt (s : State) (c : Nat) {x : Nat} (h : x < 16) : isHere s c x = true := by simp [isHere, h]

theorem liveAt_of_lt (s : State) (c : Nat) {x : Nat} (h : x < 16) : liveAt s c x = (s.ctx c x).live := by
  simp [liveAt, lent, isHere_of_lt s c h, Nat.mod_eq_of_lt h]

theorem onHolder_of_lt {c x : Nat} {f : State → State} {s : State} (h : x < 16) (hi : ((f s).core c).image = none) :
    onHolder c x f s = f s := by
  simp [onHolder, isHere_of_lt s c h, markHere, hi]

/-- R410: whom an error is reported to, where the records of its context are on its core. -/
theorem errorTaker_of_lt (s : State) (c : Nat) {x : Nat} (agent : Gid) (h : x < 16) :
    errorTaker s c x agent = if (s.ctx c x).live then (c, x)
      else if agent ≠ 0 ∧ (s.ctx (gidCore agent) 0).live then (gidCore agent, 0) else (c, 0) := by
  rw [errorTaker, liveAt_of_lt s c h, liveAt_of_lt s _ (show 0 < 16 by decide)]

theorem errorTaker_lt {s : State} {c x : Nat} {agent : Gid} (h : x < 16) : (errorTaker s c x agent).2 < 16 := by
  rw [errorTaker]
  split
  · exact h
  · split <;> exact (by decide : 0 < 16)

/-- The error leaves its cause with the context that it is reported to, on that context's core. -/
theorem execUncorrectable_here {s : State} {c x : Nat} {agent : Gid} {access : Access} {reason : Nat} {addr : Word} (h : x < 16)
    (hi : (s.core (errorTaker s c x agent).1).image = none) :
    let a := addr.toNat / 256 * 256
    let z : Cause := { cause 0x20 (BitVec.ofNat 64 a) with isAsync := true, agent := agent, access := access, reason := reason }
    execUncorrectable c x agent access reason addr s = .next ((poisonedBy s c agent reason a).updCtx (errorTaker s c x agent).1
      (errorTaker s c x agent).2 fun k => { k with pend := k.pend ++ [z] }) := by
  intro a z
  have hl := errorTaker_lt (s := s) (c := c) (agent := agent) h
  have hi' : ((poisonedBy s c agent reason a).core (errorTaker s c x agent).1).image = none :=
    (poisonedBy_core_field Core.image (fun _ _ _ => rfl) ..).trans hi
  rw [execUncorrectable, onHolder_of_lt hl, Nat.mod_eq_of_lt hl]
  simp only [State.core_updCtx, if_true]
  exact hi'

/-- A field of a core that is not among its contexts keeps its value. -/
theorem core_updCtx_field {α : Type} (g : Core → α) (hg : ∀ (k : Core) x y, g (k.setCtx x y) = g k) (s : State) (c x : Nat) (f : Ctx → Ctx)
    (d : Nat) : g ((s.updCtx c x f).core d) = g (s.core d) := by
  rw [State.core_updCtx]
  split
  · next e => subst e; exact hg ..
  · rfl

theorem uncorrectableErrorsPoison_here (s : State) (c x : Nat) (agent : Gid) (access : Access) (reason : Nat) (addr : Word) :
    let a := addr.toNat / 256 * 256
    let lo := a % 2 ^ 21
    let z : Cause := { cause 0x20 (BitVec.ofNat 64 a) with isAsync := true, agent := agent, access := access, reason := reason }
    let y := errorTaker s c x agent
    let t := (poisonedBy s c agent reason a).updCtx y.1 y.2 fun k => { k with pend := k.pend ++ [z] }
    let cache := (s.core c).role (lo / 65536) = .cache
    t.ctx y.1 y.2 = { s.ctx y.1 y.2 with pend := (s.ctx y.1 y.2).pend ++ [z] } ∧
      (∀ d e, d ≠ y.1 ∨ e ≠ y.2 → t.ctx d e = s.ctx d e) ∧ t.mem = s.mem ∧ (∀ d, (t.core d).loc = (s.core d).loc) ∧
      (∀ q, q ∈ (t.core c).locPoison ↔ q ∈ (s.core c).locPoison ∨ (reason = 1 ∧ ¬cache ∧ q = lo / 256)) ∧
      (reason = 1 → cache → ∀ e, e ∈ (t.core c).l1 ↔ ∃ u, (e.1, u) ∈ (s.core c).l1 ∧
        e.2 = if u.way = lo / 65536 ∧ e.1 / 4 % 64 = lo / 1024 % 64 ∧ e.1 % 4 = lo / 256 % 4 then
          { u with pois := true, hurt := true } else u) ∧
      (∀ q, q ∈ t.memPoison ↔ q ∈ s.memPoison ∨ ((reason = 2 ∨ reason = 3) ∧ q = a / 256)) ∧
      (reason = 4 → gidCtx agent = 11 → ∀ v, (t.cluster (clusterOf (gidCore agent))).copy.run = some v → v.abort = true) := by
  intro a lo z y t cache
  have hctx := poisonedBy_ctx s c agent reason a
  refine ⟨?_, fun d e h => ?_, ?_, fun d => ?_, fun q => ?_, ?_, fun q => ?_, ?_⟩
  · rw [State.ctx_updCtx, if_pos ⟨rfl, rfl⟩, hctx]
  · rw [State.ctx_updCtx, if_neg (by tauto), hctx]
  · exact poisonedBy_mem ..
  · exact (core_updCtx_field Core.loc (fun _ _ _ => rfl) ..).trans (poisonedBy_core_field Core.loc (fun _ _ _ => rfl) ..)
  · rw [core_updCtx_field Core.locPoison fun _ _ _ => rfl]
    exact mem_poisonedBy_locPoison ..
  · rintro hr hc e
    rw [core_updCtx_field Core.l1 fun _ _ _ => rfl, hr, mem_poisonedBy_l1 agent hc]
    simp only [liesAt, Bool.and_eq_true, beq_iff_eq, and_assoc, lo]
  · exact mem_poisonedBy_memPoison ..
  · rintro rfl hg v hv
    exact poisonedBy_abort hg v hv

/-! ## Where the workgroup is parked on its core (R406) -/

theorem isHere_eq_false {s : State} {c x : Nat} (hc : c < 65536) (hx : 16 ≤ x) (hw : wgTag (s.core c) ≠ x / 16) : isHere s c x = false := by
  simp [isHere, hc, hx, Ne.symm hw]

theorem imageAt_parked {s : State} {c x : Nat} {m : Image} (hm : (s.core c).parked = some m) (hx : x / 16 = m.wg + 1) :
    imageAt s c x = some (.parked, m) := by
  simp only [imageAt, hm, hx, if_true]

/-- An answer's mark in a bank changes bytes alone. -/
theorem markBank_core_field {α : Type} (g : Core → α) (hg : ∀ (k : Core) l, g { k with loc := l } = g k) (s : State) (c : Nat)
    (b : Option Nat) (w : Bool) (d : Nat) : g ((markBank s c b w).core d) = g (s.core d) := by
  cases b with
  | none => rfl
  | some b =>
    rw [markBank, State.core_updCore]
    split
    · next e => subst e; exact hg ..
    · rfl

theorem putImage_parked_ctx (s : State) (c : Nat) (m : Image) (e : Nat) : (putImage s c .parked m).ctx c e = s.ctx c e := by
  refine congrArg (tget Ctx.reset · e) ((markBank_core_field Core.ctxs (fun _ _ => rfl) ..).trans ?_)
  rw [State.core_updCore, if_pos rfl]

theorem putImage_parked_parked (s : State) (c : Nat) (m : Image) : ((putImage s c .parked m).core c).parked = some m := by
  refine (markBank_core_field Core.parked (fun _ _ => rfl) ..).trans ?_
  rw [State.core_updCore, if_pos rfl]

/-- What an answer writes into the record of a parked context. -/
theorem onHolder_parked {s : State} {c x : Nat} {m : Image} (hh : isHere s c x = false) (hi : imageAt s c x = some (.parked, m))
    (f : Ctx → Ctx) : ∃ m', ((onHolder c x (fun t => t.updCtx c (x % 16) f) s).core c).parked = some m' ∧
      (∀ e, (onHolder c x (fun t => t.updCtx c (x % 16) f) s).ctx c e = s.ctx c e) ∧
      tget Ctx.reset m'.ctxs (x % 16) = f (tget Ctx.reset m.ctxs (x % 16)) := by
  simp only [onHolder, hh, hi, Bool.false_eq_true, if_false]
  refine ⟨_, putImage_parked_parked .., fun e => ?_, ?_⟩
  · rw [putImage_parked_ctx, State.ctx, State.core_setCore, if_pos rfl]
    rfl
  · rw [State.core_updCtx, if_pos rfl, State.core_setCore, if_pos rfl]
    exact (tget_tput ..).trans (by rw [if_pos rfl, State.ctx, State.core_setCore, if_pos rfl]; rfl)

theorem uncorrectable_parked {s : State} {c x : Nat} {m : Image} (agent : Gid) (access : Access) (reason : Nat) (addr : Word)
    (hc : c < 65536) (hx : 16 ≤ x) (hm : (s.core c).parked = some m) (hw : x / 16 = m.wg + 1) (ht : wgTag (s.core c) ≠ m.wg + 1)
    (hl : (tget Ctx.reset m.ctxs (x % 16)).live = true) :
    let a := addr.toNat / 256 * 256
    let z : Cause := { cause 0x20 (BitVec.ofNat 64 a) with isAsync := true, agent := agent, access := access, reason := reason }
    ∃ t m', execUncorrectable c x agent access reason addr s = .next t ∧ (t.core c).parked = some m' ∧ (∀ e, t.ctx c e = s.ctx c e) ∧
      (tget Ctx.reset m'.ctxs (x % 16)).pend = (tget Ctx.reset m.ctxs (x % 16)).pend ++ [z] := by
  intro a z
  have hi := imageAt_parked hm hw
  have hlive : liveAt s c x = true := by
    rw [liveAt, hi, lent, isHere_eq_false hc hx (hw ▸ ht), hi]
    rw [if_neg (by decide), State.ctx, State.core_setCore, if_pos rfl]
    rw [Option.isSome_some, Bool.or_true, Bool.true_and]
    exact hl
  have hd : errorTaker s c x agent = (c, x) := by rw [errorTaker, if_pos hlive]
  let p := poisonedBy s c agent reason a
  have hm' : (p.core c).parked = some m := (poisonedBy_core_field Core.parked (fun _ _ _ => rfl) ..).trans hm
  have ht' : wgTag (p.core c) ≠ m.wg + 1 := fun e => ht ((poisonedBy_core_field wgTag (fun _ _ _ => rfl) ..).symm.trans e)
  obtain ⟨m', h1, h2, h3⟩ := onHolder_parked (isHere_eq_false hc hx (hw ▸ ht')) (imageAt_parked hm' hw)
    fun k => { k with pend := k.pend ++ [z] }
  refine ⟨_, m', rfl, ?_, fun e => ?_, congrArg Ctx.pend h3⟩
  · rw [hd]; exact h1
  · rw [hd]; exact (h2 e).trans (poisonedBy_ctx ..)

theorem uncorrectableErrorsPoison : UncorrectableErrorsPoison := by
  intro s c x agent access reason addr m a lo z i y cache
  refine ⟨fun hx hi => ?_, fun hc hx hm hw ht hl => uncorrectable_parked agent access reason addr hc hx hm hw ht hl⟩
  have hx : x < 16 := by omega
  have hy : errorTaker s c x agent = y := errorTaker_of_lt s c agent hx
  rw [← hy] at hi ⊢
  exact ⟨_, execUncorrectable_here hx hi, uncorrectableErrorsPoison_here s c x agent access reason addr⟩

/-- Settles O16: a boundary takes the one pending cause where `takes` holds, and an error's cause waits where its context's records are. -/
theorem asynchronousCausesAndErrors : Obligations.AsynchronousCausesAndErrors := ⟨asyncCausesAreTaken, uncorrectableErrorsPoison⟩

end Sys2Proof.Machine

/-! # The wide queue and its entries (R27, R33, R134, R253-R261) -/

namespace Sys2Proof.Machine

open Sys2Proof

/-! ## Entering the queue (R27, R33) -/

/-- An instruction of opcodes 0x30 to 0x35 executes by entering the queue. -/
theorem exec_of_isWForm {i : Instr} (h : isWForm i = true) (s : State) : exec i s = enterW i s := by
  cases i with
  | vlda | vsta | vadd | vsub | vmul | vfma | vfms | vmax | vmin | vabs | vneg | vclamp | vscale | vdot | vand | vor | vxor | vshl | vshr | vsel
  | vcmp | vperm | vshuf | viota | vred | vbcast | vcvt | vcvtAuto | vexp2 | vlog2 | vrcp | vrsq | vtanh | vsig => rfl
  | _ => exact absurd h Bool.false_ne_true

theorem byteLen_of_isWForm {i : Instr} (h : isWForm i = true) : byteLen i = 4 := by
  cases i with
  | vlda | vsta | vadd | vsub | vmul | vfma | vfms | vmax | vmin | vabs | vneg | vclamp | vscale | vdot | vand | vor | vxor | vshl | vshr | vsel
  | vcmp | vperm | vshuf | viota | vred | vbcast | vcvt | vcvtAuto | vexp2 | vlog2 | vrcp | vrsq | vtanh | vsig => rfl
  | _ => exact absurd h Bool.false_ne_true

theorem wideEnter_helper {s : State} (h : s.cur.2 ≠ 0) (i : Instr) (f : WView → State) : s.wideEnter i f = .next (s.trap (illegal i 6)) := by
  rw [State.wideEnter, if_pos h]; rfl

theorem wideEnter_full {s : State} (h0 : s.cur.2 = 0) (h : 8 ≤ s.myCore.wide.queue.length) (i : Instr) (f : WView → State) :
    s.wideEnter i f = .next (s.setMe { s.me with wait := .wideFull }) := by
  rw [State.wideEnter, if_neg (not_not.2 h0), if_pos h]; rfl

theorem wideEnter_room {s : State} (h0 : s.cur.2 = 0) (h : s.myCore.wide.queue.length < 8) (i : Instr) (f : WView → State) :
    s.wideEnter i f = .next (f (queueView s s.cur.1)) := by
  rw [State.wideEnter, if_neg (not_not.2 h0), if_neg (Nat.not_le.2 h)]

theorem queues_enqueue {i : Instr} {s : State} {e : WEntry} (h : exec i s = .next (s.enqueue e)) (he : e.i = i) : Queues i s e := by
  subst he
  exact setsCore_setMe (f := fun m => advance m (byteLen e.i))
    (k := { s.myCore with wide := { s.myCore.wide with queue := s.myCore.wide.queue ++ [e] } }) rfl h

theorem wideInstructionsEnterTheQueue : WideInstructionsEnterTheQueue := by
  intro s i hi check
  have hx := exec_of_isWForm hi s
  refine ⟨fun h => hx.trans (wideEnter_helper h ..), fun h0 h => becomes_setMe (hx.trans (wideEnter_full h0 h ..)), fun h0 h => ?_⟩
  have he := hx.trans (wideEnter_room h0 h ..)
  refine ⟨fun z hz => ?_, fun v runs hv => ⟨byteLen_of_isWForm hi, s.wentry i 0 0 runs, queues_enqueue ?_ rfl, rfl, rfl, rfl⟩⟩
  · rw [show wformCheck s.myCore (queueView s s.cur.1) i = _ from hz] at he
    exact he
  · rw [show wformCheck s.myCore (queueView s s.cur.1) i = _ from hv] at he
    exact he

/-! ## Control entries (R153-R155, R256) -/

/-- A control instruction that its check lets pass queues its operand. -/
theorem takes_enterPlain {i : Instr} {s : State} {v : Word} {bad : WView → Bool} (hx : exec i s = enterPlain i v bad s)
    (h0 : s.cur.2 = 0) (h : s.myCore.wide.queue.length < 8) (hb : bad (queueView s s.cur.1) = false) :
    ∃ e, Queues i s e ∧ e.i = i ∧ e.v1 = v := by
  have he := hx.trans (wideEnter_room h0 h ..)
  rw [hb] at he
  exact ⟨s.wentry i v 0 [], queues_enqueue he rfl, rfl, rfl⟩

theorem traps_enterPlain {i : Instr} {s : State} {v : Word} {bad : WView → Bool} (hx : exec i s = enterPlain i v bad s)
    (h0 : s.cur.2 = 0) (h : s.myCore.wide.queue.length < 8) (hb : bad (queueView s s.cur.1) = true) : Traps i s (illegal i 6) := by
  have he := hx.trans (wideEnter_room h0 h ..)
  rw [hb] at he
  exact he

theorem pMode_eq_three (x : Word) : (pMode x == 3) = true ↔ x.toNat / 2 ^ 62 = 3 := by
  have := x.isLt
  rw [beq_iff_eq, pMode, bits]
  omega

/-- R154: what ACCCFG takes. -/
theorem accCfgValid_iff (x : Word) : accCfgValid x = true ↔ 1 ≤ x.toNat % 32 ∧ x.toNat % 32 ≤ 16 ∧ x.toNat / 32 % 8 = 0 ∧
    x.toNat / 512 % 128 = 0 ∧ (x.toNat / 2 ^ 16 % 128 = 0 ∨ x.toNat / 2 ^ 16 % 128 = 64) ∧ x.toNat / 2 ^ 23 = 0 := by
  have := x.isLt
  unfold accCfgValid bits
  simp only [Bool.and_eq_true, Bool.or_eq_true, decide_eq_true_eq, beq_iff_eq]
  omega

theorem exec_accsw {s : State} (h : s.me.priv ≠ .u) : exec .accsw s = enterPlain .accsw 0 (fun _ => false) s := by
  show execAccsw s = _
  rw [execAccsw, if_neg h]

theorem wideControlEntersTheQueue : WideControlEntersTheQueue := by
  intro s n rs1 x shape takes h0 h
  have hs : accCfgValid x = true ↔ shape := accCfgValid_iff x
  have hm := pMode_eq_three x
  have hcfg : shape → (!accCfgValid x) = false := fun k => by rw [hs.2 k]; rfl
  have hbad : ¬shape → (!accCfgValid x) = true := fun k => by rw [Bool.not_eq_true', Bool.eq_false_iff]; exact fun e => k (hs.1 e)
  refine ⟨fun k => ?_, fun k => ?_, ?_, fun k => ?_, fun k => ?_, fun k => ⟨?_, ?_⟩, fun k => ⟨?_, ?_⟩,
    fun k => ?_, fun k => ?_, fun k => ?_⟩
  · exact takes_enterPlain (bad := fun _ => pMode x == 3) rfl h0 h (Bool.eq_false_iff.2 fun e => k (hm.1 e))
  · exact traps_enterPlain (bad := fun _ => pMode x == 3) rfl h0 h (hm.2 k)
  · exact takes_enterPlain (bad := fun _ => false) rfl h0 h rfl
  · exact takes_enterPlain (bad := fun _ => !fmtValid (x.setWidth 32)) rfl h0 h (by rw [k]; rfl)
  · exact traps_enterPlain (bad := fun _ => !fmtValid (x.setWidth 32)) rfl h0 h (by rw [k]; rfl)
  · exact takes_enterPlain (bad := fun _ => !accCfgValid x) rfl h0 h (hcfg k)
  · exact takes_enterPlain (bad := fun _ => !accCfgValid x) rfl h0 h (hcfg k)
  · exact traps_enterPlain (bad := fun _ => !accCfgValid x) rfl h0 h (hbad k)
  · exact traps_enterPlain (bad := fun _ => !accCfgValid x) rfl h0 h (hbad k)
  · exact takes_enterPlain (exec_accsw k) h0 h rfl
  · show execAccsw s = _
    rw [execAccsw, if_pos k]
    rfl
  · exact takes_enterPlain (bad := fun v => mcfgBad s.me.priv v.mcfg x) rfl h0 h k

/-! ## Matrix instructions on an empty queue (R253-R255, R261) -/

/-- With nothing queued the checks see the wide state as it is. -/
theorem queueView_nil {s : State} {c : Nat} (h : (s.core c).wide.queue = []) : queueView s c = (s.core c).view := by
  rw [queueView, h]; rfl

theorem wideEnter_nil {s : State} (h0 : s.cur.2 = 0) (h : s.myCore.wide.queue = []) (i : Instr) (f : WView → State) :
    s.wideEnter i f = .next (f s.myCore.view) := by
  rw [wideEnter_room h0 (by rw [h]; decide), queueView_nil h]; rfl

theorem mldb_queues {s : State} {rs1 rs2 : Reg} {ft : BitVec 4} {bank : BitVec 3} {row0 nrm1 : BitVec 10} {sc : BitVec 1} :
    let k := s.myCore
    let x := xread s.me rs1
    let y := xread s.me rs2
    let n := nrm1.toNat + 1
    let f := k.wide.fmt.getD ft.toNat 0
    let l := fmtBlen f
    let b := 24 + bank.toNat
    let src := (x.toNat, 64 * n) :: (if sc = 1 then [(y.toNat, 128 * (n / l))] else [])
    s.cur.2 = 0 → k.wide.queue = [] → row0.toNat + n ≤ 1024 → x.toNat + 64 * n ≤ 2 ^ 21 → x.toNat < 2 ^ 21 →
    (sc = 1 → fmtScaled f = true ∧ y.toNat < 2 ^ 21 ∧ y.toNat + 128 * (n / l) ≤ 2 ^ 21 ∧ row0.toNat % l = 0 ∧ n % l = 0) →
    mayUse k k.wide.mcfg b = true → fmtKind f ≤ 1 → ¬(fmtScaled f = true ∧ l = 32) →
    refusedByte k .scratch src = none → k.role b = .operand → poisonedByte k src = none →
    ∃ e, Queues (.mldb rs1 rs2 ft bank row0 sc nrm1) s e ∧ e.i = .mldb rs1 rs2 ft bank row0 sc nrm1 ∧ e.v1 = x ∧ e.v2 = y := by
  intro k x y n f l b src h0 hq hrow hx1 hx2 hsc hm hkind h32 href hrole hpois
  refine ⟨s.wentry (.mldb rs1 rs2 ft bank row0 sc nrm1) x y (src ++ [(b * 65536, 65536)]), queues_enqueue ?_ rfl, rfl, rfl, rfl⟩
  show execMldb rs1 rs2 ft bank row0 sc nrm1 s = _
  rw [execMldb, wideEnter_nil h0 hq]
  have c1 : ¬(2 ^ 21 ≤ x.toNat ∨ (sc = 1 ∧ 2 ^ 21 ≤ y.toNat) ∨ 1024 < row0.toNat + n ∨ 2 ^ 21 < x.toNat + 64 * n ∨
      ((sc == 1 && fmtScaled f && l != 32) = true ∧ 2 ^ 21 < y.toNat + 128 * (n / l)) ∨ (!mayUse k k.wide.mcfg b) = true ∨
      ((sc == 1 && fmtScaled f && l != 32) = true ∧ (row0.toNat % l ≠ 0 ∨ n % l ≠ 0))) := by
    have hs : (sc == 1 && fmtScaled f && l != 32) = true → sc = 1 := by
      simp only [Bool.and_eq_true, beq_iff_eq]; tauto
    rintro (h | ⟨e, h⟩ | h | h | ⟨e, h⟩ | h | ⟨e, h⟩)
    · exact absurd hx2 (Nat.not_lt.2 h)
    · obtain ⟨-, hy, -⟩ := hsc e
      exact absurd hy (Nat.not_lt.2 h)
    · exact absurd hrow (Nat.not_le.2 h)
    · exact absurd hx1 (Nat.not_le.2 h)
    · obtain ⟨-, -, hy, -⟩ := hsc (hs e)
      exact absurd hy (Nat.not_le.2 h)
    · rw [hm] at h; exact absurd h (by decide)
    · obtain ⟨-, -, -, hr, hn⟩ := hsc (hs e)
      exact h.elim (fun a => a hr) fun a => a hn
  have c2 : ¬(1 < fmtKind f ∨ (fmtScaled f = true ∧ l = 32) ∨ (sc = 1 ∧ (!fmtScaled f) = true)) := by
    rintro (h | h | ⟨e, h⟩)
    · omega
    · exact h32 h
    · rw [(hsc e).1] at h; exact absurd h (by decide)
  refine congrArg _ ((if_neg c1).trans ((if_neg c2).trans ?_))
  split
  next a h => exact nomatch h.symm.trans href
  next =>
    refine (if_neg (not_not.2 hrole)).trans ?_
    split
    next a h => exact nomatch h.symm.trans hpois
    next => rfl

/-- A change of a core that leaves its contexts alone may come before or after a write of one of them. -/
theorem setCtx_updCore {s : State} {c x : Nat} {k : Core} {w : Ctx} {f : Core → Core} (hf : f (k.setCtx x w) = (f k).setCtx x w) :
    ((s.setCore c k).setCtx c x w).updCore c f = (s.setCore c (f k)).setCtx c x w := by
  simp only [State.setCtx, State.updCore, State.core_setCore, State.setCore_setCore, if_true, hf]

theorem setsCore_updCore {i : Instr} {s : State} {k : Core} {g : Ctx → Ctx} {f : Core → Core} (hk : k.ctxs = s.myCore.ctxs)
    (hc : (f k).ctxs = k.ctxs) (hf : ∀ x w, f (k.setCtx x w) = (f k).setCtx x w)
    (h : exec i s = .next (((s.setMyCore k).setMe (g (s.setMyCore k).me)).updCore s.cur.1 f)) :
    SetsCore i s s.cur.1 (f k).shell s.cur.2 (g s.me) := by
  rw [show (s.setMyCore k).me = s.me from ctx_setCore_of_ctxs hk _ _] at h
  exact setsCore_setCtx (hc.trans hk) (h.trans (congrArg _ (setCtx_updCore (hf ..))))

/-- An entry goes in while the number of the next MMUL counts on. -/
theorem setsCore_enqueue_gangJ {i : Instr} {s : State} {e : WEntry} (hq : s.myCore.wide.queue = []) (he : e.i = i)
    (h : exec i s = .next ((s.enqueue e).updCore s.cur.1 fun q => { q with wide := { q.wide with gangJ := q.wide.gangJ + 1 } })) :
    SetsCore i s s.cur.1 { s.myCore.shell with wide := { s.myCore.wide with queue := [e], gangJ := s.myCore.wide.gangJ + 1 } } s.cur.2
      { s.me with pc := s.me.pc + BitVec.ofNat 64 (byteLen i) } := by
  subst he
  have hs := setsCore_updCore (g := fun m => advance m (byteLen e.i))
    (k := { s.myCore with wide := { s.myCore.wide with queue := s.myCore.wide.queue ++ [e] } }) rfl rfl (fun _ _ => rfl) h
  rw [hq] at hs
  exact hs

theorem mmul_queues {s : State} {d nrm : BitVec 4} {pa pm1 : BitVec 3} {z : BitVec 1} {km1 : BitVec 8} :
    let k := s.myCore
    let m := nrm.toNat + 1
    let banks := usedBanks k.wide.mcfg km1
    let fa := k.view.pf pa.toNat
    let reads := if posOf s.cur.1 = 0 then (k.view.uses (List.replicate m ⟨pa.toNat, mmulK km1, false⟩)).1 else []
    let i : Instr := .mmul d nrm pa pm1 z km1
    s.cur.2 = 0 → k.wide.queue = [] →
    d.toNat + m ≤ k.wide.acc.rows → mmulBanks km1 ≤ mcLen k.wide.mcfg → chainInHalf k.wide.mcfg = true →
    banks.all (mayUse k k.wide.mcfg) = true → k.wide.gangE ≠ 0 →
    (∀ u ∈ reads, fmtScaled u.fmt = true →
      wrap ((extAddr u.w u.org 0 : Int) - u.org.toNat) 21 % (fmtBytes u.fmt * fmtBlen u.fmt) = 0) →
    mmulFits k.wide.acc.int (k.view.p pa.toNat) fa pm1 (banks.map fun b => tget 0 k.tags b) (mmulK km1) = true →
    refusedByte k .scratch (readRuns' k i reads) = none → notOperand k banks = none →
    poisonedByte k (readRuns' k i reads ++ bankRuns k.wide.mcfg km1) = none →
    ∃ e, e.i = i ∧ e.e = k.wide.gangE ∧ e.j = k.wide.gangJ ∧ e.afmt = fa ∧ e.row = 0 ∧ e.joined = false ∧
      SetsCore i s s.cur.1 { k.shell with wide := { k.wide with queue := [e], gangJ := k.wide.gangJ + 1 } } s.cur.2
        { s.me with pc := s.me.pc + BitVec.ofNat 64 (byteLen i) } := by
  intro k m banks fa reads i h0 hq hrows hlen hhalf hmay he hal hfits href hno hpois
  refine ⟨{ s.wentry i 0 0 (readRuns' k i reads ++ bankRuns k.wide.mcfg km1) with e := k.wide.gangE, j := k.wide.gangJ, afmt := fa },
    rfl, rfl, rfl, rfl, rfl, rfl, setsCore_enqueue_gangJ hq rfl ?_⟩
  show execMmul d nrm pa pm1 z km1 s = _
  have hr : (if (posOf s.cur.1 == 0) = true then (k.view.uses (List.replicate m ⟨pa.toNat, mmulK km1, false⟩)).1 else []) = reads := by
    simp only [beq_iff_eq]; rfl
  have c : ¬(k.view.rows < d.toNat + m ∨ mcLen k.view.mcfg < mmulBanks km1 ∨ (!chainInHalf k.view.mcfg) = true ∨
      (!banks.all (mayUse k k.view.mcfg)) = true ∨ k.wide.gangE = 0 ∨
      (!reads.all fun u => !fmtScaled u.fmt ||
        wrap ((extAddr u.w u.org 0 : Int) - u.org.toNat) 21 % (fmtBytes u.fmt * fmtBlen u.fmt) == 0) = true) := by
    rintro (h | h | h | h | h | h)
    · exact absurd hrows (Nat.not_le.2 h)
    · exact absurd hlen (Nat.not_le.2 h)
    · rw [show chainInHalf k.view.mcfg = true from hhalf] at h; exact absurd h (by decide)
    · rw [show banks.all (mayUse k k.view.mcfg) = true from hmay] at h; exact absurd h (by decide)
    · exact he h
    · simp only [Bool.not_eq_true', List.all_eq_false, Bool.or_eq_true, beq_iff_eq, not_or] at h
      obtain ⟨u, hu, h1, h2⟩ := h
      exact h2 (hal u hu (by simpa using h1))
  have cf : ¬(!mmulFits k.wide.acc.int (k.view.p pa.toNat) fa pm1 (banks.map fun b => tget 0 k.tags b) (mmulK km1)) = true := by
    rw [hfits]; decide
  rw [execMmul, wideEnter_nil h0 hq]
  dsimp only
  rw [hq, hr]
  refine congrArg _ ((if_neg (by simp)).trans ((if_neg c).trans ((if_neg cf).trans ?_)))
  split
  next a h => exact nomatch h.symm.trans href
  next =>
    split
    next b _ h => exact nomatch h.symm.trans hno
    next a _ h => exact nomatch h.symm.trans hpois
    next => rfl

/-- R261: with no watchpoint set, an image whose places all pass queues its instruction with its pages. -/
theorem image_queues {i : Instr} {s : State} {acc : Access} {rs1 : Reg} {mask : BitVec 8} {parts : List Part}
    (hx : exec i s = enterImage i acc rs1 mask s) (h0 : s.cur.2 = 0) (hq : s.myCore.wide.queue = []) (hm : mask ≠ 0)
    (hmay : ∀ b ∈ maskBanks mask, mayUse s.myCore s.myCore.wide.mcfg b = true) (hu : Unwatched s.myCore)
    (hx0 : (xread s.me rs1).toNat % 4096 = 0) (hno : notOperand s.myCore (maskBanks mask) = none)
    (hc : imageCheck s acc (xread s.me rs1).toNat (maskBanks mask) [] = .ok false parts) :
    ∃ e, Queues i s e ∧ e.i = i ∧ e.v1 = xread s.me rs1 ∧ e.pages = parts.flatMap partPages := by
  have c : ¬(mask = 0 ∨ ((maskBanks mask).any fun b => !mayUse s.myCore s.myCore.view.mcfg b) = true ∨ (xread s.me rs1).toNat % 4096 ≠ 0) := by
    rintro (h | h | h)
    · exact hm h
    · obtain ⟨b, hb, h⟩ := List.any_eq_true.1 h
      rw [show mayUse s.myCore s.myCore.view.mcfg b = true from hmay b hb] at h
      exact absurd h (by decide)
    · exact h hx0
  have ht : (maskBanks mask).foldl (fun t b => traceWatch s.cur.1 s.cur.2 acc (imageBase (xread s.me rs1).toNat b) 0x10810 t) s = s := by
    generalize maskBanks mask = l
    induction l with
    | nil => rfl
    | cons b l ih => rw [List.foldl_cons, Unwatched.trace hu]; exact ih
  refine ⟨{ s.wentry i (xread s.me rs1) 0 (((maskBanks mask).map fun b => (b * 65536, 65536)) ++ imageRuns s parts) with
    pages := parts.flatMap partPages }, queues_enqueue ?_ rfl, rfl, rfl, rfl⟩
  rw [hx, enterImage, wideEnter_nil h0 hq]
  dsimp only
  rw [if_neg c, hno]
  dsimp only
  rw [hc]
  dsimp only
  rw [ht]

theorem matrixInstructionsEnterTheQueue : MatrixInstructionsEnterTheQueue := by
  intro s rs1 rs2 ft d nrm bank pa pm1 row0 nrm1 sc z km1 mask parts k x y n f l b src m banks fa reads i h0 hq
  refine ⟨mldb_queues h0 hq, mmul_queues h0 hq, fun hm hmay hu hx0 hno => ⟨fun hc => ?_, fun hc => ?_⟩⟩
  · exact image_queues (acc := .store) rfl h0 hq hm hmay hu hx0 hno hc
  · exact image_queues (acc := .load) rfl h0 hq hm hmay hu hx0 hno hc

/-- Settles O20: a wide or matrix instruction that its checks let pass goes behind the queue; a helper, a full queue and a failed check
are the other three answers of `State.wideEnter`. -/
theorem wideSideTakesInstructions : Obligations.WideSideTakesInstructions :=
  ⟨wideInstructionsEnterTheQueue, wideControlEntersTheQueue, matrixInstructionsEnterTheQueue⟩

end Sys2Proof.Machine

/-! # Wide control at the head (R31, R131, R153-R155, R256-R258) -/

namespace Sys2Proof.Machine

open Sys2Proof

/-! ## Values of the wide side (R131, R153, R257) -/

theorem exec_mstat (rd : Reg) (sel : BitVec 32) (s : State) : exec (.mstat rd sel) s = execMstat rd sel s := rfl

theorem setCore_self_setCtx (s : State) (c x : Nat) (w : Ctx) : (s.setCore c (s.core c)).setCtx c x w = s.setCtx c x w := by
  simp only [State.setCtx, State.core_setCore, State.setCore_setCore, if_true]

theorem setCtx_updCore_self {s : State} {c x : Nat} {w : Ctx} {f : Core → Core} (hf : ∀ k, f k = k) :
    (s.setCtx c x w).updCore c f = s.setCtx c x w := by
  simp only [State.updCore, hf, State.setCtx, State.core_setCore, State.setCore_setCore, if_true]

/-- With entries queued, an instruction that reads the wide side queues behind them and its context waits. -/
theorem waits_wideVal {i : Instr} {s : State} {e : WEntry} (h : exec i s = .next ((s.queueUp e).hold .wideVal)) (he : e.i = i) :
    ∃ e : WEntry, e.i = i ∧ SetsCore i s s.cur.1
      { s.myCore.shell with wide := { s.myCore.wide with queue := s.myCore.wide.queue ++ [e] } } s.cur.2 { s.me with wait := .wideVal } :=
  ⟨e, he, setsCore_setMe (f := fun m => { m with wait := .wideVal })
    (k := { s.myCore with wide := { s.myCore.wide with queue := s.myCore.wide.queue ++ [e] } }) rfl h⟩

theorem wideValue_nil {s : State} (h0 : s.cur.2 = 0) (hq : s.myCore.wide.queue = []) (i : Instr) (rd : Reg) (now : Core → Word) :
    wideValue i rd now s = .next (s.ret i rd (now s.myCore)) := by
  rw [wideValue, wideEnter_nil h0 hq, hq]; rfl

theorem wideValue_queued {s : State} (h0 : s.cur.2 = 0) (hq : s.myCore.wide.queue ≠ []) (h : s.myCore.wide.queue.length < 8) (i : Instr)
    (rd : Reg) (now : Core → Word) : wideValue i rd now s = .next ((s.queueUp (s.wentry i 0 0 [])).hold .wideVal) := by
  rw [wideValue, wideEnter_room h0 h, if_neg (by simpa using hq)]

/-- R257: the tag of a bank, with nothing cleared. -/
theorem execMstat_tag {s : State} (h0 : s.cur.2 = 0) (hq : s.myCore.wide.queue = []) (rd : Reg) {sel : BitVec 32} (hs : sel ≠ 0) :
    execMstat rd sel s = .next (s.ret (.mstat rd sel) rd
      (if s.myCore.role (16 + sel.toNat) = .operand then (tget 0 s.myCore.tags (16 + sel.toNat)).setWidth 64 else 0)) := by
  have hc : ∀ k, mstatClear sel k = k := fun k => if_neg hs
  rw [execMstat, wideEnter_nil h0 hq, hq, mstatValue, if_neg hs]
  exact congrArg _ (setCtx_updCore_self hc)

/-- R258: the status word, whose read clears GMIS and POIS. -/
theorem mstat_status {s : State} (h0 : s.cur.2 = 0) (hq : s.myCore.wide.queue = []) (rd : Reg) :
    SetsCore (.mstat rd 0) s s.cur.1 { s.myCore.shell with wide := { s.myCore.wide with gmis := false, mpois := false } } s.cur.2
      (advance (xwrite s.me rd (mstatWord s.myCore)) (byteLen (.mstat rd 0))) := by
  refine setsCore_updCore (k := s.myCore) (f := mstatClear 0) (g := fun m => advance (xwrite m rd (mstatWord s.myCore)) (byteLen (.mstat rd 0)))
    rfl rfl (fun _ _ => rfl) ?_
  have hme : (s.setMyCore s.myCore).me = s.me := ctx_setCore_of_ctxs rfl ..
  rw [hme, show (s.setMyCore s.myCore).setMe _ = _ from setCore_self_setCtx .., exec_mstat, execMstat, wideEnter_nil h0 hq, hq]
  rfl

theorem execMstat_queued {s : State} (h0 : s.cur.2 = 0) (hq : s.myCore.wide.queue ≠ []) (h : s.myCore.wide.queue.length < 8) (rd : Reg)
    (sel : BitVec 32) : execMstat rd sel s = .next ((s.queueUp (s.wentry (.mstat rd sel) 0 0 [])).hold .wideVal) := by
  rw [execMstat, wideEnter_room h0 h, if_neg (by simpa using hq)]

theorem wideValuesAreRead : WideValuesAreRead := by
  intro s rd n sel w waits tag h0
  refine ⟨fun hq => ⟨?_, ?_, fun hs => ?_, mstat_status h0 hq rd⟩, fun hq h => ⟨?_, ?_, ?_⟩⟩
  · exact gives_ret (wideValue_nil h0 hq (.pget rd n) rd (ptrWord n)) rfl
  · exact gives_ret (wideValue_nil h0 hq (.fget rd n) rd (fmtWord n)) rfl
  · exact gives_ret (execMstat_tag h0 hq rd hs) rfl
  · exact waits_wideVal (wideValue_queued h0 hq h (.pget rd n) rd (ptrWord n)) rfl
  · exact waits_wideVal (wideValue_queued h0 hq h (.fget rd n) rd (fmtWord n)) rfl
  · exact waits_wideVal (execMstat_queued h0 hq h rd sel) rfl

/-! ## Control entries at the head (R131, R153-R155, R256) -/

theorem exec_wideExecute (c : Nat) (s : State) : exec (.wideExecute c) s = execWideExecute c s := rfl

/-- Of its core, the counter of an executed entry changes the debug block alone. -/
theorem wideCycles_core_field {α : Type} (g : Core → α) (hg : ∀ (k : Core) d, g { k with dbg := d } = g k) (s : State) (c : Nat) :
    g ((wideCycles s c).core c) = g (s.core c) := by
  rw [show (wideCycles s c).core c = (count s c 2 (1 + Config.elapsed s.draws)).core c from rfl, count, State.core_updCore, if_pos rfl]
  exact hg ..

theorem wideCycles_wide (s : State) (c : Nat) : ((wideCycles s c).core c).wide = (s.core c).wide :=
  wideCycles_core_field Core.wide (fun _ _ => rfl) s c

theorem wideCycles_loc (s : State) (c : Nat) : ((wideCycles s c).core c).loc = (s.core c).loc :=
  wideCycles_core_field Core.loc (fun _ _ => rfl) s c

theorem wideCycles_view (s : State) (c : Nat) : ((wideCycles s c).core c).view = (s.core c).view :=
  wideCycles_core_field Core.view (fun _ _ => rfl) s c

theorem wideCycles_ctx (s : State) (c x : Nat) : (wideCycles s c).ctx c x = s.ctx c x :=
  wideCycles_core_field (Core.ctx · x) (fun _ _ => rfl) s c

theorem popHead_wide (s : State) (c : Nat) :
    ((popHead s c).core c).wide = { (s.core c).wide with queue := (s.core c).wide.queue.tail } := by
  rw [popHead, State.core_updCore, if_pos rfl]; rfl

theorem popHead_loc (s : State) (c : Nat) : ((popHead s c).core c).loc = (s.core c).loc := by
  rw [popHead, State.core_updCore, if_pos rfl]; rfl

theorem tfind_wakeCtxs (p : Wait → Bool) (t : Tbl Ctx) (x : Nat) :
    tfind (wakeCtxs p t) x = (tfind t x).map fun k => if p k.wait then { k with wait := .none } else k := by
  induction t with
  | nil => rfl
  | cons e t ih =>
    rw [wakeCtxs, tfind_cons, tfind_cons, ih]
    split <;> rfl

theorem tget_wakeCtxs (p : Wait → Bool) (t : Tbl Ctx) (x : Nat) (h : (tget Ctx.reset t x).wait = .none) :
    tget Ctx.reset (wakeCtxs p t) x = tget Ctx.reset t x := by
  unfold tget at h ⊢
  rw [tfind_wakeCtxs]
  cases hf : tfind t x with
  | none => rfl
  | some k =>
    have hk : k.wait = .none := by rw [hf] at h; exact h
    show (if p k.wait then { k with wait := .none } else k) = k
    split
    · rw [← hk]
    · rfl

/-- A context that waits for nothing is not touched. -/
theorem popHead_ctx {s : State} {c x : Nat} (h : (s.ctx c x).wait = .none) : (popHead s c).ctx c x = s.ctx c x := by
  rw [State.ctx, popHead, State.core_updCore, if_pos rfl]
  exact tget_wakeCtxs _ _ x h

/-- A control entry at the head executes, counted, and leaves the queue. -/
theorem wideExecute_wctl {s : State} {c : Nat} {e : WEntry} {rest : List WEntry} (hh : HeadIs s c e rest) (hi : isWctl e.i = true) :
    exec (.wideExecute c) s = .next (popHead (wctlExec (wideCycles s c) c e) c) := by
  obtain ⟨hrun, hq⟩ := hh
  obtain ⟨i, v1, v2, rm, x1, x2, x3, x4, x5, x6, x7, x8, x9, x10⟩ := e
  rw [exec_wideExecute, execWideExecute, wideReady, wideRuns, hrun, hq]
  cases i with
  | pset | padd | pget | fset | fget | acccfg | acccfgKeep | accsw => rfl
  | _ => exact absurd hi Bool.false_ne_true

theorem wideExecute_mcfg {s : State} {c : Nat} {e : WEntry} {rest : List WEntry} {rs1 : Reg} (hh : HeadIs s c e rest) (hi : e.i = .mcfg rs1) :
    exec (.wideExecute c) s =
      .next (popHead ((wideCycles s c).updCore c fun k => { k with wide := { k.wide with mcfg := e.v1 } }) c) := by
  obtain ⟨hrun, hq⟩ := hh
  obtain ⟨i, v1, v2, rm, x1, x2, x3, x4, x5, x6, x7, x8, x9, x10⟩ := e
  subst hi
  rw [exec_wideExecute, execWideExecute, wideReady, wideRuns, hrun, hq]
  rfl

/-- What is left when an entry that changes the wide side has left the queue. -/
theorem ends_popHead {s : State} {c : Nat} {e : WEntry} {rest : List WEntry} (hh : HeadIs s c e rest) {h : Wide → Wide}
    (hq : ∀ w, (h w).queue = w.queue)
    (hx : exec (.wideExecute c) s = .next (popHead ((wideCycles s c).updCore c fun k => { k with wide := h k.wide }) c)) :
    ∃ t, exec (.wideExecute c) s = .next t ∧ (t.core c).wide = { h (s.core c).wide with queue := rest } ∧ t.mem = s.mem ∧
      (t.core c).loc = (s.core c).loc := by
  obtain ⟨-, hq'⟩ := hh
  refine ⟨_, hx, ?_, rfl, ?_⟩
  · rw [popHead_wide, State.core_updCore, if_pos rfl]
    dsimp only
    rw [wideCycles_wide, hq, hq', List.tail_cons]
  · rw [popHead_loc, State.core_updCore, if_pos rfl]
    exact wideCycles_loc s c

/-- A value for X[rd] arrives at the control context, which waits for it. -/
theorem arrives_popHead {s : State} {c : Nat} {e : WEntry} {rest : List WEntry} (hh : HeadIs s c e rest) (hw : (s.ctx c 0).wait = .wideVal)
    {rd : Reg} {v : Word} (hx : exec (.wideExecute c) s = .next (popHead (wideArrive (wideCycles s c) c e.i rd v) c)) :
    ∃ t, exec (.wideExecute c) s = .next t ∧ (t.core c).wide = { (s.core c).wide with queue := rest } ∧
      t.ctx c 0 = { advance (xwrite (s.ctx c 0) rd v) (byteLen e.i) with wait := .none } := by
  obtain ⟨-, hq⟩ := hh
  have hc : (wideArrive (wideCycles s c) c e.i rd v).ctx c 0 = { advance (xwrite (s.ctx c 0) rd v) (byteLen e.i) with wait := .none } := by
    rw [wideArrive, State.ctx_updCtx, if_pos ⟨rfl, rfl⟩, wideCycles_ctx, if_pos hw]
  refine ⟨_, hx, ?_, ?_⟩
  · rw [popHead_wide, wideArrive, core_updCtx_field Core.wide fun _ _ _ => rfl]
    rw [wideCycles_wide, hq, List.tail_cons]
  · rw [popHead_ctx (by rw [hc]), hc]

/-- PSET, PADD and FSET leave the pointers, ORIGINs and formats that the queue's view foretells. -/
theorem ends_put {s : State} {c : Nat} {e : WEntry} {rest : List WEntry} {i : Instr} (hh : HeadIs s c e rest) (hi : e.i = i)
    (hw : isWctl i = true)
    (hp : ∀ t, wctlExec t c { e with i := i } = t.updCore c fun k =>
      let v := viewAfter (posOf c == 0) (t.core c).view i e.v1 0
      { k with wide := { k.wide with ptr := v.ptr, origin := v.origin, fmt := v.fmt } }) :
    let v := viewAfter (posOf c == 0) (s.core c).view i e.v1 0
    ∃ t, exec (.wideExecute c) s = .next t ∧
      (t.core c).wide = { (s.core c).wide with ptr := v.ptr, origin := v.origin, fmt := v.fmt, queue := rest } ∧ t.mem = s.mem ∧
      (t.core c).loc = (s.core c).loc := by
  intro v
  subst hi
  refine ends_popHead hh (h := fun w => { w with ptr := v.ptr, origin := v.origin, fmt := v.fmt }) (fun _ => rfl) ?_
  rw [wideExecute_wctl hh hw, show wctlExec (wideCycles s c) c e = _ from hp _]
  simp only [wideCycles_view]
  rfl

/-- R31: ADDR lies in the 21 low bits of a pointer. -/
theorem setAddr_toNat (w : Word) (a : Nat) : (setAddr w a).toNat = w.toNat / 2 ^ 21 * 2 ^ 21 + a % 2 ^ 21 := by
  have hb : a % 2 ^ 21 < 2 ^ 21 := Nat.mod_lt _ (by decide)
  have e : setAddr w a = BitVec.ofNat 64 (2 ^ 21 * (w.toNat / 2 ^ 21) + a % 2 ^ 21) := by
    refine BitVec.eq_of_getLsbD_eq fun i hi => ?_
    have hm : BitVec.getLsbD (0x1FFFFF : Word) i = decide (i < 21) := by
      rw [show (0x1FFFFF : Word) = BitVec.ofNat 64 (2 ^ 21 - 1) from rfl, BitVec.getLsbD_ofNat, Nat.testBit_two_pow_sub_one]
      simp [hi]
    have ha : (a % 2 ^ 21).testBit i = (decide (i < 21) && a.testBit i) := Nat.testBit_mod_two_pow a 21 i
    have hv : 21 ≤ i → (w.toNat / 2 ^ 21).testBit (i - 21) = w.getLsbD i := fun h => by
      rw [Nat.testBit_div_two_pow, Nat.sub_add_cancel h]; rfl
    rw [setAddr, BitVec.getLsbD_or, BitVec.getLsbD_and, BitVec.getLsbD_not, BitVec.getLsbD_ofNat, BitVec.getLsbD_ofNat, hm, ha,
      Nat.testBit_two_pow_mul_add _ hb, ha]
    by_cases h2 : i < 21
    · simp only [hi, h2, decide_true, Bool.not_true, Bool.true_and, Bool.and_false, Bool.false_or, Bool.true_and, if_true]
    · simp only [hi, h2, decide_true, decide_false, Bool.not_false, Bool.true_and, Bool.and_true, Bool.false_and, Bool.or_false, if_false,
        hv (Nat.le_of_not_lt h2)]
  have hw := w.isLt
  rw [e, BitVec.toNat_ofNat]
  omega

/-- R31, R153: where PADD leaves ADDR. -/
theorem addrStep_eq (w : Word) (org : BitVec 21) (step : Int) :
    (pWrap w = 0 → ((addrStep w org step % 2 ^ 21 : Nat) : Int) = ((w.toNat % 2 ^ 21 : Nat) + step) % 2 ^ 21) ∧
    (pWrap w ≠ 0 → ((addrStep w org step % 2 ^ 21 : Nat) : Int) =
      (org.toNat + ((w.toNat % 2 ^ 21 : Nat) - org.toNat + step) % (pWrap w : Int)) % 2 ^ 21) := by
  have ha : pAddr w = w.toNat % 2 ^ 21 := by rw [pAddr, bits, Nat.pow_zero, Nat.div_one]
  refine ⟨fun h => ?_, fun h => ?_⟩
  · rw [addrStep, if_pos h, ha, wrap]
    omega
  · rw [addrStep, if_neg h, ha]
    have hp : 0 ≤ (((w.toNat % 2 ^ 21 : Nat) : Int) - org.toNat + step) % (pWrap w : Int) := Int.emod_nonneg _ (by omega)
    generalize (((w.toNat % 2 ^ 21 : Nat) : Int) - org.toNat + step) % (pWrap w : Int) = r at hp ⊢
    omega

theorem padd_addr (old : Word) (org : BitVec 21) (v : Word) :
    let p := setAddr old (addrStep old org v.toInt)
    p.toNat / 2 ^ 21 = old.toNat / 2 ^ 21 ∧
    (pWrap old = 0 → ((p.toNat % 2 ^ 21 : Nat) : Int) = ((old.toNat % 2 ^ 21 : Nat) + v.toInt) % 2 ^ 21) ∧
    (pWrap old ≠ 0 → ((p.toNat % 2 ^ 21 : Nat) : Int) =
      (org.toNat + ((old.toNat % 2 ^ 21 : Nat) - org.toNat + v.toInt) % (pWrap old : Int)) % 2 ^ 21) := by
  intro p
  obtain ⟨h0, h1⟩ := addrStep_eq old org v.toInt
  have hp : p.toNat = _ := setAddr_toNat ..
  have hm : p.toNat % 2 ^ 21 = addrStep old org v.toInt % 2 ^ 21 := by omega
  rw [hm]
  exact ⟨by omega, h0, h1⟩

/-- R154: ACC after ACCCFG. -/
theorem accConfig_eq (keep : Bool) (v : Word) (a : Acc) : accConfig keep v a =
    { lanes := if keep then a.lanes else List.replicate 1024 0, st := List.replicate 16 0, rows := v.toNat % 32, int := v.getLsbD 8 } := by
  have hi : nbit v.toNat 8 = v.getLsbD 8 := by
    rw [nbit, BitVec.getLsbD, Nat.testBit_eq_decide_div_mod_eq]; rfl
  rw [accConfig, hi, bits, Nat.pow_zero, Nat.div_one]
  rfl

theorem wideControlExecutes : WideControlExecutes := by
  intro s c e rest n rs1 rd w ends shape old org at_ hh
  have hx {i : Instr} {t : State} (hi : e.i = i) (hw : isWctl i = true) (ht : wctlExec (wideCycles s c) c e = t) :
      exec (.wideExecute c) s = .next (popHead t c) := ht ▸ wideExecute_wctl hh (hi ▸ hw)
  refine ⟨fun hi => ends_put hh hi rfl fun _ => rfl, fun hi => ⟨_, ends_put hh hi rfl fun _ => rfl, padd_addr old _ e.v1⟩,
    fun hi => ends_put hh hi rfl fun _ => rfl, fun hi => ?_, fun hi => ?_, fun hi => ?_,
    fun hi => ends_popHead hh (h := fun w => { w with mcfg := e.v1 }) (fun _ => rfl) (wideExecute_mcfg hh hi),
    fun hw => ⟨fun hi => ?_, fun hi => ?_⟩⟩
  · have h := ends_popHead hh (h := fun w => { w with acc := accConfig false e.v1 w.acc }) (fun _ => rfl) (hx hi rfl (by rw [wctlExec, hi]))
    rwa [accConfig_eq] at h
  · have h := ends_popHead hh (h := fun w => { w with acc := accConfig true e.v1 w.acc }) (fun _ => rfl) (hx hi rfl (by rw [wctlExec, hi]))
    rwa [accConfig_eq] at h
  · exact ends_popHead hh (h := swapAcc) (fun _ => rfl) (hx hi rfl (by rw [wctlExec, hi]))
  · refine arrives_popHead hh hw (hx hi rfl ?_)
    rw [wctlExec, hi]
    dsimp only
    rw [ptrWord, wideCycles_wide]
  · refine arrives_popHead hh hw (hx hi rfl ?_)
    rw [wctlExec, hi]
    dsimp only
    rw [fmtWord, wideCycles_wide]

/-- Settles O21: an entry at the head acts as its case of `wctlExec` says, is counted and popped; PGET, FGET and MSTAT read at once where
nothing is queued. -/
theorem wideControlHasItsEffect : Obligations.WideControlHasItsEffect := ⟨wideValuesAreRead, wideControlExecutes⟩

end Sys2Proof.Machine

/-! # Fills and page walks (R42, R276, R282, R291, R296) -/

namespace Sys2Proof.Machine

open Sys2Proof

theorem exec_pageWalk (c x va : Nat) (acc : Access) (s : State) : exec (.pageWalk c x va acc) s = execPageWalk c x va acc s := rfl

/-! ## What the home answers, and what a touch of a line leaves unchanged (R282, R285) -/

theorem homeBytes_eq_map (s : State) (key a n : Nat) : homeBytes s key a n = (List.range n).map fun i => homeByte s key (a + i) := by
  induction n generalizing a with
  | zero => rfl
  | succ n ih =>
    rw [homeBytes, ih, List.range_succ_eq_map, List.map_cons, List.map_map]
    congr 1
    exact List.map_congr_left fun i _ => by rw [Function.comp_apply, Nat.succ_eq_add_one, Nat.add_assoc, Nat.add_comm 1 i]

/-- Under the key that its sector was written under, a byte of the home is memory's. -/
theorem homeByte_of_keyHolds {s : State} {key sec a : Nat} (h : KeyHolds s key sec) (ha : a / 256 = sec) : homeByte s key a = memByte s.mem a := by
  subst ha
  exact if_pos h

/-- A line filled at its slice: of the state, the lines, the sums and the picks alone change. -/
theorem llcNew_field {α : Type} (g : State → α) (hg : ∀ (s : State) l f d, g { s with llc := l, fsums := f, draws := d } = g s) (s : State)
    (line key cls rcls : Nat) : g (llcNew s line key cls rcls) = g s := by
  have put (t : State) (l : Tbl LlcLine) : g { t with llc := l } = g t := hg t l t.fsums t.draws
  have replace (vs : List Nat) (r : Nat) : g (match vs[s.pick % (max vs.length 1)]? with
      | some v =>
        let t := settle { s.used with llc := tdel s.llc v } (v * 1024) 1024
        { t with llc := tput t.llc line ⟨key, cls, r⟩ }
      | none => s) = g s := by
    split
    · exact hg s _ _ _
    · rfl
  unfold llcNew
  dsimp only
  split
  · rfl
  · split
    · split
      · exact put ..
      · exact replace ..
    · exact replace ..

theorem homeTouch_field {α : Type} (g : State → α) (hg : ∀ (s : State) l f d, g { s with llc := l, fsums := f, draws := d } = g s) (s : State)
    (key line : Nat) (x : Ctx) : g (homeTouch s key line x) = g s := by
  unfold homeTouch llcInsert
  split
  · split
    · split
      · rfl
      · exact (llcNew_field g hg ..).trans (hg s _ _ _)
    · exact llcNew_field g hg ..
  · rfl

/-! ## The L1 and the LLC (R276, R282) -/

theorem allocWay_nil {s : State} {c : Nat} (h : (s.core c).l1 = []) (sec : Nat) : ∃ w, allocWay s c sec = (w, s.used) := by
  simp only [allocWay, h, List.find?_nil]
  exact ⟨_, rfl⟩

theorem applyStores_nil {s : State} {c : Nat} (h : (s.core c).stbuf = []) (sec key : Nat) : applyStores c sec key s = s := by
  simp only [applyStores, sectorStores, h, List.filter_nil, fillStores, List.takeWhile_nil, List.drop_nil, List.foldl_nil, List.find?_nil]

/-- A sector fill into an L1 that holds nothing, with no store buffered. -/
theorem l1SectorFill_nil {s : State} {c : Nat} (h1 : (s.core c).l1 = []) (hl : (s.core c).hasL1 = true) (hs : (s.core c).stbuf = [])
    (sec key : Nat) : ∃ w, execL1SectorFill c sec key s = .next (wakeStores (count (putSector (settle s.used (sec * 256) 256) c sec
      ⟨w, homeBytes s.used key (sec * 256) 256, [], s.memPoison.contains sec, key, none, false, 0⟩) c 4 1) c [sec]) := by
  obtain ⟨w, hw⟩ := allocWay_nil h1 sec
  refine ⟨w, ?_⟩
  have h0 (t : State) (ht : (t.core c).stbuf = []) : wakeStores (applyStores c sec key t) c [sec] = wakeStores t c [sec] := by
    rw [applyStores_nil ht]
  simp only [execL1SectorFill, h1, hl, sectorStores, hs, tfind, List.filter_nil, List.any_nil, Bool.not_true, Bool.or_false,
    OfNat.zero_ne_ofNat, zero_ne_one, decide_false, Bool.false_eq_true, if_false, hw, homeRead]
  refine congrArg _ (h0 _ ?_)
  simp only [count, putSector, State.core_updCore, if_true]
  exact hs

/-- A context whose wait is met is ready; Ctx.reset waits for nothing. -/
theorem tget_wakeCtxs_of_met {p : Wait → Bool} {t : Tbl Ctx} {x : Nat} (h : p (tget Ctx.reset t x).wait = true) :
    tget Ctx.reset (wakeCtxs p t) x = { tget Ctx.reset t x with wait := .none } := by
  unfold tget at h ⊢
  rw [tfind_wakeCtxs]
  cases hf : tfind t x with
  | none => rfl
  | some k => rw [hf] at h; exact if_pos h

theorem sectorFill_fills (s : State) (c x sec key : Nat) (h1 : (s.core c).l1 = []) (hl : (s.core c).hasL1 = true)
    (hs : (s.core c).stbuf = []) (hk : KeyHolds s key sec) :
    ∃ t u, exec (.l1SectorFill c sec key) s = .next t ∧ tfind (t.core c).l1 sec = some u ∧ u.key = key ∧ u.dirty = [] ∧ u.upd = none ∧
      (∀ i, i < 256 → u.bytes.getD i 0 = memByte s.mem (sec * 256 + i)) ∧ u.pois = s.memPoison.contains sec ∧ t.mem = s.mem ∧
      ((s.ctx c x).wait = .fill sec → (t.ctx c x).wait = .none ∧ (t.ctx c x).x = (s.ctx c x).x) := by
  obtain ⟨w, hx⟩ := l1SectorFill_nil h1 hl hs sec key
  refine ⟨_, ⟨w, homeBytes s.used key (sec * 256) 256, [], s.memPoison.contains sec, key, none, false, 0⟩, hx, ?_, rfl, rfl, rfl,
    fun i hi => ?_, rfl, rfl, fun hw => ?_⟩
  · simp only [wakeStores, count, putSector, State.core_updCore, if_true, Core.wakeIf, tfind_tput]
  · have hb : homeByte s.used key (sec * 256 + i) = memByte s.mem (sec * 256 + i) :=
      homeByte_of_keyHolds (s := s.used) (sec := sec) hk (by omega)
    rw [homeBytes_eq_map, ← hb]
    simp [List.getD_eq_getElem?_getD, hi]
  · have hc : ∀ t : State, (t.core c).ctxs = (s.core c).ctxs → (wakeStores t c [sec]).ctx c x = { s.ctx c x with wait := .none } := by
      intro t ht
      rw [State.ctx, wakeStores, State.core_updCore, if_pos rfl]
      refine (tget_wakeCtxs_of_met ?_).trans ?_ <;> rw [ht]
      · rw [show (tget Ctx.reset (s.core c).ctxs x).wait = .fill sec from hw]
        simp
      · rfl
    rw [hc _ (by simp only [count, putSector, State.core_updCore, if_true]; rfl)]
    exact ⟨rfl, rfl⟩

theorem llcFill_lists (s : State) (line key cls : Nat) (hn : tfind s.llc line = none) (hq : 0 < tget 0 s.quotas cls)
    (hset : s.llc.filter (fun e => llcSet e.1 == llcSet line) = []) :
    ∃ t, exec (.llcFill line key cls 0) s = .next t ∧ tfind t.llc line = some ⟨key, cls, 0⟩ ∧ t.mem = s.mem ∧ t.cores = s.cores := by
  have hs : (s.llc.filter fun e => llcSet e.1 == llcSet line && e.1 != line) = [] := by
    rw [List.filter_eq_nil_iff] at hset ⊢
    intro e he h
    rw [Bool.and_eq_true] at h
    exact hset e he h.1
  have ht : llcInsert s line key cls 0 = { s with llc := tput s.llc line ⟨key, cls, 0⟩ } := by
    simp only [llcInsert, hn, llcNew, hs, List.filter_nil, List.length_nil, Nat.pos_iff_ne_zero.1 hq, hq, zero_ne_one, false_and, if_false,
      if_true, Nat.zero_lt_succ]
  refine ⟨_, congrArg (Host.Outcome.next ·) ht, ?_, rfl, rfl⟩
  rw [tfind_tput, if_pos rfl]

/-! ## Instruction fetches (R42, R269) -/

/-- The words of a block that come into an empty cache. -/
theorem tfind_fillBlock_nil (s : State) (key base n j : Nat) : tfind (fillBlock s key base n []) (base / 4 + j) =
    if j < n then some (key, wordOfBytes (homeBytes s key (base + 4 * j) 4)) else none := by
  induction n generalizing j with
  | zero => rfl
  | succ n ih =>
    have hn : tfind (fillBlock s key base n []) (base / 4 + n) = none := (ih n).trans (if_neg (Nat.lt_irrefl n))
    rw [fillBlock]
    simp only [hn, Option.any_none, Bool.false_eq_true, if_false, tfind_tput, ih, Nat.add_left_cancel_iff]
    by_cases h : j = n
    · subst h; simp
    · simp only [h, if_false, show j < n + 1 ↔ j < n by omega]

theorem wakeIf_icache (k : Core) (p : Wait → Bool) : (k.wakeIf p).icache = k.icache := rfl

theorem target_of_lt {pa : Nat} (h : pa < 0x1800000000) : target pa = .gddr := if_pos h

theorem onHolder_of_here {c x : Nat} {f : State → State} {s : State} (hh : isHere s c x = true) (hi : ((f s).core c).image = none) :
    onHolder c x f s = f s := by
  simp [onHolder, hh, markHere, hi]

theorem isHere_asker (s : State) (c x : Nat) : isHere s c (s.asker c x) = true := by
  have e : s.asker c x / 16 = wgTag (s.core c) := by
    rw [State.asker, Nat.add_mul_div_left _ _ (by decide), Nat.div_eq_of_lt (Nat.mod_lt _ (by decide)), Nat.zero_add]
  simp [isHere, e]

theorem asker_mod (s : State) (c : Nat) {x : Nat} (h : x < 16) : s.asker c x % 16 = x := by
  rw [State.asker, Nat.add_mul_mod_self_left, Nat.mod_mod, Nat.mod_eq_of_lt h]

/-- The state in which a fetch reads the words of its block. -/
def fetchHome (s : State) (c x pa key : Nat) : State := settle (homeTouch s key (pa / 1024) (s.ctx c x)) (pa / 1024 * 1024) 1024

/-- The waits that the words of a block end. -/
def endsWith (pa key : Nat) : Wait → Bool
  | .fetch p q => p / 1024 == pa / 1024 && isGddr p && q == key
  | _ => false

theorem fetchHome_field {α : Type} (g : State → α) (hg : ∀ (s : State) l f d, g { s with llc := l, fsums := f, draws := d } = g s) (s : State)
    (c x pa key : Nat) : g (fetchHome s c x pa key) = g s :=
  (hg (homeTouch s key (pa / 1024) (s.ctx c x)) _ _ _).trans (homeTouch_field g hg ..)

theorem wordsFill_eq {s : State} {c x y pa key : Nat} (hp : pa < 0x1800000000) (hy : y % 16 = x) (hw : (s.ctx c x).wait = .fetch pa key) :
    wordsFill c y pa s = (fetchHome s c x pa key).updCore c fun k =>
      ({ k with icache := fillBlock (fetchHome s c x pa key) key (pa / 1024 * 1024) 256 k.icache } : Core).wakeIf (endsWith pa key) := by
  subst hy
  rw [wordsFill, target_of_lt hp]
  dsimp only
  rw [hw]
  exact if_neg (not_not.2 rfl)

theorem fetchFill_fills (s : State) (c x pa key : Nat) (hc : OnItsCore s c x) (hp : pa < 0x1800000000) (hp4 : pa % 4 = 0)
    (hk : KeyHolds s key (pa / 256)) (hi : (s.core c).icache = []) (hw : (s.ctx c x).wait = .fetch pa key) :
    ∃ t, exec (.instructionFetchFill c (s.asker c x) pa) s = .next t ∧
      tfind (t.core c).icache (pa / 4) = some (key, wordOfBytes ((List.range 4).map fun i => memByte s.mem (pa + i))) ∧
      (t.ctx c x).wait = .none ∧ (t.ctx c x).pc = (s.ctx c x).pc ∧ t.mem = s.mem := by
  obtain ⟨-, hx, himg⟩ := hc
  have hf := wordsFill_eq hp (asker_mod s c hx) hw
  have hcore : (fetchHome s c x pa key).core c = s.core c := fetchHome_field (State.core · c) (fun _ _ _ _ => rfl) ..
  have hmem : (fetchHome s c x pa key).mem = s.mem := fetchHome_field State.mem (fun _ _ _ _ => rfl) ..
  have hword (i : Nat) (h : i < 4) : homeByte (fetchHome s c x pa key) key (pa + i) = memByte s.mem (pa + i) := by
    rw [fetchHome_field (homeByte · key (pa + i)) fun _ _ _ _ => rfl]
    exact homeByte_of_keyHolds hk (by omega)
  have hblock : pa / 1024 * 1024 / 4 + pa / 4 % 256 = pa / 4 := by omega
  have hbase : pa / 1024 * 1024 + 4 * (pa / 4 % 256) = pa := by omega
  refine ⟨_, congrArg (Host.Outcome.next ·) (onHolder_of_here (isHere_asker s c x) ?_), ?_⟩
  · rw [hf, State.core_updCore, if_pos rfl, hcore]
    exact himg
  rw [hf]
  have hctx : (State.updCore (fetchHome s c x pa key) c fun k =>
      ({ k with icache := fillBlock (fetchHome s c x pa key) key (pa / 1024 * 1024) 256 k.icache } : Core).wakeIf (endsWith pa key)).ctx c x =
      { s.ctx c x with wait := .none } := by
    rw [State.ctx, State.core_updCore, if_pos rfl, hcore]
    refine tget_wakeCtxs_of_met ?_
    rw [show (tget Ctx.reset (s.core c).ctxs x).wait = .fetch pa key from hw]
    simp [endsWith, isGddr, target_of_lt hp]
  refine ⟨?_, ?_, ?_, hmem⟩
  · rw [State.core_updCore, if_pos rfl, hcore]
    have hb := tfind_fillBlock_nil (fetchHome s c x pa key) key (pa / 1024 * 1024) 256 (pa / 4 % 256)
    rw [hblock, hbase, if_pos (Nat.mod_lt _ (by decide)), homeBytes_eq_map,
      List.map_congr_left fun i h => hword i (List.mem_range.1 h)] at hb
    rw [wakeIf_icache]
    dsimp only
    rw [hi, hb]
  · rw [hctx]
  · rw [hctx]

theorem fillsBringTheHomesBytes : FillsBringTheHomesBytes := by
  intro s c x sec line key cls pa m h1 hl hs hk
  exact ⟨sectorFill_fills s c x sec key h1 hl hs hk, llcFill_lists s line key cls, fetchFill_fills s c x pa key⟩

/-! ## Page walks (R291, R296) -/

/-- A count changes the debug block of a core alone. -/
theorem count_core_field {α : Type} (g : Core → α) (hg : ∀ (k : Core) d, g { k with dbg := d } = g k) (s : State) (c i n d : Nat) :
    g ((count s c i n).core d) = g (s.core d) := by
  rw [count, State.core_updCore]
  split
  next e => subst e; exact hg ..
  next => rfl

/-- What a read of a table entry leaves unchanged. -/
theorem entryTouch_field {α : Type} (g : State → α)
    (hg : ∀ (s : State) l f d o ls, g { s with llc := l, fsums := f, draws := d, out := o, links := ls } = g s)
    (hc : ∀ s c i n, g (count s c i n) = g s) (s : State) (c : Nat) (x : Ctx) (a : Nat) : g (entryTouch s c x a) = g s := by
  unfold entryTouch
  split
  · exact homeTouch_field g (fun s l f d => hg s l f d s.out s.links) ..
  · split
    · exact hc ..
    · unfold State.toDevice
      split
      · exact hg s _ _ _ _ _
      · exact hg s _ _ _ _ _
  · exact hg s _ _ _ _ _

theorem foldl_field {α β : Type} (g : State → α) {f : State → β → State} (hf : ∀ s b, g (f s b) = g s) (l : List β) (s : State) :
    g (l.foldl f s) = g s := by
  induction l generalizing s with
  | nil => rfl
  | cons b l ih => rw [List.foldl_cons, ih, hf]

/-- A walk changes its cluster, and neither memory nor a context. -/
theorem walked_mem (s : State) (c : Nat) (x : Ctx) (va : Nat) (acc : Access) : (walked s c x va acc).2.mem = s.mem :=
  foldl_field State.mem (fun t a => entryTouch_field State.mem (fun _ _ _ _ _ _ => rfl) (fun _ _ _ _ => rfl) t c x a) ..

theorem walked_ctx (s : State) (c : Nat) (x : Ctx) (va : Nat) (acc : Access) (d y : Nat) : (walked s c x va acc).2.ctx d y = s.ctx d y :=
  foldl_field (State.ctx · d y) (fun t a => entryTouch_field (State.ctx · d y) (fun _ _ _ _ _ _ => rfl)
    (fun s c i n => count_core_field (Core.ctx · y) (fun _ _ => rfl) s c i n d) t c x a) ..

theorem walked_cluster (s : State) (c : Nat) (x : Ctx) (va : Nat) (acc : Access) :
    (walked s c x va acc).2.cluster (clusterOf c) = (walk s c x va acc).2 := by
  rw [walked, State.cluster_setCluster, if_pos rfl]

theorem walk_of_leaf {s : State} {c : Nat} {x : Ctx} {va : Nat} {acc : Access} {e : TlbEntry} {wc : Tbl Word}
    (h : walkFrom s c x va acc 5 1 (x.ptroot.toNat / 4096 % 2 ^ 40) (s.cluster (clusterOf c)).walkCache = (.leaf e, wc)) :
    walk s c x va acc = (.leaf e, { s.cluster (clusterOf c) with walkCache := wc, tlb := e :: (s.cluster (clusterOf c)).tlb }) := by
  rw [walk, show bits x.ptroot.toNat 12 40 = x.ptroot.toNat / 4096 % 2 ^ 40 from rfl]
  dsimp only
  rw [h]

theorem walk_of_fault {s : State} {c : Nat} {x : Ctx} {va : Nat} {acc : Access} {z : Cause} {wc : Tbl Word}
    (h : walkFrom s c x va acc 5 1 (x.ptroot.toNat / 4096 % 2 ^ 40) (s.cluster (clusterOf c)).walkCache = (.fault z, wc)) :
    walk s c x va acc = (.fault z, { s.cluster (clusterOf c) with walkCache := wc }) := by
  rw [walk, show bits x.ptroot.toNat 12 40 = x.ptroot.toNat / 4096 % 2 ^ 40 from rfl]
  dsimp only
  rw [h]

theorem walksEndInATranslationOrAFault : WalksEndInATranslationOrAFault := by
  intro s c x va acc e z wc k cl found after hw hone
  have hone : walkers s (clusterOf c) (s.ctx c x) va = [(c, x, va, acc)] := hone
  have hr (r : Walked × Cluster) (h : walk s c k va acc = r) : (walked s c k va acc).1 = r.1 := by rw [← h]; rfl
  refine ⟨fun h => ?_, fun h => ?_⟩
  · have hwalk := walk_of_leaf h
    refine ⟨after.wake c x, ?_, ?_, ?_, walked_mem s c k va acc, fun d y hd => ?_⟩
    · rw [exec_pageWalk, execPageWalk]
      dsimp only
      rw [if_neg (not_not.2 hw), hone, hr _ hwalk]
      rfl
    · show (after.cluster (clusterOf c)).tlb = _
      rw [walked_cluster, hwalk]
    · rw [State.wake, State.ctx_updCtx, if_pos ⟨rfl, rfl⟩, walked_ctx]
    · rw [State.wake, State.ctx_updCtx, if_neg (by tauto), walked_ctx]
  · have hwalk := walk_of_fault h
    refine ⟨?_, ?_, walked_mem s c k va acc, walked_ctx s c k va acc⟩
    · rw [exec_pageWalk, execPageWalk]
      dsimp only
      rw [if_neg (not_not.2 hw), hone, hr _ hwalk]
      rfl
    · rw [walked_cluster, hwalk]

/-- Settles O33: the fills and the fetch read what `homeBytes` gives under the key that holds; a walk changes the cluster that
`walk` names, and who waits alone takes its result. -/
theorem fillsAndWalks : Obligations.FillsAndWalks := ⟨fillsBringTheHomesBytes, walksEndInATranslationOrAFault⟩

end Sys2Proof.Machine

/-! # Scalar floating point: one rounding, and values that the format represents (R52, R54, R116, R117) -/

namespace Sys2Proof.Machine

open Sys2Proof

/-! ## A result with its flags -/

theorem writesReg_flags (k : Ctx) (rd : Reg) (v : Word) (f : FFlags) (n : Nat) :
    WritesReg { k with fflags := k.fflags ||| f } (advance { xwrite k rd v with fflags := k.fflags ||| f } n) rd v
      (k.pc + BitVec.ofNat 64 n) := by
  have hcomm : { xwrite k rd v with fflags := k.fflags ||| f } = xwrite { k with fflags := k.fflags ||| f } rd v := by
    unfold xwrite; split <;> rfl
  rw [hcomm]
  exact writesReg_advance ..

/-- An instruction that ends in `State.retF` gives its value, ORs its flags into FFLAGS and changes nothing else. -/
theorem givesF_retF {i j : Instr} {s : State} {rd : Reg} {v : Word} {f : FFlags} {n : Nat}
    (h : exec i s = .next (s.retF j rd v f)) (hn : byteLen j = n) : GivesF i s rd v f n := by
  subst hn
  refine ⟨_, h, onlyCtx_setMe _ _, ?_⟩
  rw [State.retF, State.ctx_setMe, if_pos ⟨rfl, rfl⟩]
  exact writesReg_flags ..

theorem fmtD_width (d : BitVec 1) : (fmtD d).width = if d = 1 then 64 else 32 := by
  unfold fmtD; split <;> rfl

/-- An operand is read in the width of its format: an FP64 operand is the whole register (R54). -/
theorem fval_eq (d : BitVec 1) (w : Word) : fval d w = decodeCode (fmtD d) (w.toNat % 2 ^ (fmtD d).width) := by
  rw [fval, fcode, fmtD_width]
  split
  · rw [Nat.mod_eq_of_lt w.isLt]
  · rfl

/-- The operations of two operands share `farith` (R116). -/
theorem givesF_farith {i : Instr} {rd rs1 rs2 : Reg} {d : BitVec 1} {rm : BitVec 3} {op : Rm → Val → Val → Val × FFlags}
    {s : State} (h : exec i s = farith i rd rs1 rs2 d rm op s) (hn : byteLen i = 4) :
    let m := rmOf rm s.me.frm
    let v := fun (r : Reg) => decodeCode (fmtD d) ((xread s.me r).toNat % 2 ^ (fmtD d).width)
    let r := finish (fmtD d) m false (op m (v rs1) (v rs2))
    GivesF i s rd (BitVec.ofNat 64 r.1) r.2 4 := by
  simp only [← fval_eq]
  exact givesF_retF h hn

/-- Settles O17: FADD to FSQRT by what `farith` does with the exact result, FMA by the same rounding under FRM. -/
theorem floatArithmeticRoundsOnce : Obligations.FloatArithmeticRoundsOnce := by
  intro s rd rs1 rs2 rs3 d rm f m v gives
  refine ⟨givesF_farith (op := addVal) rfl rfl, givesF_farith (op := fun m a b => addVal m a (negVal b)) rfl rfl,
    givesF_farith (op := fun _ a b => mulVal a b) rfl rfl, givesF_farith (op := fun _ a b => divVal a b) rfl rfl,
    givesF_farith (rs2 := 0) (op := fun _ a _ => sqrtVal a) rfl rfl, ?_⟩
  have hv (r : Reg) : v r = fval d (xread s.me r) := (fval_eq d _).symm
  simp only [gives, hv]
  exact givesF_retF rfl rfl

/-! ## Exact quotients -/

theorem quot_one_self (num : Nat) (k : Int) : quot num 1 k k = (num, false, .lt) := by
  simp [quot, Nat.mod_one]; rfl

/-- What is already a multiple of the quantum stays as it is in every mode. -/
theorem roundMag_one_self (rm : Rm) (neg : Bool) (num : Nat) (k : Int) (code : Nat) :
    roundMag rm neg num 1 k k code = (num, false) := by
  simp [roundMag, quot_one_self, roundUp]

theorem ilog2_one {num : Nat} (h : num ≠ 0) (k : Int) : ilog2 num 1 k = num.log2 + k := by
  simp [ilog2, show Nat.log2 1 = 0 from rfl, Nat.log2_self_le h]

/-! ## The finite magnitudes of an IEEE format (R48) -/

/-- A signed float format with infinities and subnormals (R44). -/
structure Fmt.Ieee (F : Fmt) : Prop where
  isInt : F.isInt = false
  sgn : F.sgn = true
  spec : F.spec = 2
  ftz : F.ftz = false
  two_le : 2 ≤ F.e

theorem ieee_fp32 : fp32.Ieee := ⟨rfl, rfl, rfl, rfl, by decide⟩
theorem ieee_fp64 : fp64.Ieee := ⟨rfl, rfl, rfl, rfl, by decide⟩

/-- The exponent of the quantum `p` binades above the lowest one, which the subnormals share with the smallest normal values. -/
def Fmt.quantum (F : Fmt) (p : Nat) : Int := 1 - F.bias + p - F.m

/-- `num` quanta of binade `p` are a finite magnitude of the format; above the lowest binade it is normal. -/
structure Fmt.Magnitude (F : Fmt) (p num : Nat) : Prop where
  lt : num < 2 ^ (F.m + 1)
  normal : p ≠ 0 → 2 ^ F.m ≤ num
  finite : p + 2 < 2 ^ F.e

/-- The sign bit of a code. -/
def Fmt.signBit (F : Fmt) (neg : Bool) : Nat := if neg then 2 ^ (F.m + F.e) else 0

theorem code_fields {F : Fmt} {c : Nat} (hc : c < 2 ^ (F.m + F.e + 1)) :
    c = F.signBit (nbit c (F.m + F.e)) + bits c F.m F.e * 2 ^ F.m + bits c 0 F.m := by
  have hs : F.signBit (nbit c (F.m + F.e)) = c / 2 ^ F.m / 2 ^ F.e * 2 ^ F.e * 2 ^ F.m := by
    have h2 : c / 2 ^ (F.m + F.e) < 2 := Nat.div_lt_of_lt_mul (by rwa [← pow_succ])
    rw [Nat.div_div_eq_div_mul, ← pow_add, mul_assoc, ← pow_add, Nat.add_comm F.e, Fmt.signBit, nbit]
    interval_cases c / 2 ^ (F.m + F.e) <;> simp
  calc c = c / 2 ^ F.m * 2 ^ F.m + c % 2 ^ F.m := (Nat.div_add_mod' ..).symm
    _ = (c / 2 ^ F.m / 2 ^ F.e * 2 ^ F.e + c / 2 ^ F.m % 2 ^ F.e) * 2 ^ F.m + c % 2 ^ F.m := by
      rw [Nat.div_add_mod' (c / 2 ^ F.m)]
    _ = _ := by rw [hs, bits_low, bits, add_mul]

/-- What a finite code is: its sign bit, its binade and its quanta. -/
theorem magnitude_of_decodeCode {F : Fmt} (hF : F.Ieee) {c num den : Nat} {neg : Bool} {e : Int} (hc : c < 2 ^ (F.m + F.e + 1))
    (h : decodeCode F c = .fin neg num den e) :
    ∃ p, F.Magnitude p num ∧ den = 1 ∧ e = F.quantum p ∧ c = F.signBit neg + p * 2 ^ F.m + num := by
  have hf : bits c 0 F.m < 2 ^ F.m := Nat.mod_lt _ (by positivity)
  have hx : bits c F.m F.e < 2 ^ F.e := Nat.mod_lt _ (by positivity)
  have h4 : 2 ^ 2 ≤ 2 ^ F.e := Nat.pow_le_pow_right (by decide) hF.two_le
  have hfields := code_fields hc
  simp only [decodeCode, hF.isInt, hF.sgn, hF.spec, hF.ftz, Bool.true_and, Bool.false_eq_true, if_false, true_and] at h
  generalize nbit c (F.m + F.e) = s at *
  generalize bits c 0 F.m = f at *
  generalize bits c F.m F.e = x at *
  split at h
  case isTrue => split at h <;> cases h
  case isFalse hfin =>
    rw [if_neg (by omega)] at h
    split at h
    case isTrue hnormal =>
      cases h
      obtain ⟨p, rfl⟩ := Nat.exists_eq_succ_of_ne_zero hnormal
      refine ⟨p, ⟨by omega, fun _ => by omega, by omega⟩, rfl, ?_, ?_⟩
      · simp only [Fmt.quantum]; push_cast; ring
      · rw [hfields, Nat.succ_mul]; omega
    case isFalse hsub =>
      cases h
      refine ⟨0, ⟨by omega, fun h => absurd rfl h, by omega⟩, rfl, ?_, ?_⟩
      · simp [Fmt.quantum]
      · rw [hfields, not_not.1 hsub]

section
variable {F : Fmt} {p num : Nat} (hm : F.Magnitude p num)
include hm

/-- A normal value's leading bit stands at the binade itself. -/
theorem Fmt.Magnitude.ilog2_of_normal (h : 2 ^ F.m ≤ num) : ilog2 num 1 (F.quantum p) = 1 - F.bias + p := by
  have h0 : num ≠ 0 := by have := Nat.two_pow_pos F.m; omega
  rw [ilog2_one h0, (Nat.log2_eq_iff h0).2 ⟨h, hm.lt⟩, Fmt.quantum]
  ring

/-- A subnormal value's leading bit stands below the lowest binade. -/
theorem Fmt.Magnitude.ilog2_of_subnormal (h0 : num ≠ 0) (h : num < 2 ^ F.m) : p = 0 ∧ ilog2 num 1 (F.quantum p) < 1 - F.bias := by
  have hp : p = 0 := by_contra fun hp => absurd (hm.normal hp) (by omega)
  have hl : num.log2 < F.m := (Nat.log2_lt h0).2 h
  rw [ilog2_one h0, Fmt.quantum, hp]
  omega

theorem Fmt.Magnitude.max_ilog2 (h0 : num ≠ 0) : max (1 - F.bias) (ilog2 num 1 (F.quantum p)) = 1 - F.bias + p := by
  by_cases h : 2 ^ F.m ≤ num
  · rw [hm.ilog2_of_normal h]; omega
  · obtain ⟨rfl, hl⟩ := hm.ilog2_of_subnormal h0 (by omega)
    omega

theorem Fmt.Magnitude.le_maxMag (hF : F.Ieee) : cmpMag num (F.quantum p) F.maxMag.1 F.maxMag.2 ≠ .gt := by
  have hfin := hm.finite
  have hlt := hm.lt
  have hcast : (p : Int) + 2 < 2 ^ F.e := by exact_mod_cast hfin
  have hmax : F.maxMag = (2 ^ F.m + (2 ^ F.m - 1), (2 ^ F.e - 2 : Int) - F.bias - F.m) := by
    simp only [Fmt.maxMag, hF.spec, if_true]
    rw [if_neg (by omega)]
  have hexp : F.quantum p - ((2 ^ F.e - 2 : Int) - F.bias - F.m) ≤ 0 := by
    rw [Fmt.quantum]; omega
  rw [hmax, cmpMag, Int.toNat_of_nonpos hexp, pow_zero, mul_one, Nat.compare_ne_gt]
  calc num ≤ 2 ^ F.m + (2 ^ F.m - 1) := by rw [pow_succ] at hlt; omega
    _ ≤ _ := Nat.le_mul_of_pos_right _ (by positivity)

/-- A represented magnitude is a multiple of its own quantum and no larger than MaxF, so rounding leaves it (R52). -/
theorem Fmt.Magnitude.roundFloat_eq (hF : F.Ieee) (h0 : num ≠ 0) (rm : Rm) (neg : Bool) :
    roundFloat F rm neg num 1 (F.quantum p) = (.fin neg num 1 (F.quantum p), 0) := by
  simp only [roundFloat, if_neg h0, hm.max_ilog2 h0]
  rw [show 1 - F.bias + p - F.m = F.quantum p from rfl]
  simp only [roundMag_one_self, hF.sgn, hF.ftz]
  simp [hm.le_maxMag hF]

theorem Fmt.Magnitude.encodeVal_eq (hF : F.Ieee) (neg : Bool) :
    encodeVal F (.fin neg num 1 (F.quantum p)) = F.signBit neg + p * 2 ^ F.m + num := by
  have hsign : (if neg = true then 2 ^ (F.m + F.e) else 0) = F.signBit neg := rfl
  simp only [encodeVal, hF.isInt, hF.sgn, Bool.and_true, Bool.false_eq_true, if_false, hsign]
  split
  case isTrue h0 =>
    subst h0
    have hp : p = 0 := by_contra fun hp => absurd (hm.normal hp) (by simp)
    simp [hp]
  case isFalse h0 =>
    by_cases h : 2 ^ F.m ≤ num
    · have hcode : (1 - F.bias + (p : Int) + F.bias).toNat = p + 1 := by omega
      rw [hm.ilog2_of_normal h, if_neg (by omega), hcode, show 1 - F.bias + p - F.m = F.quantum p from rfl, quot_one_self,
        Nat.succ_mul]
      omega
    · obtain ⟨rfl, hl⟩ := hm.ilog2_of_subnormal h0 (by omega)
      rw [if_pos hl, show 1 - F.bias - F.m = F.quantum 0 by simp [Fmt.quantum], quot_one_self]
      omega

end

theorem roundFloat_zero (F : Fmt) (rm : Rm) (neg : Bool) (k : Int) : roundFloat F rm neg 0 1 k = (.fin (neg && F.sgn) 0 1 0, 0) :=
  if_pos rfl

theorem roundCode_fin {F : Fmt} (hF : F.isInt = false) (rm : Rm) (neg : Bool) (num den : Nat) (k : Int) :
    roundCode F rm false (.fin neg num den k) = (encodeVal F (roundFloat F rm neg num den k).1, (roundFloat F rm neg num den k).2) := by
  simp [roundCode, roundVal, hF]

theorem encodeVal_zero {F : Fmt} (hF : F.isInt = false) (neg : Bool) (den den' : Nat) (k k' : Int) :
    encodeVal F (.fin neg 0 den k) = encodeVal F (.fin neg 0 den' k') := by
  simp [encodeVal, hF]

/-- R52 for every IEEE format: the value of a finite code rounds to that code. -/
theorem roundCode_decodeCode {F : Fmt} (hF : F.Ieee) {c num den : Nat} {neg : Bool} {e : Int} (hc : c < 2 ^ (F.m + F.e + 1))
    (h : decodeCode F c = .fin neg num den e) (rm : Rm) : roundCode F rm false (decodeCode F c) = (c, 0) := by
  obtain ⟨p, hm, rfl, rfl, hcode⟩ := magnitude_of_decodeCode hF hc h
  rw [h, roundCode_fin hF.isInt, hcode, ← hm.encodeVal_eq hF neg]
  by_cases h0 : num = 0
  · subst h0
    rw [roundFloat_zero, hF.sgn, Bool.and_true, encodeVal_zero hF.isInt]
  · rw [hm.roundFloat_eq hF h0]

/-- Settles O19: FP32 and FP64 are IEEE formats, each with codes of its width. -/
theorem roundingKeepsRepresentedValues : Obligations.RoundingKeepsRepresentedValues := by
  rintro f m c neg num den e (rfl | rfl) hc h
  · exact roundCode_decodeCode ieee_fp32 hc h m
  · exact roundCode_decodeCode ieee_fp64 hc h m

end Sys2Proof.Machine

/-! # Encoding and decoding (R68-R80) -/

namespace Sys2Proof

/-!
## Words and their fields (R68, R72)

A word is packed from fields exactly if its fields are these. The decoder reads fields and the encoder packs them, so each of these
equivalences serves both directions.
-/

theorem eq_append_iff (n m : Nat) (x : BitVec (n + m)) (a : BitVec n) (b : BitVec m) :
    x = a ++ b ↔ x.extractLsb' m n = a ∧ x.extractLsb' 0 m = b := by
  constructor
  · rintro rfl
    exact ⟨BitVec.extractLsb'_append_eq_left, BitVec.extractLsb'_append_eq_right⟩
  · rintro ⟨rfl, rfl⟩
    rw [BitVec.extractLsb'_append_extractLsb'_eq_extractLsb' (Nat.zero_add m).symm, BitVec.extractLsb'_eq_self]

theorem extractLsb'_eq_append_iff (n m : Nat) {k : Nat} (s : Nat) (x : BitVec k) (a : BitVec n) (b : BitVec m) :
    x.extractLsb' s (n + m) = a ++ b ↔ x.extractLsb' (s + m) n = a ∧ x.extractLsb' s m = b := by
  rw [← BitVec.extractLsb'_append_extractLsb'_eq_extractLsb' rfl, eq_append_iff, BitVec.extractLsb'_append_eq_left,
    BitVec.extractLsb'_append_eq_right]

@[simp] theorem eq_packC_iff (w : Half) (l : BitVec 2) (op : BitVec 7) (rd rs1 rs2 : Reg) (fn : BitVec 8) :
    w = l ++ packC op rd rs1 rs2 fn ↔
      fLen w = l ∧ fOp w = op ∧ fRd w = rd ∧ fRs1 w = rs1 ∧ fRs2 w = rs2 ∧ fFn w = fn := by
  rw [packC, eq_append_iff 2 30, extractLsb'_eq_append_iff 22 8,
    extractLsb'_eq_append_iff 17 5, extractLsb'_eq_append_iff 12 5, extractLsb'_eq_append_iff 7 5]
  simp only [and_assoc]
  rfl

@[simp] theorem eq_packI_iff (w : Half) (l : BitVec 2) (op : BitVec 7) (rd rs1 : Reg) (imm : BitVec 12) :
    w = l ++ packI op rd rs1 imm ↔ fLen w = l ∧ fOp w = op ∧ fRd w = rd ∧ fRs1 w = rs1 ∧ fBit12 w = 0 ∧ fImm w = imm := by
  rw [packI, eq_append_iff 2 30, extractLsb'_eq_append_iff 18 12,
    extractLsb'_eq_append_iff 17 1, extractLsb'_eq_append_iff 12 5, extractLsb'_eq_append_iff 7 5]
  simp only [and_assoc]
  rfl

@[simp] theorem eq_packBc_iff (w : Half) (l : BitVec 2) (op : BitVec 7) (rs1 : Reg) (cond : BitVec 3) (off : BitVec 15) :
    w = l ++ packBc op rs1 cond off ↔ fLen w = l ∧ fOp w = op ∧ fRd w = rs1 ∧ fCond w = cond ∧ fOff15 w = off := by
  rw [packBc, eq_append_iff 2 30, extractLsb'_eq_append_iff 15 15, extractLsb'_eq_append_iff 12 3,
    extractLsb'_eq_append_iff 7 5]
  simp only [and_assoc]
  rfl

@[simp] theorem eq_packBj_iff (w : Half) (l : BitVec 2) (op : BitVec 7) (rd : Reg) (off : BitVec 18) :
    w = l ++ packBj op rd off ↔ fLen w = l ∧ fOp w = op ∧ fRd w = rd ∧ fOff18 w = off := by
  rw [packBj, eq_append_iff 2 30, extractLsb'_eq_append_iff 12 18, extractLsb'_eq_append_iff 7 5]
  simp only [and_assoc]
  rfl

@[simp] theorem eq_packM_iff (w : Half) (l : BitVec 2) (op : BitVec 7) (rt rb : Reg) (sz : BitVec 3) (disp : BitVec 10) :
    w = l ++ packM op rt rb sz disp ↔ fLen w = l ∧ fOp w = op ∧ fRd w = rt ∧ fRs1 w = rb ∧ fSz w = sz ∧ fDisp w = disp := by
  rw [packM, eq_append_iff 2 30, extractLsb'_eq_append_iff 20 10, extractLsb'_eq_append_iff 17 3,
    extractLsb'_eq_append_iff 12 5, extractLsb'_eq_append_iff 7 5]
  simp only [and_assoc]
  rfl

@[simp] theorem eq_packMa_iff (w : Half) (l : BitVec 2) (op : BitVec 7) (rt rb : Reg) (sz : BitVec 3) (rv : Reg) (aop : BitVec 5) :
    w = l ++ packMa op rt rb sz rv aop ↔
      fLen w = l ∧ fOp w = op ∧ fRd w = rt ∧ fRs1 w = rb ∧ fSz w = sz ∧ fRv w = rv ∧ fAop w = aop := by
  rw [packMa, eq_append_iff 2 30, extractLsb'_eq_append_iff 25 5, extractLsb'_eq_append_iff 20 5,
    extractLsb'_eq_append_iff 17 3, extractLsb'_eq_append_iff 12 5, extractLsb'_eq_append_iff 7 5]
  simp only [and_assoc]
  rfl

@[simp] theorem eq_packW_iff (w : Half) (l : BitVec 2) (op : BitVec 7) (ad as_ : BitVec 4) (pa pb mod : BitVec 3) (sat : BitVec 1) (fn : BitVec 5) :
    w = l ++ packW op ad as_ pa pb mod sat fn ↔ fLen w = l ∧ fOp w = op ∧ fAd w = ad ∧ fAs w = as_ ∧ fPa w = pa ∧ fPb w = pb ∧
      fMod w = mod ∧ fSat w = sat ∧ fWfn w = fn := by
  rw [packW, eq_append_iff 2 30, extractLsb'_eq_append_iff 25 5, extractLsb'_eq_append_iff 24 1,
    extractLsb'_eq_append_iff 21 3, extractLsb'_eq_append_iff 18 3, extractLsb'_eq_append_iff 15 3,
    extractLsb'_eq_append_iff 11 4, extractLsb'_eq_append_iff 7 4]
  simp only [and_assoc]
  rfl

@[simp] theorem eq_packRep_iff (w : Half) (l : BitVec 2) (op : BitVec 7) (cnt : BitVec 12) (ni rowstep : BitVec 4) (ptrstep : BitVec 3) :
    w = l ++ packRep op cnt ni rowstep ptrstep ↔
      fLen w = l ∧ fOp w = op ∧ fCnt w = cnt ∧ fNi w = ni ∧ fRowstep w = rowstep ∧ fPtrstep w = ptrstep := by
  rw [packRep, eq_append_iff 2 30, extractLsb'_eq_append_iff 27 3, extractLsb'_eq_append_iff 23 4,
    extractLsb'_eq_append_iff 19 4, extractLsb'_eq_append_iff 7 12]
  simp only [and_assoc]
  rfl

@[simp] theorem eq_packE_iff (w : Half) (l : BitVec 2) (op : BitVec 7) (rd rs1 rs2 : Reg) (fn mod : BitVec 4) :
    w = l ++ packE op rd rs1 rs2 fn mod ↔
      fLen w = l ∧ fOp w = op ∧ fRd w = rd ∧ fRs1 w = rs1 ∧ fRs2 w = rs2 ∧ fEfn w = fn ∧ fEmod w = mod := by
  rw [packE, eq_append_iff 2 30, extractLsb'_eq_append_iff 26 4, extractLsb'_eq_append_iff 22 4,
    extractLsb'_eq_append_iff 17 5, extractLsb'_eq_append_iff 12 5, extractLsb'_eq_append_iff 7 5]
  simp only [and_assoc]
  rfl

@[simp] theorem eq_packY_iff (y : Word) (rs3 : Reg) (imm : Half) :
    y = packY rs3 imm ↔ yGid y = 0 ∧ yRs3 y = rs3 ∧ yG y = 0 ∧ yImm y = imm := by
  rw [packY, eq_append_iff 32 32, extractLsb'_eq_append_iff 31 1, extractLsb'_eq_append_iff 26 5]
  simp only [and_assoc]
  rfl

theorem words2_inj (v v' : Word) : words2 v = words2 v' ↔ v = v' := by
  refine ⟨fun h => ?_, congrArg words2⟩
  simp only [words2, List.cons.injEq, and_true] at h
  exact ((eq_append_iff 32 32 v _ _).2 ⟨h.2, h.1⟩).trans ((eq_append_iff 32 32 v' _ _).2 ⟨rfl, rfl⟩).symm

/-! ## Fields that an opcode divides further (R75, R77) -/

theorem eq_iff_of_split (n m : Nat) (x k : BitVec (n + m)) :
    x = k ↔ x.extractLsb' m n = k.extractLsb' m n ∧ x.extractLsb' 0 m = k.extractLsb' 0 m := by
  rw [← eq_append_iff, ← (eq_append_iff n m k _ _).2 ⟨rfl, rfl⟩]

section
variable (w : Half)

@[simp] theorem fFn_eq_5_3_iff (a : BitVec 5) (b : BitVec 3) :
    fFn w = a ++ b ↔ w.extractLsb' 3 5 = a ∧ w.extractLsb' 0 3 = b :=
  extractLsb'_eq_append_iff _ _ 0 w a b

@[simp] theorem fFn_eq_1_3_4_iff (a : BitVec 1) (b : BitVec 3) (c : BitVec 4) :
    fFn w = a ++ b ++ c ↔ w.extractLsb' 7 1 = a ∧ w.extractLsb' 4 3 = b ∧ w.extractLsb' 0 4 = c := by
  rw [fFn, extractLsb'_eq_append_iff 4 4, extractLsb'_eq_append_iff 1 3, and_assoc]

@[simp] theorem fFn_eq_5_1_2_iff (a : BitVec 5) (b : BitVec 1) (c : BitVec 2) :
    fFn w = a ++ b ++ c ↔ w.extractLsb' 3 5 = a ∧ w.extractLsb' 2 1 = b ∧ w.extractLsb' 0 2 = c := by
  rw [fFn, extractLsb'_eq_append_iff 6 2, extractLsb'_eq_append_iff 5 1, and_assoc]

@[simp] theorem fFn_eq_1_4_3_iff (a : BitVec 1) (b : BitVec 4) (c : BitVec 3) :
    fFn w = a ++ b ++ c ↔ w.extractLsb' 7 1 = a ∧ w.extractLsb' 3 4 = b ∧ w.extractLsb' 0 3 = c := by
  rw [fFn, extractLsb'_eq_append_iff 5 3, extractLsb'_eq_append_iff 1 4, and_assoc]

@[simp] theorem fFn_eq_3_2_3_iff (a : BitVec 3) (b : BitVec 2) (c : BitVec 3) :
    fFn w = a ++ b ++ c ↔ w.extractLsb' 5 3 = a ∧ w.extractLsb' 3 2 = b ∧ w.extractLsb' 0 3 = c := by
  rw [fFn, extractLsb'_eq_append_iff 5 3, extractLsb'_eq_append_iff 3 2, and_assoc]

@[simp] theorem fFn_eq_1_7_iff (a : BitVec 1) (b : BitVec 7) :
    fFn w = a ++ b ↔ w.extractLsb' 7 1 = a ∧ w.extractLsb' 0 7 = b :=
  extractLsb'_eq_append_iff _ _ 0 w a b

@[simp] theorem fRs2_eq_3_2_iff (a : BitVec 3) (b : BitVec 2) :
    fRs2 w = a ++ b ↔ w.extractLsb' 10 3 = a ∧ w.extractLsb' 8 2 = b :=
  extractLsb'_eq_append_iff _ _ 8 w a b

@[simp] theorem fImm_eq_6_6_iff (a b : BitVec 6) : fImm w = a ++ b ↔ w.extractLsb' 6 6 = a ∧ w.extractLsb' 0 6 = b :=
  extractLsb'_eq_append_iff _ _ 0 w a b

@[simp] theorem fMod_eq_2_1_iff (a : BitVec 2) (b : BitVec 1) : fMod w = a ++ b ↔ w.extractLsb' 7 2 = a ∧ w.extractLsb' 6 1 = b :=
  extractLsb'_eq_append_iff _ _ 6 w a b

@[simp] theorem fEmod_eq_1_3_iff (a : BitVec 1) (b : BitVec 3) : fEmod w = a ++ b ↔ w.extractLsb' 3 1 = a ∧ w.extractLsb' 0 3 = b :=
  extractLsb'_eq_append_iff _ _ 0 w a b

/-- FN of a mailbox instruction is split above the fourth bit as well (R77). -/
theorem bits_3_5_eq_iff (k : BitVec 5) : w.extractLsb' 3 5 = k ↔ fEfn w = k.extractLsb' 1 4 ∧ w.extractLsb' 3 1 = k.extractLsb' 0 1 :=
  Iff.trans (by rw [← (eq_append_iff 4 1 k _ _).2 ⟨rfl, rfl⟩]) (extractLsb'_eq_append_iff 4 1 3 w _ _)

@[simp] theorem fRd_eq_2_1_2_iff (a : BitVec 2) (b : BitVec 1) (c : BitVec 2) :
    fRd w = a ++ b ++ c ↔ (fRd w).extractLsb' 3 2 = a ∧ (fRd w).extractLsb' 2 1 = b ∧ (fRd w).extractLsb' 0 2 = c := by
  rw [eq_append_iff 3 2, extractLsb'_eq_append_iff 2 1, and_assoc]

@[simp] theorem fRd_eq_3_2_iff (a : BitVec 3) (b : BitVec 2) :
    fRd w = a ++ b ↔ (fRd w).extractLsb' 2 3 = a ∧ (fRd w).extractLsb' 0 2 = b := eq_append_iff 3 2 (fRd w) a b

theorem bits_6_7_eq_zero_iff : w.extractLsb' 6 7 = 0#7 ↔ fBit12 w = 0#1 ∧ w.extractLsb' 6 6 = 0#6 :=
  extractLsb'_eq_append_iff 1 6 6 w 0#1 0#6

/-- MOD of WDRAW is below 8, the code of WDRAW.ALL, where its top bit is clear (R217). -/
theorem bit_3_eq_zero_iff : w.extractLsb' 3 1 = 0#1 ↔ (fEmod w).toNat ≤ 8 ∧ (fEmod w).toNat ≠ 8 := by
  rw [← BitVec.toNat_inj]
  simp only [fEmod, BitVec.extractLsb'_toNat, Nat.shiftRight_eq_div_pow, BitVec.toNat_ofNat]
  omega

end

section
variable (m : Half)

@[simp] theorem imm_eq_mldb_iff (ft z : BitVec 4) (bank : BitVec 3) (row0 : BitVec 10) (sc : BitVec 1) (nrm1 : BitVec 10) :
    m = ft ++ z ++ bank ++ row0 ++ sc ++ nrm1 ↔ m.extractLsb' 28 4 = ft ∧ m.extractLsb' 24 4 = z ∧ m.extractLsb' 21 3 = bank ∧
      m.extractLsb' 11 10 = row0 ∧ m.extractLsb' 10 1 = sc ∧ m.extractLsb' 0 10 = nrm1 := by
  rw [eq_append_iff 22 10, extractLsb'_eq_append_iff 21 1, extractLsb'_eq_append_iff 11 10,
    extractLsb'_eq_append_iff 8 3, extractLsb'_eq_append_iff 4 4]
  simp only [and_assoc]

@[simp] theorem imm_eq_mmul_iff (d nrm1 : BitVec 4) (pa pm1 : BitVec 3) (z : BitVec 1) (r : BitVec 9) (km1 : BitVec 8) :
    m = d ++ nrm1 ++ pa ++ pm1 ++ z ++ r ++ km1 ↔ m.extractLsb' 28 4 = d ∧ m.extractLsb' 24 4 = nrm1 ∧ m.extractLsb' 21 3 = pa ∧
      m.extractLsb' 18 3 = pm1 ∧ m.extractLsb' 17 1 = z ∧ m.extractLsb' 8 9 = r ∧ m.extractLsb' 0 8 = km1 := by
  rw [eq_append_iff 24 8, extractLsb'_eq_append_iff 15 9, extractLsb'_eq_append_iff 14 1,
    extractLsb'_eq_append_iff 11 3, extractLsb'_eq_append_iff 8 3, extractLsb'_eq_append_iff 4 4]
  simp only [and_assoc]

@[simp] theorem imm_eq_24_8_iff (a : BitVec 24) (b : BitVec 8) : m = a ++ b ↔ m.extractLsb' 8 24 = a ∧ m.extractLsb' 0 8 = b :=
  eq_append_iff 24 8 m a b

@[simp] theorem imm_eq_30_2_iff (a : BitVec 30) (b : BitVec 2) : m = a ++ b ↔ m.extractLsb' 2 30 = a ∧ m.extractLsb' 0 2 = b :=
  eq_append_iff 30 2 m a b

@[simp] theorem imm_eq_28_1_3_iff (a : BitVec 28) (b : BitVec 1) (c : BitVec 3) :
    m = a ++ b ++ c ↔ m.extractLsb' 4 28 = a ∧ m.extractLsb' 3 1 = b ∧ m.extractLsb' 0 3 = c := by
  rw [eq_append_iff 29 3, extractLsb'_eq_append_iff 28 1, and_assoc]

@[simp] theorem imm_eq_23_9_iff (a : BitVec 23) (b : BitVec 9) : m = a ++ b ↔ m.extractLsb' 9 23 = a ∧ m.extractLsb' 0 9 = b :=
  eq_append_iff 23 9 m a b

end

theorem extractLsb'_0_2_eq_yImm (y : Word) : y.extractLsb' 0 2 = (yImm y).extractLsb' 0 2 :=
  BitVec.eq_of_getLsbD_eq fun i hi => by simp [yImm, hi]

theorem bit_16_eq_zero {m : Half} (h : m.extractLsb' 9 23 = 0#23) : m.extractLsb' 16 1 = 0#1 :=
  ((extractLsb'_eq_append_iff 15 1 16 m 0#15 0#1).1 ((extractLsb'_eq_append_iff 16 7 9 m 0#16 0#7).1 h).1).2

@[simp] theorem rmOk_seven : rmOk 7#3 = true := rfl

theorem bit_ne_one_iff (b : BitVec 1) : ¬b = 1#1 ↔ b = 0#1 := by decide +revert

theorem eq_three_of_ne (b : BitVec 2) : b ≠ 0#2 → b ≠ 1#2 → b ≠ 2#2 → b = 3#2 := by decide +revert

@[simp] theorem yClean_iff (y : Word) : yClean y = true ↔ yGid y = 0#26 ∧ yRs3 y = 0#5 ∧ yG y = 0#1 := by
  simp [yClean, and_assoc]

/-! ## The words of an instruction (R68) -/

/-- The words after a first word with LEN `l`: the extension doubleword before the literal, as far as LEN announces them (R68). -/
def wordsAfter (l : BitVec 2) (y lit : Word) : List Half :=
  match l.toNat with
  | 0 => []
  | 1 => words2 y
  | 2 => words2 lit
  | _ => words2 y ++ words2 lit

/-- The words of an instruction, from its first word and the two doublewords. -/
def wordsAt (w : Half) (y lit : Word) : List Half := w :: wordsAfter (fLen w) y lit

theorem cons_eq_wordsAt_iff (l : BitVec 2) (b : BitVec 30) (ws : List Half) (w : Half) (y lit : Word) :
    (l ++ b) :: ws = wordsAt w y lit ↔ w = l ++ b ∧ ws = wordsAfter l y lit := by
  rw [wordsAt, List.cons.injEq, eq_comm]
  refine and_congr_right ?_
  rintro rfl
  rw [Laws.WordsLen.len_top]

@[simp] theorem words1_eq_wordsAt_iff (b : BitVec 30) (w : Half) (y lit : Word) : words1 b = wordsAt w y lit ↔ w = 0#2 ++ b := by
  simp [words1, cons_eq_wordsAt_iff, wordsAfter]

@[simp] theorem wordsY_eq_wordsAt_iff (b : BitVec 30) (w : Half) (y y' lit : Word) :
    wordsY b y' = wordsAt w y lit ↔ w = 1#2 ++ b ∧ y = y' := by
  simp [wordsY, cons_eq_wordsAt_iff, wordsAfter, words2_inj, eq_comm]

@[simp] theorem wordsL_eq_wordsAt_iff (b : BitVec 30) (w : Half) (y lit lit' : Word) :
    wordsL b lit' = wordsAt w y lit ↔ w = 2#2 ++ b ∧ lit = lit' := by
  simp [wordsL, cons_eq_wordsAt_iff, wordsAfter, words2_inj, eq_comm]

@[simp] theorem wordsYL_eq_wordsAt_iff (b : BitVec 30) (w : Half) (y y' lit lit' : Word) :
    wordsYL b y' lit' = wordsAt w y lit ↔ w = 3#2 ++ b ∧ y = y' ∧ lit = lit' := by
  rw [wordsYL, cons_eq_wordsAt_iff]
  refine and_congr_right fun _ => ⟨fun h => ?_, ?_⟩
  · obtain ⟨hy, hl⟩ := List.append_inj h rfl
    exact ⟨(words2_inj _ _).1 hy.symm, (words2_inj _ _).1 hl.symm⟩
  · rintro ⟨rfl, rfl⟩
    rfl

/-- What the decoder answers for words reads back as them: an instruction that it answers is well-formed and is encoded as these words. -/
def Dec.Reads (w : Half) (y lit : Word) : Dec → Prop
  | .ok i => wellFormed i = true ∧ encode i = wordsAt w y lit
  | .illegal _ => True

@[simp] theorem ok_reads (w : Half) (y lit : Word) (i : Instr) :
    (Dec.ok i).Reads w y lit ↔ wellFormed i = true ∧ encode i = wordsAt w y lit := Iff.rfl

@[simp] theorem illegal_reads (w : Half) (y lit : Word) (n : Nat) : (Dec.illegal n).Reads w y lit := trivial

@[simp] theorem need_reads (w : Half) (y lit : Word) (n : Nat) (c : Bool) (k : Dec) :
    (need n c k).Reads w y lit ↔ (c = true → k.Reads w y lit) := by
  cases c <;> simp [need]

@[simp] theorem ite_reads (w : Half) (y lit : Word) (c : Prop) [Decidable c] (a b : Dec) :
    (if c then a else b).Reads w y lit ↔ (c → a.Reads w y lit) ∧ (¬c → b.Reads w y lit) := by
  split <;> simp [*]

/-!
## From words to instructions

Each proof splits along the function codes of the opcode's decoder. In each case the opcode, the function code and the checks that were
passed are the equations of fields to which the lemmas above reduce the encoding of the answer.
-/

section
variable {w : Half} {y lit : Word}

theorem decAlu_reads (hop : fOp w = 0x01#7) (hl : fLen w = 0#2) : (decAlu w).Reads w y lit := by
  unfold decAlu
  split <;> simp_all [BitVec.toNat_eq_nat, wellFormed.eq_def, encode.eq_def, -BitVec.extractLsb'_toNat]

theorem decMulDiv_reads (hop : fOp w = 0x02#7) (hl : fLen w = 0#2) : (decMulDiv w).Reads w y lit := by
  unfold decMulDiv
  split <;> simp_all [BitVec.toNat_eq_nat, wellFormed.eq_def, encode.eq_def, -BitVec.extractLsb'_toNat]

theorem decCmp_reads (hop : fOp w = 0x03#7) (hl : fLen w = 0#2) : (decCmp w).Reads w y lit := by
  simp_all [decCmp, wellFormed.eq_def, encode.eq_def, -BitVec.extractLsb'_toNat]

theorem decSel_reads (hop : fOp w = 0x04#7) (hl : fLen w = 0#2) : (decSel w).Reads w y lit := by
  simp_all [decSel, wellFormed.eq_def, encode.eq_def, -BitVec.extractLsb'_toNat]

theorem decBit_reads (hop : fOp w = 0x05#7) (hl : fLen w = 0#2) : (decBit w).Reads w y lit := by
  unfold decBit
  split <;> simp_all [BitVec.toNat_eq_nat, wellFormed.eq_def, encode.eq_def, -BitVec.extractLsb'_toNat]

theorem decFarith_reads (hop : fOp w = 0x20#7) (hl : fLen w = 0#2) : (decFarith w).Reads w y lit := by
  unfold decFarith
  split <;> simp_all [BitVec.toNat_eq_nat, wellFormed.eq_def, encode.eq_def, -BitVec.extractLsb'_toNat]

theorem decFcmp_reads (hop : fOp w = 0x22#7) (hl : fLen w = 0#2) : (decFcmp w).Reads w y lit := by
  simp_all [decFcmp, wellFormed.eq_def, encode.eq_def, -BitVec.extractLsb'_toNat]

theorem decMb_reads (hop : fOp w = 0x2C#7) (hl : fLen w = 0#2) : (decMb w).Reads w y lit := by
  unfold decMb
  split <;> simp_all [BitVec.toNat_eq_nat, bits_3_5_eq_iff, wellFormed.eq_def, encode.eq_def, -BitVec.extractLsb'_toNat]

theorem decSys_reads (hop : fOp w = 0x2D#7) (hl : fLen w = 0#2) : (decSys w).Reads w y lit := by
  unfold decSys
  split <;> simp_all [BitVec.toNat_eq_nat, wellFormed.eq_def, encode.eq_def, -BitVec.extractLsb'_toNat]

theorem decVmem_reads (hop : fOp w = 0x30#7) (hl : fLen w = 0#2) : (decVmem w).Reads w y lit := by
  unfold decVmem
  split <;> simp_all [BitVec.toNat_eq_nat, wellFormed.eq_def, encode.eq_def, -BitVec.extractLsb'_toNat]

theorem decVarith_reads (hop : fOp w = 0x31#7) (hl : fLen w = 0#2) : (decVarith w).Reads w y lit := by
  unfold decVarith
  split <;> simp_all [BitVec.toNat_eq_nat, wellFormed.eq_def, encode.eq_def, -BitVec.extractLsb'_toNat]

theorem decVlogic_reads (hop : fOp w = 0x32#7) (hl : fLen w = 0#2) : (decVlogic w).Reads w y lit := by
  unfold decVlogic
  split <;> simp_all [BitVec.toNat_eq_nat, wellFormed.eq_def, encode.eq_def, -BitVec.extractLsb'_toNat]

theorem decVmove_reads (hop : fOp w = 0x33#7) (hl : fLen w = 0#2) : (decVmove w).Reads w y lit := by
  unfold decVmove
  split <;> simp_all [BitVec.toNat_eq_nat, wellFormed.eq_def, encode.eq_def, -BitVec.extractLsb'_toNat]

theorem decVconv_reads (hop : fOp w = 0x34#7) (hl : fLen w = 0#2) : (decVconv w).Reads w y lit := by
  unfold decVconv
  split <;> simp_all [BitVec.toNat_eq_nat, wellFormed.eq_def, encode.eq_def, -BitVec.extractLsb'_toNat]

theorem decVtrans_reads (hop : fOp w = 0x35#7) (hl : fLen w = 0#2) : (decVtrans w).Reads w y lit := by
  unfold decVtrans
  split <;> simp_all [BitVec.toNat_eq_nat, wellFormed.eq_def, encode.eq_def, -BitVec.extractLsb'_toNat]

theorem decWctl_reads (hop : fOp w = 0x36#7) (hl : fLen w = 0#2) : (decWctl w).Reads w y lit := by
  unfold decWctl
  split <;> simp_all [BitVec.toNat_eq_nat, wellFormed.eq_def, encode.eq_def, -BitVec.extractLsb'_toNat]

theorem decExec_reads (hop : fOp w = 0x41#7) (hl : fLen w = 0#2) : (decExec w).Reads w y lit := by
  unfold decExec
  split <;> simp_all [BitVec.toNat_eq_nat, wellFormed.eq_def, encode.eq_def, -BitVec.extractLsb'_toNat]

theorem decMat_reads (hop : fOp w = 0x48#7) (hl : fLen w = 1#2) : (decMat w y).Reads w y lit := by
  unfold decMat
  split <;> simp_all [BitVec.toNat_eq_nat, wellFormed.eq_def, encode.eq_def, -BitVec.extractLsb'_toNat]

theorem decFcvt_reads (hop : fOp w = 0x23#7) (hl : fLen w = 0#2) : (decFcvt w).Reads w y lit := by
  simp +contextual [decFcvt, hop, hl, wellFormed.eq_def, encode.eq_def]

theorem decEvt_reads (hop : fOp w = 0x40#7) (hl : fLen w = 0#2 ∨ fLen w = 2#2 ∧ fEfn w = 5#4) : (decEvt w lit).Reads w y lit := by
  unfold decEvt
  dsimp only
  split
  case h_4 => split <;> simp_all [BitVec.toNat_eq_nat, wellFormed.eq_def, encode.eq_def]
  case h_5 => simp_all +contextual [BitVec.toNat_eq_nat, wellFormed.eq_def, encode.eq_def, bit_3_eq_zero_iff]
  case h_6 =>
    rcases hl with hl | ⟨hl, -⟩ <;> simp_all +contextual [BitVec.toNat_eq_nat, wellFormed.eq_def, encode.eq_def]
  all_goals simp_all [BitVec.toNat_eq_nat, wellFormed.eq_def, encode.eq_def]

theorem decMemctl_reads (hop : fOp w = 0x50#7) (hl : fLen w = 0#2) : (decMemctl w).Reads w y lit := by
  unfold decMemctl
  dsimp only
  split
  case h_7 =>
    split
    case h_4 => simp_all +contextual [BitVec.toNat_eq_nat, wellFormed.eq_def, encode.eq_def, -BitVec.extractLsb'_toNat, eq_three_of_ne]
    all_goals simp_all [BitVec.toNat_eq_nat, wellFormed.eq_def, encode.eq_def, -BitVec.extractLsb'_toNat]
  all_goals simp_all [BitVec.toNat_eq_nat, wellFormed.eq_def, encode.eq_def, -BitVec.extractLsb'_toNat]

theorem decEng_reads (hop : fOp w = 0x58#7) (hl : fLen w = 1#2 ∨ fLen w = 3#2 ∧ (fFn w = 0#8 ∨ fFn w = 7#8)) :
    (decEng w y lit).Reads w y lit := by
  unfold decEng
  split
  case h_2 =>
    simp_all +contextual [BitVec.toNat_eq_nat, wellFormed.eq_def, encode.eq_def, -BitVec.extractLsb'_toNat,
      eq_iff_of_split 31 1 (yImm y), bit_ne_one_iff]
  all_goals
    rcases hl with hl | ⟨hl, hfn⟩ <;>
      simp_all +contextual [BitVec.toNat_eq_nat, wellFormed.eq_def, encode.eq_def, -BitVec.extractLsb'_toNat]

theorem decTree_reads (hop : fOp w = 0x60#7)
    (hl : fLen w = 1#2 ∨ fLen w = 3#2 ∧ fFn w = 0#8 ∧ (y.extractLsb' 0 2 = 0#2 ∨ y.extractLsb' 0 2 = 1#2)) :
    (decTree w y lit).Reads w y lit := by
  unfold decTree
  dsimp only
  rw [extractLsb'_0_2_eq_yImm] at hl
  split
  case h_1 =>
    split <;> rcases hl with hl | ⟨hl, -, hm⟩ <;>
      simp_all +contextual [BitVec.toNat_eq_nat, wellFormed.eq_def, encode.eq_def, -BitVec.extractLsb'_toNat,
        eq_iff_of_split 30 2 (yImm y)]
  case h_8 =>
    split <;>
      simp_all +contextual [BitVec.toNat_eq_nat, wellFormed.eq_def, encode.eq_def, -BitVec.extractLsb'_toNat,
        eq_iff_of_split 30 2 (yImm y)]
  all_goals simp_all +contextual [BitVec.toNat_eq_nat, wellFormed.eq_def, encode.eq_def, -BitVec.extractLsb'_toNat]
theorem decodeOp_reads (hl : lenPermitted w y = true) : (decodeOp w y lit).Reads w y lit := by
  unfold decodeOp
  split <;> rename_i hop
  case h_53 => trivial
  all_goals
    rw [BitVec.toNat_eq_nat] at hop
    obtain ⟨-, hop⟩ := hop
    simp [lenPermitted, takesLiteral, hop, BitVec.toNat_eq_nat, and_assoc] at hl
  case h_1 => exact decAlu_reads hop hl
  case h_2 => exact decMulDiv_reads hop hl
  case h_3 => exact decCmp_reads hop hl
  case h_4 => exact decSel_reads hop hl
  case h_5 => exact decBit_reads hop hl
  case h_27 => exact decFarith_reads hop hl
  case h_29 => exact decFcmp_reads hop hl
  case h_30 => exact decFcvt_reads hop hl
  case h_36 => exact decMb_reads hop hl
  case h_37 => exact decSys_reads hop hl
  case h_39 => exact decVmem_reads hop hl
  case h_40 => exact decVarith_reads hop hl
  case h_41 => exact decVlogic_reads hop hl
  case h_42 => exact decVmove_reads hop hl
  case h_43 => exact decVconv_reads hop hl
  case h_44 => exact decVtrans_reads hop hl
  case h_45 => exact decWctl_reads hop hl
  case h_47 => exact decEvt_reads hop hl
  case h_48 => exact decExec_reads hop hl
  case h_49 => exact decMat_reads hop hl
  case h_50 => exact decMemctl_reads hop hl
  case h_51 => exact decEng_reads hop hl
  case h_52 => exact decTree_reads hop hl
  all_goals
    simp_all +contextual [decImm, decShift, decMem, wellFormed.eq_def, encode.eq_def, bits_6_7_eq_zero_iff, or_iff_not_imp_right,
      -BitVec.extractLsb'_toNat]

end

/-!
## From instructions to words

The other direction, one lemma for the instructions of a decoder: that the words are the encoding gives the values of their fields, and with
these the decoder finds the opcode, the function code and every check.
-/

@[simp] theorem need_eq_ok_iff (n : Nat) (c : Bool) (k : Dec) (i : Instr) : need n c k = .ok i ↔ c = true ∧ k = .ok i := by
  cases c <;> simp [need]

@[simp] theorem nil_ne_wordsAt (w : Half) (y lit : Word) : ¬[] = wordsAt w y lit := List.cons_ne_nil _ _ ∘ Eq.symm

/-- The words that a well-formed instruction is encoded as decode to it. -/
def Instr.Decodes (i : Instr) : Prop :=
  ∀ (w : Half) (y lit : Word), wellFormed i = true → encode i = wordsAt w y lit → decodeWords w y lit = .ok i

theorem decodes_alu (rd rs1 rs2 : Reg) :
    Instr.Decodes (.add rd rs1 rs2) ∧ Instr.Decodes (.sub rd rs1 rs2) ∧ Instr.Decodes (.and rd rs1 rs2) ∧ Instr.Decodes (.or rd rs1 rs2) ∧
    Instr.Decodes (.xor rd rs1 rs2) ∧ Instr.Decodes (.andn rd rs1 rs2) ∧ Instr.Decodes (.shl rd rs1 rs2) ∧ Instr.Decodes (.shr rd rs1 rs2) ∧
    Instr.Decodes (.sar rd rs1 rs2) ∧ Instr.Decodes (.rot rd rs1 rs2) ∧ Instr.Decodes (.min rd rs1 rs2) ∧ Instr.Decodes (.max rd rs1 rs2) ∧
    Instr.Decodes (.minu rd rs1 rs2) ∧ Instr.Decodes (.maxu rd rs1 rs2) := by
  and_intros <;> simp +contextual [Instr.Decodes, wellFormed.eq_def, encode.eq_def, decodeWords, opcodeAssigned, lenPermitted,
    takesLiteral, decodeOp, decAlu, -BitVec.extractLsb'_toNat]

theorem decodes_mulDiv (rd rs1 rs2 : Reg) :
    Instr.Decodes (.mul rd rs1 rs2) ∧ Instr.Decodes (.mulh rd rs1 rs2) ∧ Instr.Decodes (.mulhu rd rs1 rs2) ∧ Instr.Decodes (.div rd rs1 rs2) ∧
    Instr.Decodes (.divu rd rs1 rs2) ∧ Instr.Decodes (.rem rd rs1 rs2) ∧ Instr.Decodes (.remu rd rs1 rs2) := by
  and_intros <;> simp +contextual [Instr.Decodes, wellFormed.eq_def, encode.eq_def, decodeWords, opcodeAssigned, lenPermitted,
    takesLiteral, decodeOp, decMulDiv, -BitVec.extractLsb'_toNat]

theorem decodes_compareAndSelect :
    (∀ cond rd rs1 rs2, Instr.Decodes (.cmp cond rd rs1 rs2)) ∧ (∀ rd rc rs1 rs2, Instr.Decodes (.sel rd rc rs1 rs2)) := by
  and_intros <;> simp +contextual [Instr.Decodes, wellFormed.eq_def, encode.eq_def, decodeWords, opcodeAssigned, lenPermitted,
    takesLiteral, decodeOp, decCmp, decSel, -BitVec.extractLsb'_toNat]

theorem decodes_bit :
    (∀ rd rs1, Instr.Decodes (.clz rd rs1)) ∧ (∀ rd rs1, Instr.Decodes (.ctz rd rs1)) ∧ (∀ rd rs1, Instr.Decodes (.popc rd rs1)) ∧
    (∀ rd rs1 rs2, Instr.Decodes (.bext rd rs1 rs2)) ∧ (∀ rd rs1 rs2, Instr.Decodes (.bins rd rs1 rs2)) := by
  and_intros <;> simp +contextual [Instr.Decodes, wellFormed.eq_def, encode.eq_def, decodeWords, opcodeAssigned, lenPermitted,
    takesLiteral, decodeOp, decBit, -BitVec.extractLsb'_toNat]

theorem decodes_immediate :
    (∀ rd imm, Instr.Decodes (.movi rd imm)) ∧ (∀ rd lit, Instr.Decodes (.moviLit rd lit)) ∧ (∀ rd rs1 imm, Instr.Decodes (.addi rd rs1 imm)) ∧
    (∀ rd rs1 lit, Instr.Decodes (.addiLit rd rs1 lit)) ∧ (∀ rd rs1 imm, Instr.Decodes (.andi rd rs1 imm)) ∧
    (∀ rd rs1 lit, Instr.Decodes (.andiLit rd rs1 lit)) ∧ (∀ rd rs1 imm, Instr.Decodes (.ori rd rs1 imm)) ∧
    (∀ rd rs1 lit, Instr.Decodes (.oriLit rd rs1 lit)) ∧ (∀ rd rs1 imm, Instr.Decodes (.xori rd rs1 imm)) ∧
    (∀ rd rs1 lit, Instr.Decodes (.xoriLit rd rs1 lit)) := by
  and_intros <;> simp +contextual [Instr.Decodes, wellFormed.eq_def, encode.eq_def, decodeWords, opcodeAssigned, lenPermitted,
    takesLiteral, decodeOp, decImm, -BitVec.extractLsb'_toNat]

theorem decodes_shift (rd rs1 : Reg) (sh : BitVec 6) :
    Instr.Decodes (.shli rd rs1 sh) ∧ Instr.Decodes (.shri rd rs1 sh) ∧ Instr.Decodes (.sari rd rs1 sh) := by
  and_intros <;> simp +contextual [Instr.Decodes, wellFormed.eq_def, encode.eq_def, decodeWords, opcodeAssigned, lenPermitted,
    takesLiteral, decodeOp, decShift, bits_6_7_eq_zero_iff, -BitVec.extractLsb'_toNat]

theorem decodes_transfer :
    (∀ cond rs1 off, Instr.Decodes (.br cond rs1 off)) ∧ (∀ rs1 off, Instr.Decodes (.loop rs1 off)) ∧ (∀ off, Instr.Decodes (.jmp off)) ∧
    (∀ lit, Instr.Decodes (.jmpLit lit)) ∧ (∀ rd off, Instr.Decodes (.call rd off)) ∧ (∀ rd lit, Instr.Decodes (.callLit rd lit)) ∧
    (∀ rd rs1, Instr.Decodes (.jr rd rs1)) ∧ Instr.Decodes .ret := by
  and_intros <;> simp +contextual [Instr.Decodes, wellFormed.eq_def, encode.eq_def, decodeWords, opcodeAssigned, lenPermitted,
    takesLiteral, decodeOp, -BitVec.extractLsb'_toNat]

theorem decodes_memory :
    (∀ sz rt rb disp, Instr.Decodes (.ld sz rt rb disp)) ∧ (∀ sz rt rb lit, Instr.Decodes (.ldLit sz rt rb lit)) ∧
    (∀ sz rt rb disp, Instr.Decodes (.st sz rt rb disp)) ∧ (∀ sz rt rb lit, Instr.Decodes (.stLit sz rt rb lit)) ∧
    (∀ rt rb disp, Instr.Decodes (.ldp rt rb disp)) ∧ (∀ rt rb lit, Instr.Decodes (.ldpLit rt rb lit)) ∧
    (∀ rt rb disp, Instr.Decodes (.stp rt rb disp)) ∧ (∀ rt rb lit, Instr.Decodes (.stpLit rt rb lit)) ∧
    (∀ hint rb disp, Instr.Decodes (.pref hint rb disp)) ∧ (∀ hint rb lit, Instr.Decodes (.prefLit hint rb lit)) := by
  and_intros <;> simp +contextual [Instr.Decodes, wellFormed.eq_def, encode.eq_def, decodeWords, opcodeAssigned, lenPermitted,
    takesLiteral, decodeOp, decMem, -BitVec.extractLsb'_toNat]

theorem decodes_atomic :
    (∀ rt rb sz rv aop, Instr.Decodes (.amo rt rb sz rv aop)) ∧ (∀ rb sz rv aop, Instr.Decodes (.upd rb sz rv aop)) := by
  and_intros <;> simp +contextual [Instr.Decodes, wellFormed.eq_def, encode.eq_def, decodeWords, opcodeAssigned, lenPermitted,
    takesLiteral, decodeOp, -BitVec.extractLsb'_toNat]

theorem decodes_floatArith :
    (∀ rd rs1 rs2 d rm, Instr.Decodes (.fadd rd rs1 rs2 d rm)) ∧ (∀ rd rs1 rs2 d rm, Instr.Decodes (.fsub rd rs1 rs2 d rm)) ∧
    (∀ rd rs1 rs2 d rm, Instr.Decodes (.fmul rd rs1 rs2 d rm)) ∧ (∀ rd rs1 rs2 d rm, Instr.Decodes (.fdiv rd rs1 rs2 d rm)) ∧
    (∀ rd rs1 d rm, Instr.Decodes (.fsqrt rd rs1 d rm)) ∧ (∀ rd rs1 rs2 d, Instr.Decodes (.fmin rd rs1 rs2 d)) ∧
    (∀ rd rs1 rs2 d, Instr.Decodes (.fmax rd rs1 rs2 d)) ∧ (∀ rd rs1 rs2 d, Instr.Decodes (.fminm rd rs1 rs2 d)) ∧
    (∀ rd rs1 rs2 d, Instr.Decodes (.fmaxm rd rs1 rs2 d)) ∧ (∀ rd rs1 rs2 rs3 d, Instr.Decodes (.fma rd rs1 rs2 rs3 d)) := by
  and_intros <;> simp +contextual [Instr.Decodes, wellFormed.eq_def, encode.eq_def, decodeWords, opcodeAssigned, lenPermitted,
    takesLiteral, decodeOp, decFarith, -BitVec.extractLsb'_toNat]

theorem decodes_floatOther :
    (∀ d cond rd rs1 rs2, Instr.Decodes (.fcmp d cond rd rs1 rs2)) ∧ (∀ rd rs1 tk fk rm, Instr.Decodes (.fcvt rd rs1 tk fk rm)) ∧
    (∀ rd rs1 d, Instr.Decodes (.fclass rd rs1 d)) := by
  and_intros <;> simp +contextual [Instr.Decodes, wellFormed.eq_def, encode.eq_def, decodeWords, opcodeAssigned, lenPermitted,
    takesLiteral, decodeOp, decFcmp, decFcvt, -BitVec.extractLsb'_toNat]

theorem decodes_csr :
    (∀ rd csr, Instr.Decodes (.csrr rd csr)) ∧ (∀ rd csr rs1, Instr.Decodes (.csrw rd csr rs1)) ∧ (∀ rd csr rs1, Instr.Decodes (.csrs rd csr rs1)) ∧
    (∀ rd csr rs1, Instr.Decodes (.csrc rd csr rs1)) := by
  and_intros <;> simp +contextual [Instr.Decodes, wellFormed.eq_def, encode.eq_def, decodeWords, opcodeAssigned, lenPermitted,
    takesLiteral, decodeOp, -BitVec.extractLsb'_toNat]

theorem decodes_mailbox :
    (∀ n rs1, Instr.Decodes (.mbw n rs1)) ∧ (∀ rd n, Instr.Decodes (.mbr rd n)) ∧ (∀ rd n, Instr.Decodes (.mbq rd n)) := by
  and_intros <;> simp +contextual [Instr.Decodes, wellFormed.eq_def, encode.eq_def, decodeWords, opcodeAssigned, lenPermitted,
    takesLiteral, decodeOp, decMb, bits_3_5_eq_iff, -BitVec.extractLsb'_toNat]

theorem decodes_system :
    Instr.Decodes .nop ∧ Instr.Decodes .eret ∧ Instr.Decodes .brk ∧ Instr.Decodes .halt ∧ (∀ rd, Instr.Decodes (.rand rd)) ∧
    (∀ code, Instr.Decodes (.trap code)) := by
  and_intros <;> simp +contextual [Instr.Decodes, wellFormed.eq_def, encode.eq_def, decodeWords, opcodeAssigned, lenPermitted,
    takesLiteral, decodeOp, decSys, -BitVec.extractLsb'_toNat]

theorem decodes_wideMemory :
    (∀ d a rm sat, Instr.Decodes (.vlda d a rm sat)) ∧ (∀ s a rm sat, Instr.Decodes (.vsta s a rm sat)) := by
  and_intros <;> simp +contextual [Instr.Decodes, wellFormed.eq_def, encode.eq_def, decodeWords, opcodeAssigned, lenPermitted,
    takesLiteral, decodeOp, decVmem, -BitVec.extractLsb'_toNat]

theorem decodes_wideArith :
    (∀ d s b rm sat, Instr.Decodes (.vadd d s b rm sat)) ∧ (∀ d s b rm sat, Instr.Decodes (.vsub d s b rm sat)) ∧
    (∀ d s b rm sat, Instr.Decodes (.vmul d s b rm sat)) ∧ (∀ d s a b rm sat, Instr.Decodes (.vfma d s a b rm sat)) ∧
    (∀ d s a b rm sat, Instr.Decodes (.vfms d s a b rm sat)) ∧ (∀ d s b, Instr.Decodes (.vmax d s b)) ∧ (∀ d s b, Instr.Decodes (.vmin d s b)) ∧
    (∀ d s, Instr.Decodes (.vabs d s)) ∧ (∀ d s, Instr.Decodes (.vneg d s)) ∧ (∀ d s a b, Instr.Decodes (.vclamp d s a b)) ∧
    (∀ d s b rm sat, Instr.Decodes (.vscale d s b rm sat)) ∧ (∀ d s a b rm sat, Instr.Decodes (.vdot d s a b rm sat)) := by
  and_intros <;> simp +contextual [Instr.Decodes, wellFormed.eq_def, encode.eq_def, decodeWords, opcodeAssigned, lenPermitted,
    takesLiteral, decodeOp, decVarith, -BitVec.extractLsb'_toNat]

theorem decodes_wideLogic :
    (∀ d s b, Instr.Decodes (.vand d s b)) ∧ (∀ d s b, Instr.Decodes (.vor d s b)) ∧ (∀ d s b, Instr.Decodes (.vxor d s b)) ∧
    (∀ d s b, Instr.Decodes (.vshl d s b)) ∧ (∀ d s b arith, Instr.Decodes (.vshr d s b arith)) := by
  and_intros <;> simp +contextual [Instr.Decodes, wellFormed.eq_def, encode.eq_def, decodeWords, opcodeAssigned, lenPermitted,
    takesLiteral, decodeOp, decVlogic, -BitVec.extractLsb'_toNat]

theorem decodes_wideMove :
    (∀ d s b n peek, Instr.Decodes (.vsel d s b n peek)) ∧ (∀ n s b cond, Instr.Decodes (.vcmp n s b cond)) ∧
    (∀ d s b, Instr.Decodes (.vperm d s b)) ∧ (∀ d s pat, Instr.Decodes (.vshuf d s pat)) ∧ (∀ d, Instr.Decodes (.viota d)) ∧
    (∀ n s op, Instr.Decodes (.vred n s op)) ∧ (∀ d n peek, Instr.Decodes (.vbcast d n peek)) := by
  and_intros <;> simp +contextual [Instr.Decodes, wellFormed.eq_def, encode.eq_def, decodeWords, opcodeAssigned, lenPermitted,
    takesLiteral, decodeOp, decVmove, -BitVec.extractLsb'_toNat]

theorem decodes_wideConversion (s : BitVec 4) (b rm : BitVec 3) (sat : BitVec 1) :
    Instr.Decodes (.vcvt s b rm sat) ∧ Instr.Decodes (.vcvtAuto s b rm sat) := by
  and_intros <;> simp +contextual [Instr.Decodes, wellFormed.eq_def, encode.eq_def, decodeWords, opcodeAssigned, lenPermitted,
    takesLiteral, decodeOp, decVconv, -BitVec.extractLsb'_toNat]

theorem decodes_wideTrans (d s : BitVec 4) :
    Instr.Decodes (.vexp2 d s) ∧ Instr.Decodes (.vlog2 d s) ∧ Instr.Decodes (.vrcp d s) ∧ Instr.Decodes (.vrsq d s) ∧ Instr.Decodes (.vtanh d s) ∧
    Instr.Decodes (.vsig d s) := by
  and_intros <;> simp +contextual [Instr.Decodes, wellFormed.eq_def, encode.eq_def, decodeWords, opcodeAssigned, lenPermitted,
    takesLiteral, decodeOp, decVtrans, -BitVec.extractLsb'_toNat]

theorem decodes_wideControl :
    (∀ n rs1, Instr.Decodes (.pset n rs1)) ∧ (∀ n rs1, Instr.Decodes (.padd n rs1)) ∧ (∀ rd n, Instr.Decodes (.pget rd n)) ∧
    (∀ n rs1, Instr.Decodes (.fset n rs1)) ∧ (∀ rd n, Instr.Decodes (.fget rd n)) ∧ (∀ rs1, Instr.Decodes (.acccfg rs1)) ∧
    (∀ rs1, Instr.Decodes (.acccfgKeep rs1)) ∧ Instr.Decodes .accsw ∧ (∀ cnt ni rowstep ptrstep, Instr.Decodes (.rep cnt ni rowstep ptrstep)) := by
  and_intros <;> simp +contextual [Instr.Decodes, wellFormed.eq_def, encode.eq_def, decodeWords, opcodeAssigned, lenPermitted,
    takesLiteral, decodeOp, decWctl, -BitVec.extractLsb'_toNat]

theorem decodes_event :
    (∀ rd rs1, Instr.Decodes (.evdef rd rs1)) ∧ (∀ rd rs1, Instr.Decodes (.evdel rd rs1)) ∧ (∀ rd rs1 rs2, Instr.Decodes (.evstat rd rs1 rs2)) ∧
    (∀ rn, Instr.Decodes (.offerSync rn)) ∧ (∀ rn rg, Instr.Decodes (.offerGive rn rg)) ∧ (∀ rt rn, Instr.Decodes (.offerTake rt rn)) ∧
    (∀ rt rn rg, Instr.Decodes (.offerBoth rt rn rg)) ∧ (∀ slot, Instr.Decodes (.wdraw slot)) ∧ Instr.Decodes .wdrawAll ∧
    (∀ rd, Instr.Decodes (.selectNb rd)) ∧ (∀ rd, Instr.Decodes (.selectT rd)) ∧ (∀ rd lit, Instr.Decodes (.selectNbLimit rd lit)) ∧
    (∀ rd lit, Instr.Decodes (.selectTLimit rd lit)) ∧ (∀ rd, Instr.Decodes (.phase rd)) ∧ Instr.Decodes .gang := by
  and_intros <;> simp +contextual [Instr.Decodes, wellFormed.eq_def, encode.eq_def, decodeWords, opcodeAssigned, lenPermitted,
    decodeOp, decEvt, bit_3_eq_zero_iff, -BitVec.extractLsb'_toNat]

theorem decodes_execution :
    (∀ rd rs1 rs2, Instr.Decodes (.spawn rd rs1 rs2)) ∧ Instr.Decodes .hend ∧ (∀ rs1 rs2, Instr.Decodes (.take rs1 rs2)) ∧
    (∀ rs1 rs2, Instr.Decodes (.done rs1 rs2)) ∧ (∀ rd rs1 rs2, Instr.Decodes (.poolcfg rd rs1 rs2)) ∧
    (∀ rd rs1 rs2, Instr.Decodes (.poolput rd rs1 rs2)) ∧ (∀ rs1, Instr.Decodes (.domset rs1)) ∧
    (∀ rs3 rs1 rs2, Instr.Decodes (.fifobind rs3 rs1 rs2)) := by
  and_intros <;> simp +contextual [Instr.Decodes, wellFormed.eq_def, encode.eq_def, decodeWords, opcodeAssigned, lenPermitted,
    takesLiteral, decodeOp, decExec, -BitVec.extractLsb'_toNat]

theorem decodes_matrix :
    (∀ rs1 rs2 ft bank row0 sc nrm1, Instr.Decodes (.mldb rs1 rs2 ft bank row0 sc nrm1)) ∧
    (∀ d nrm1 pa pm1 z km1, Instr.Decodes (.mmul d nrm1 pa pm1 z km1)) ∧ (∀ rs1, Instr.Decodes (.mcfg rs1)) ∧
    (∀ rd sel, Instr.Decodes (.mstat rd sel)) ∧ (∀ rs1 mask, Instr.Decodes (.mspill rs1 mask)) ∧ (∀ rs1 mask, Instr.Decodes (.mfill rs1 mask)) := by
  and_intros <;> simp +contextual [Instr.Decodes, wellFormed.eq_def, encode.eq_def, decodeWords, opcodeAssigned, lenPermitted,
    decodeOp, decMat, -BitVec.extractLsb'_toNat]

theorem decodes_memoryControl :
    Instr.Decodes .fenceL ∧ (∀ depth rs1, Instr.Decodes (.cflush depth rs1)) ∧ (∀ depth rs1, Instr.Decodes (.cinv depth rs1)) ∧
    (∀ rs1, Instr.Decodes (.cinvI rs1)) ∧ (∀ rs1, Instr.Decodes (.czero rs1)) ∧ (∀ rd rs1 rs2, Instr.Decodes (.bankrole rd rs1 rs2)) ∧
    (∀ part, Instr.Decodes (.tlbiAll part)) ∧ (∀ part rs2, Instr.Decodes (.tlbiAsid part rs2)) ∧
    (∀ part rs1 rs2, Instr.Decodes (.tlbiPage part rs1 rs2)) ∧ (∀ part rs1, Instr.Decodes (.tlbiVa part rs1)) ∧
    (∀ n rs1 rs2, Instr.Decodes (.wpset n rs1 rs2)) ∧ (∀ rd rs1 rs2, Instr.Decodes (.fifoadv rd rs1 rs2)) := by
  and_intros <;> simp +contextual [Instr.Decodes, wellFormed.eq_def, encode.eq_def, decodeWords, opcodeAssigned, lenPermitted,
    takesLiteral, decodeOp, decMemctl, -BitVec.extractLsb'_toNat]

theorem decodes_engine :
    (∀ acc rd rs1, Instr.Decodes (.layreg acc rd rs1)) ∧ (∀ acc rd lit, Instr.Decodes (.layregLit acc rd lit)) ∧
    (∀ rd rs1, Instr.Decodes (.layrel rd rs1)) ∧ (∀ rm sat rd rs1 rs2 rs3, Instr.Decodes (.copy rm sat rd rs1 rs2 rs3)) ∧
    (∀ rm sat rd rs1 rs2 rs3 lit, Instr.Decodes (.copyFirst rm sat rd rs1 rs2 rs3 lit)) ∧ (∀ rd rs1, Instr.Decodes (.cstat rd rs1)) ∧
    (∀ rd rs1, Instr.Decodes (.cstatAbort rd rs1)) ∧ (∀ rd rs1, Instr.Decodes (.pbind rd rs1)) ∧ (∀ rd rs1, Instr.Decodes (.punbind rd rs1)) ∧
    (∀ rd rs1 rs2, Instr.Decodes (.pstat rd rs1 rs2)) ∧ (∀ rt rs1 rs2, Instr.Decodes (.permit rt rs1 rs2)) ∧
    (∀ cls rd rs1, Instr.Decodes (.rescls cls rd rs1)) := by
  and_intros <;> simp +contextual [Instr.Decodes, wellFormed.eq_def, encode.eq_def, decodeWords, opcodeAssigned, lenPermitted,
    decodeOp, decEng, -BitVec.extractLsb'_toNat]

theorem decodes_tree :
    (∀ rd rs1 rs2, Instr.Decodes (.tcfgNew rd rs1 rs2)) ∧ (∀ rd rs2 lit, Instr.Decodes (.tcfgNewLit rd rs2 lit)) ∧
    (∀ rd rs1 rs2, Instr.Decodes (.tcfgGrow rd rs1 rs2)) ∧ (∀ rd rs2 lit, Instr.Decodes (.tcfgGrowLit rd rs2 lit)) ∧
    (∀ rd rs2, Instr.Decodes (.tcfgDel rd rs2)) ∧ (∀ rd rs1 rs2, Instr.Decodes (.troot rd rs1 rs2)) ∧ (∀ rd rs1, Instr.Decodes (.tdesc rd rs1)) ∧
    (∀ rd rs1 rs2 rs3 k, Instr.Decodes (.texp rd rs1 rs2 rs3 k)) ∧ (∀ rd rs1 rs2, Instr.Decodes (.texpTerm rd rs1 rs2)) ∧
    (∀ rd rs1 rs2 rs3, Instr.Decodes (.tback rd rs1 rs2 rs3)) ∧ (∀ rd rs1 rs2, Instr.Decodes (.tbackVlo rd rs1 rs2)) ∧
    (∀ rd rs1, Instr.Decodes (.tbatch rd rs1)) ∧ (∀ rd rs1 rs2, Instr.Decodes (.treuse rd rs1 rs2)) ∧
    (∀ rd rs1 rs2, Instr.Decodes (.treadStats rd rs1 rs2)) ∧ (∀ rd rs1 rs2, Instr.Decodes (.treadLinks rd rs1 rs2)) ∧
    (∀ rd rs1, Instr.Decodes (.treadTree rd rs1)) := by
  and_intros <;> simp +contextual [Instr.Decodes, wellFormed.eq_def, encode.eq_def, decodeWords, opcodeAssigned, lenPermitted,
    decodeOp, decTree, extractLsb'_0_2_eq_yImm, bit_16_eq_zero, -BitVec.extractLsb'_toNat]

theorem decodes_of_encode_ne_nil {i : Instr} (h : encode i ≠ []) : i.Decodes := by
  revert h
  cases i <;> simp [encode.eq_def, decodes_alu, decodes_mulDiv, decodes_compareAndSelect, decodes_bit, decodes_immediate, decodes_shift,
    decodes_transfer, decodes_memory, decodes_atomic, decodes_floatArith, decodes_floatOther, decodes_csr, decodes_mailbox, decodes_system,
    decodes_wideMemory, decodes_wideArith, decodes_wideLogic, decodes_wideMove, decodes_wideConversion, decodes_wideTrans, decodes_wideControl,
    decodes_event, decodes_execution, decodes_matrix, decodes_memoryControl, decodes_engine, decodes_tree]

/-! ## Both directions -/

/-- The decoder answers exactly the well-formed instruction that the words are the encoding of. -/
theorem decodeWords_eq_ok_iff {i : Instr} {w : Half} {y lit : Word} :
    decodeWords w y lit = .ok i ↔ wellFormed i = true ∧ encode i = wordsAt w y lit := by
  constructor
  · intro h
    simp only [decodeWords, need_eq_ok_iff] at h
    obtain ⟨-, hl, h⟩ := h
    have hr : (decodeOp w y lit).Reads w y lit := decodeOp_reads hl
    rwa [h] at hr
  · rintro ⟨hwf, h⟩
    exact decodes_of_encode_ne_nil (by rw [h]; exact List.cons_ne_nil _ _) w y lit hwf h

theorem dword_words (lo hi : Half) : words2 (dword lo hi) = [lo, hi] := by
  obtain ⟨h, l⟩ := (eq_append_iff 32 32 (dword lo hi) hi lo).1 rfl
  rw [words2, h, l]

/-- The decoder reads of five words as many as LEN announces. -/
theorem exists_decodeList_eq (w a b c d : Half) : ∃ y lit, decodeList [w, a, b, c, d] = decodeWords w y lit ∧
    wordsAt w y lit = [w, a, b, c, d].take (wordCount w) := by
  have hlt := (fLen w).isLt
  rcases h : (fLen w).toNat with _ | _ | _ | _ | n
  · exact ⟨0, 0, by simp [decodeList, h], by simp [wordsAt, wordsAfter, wordCount, h]⟩
  · exact ⟨dword a b, 0, by simp [decodeList, h], by simp [wordsAt, wordsAfter, wordCount, h, dword_words]⟩
  · exact ⟨0, dword a b, by simp [decodeList, h], by simp [wordsAt, wordsAfter, wordCount, h, dword_words]⟩
  · exact ⟨dword a b, dword c d, by simp [decodeList, h], by simp [wordsAt, wordsAfter, wordCount, h, dword_words]⟩
  · omega

/-- Settles O53: five words decode as the first of them with the doublewords that its LEN announces, and these are the encoding. -/
theorem encodingInvertsDecoding : Obligations.EncodingInvertsDecoding := by
  unfold Obligations.EncodingInvertsDecoding
  intro ws i hlen h
  obtain ⟨w, a, b, c, d, rfl⟩ : ∃ w a b c d, ws = [w, a, b, c, d] := by
    match ws, hlen with
    | [w, a, b, c, d], _ => exact ⟨w, a, b, c, d, rfl⟩
  obtain ⟨y, lit, hd, hw⟩ := exists_decodeList_eq w a b c d
  obtain ⟨hwf, he⟩ := decodeWords_eq_ok_iff.1 (hd ▸ h)
  exact ⟨hwf, he.trans hw⟩

theorem dword_words2 (v : Word) : dword (v.extractLsb' 0 32) (v.extractLsb' 32 32) = v :=
  ((eq_append_iff 32 32 v _ _).2 ⟨rfl, rfl⟩).symm

/-- The decoder reads the doublewords that LEN announces, and takes 0 for the others. -/
theorem decodeList_wordsAt (w : Half) (y lit : Word) : ∃ y' lit', wordsAt w y lit = wordsAt w y' lit' ∧
    decodeList (wordsAt w y lit) = decodeWords w y' lit' := by
  have hlt := (fLen w).isLt
  rcases h : (fLen w).toNat with _ | _ | _ | _ | n
  · exact ⟨0, 0, by simp [wordsAt, wordsAfter, h], by simp [decodeList, wordsAt, h]⟩
  · exact ⟨y, 0, by simp [wordsAt, wordsAfter, h], by simp [decodeList, wordsAt, wordsAfter, words2, h, dword_words2]⟩
  · exact ⟨0, lit, by simp [wordsAt, wordsAfter, h], by simp [decodeList, wordsAt, wordsAfter, words2, h, dword_words2]⟩
  · exact ⟨y, lit, rfl, by simp [decodeList, wordsAt, wordsAfter, words2, h, dword_words2]⟩
  · omega

theorem encode_eq_nil_or_wordsAt (i : Instr) : encode i = [] ∨ ∃ w y lit, encode i = wordsAt w y lit := by
  cases i <;> simp [encode.eq_def, -eq_packC_iff, -eq_packI_iff, -eq_packBc_iff, -eq_packBj_iff, -eq_packM_iff, -eq_packMa_iff,
    -eq_packW_iff, -eq_packRep_iff, -eq_packE_iff, -eq_packY_iff]

/-- Settles O52: the encoding is a first word with its doublewords, and what the decoder does not read of them is not there. -/
theorem decodingInvertsEncoding : Obligations.DecodingInvertsEncoding := by
  unfold Obligations.DecodingInvertsEncoding
  intro i hwf hne
  obtain ⟨w, y, lit, he⟩ := (encode_eq_nil_or_wordsAt i).resolve_left hne
  obtain ⟨y', lit', hw, hd⟩ := decodeList_wordsAt w y lit
  rw [he, hd, decodeWords_eq_ok_iff]
  exact ⟨hwf, he.trans hw⟩

/-- Settles O54: ten decodings of fixed words. -/
theorem wordsOfTheTablesDecode : Obligations.WordsOfTheTablesDecode := by
  unfold Obligations.WordsOfTheTablesDecode
  decide

end Sys2Proof

/-! # A step runs the decoded instruction (R164, R165) -/

namespace Sys2Proof.Machine

open Sys2Proof

theorem mem_of_chosen {s u : State} {ms : List Move} {m : Move} (h : chosen s ms = some (m, u)) : m ∈ ms ∧ (u = s ∨ u = s.used) := by
  match ms, h with
  | [a], h =>
    obtain ⟨rfl, rfl⟩ : a = m ∧ s = u := by simpa [chosen] using h
    exact ⟨List.mem_singleton_self _, .inl rfl⟩
  | a :: b :: l, h =>
    simp only [chosen, Option.map_eq_some_iff] at h
    obtain ⟨_, hm, rfl, rfl⟩ := h
    exact ⟨List.mem_of_getElem? hm, .inr rfl⟩

theorem step_of_issue {s u : State} {c x : Nat} (h : chosen s (moves s) = some (.issue c x, u)) :
    step s = andThen tick (issueWith exec c x u) := by
  rw [step, stepWith, h]
  rfl

theorem issueWith_of_words {run : Instr → State → Ans} {s s1 : State} {c x : Nat} {ws : List Half} {i : Instr}
    (hf : fetchInstr (atIssue c x s) c x = .words ws s1) (hd : decodeList ws = .ok i) :
    issueWith run c x s = andThen (fun t => noteWide c (s1.core c).wide.queue.length (dropFetched c x
      (countIssue c x (isRecordForm i && (s1.ctx c x).recd.isSome) t))) (run i s1) := by
  simp only [issueWith, hf, hd]

/-- Settles O55: the chosen move is one of the possible ones, and an issue runs what its fetch and the decoder answer. -/
theorem stepRunsTheDecodedInstruction : Obligations.StepRunsTheDecodedInstruction := by
  unfold Obligations.StepRunsTheDecodedInstruction
  intro s u c x ws i s1 t
  refine ⟨fun m h => mem_of_chosen h, fun h => by rw [h]; rfl, fun h hf hd hx => ?_⟩
  rw [step_of_issue h, issueWith_of_words hf hd, hx]
  rfl

end Sys2Proof.Machine


/-! # Loads of the local window and of GDDR (R111, R113, R114, R276) -/

namespace Sys2Proof.Machine

open Sys2Proof

theorem exec_ld (sz : BitVec 3) (rt rb : Reg) (disp : BitVec 10) (s : State) :
    exec (.ld sz rt rb disp) s =
      loadAt (.ld sz rt rb disp) sz rt (xread s.me rb + BitVec.ofInt 64 disp.toInt).toNat s := rfl

theorem exec_ldLit (sz : BitVec 3) (rt rb : Reg) (lit : Word) (s : State) :
    exec (.ldLit sz rt rb lit) s = loadAt (.ldLit sz rt rb lit) sz rt (xread s.me rb + lit).toNat s := rfl

theorem exec_ldp (rt rb : Reg) (disp : BitVec 10) (s : State) :
    exec (.ldp rt rb disp) s = loadPairAt (.ldp rt rb disp) rt (xread s.me rb + BitVec.ofInt 64 disp.toInt).toNat s := rfl

theorem exec_ldpLit (rt rb : Reg) (lit : Word) (s : State) :
    exec (.ldpLit rt rb lit) s = loadPairAt (.ldpLit rt rb lit) rt (xread s.me rb + lit).toNat s := rfl

/-! ## The value of a load (R75, R114) -/

theorem memRead_eq_map (m : Memory) (a n : Nat) : memRead m a n = (List.range n).map fun i => memByte m (a + i) := by
  induction n generalizing a with
  | zero => rfl
  | succ n ih =>
    rw [memRead, ih, List.range_succ_eq_map, List.map_cons, List.map_map]
    simp [Function.comp_def, Nat.add_comm 1, Nat.add_assoc]

/-- A two's complement value is the centred residue. -/
theorem signed_eq (v : Nat) {w : Nat} (hw : 0 < w) : signed v w = ((v : Int) + 2 ^ (w - 1)) % 2 ^ w - 2 ^ (w - 1) := by
  obtain ⟨w, rfl⟩ : ∃ u, w = u + 1 := ⟨w - 1, by omega⟩
  have hr : v % 2 ^ (w + 1) < 2 ^ (w + 1) := Nat.mod_lt _ (Nat.two_pow_pos _)
  have hv : ((v : Int) + 2 ^ w) % 2 ^ (w + 1) = (((v % 2 ^ (w + 1) : Nat) : Int) + 2 ^ w) % 2 ^ (w + 1) := by
    push_cast
    rw [Int.emod_add_emod]
  rw [Nat.add_sub_cancel, hv, signed, Nat.add_sub_cancel]
  generalize v % 2 ^ (w + 1) = r at hr
  have hc : ((2 ^ w : Nat) : Int) = 2 ^ w := by push_cast; rfl
  have hc' : (2 : Int) ^ (w + 1) = 2 * (2 ^ w : Nat) := by push_cast; ring
  rw [hc', ← hc, Nat.pow_succ] at *
  generalize 2 ^ w = p at *
  split
  · rw [Int.emod_eq_of_lt (by omega) (by omega)]
    omega
  · rw [← Int.sub_emod_right, Int.emod_eq_of_lt (by omega) (by omega)]
    push_cast
    omega

theorem ofInt_signed (v : Nat) : BitVec.ofInt 64 (signed v 64) = BitVec.ofNat 64 v := by
  refine BitVec.eq_of_toNat_eq ?_
  rw [signed_eq v (by decide), BitVec.toNat_ofInt, BitVec.toNat_ofNat]
  omega

/-- The value of a load where as many bytes are read as its size says. -/
theorem loadValue_eq_loaded {sz : BitVec 3} {bs : List Byte} (hb : bs.length = szBytes sz) :
    loadValue sz bs = loaded sz bs := by
  have hs : BitVec.ofInt 64 (signed (natOfBytes bs) (8 * szBytes sz)) = BitVec.ofInt 64
      (((natOfBytes bs : Int) + 2 ^ (8 * bs.length - 1)) % 2 ^ (8 * bs.length) - 2 ^ (8 * bs.length - 1)) := by
    have : 0 < szBytes sz := Nat.two_pow_pos _
    rw [signed_eq _ (by omega), hb]
  unfold loadValue loaded
  by_cases h2 : sz.toNat ≤ 2
  · rw [if_pos h2, if_pos (by omega), hs]
  · by_cases h3 : sz.toNat = 3
    · have h8 : szBytes sz = 8 := by rw [szBytes, h3]; rfl
      rw [if_neg h2, if_pos (by omega), ← hs, h8]
      exact (ofInt_signed _).symm
    · rw [if_neg h2, if_neg (by omega)]

/-! ## Loads that are performed as one (R111, R276) -/

/-- The bytes of the local space as the statements write them. -/
theorem memRead_loc (s : State) (lo n : Nat) :
    memRead s.myCore.loc lo n = (List.range n).map fun i => locByte s s.cur.1 (lo + i) :=
  memRead_eq_map _ _ _

theorem gives_loadAt_local {i : Instr} {s : State} {sz : BitVec 3} {rt : Reg} {e : Word} {lo n : Nat}
    (hx : exec i s = loadAt i sz rt e.toNat s) (hn : byteLen i = n)
    (ho : LocalOpen s e lo (szBytes sz)) (hc : LocalClean s lo (szBytes sz)) (ha : AtOnce e (szBytes sz)) :
    Gives i s rt (loaded sz ((List.range (szBytes sz)).map fun i => locByte s s.cur.1 (lo + i))) n := by
  refine gives_ret (j := i) ?_ hn
  rw [hx, loadAt, ho.load hc .load ha.whole, loadValue_eq_loaded (memRead_length _ _ _), memRead_loc]

theorem gives_loadAt_gddr {i : Instr} {s : State} {sz : BitVec 3} {rt : Reg} {e : Word} {n : Nat} {t : Sector}
    (hx : exec i s = loadAt i sz rt e.toNat s) (hn : byteLen i = n) (hl : t.bytes.length = 256) (hr : s.me.rdata = none)
    (hp : NoPartials s) (ho : GddrOpen s e (szBytes sz)) (ht : HoldsSector s e t) (ha : AtOnce e (szBytes sz)) :
    Gives i s rt (loaded sz ((t.bytes.drop (e.toNat % 256)).take (szBytes sz))) n := by
  have hpo : partialOut s s.cur.1 (e.toNat / 256) = false := by
    rw [partialOut, List.any_eq_false]
    intro j hj
    have hq := hp.2 j hj
    cases j <;> simp_all [isPartialOf]
  have hlen : ((t.bytes.drop (e.toNat % 256)).take (szBytes sz)).length = szBytes sz := by
    obtain ⟨-, -, h0, hs, -⟩ := ho
    rw [List.length_take, List.length_drop, hl]
    omega
  have hme : ({ s.me with rdata := none } : Ctx) = s.me := by rw [← hr]
  refine gives_ret (j := i) ?_ hn
  rw [hx, loadAt, ho.load ht .load ha.whole hpo, loadValue_eq_loaded hlen, hme]
  rw [State.ret, State.me_setMe, State.setMe_setMe, State.ret]

theorem pair_loadPairAt_local {i : Instr} {s : State} {rt : Reg} {e : Word} {lo n : Nat}
    (hx : exec i s = loadPairAt i rt e.toNat s) (hn : byteLen i = n)
    (ho : LocalOpen s e lo 16) (hc : LocalClean s lo 16) (ha : AtOnce e 16) :
    ∃ t, exec i s = .next t ∧ OnlyCtx s.cur.1 s.cur.2 s t ∧
    WritesReg (xwrite s.me rt (wordOf ((List.range 8).map fun i => locByte s s.cur.1 (lo + i)))) (t.ctx s.cur.1 s.cur.2) (rt + 1)
      (wordOf (((List.range 16).map fun i => locByte s s.cur.1 (lo + i)).drop 8))
      (s.me.pc + BitVec.ofNat 64 n) := by
  refine ⟨_, by rw [hx, loadPairAt, ho.load hc .load ha.whole], onlyCtx_setMe _ _, ?_⟩
  rw [State.ctx_setMe, if_pos ⟨rfl, rfl⟩, memRead_loc, hn, nextReg]
  have h8 : (((List.range 16).map fun i => locByte s s.cur.1 (lo + i)).take 8) = (List.range 8).map fun i => locByte s s.cur.1 (lo + i) := by
    rw [← List.map_take]; rfl
  rw [h8, show s.me.pc = (xwrite s.me rt (wordOf ((List.range 8).map fun i => locByte s s.cur.1 (lo + i)))).pc from (xwrite_pc _ _ _).symm]
  exact writesReg_advance _ _ _ _

/-- The part of LoadsGiveTheBytes on accesses performed as one holds. -/
theorem localLoadsReadTheBank : LocalLoadsReadTheBank := by
  unfold LocalLoadsReadTheBank
  intro s sz rt rb disp lit lo
  exact ⟨fun _ => gives_loadAt_local (exec_ld sz rt rb disp s) rfl,
    fun _ => gives_loadAt_local (exec_ldLit sz rt rb lit s) rfl,
    fun _ => pair_loadPairAt_local (exec_ldp rt rb disp s) rfl,
    fun _ => pair_loadPairAt_local (exec_ldpLit rt rb lit s) rfl⟩

/-- The part of LoadsGiveTheBytes on hits in the L1 holds. -/
theorem gddrLoadsReadTheL1 : GddrLoadsReadTheL1 := by
  unfold GddrLoadsReadTheL1
  intro s sz rt rb disp lit t n ea eaL bytes hl hr _ hp
  exact ⟨gives_loadAt_gddr (exec_ld sz rt rb disp s) rfl hl hr hp, gives_loadAt_gddr (exec_ldLit sz rt rb lit s) rfl hl hr hp⟩

/-! ## A load whose first part has been taken (R113) -/

/-- The other part's bytes are joined with the kept ones, however many those are. -/
theorem LocalOpen.load_rest {s : State} {e : Word} {lo n : Nat} (ho : LocalOpen s e lo n) (hc : LocalClean s lo n) (ha : ¬AtOnce e n)
    (hn : n ≤ 16) {up : Bool} {h : List Byte} (hh : s.me.half = some (up, h)) (acc : Access) (k : List Byte → State → State) :
    s.load acc e.toNat n k =
      k (if up then (memRead s.myCore.loc lo n).take (16 - e.toNat % 16) ++ h else h ++ (memRead s.myCore.loc lo n).drop (16 - e.toNat % 16))
        (s.setMe { s.me with half := none }) := by
  have hsplit : splitAt e.toNat n = some (16 - e.toNat % 16) := by
    rw [AtOnce, not_or] at ha
    exact if_pos ⟨hn, ha.1, by omega⟩
  rw [ho.loadHalves hc, State.halves, hsplit, hh]

/-- A context in the middle of a misaligned load of two bytes that holds two bytes of it, where its part has one. -/
def overfull : State :=
  { State.reset with cores := [(0, { Core.reset with ctxs := [(0, { Ctx.reset with half := some (true, [0x80, 0]) })] })] }

theorem overfull_unwatched : Unwatched overfull.myCore := by
  have hall : (overfull.myCore.wpCtl.all fun v => v.toNat % 4 == 0) = true := by decide +kernel
  exact fun v hv => by simpa using List.all_eq_true.mp hall v hv

theorem overfull_open : LocalOpen overfull (0 + 0xFFFFFFFFFFF0000F) 0x10000F 2 := by
  refine ⟨by decide, by decide, by decide, ?_, rfl, overfull_unwatched, rfl⟩
  decide +kernel

/-- Refutes O4: LocalLoadsTakeTwoParts lets the kept part hold any number of bytes. Where the parts make more bytes than the load's size (here three
for a load of two), the model extends from bit 15 and the statement from bit 23, and X1 differs: 0xFFFFFFFFFFFF8000 against 0x8000. -/
theorem not_loadsGiveTheBytes : ¬Obligations.LoadsGiveTheBytes := by
  unfold Obligations.LoadsGiveTheBytes
  rintro ⟨-, htwo, -⟩
  unfold LocalLoadsTakeTwoParts at htwo
  have hclean : LocalClean overfull 0x10000F 2 := by unfold LocalClean; decide
  have hsplit : ¬AtOnce (0 + 0xFFFFFFFFFFF0000F) 2 := by unfold AtOnce; decide
  obtain ⟨hsz, -⟩ := htwo overfull 1 1 0 0 0xFFFFFFFFFFF0000F 0x10000F true [0x80, 0]
  obtain ⟨-, hlit⟩ := hsz (by decide)
  obtain ⟨-, hrest⟩ := hlit overfull_open hclean hsplit
  obtain ⟨t, ht, -, hreg, -⟩ := hrest rfl
  have hrun : exec (.ldLit 1 1 0 0xFFFFFFFFFFF0000F) overfull = .next ((overfull.setMe { overfull.me with half := none }).ret
      (.ldLit 1 1 0 0xFFFFFFFFFFF0000F) 1 (loadValue 1 [0, 0x80, 0])) := by
    rw [exec_ldLit, loadAt]
    exact congrArg _ (overfull_open.load_rest hclean hsplit (by decide) rfl _ _)
  obtain rfl := Host.Outcome.next.inj (ht.symm.trans hrun)
  exact absurd (hreg 1) (by decide +kernel)

end Sys2Proof.Machine

/-! # Integer arithmetic and logic (R100, R101) -/

namespace Sys2Proof.Machine

open Sys2Proof

/-- An instruction of two source registers gives its function of them. -/
theorem gives_setRR {i : Instr} {s : State} {rd rs1 rs2 : Reg} (f : Word → Word → Word) {v : Word} {n : Nat}
    (h : exec i s = setRR i rd rs1 rs2 f s) (hn : byteLen i = n) (hv : f (xread s.me rs1) (xread s.me rs2) = v) : Gives i s rd v n :=
  gives_ret (by rw [h, setRR, hv]) hn

/-! ## The ALU instructions (R100) -/

theorem amount_eq (b : Word) : amount b = b.toNat % 64 := by
  rw [amount, extractLsb'_toNat_div, Nat.pow_zero, Nat.div_one]
  rfl

theorem rotateRight_amount (a b : Word) :
    a.rotateRight (amount b) = (a >>> (b.toNat % 64)) ||| (a <<< (64 - b.toNat % 64)) := by
  rw [BitVec.rotateRight_def, amount_eq, Nat.mod_mod]

theorem sminW_eq (a b : Word) : sminW a b = if a.toInt ≤ b.toInt then a else b := by
  simp only [sminW, BitVec.slt_iff_toInt_lt]
  obtain h | h | h := Int.lt_trichotomy a.toInt b.toInt
  · rw [if_pos h, if_pos h.le]
  · rw [BitVec.eq_of_toInt_eq h, ite_self, ite_self]
  · rw [if_neg h.asymm, if_neg h.not_ge]

theorem smaxW_eq (a b : Word) : smaxW a b = if a.toInt ≤ b.toInt then b else a := by
  simp only [smaxW, BitVec.slt_iff_toInt_lt]
  obtain h | h | h := Int.lt_trichotomy a.toInt b.toInt
  · rw [if_pos h, if_pos h.le]
  · rw [BitVec.eq_of_toInt_eq h, ite_self, ite_self]
  · rw [if_neg h.asymm, if_neg h.not_ge]

theorem uminW_eq (a b : Word) : uminW a b = if a.toNat ≤ b.toNat then a else b := by
  simp only [uminW, BitVec.ult_iff_toNat_lt]
  obtain h | h | h := Nat.lt_trichotomy a.toNat b.toNat
  · rw [if_pos h, if_pos h.le]
  · rw [BitVec.eq_of_toNat_eq h, ite_self, ite_self]
  · rw [if_neg h.asymm, if_neg h.not_ge]

theorem umaxW_eq (a b : Word) : umaxW a b = if a.toNat ≤ b.toNat then b else a := by
  simp only [umaxW, BitVec.ult_iff_toNat_lt]
  obtain h | h | h := Nat.lt_trichotomy a.toNat b.toNat
  · rw [if_pos h, if_pos h.le]
  · rw [BitVec.eq_of_toNat_eq h, ite_self, ite_self]
  · rw [if_neg h.asymm, if_neg h.not_ge]

theorem aluInstructionsSetRd : AluInstructionsSetRd := by
  intro s rd rs1 rs2 a b n
  have hn : amount b = n := amount_eq b
  exact ⟨gives_setRR (fun a b => a + b) rfl rfl rfl, gives_setRR (fun a b => a - b) rfl rfl rfl,
    gives_setRR (fun a b => a &&& b) rfl rfl rfl, gives_setRR (fun a b => a ||| b) rfl rfl rfl,
    gives_setRR (fun a b => a ^^^ b) rfl rfl rfl, gives_setRR (fun a b => a &&& ~~~b) rfl rfl rfl,
    gives_setRR (fun a b => a <<< amount b) rfl rfl (congrArg (a <<< ·) hn),
    gives_setRR (fun a b => a >>> amount b) rfl rfl (congrArg (a >>> ·) hn),
    gives_setRR (fun a b => a.sshiftRight (amount b)) rfl rfl (congrArg a.sshiftRight hn),
    gives_setRR (fun a b => a.rotateRight (amount b)) rfl rfl (rotateRight_amount a b),
    gives_setRR sminW rfl rfl (sminW_eq a b), gives_setRR smaxW rfl rfl (smaxW_eq a b),
    gives_setRR uminW rfl rfl (uminW_eq a b), gives_setRR umaxW rfl rfl (umaxW_eq a b)⟩

/-! ## Products, quotients and remainders (R101) -/

theorem ofInt_mul_toInt (a b : Word) : BitVec.ofInt 64 (a.toInt * b.toInt) = a * b := by
  rw [BitVec.ofInt_mul, BitVec.ofInt_toInt, BitVec.ofInt_toInt]

/-- The one quotient above 2^63 − 1: a divisor of magnitude 2 or more at least halves the dividend. -/
theorem tdiv_le_of_ne {a b : Int} (ha : -2 ^ 63 ≤ a) (ha' : a < 2 ^ 63) (h : ¬(a = -2 ^ 63 ∧ b = -1)) : a.tdiv b ≤ 2 ^ 63 - 1 := by
  by_cases h1 : b.natAbs = 1
  · obtain rfl | rfl := Int.natAbs_eq_iff.1 h1
    · rw [Int.natCast_one, Int.tdiv_one]; omega
    · rw [Int.natCast_one, Int.tdiv_neg, Int.tdiv_one]; omega
  · have hq : (a.tdiv b).natAbs ≤ a.natAbs / 2 := by
      rw [Int.natAbs_tdiv]
      obtain h0 | h0 := Nat.eq_zero_or_pos b.natAbs
      · rw [h0]; exact (Nat.div_zero _).trans_le (Nat.zero_le _)
      · exact Nat.div_le_div_left (by omega) (by decide)
    omega

theorem divW_eq (a b : Word) : divW a b =
    BitVec.ofInt 64 (if b = 0 then (if 0 ≤ a.toInt then (2 ^ 63 - 1 : Int) else -2 ^ 63) else min (a.toInt.tdiv b.toInt) (2 ^ 63 - 1)) := by
  unfold divW
  by_cases hb : b = 0
  · have hs : a.slt 0 = true ↔ ¬0 ≤ a.toInt := by rw [BitVec.slt_iff_toInt_lt, not_le]; rfl
    rw [if_pos hb, if_pos hb]
    by_cases h : 0 ≤ a.toInt
    · rw [if_neg (fun e => hs.1 e h), if_pos h]; rfl
    · rw [if_pos (hs.2 h), if_neg h]; rfl
  · rw [if_neg hb, if_neg hb]
    by_cases ho : a = 0x8000000000000000 ∧ b = 0xFFFFFFFFFFFFFFFF
    · rw [if_pos ho, ho.1, ho.2]; rfl
    · have hle : a.toInt.tdiv b.toInt ≤ 2 ^ 63 - 1 := by
        refine tdiv_le_of_ne (BitVec.le_toInt a) BitVec.toInt_lt fun h => ho ⟨?_, ?_⟩
        · exact BitVec.eq_of_toInt_eq (h.1.trans rfl)
        · exact BitVec.eq_of_toInt_eq (h.2.trans rfl)
      rw [if_neg ho, min_eq_left hle]

theorem divuW_eq (a b : Word) : divuW a b = BitVec.ofNat 64 (if b = 0 then 2 ^ 64 - 1 else a.toNat / b.toNat) := by
  unfold divuW
  split <;> rfl

/-- A remainder is the dividend less the divisor times the quotient. -/
theorem remW_eq (a b : Word) : remW a b =
    BitVec.ofInt 64 (a.toInt - b.toInt * (if b = 0 then 0 else a.toInt.tdiv b.toInt)) := by
  unfold remW
  by_cases hb : b = 0
  · rw [if_pos hb, if_pos hb, Int.mul_zero, Int.sub_zero, BitVec.ofInt_toInt]
  · rw [if_neg hb, if_neg hb, Int.tmod_def]

theorem remuW_eq (a b : Word) : remuW a b = BitVec.ofNat 64 (a.toNat - b.toNat * (if b = 0 then 0 else a.toNat / b.toNat)) := by
  unfold remuW
  by_cases hb : b = 0
  · rw [if_pos hb, if_pos hb, Nat.mul_zero, Nat.sub_zero, BitVec.ofNat_toNat, BitVec.setWidth_eq]
  · rw [if_neg hb, if_neg hb, Nat.mod_eq_sub]

theorem mulDivInstructionsSetRd : MulDivInstructionsSetRd := by
  intro s rd rs1 rs2 a b top
  exact ⟨gives_setRR (fun a b => a * b) rfl rfl (ofInt_mul_toInt a b).symm, gives_setRR mulhW rfl rfl rfl, gives_setRR mulhuW rfl rfl rfl,
    gives_setRR divW rfl rfl (divW_eq a b), gives_setRR divuW rfl rfl (divuW_eq a b), gives_setRR remW rfl rfl (remW_eq a b),
    gives_setRR remuW rfl rfl (remuW_eq a b)⟩

/-- Settles O1: each instruction is `setRR` of its function, which has the value that R100 and R101 give. -/
theorem integerInstructionsSetRd : Obligations.IntegerInstructionsSetRd := ⟨aluInstructionsSetRd, mulDivInstructionsSetRd⟩

end Sys2Proof.Machine

/-! # Comparison, selection, bit counts, bit fields and immediates (R102-R105) -/

namespace Sys2Proof.Machine

open Sys2Proof

/-- An instruction of one source register gives its function of it. -/
theorem gives_setR {i : Instr} {s : State} {rd rs1 : Reg} (f : Word → Word) {v : Word} {n : Nat} (h : exec i s = setR i rd rs1 f s)
    (hn : byteLen i = n) (hv : f (xread s.me rs1) = v) : Gives i s rd v n :=
  gives_ret (by rw [h, setR, hv]) hn

/-! ## CMP and SEL (R102, R103) -/

theorem cmpW_iff {cond : BitVec 3} (hc : cond.toNat ≤ 5) (a b : Word) : cmpW cond a b = true ↔ cmpHolds cond.toNat a b := by
  unfold cmpW cmpHolds
  generalize cond.toNat = c at hc
  interval_cases c <;> simp [BitVec.slt, BitVec.ult]

theorem compareAndSelectSetRd : CompareAndSelectSetRd := by
  intro s rd rc rs1 rs2 cond a b
  refine ⟨fun hc => ⟨fun h => ?_, fun h => ?_⟩, fun h => ?_, fun h => ?_⟩
  · exact gives_setRR (fun a b => if cmpW cond a b then 1 else 0) rfl rfl (if_pos ((cmpW_iff hc a b).2 h))
  · exact gives_setRR (fun a b => if cmpW cond a b then 1 else 0) rfl rfl (if_neg fun e => h ((cmpW_iff hc a b).1 e))
  · exact gives_setRR (fun a b => if xread s.me rc ≠ 0 then a else b) rfl rfl (if_pos h)
  · exact gives_setRR (fun a b => if xread s.me rc ≠ 0 then a else b) rfl rfl (if_neg (not_not.2 h))

/-! ## Bit counts (R104) -/

theorem clzW_zero : clzW 0 = 64 := rfl

/-- The leading one stands just below the leading zeros. -/
theorem clzW_bounds {a : Word} (h : a ≠ 0) : clzW a < 64 ∧ 2 ^ (63 - clzW a) ≤ a.toNat ∧ a.toNat < 2 ^ (64 - clzW a) := by
  have h0 : a.toNat ≠ 0 := fun e => h (BitVec.eq_of_toNat_eq e)
  have hl : a.toNat.log2 < 64 := (Nat.log2_lt h0).2 a.isLt
  have e : clzW a = 63 - a.toNat.log2 := if_neg h
  rw [e, show 63 - (63 - a.toNat.log2) = a.toNat.log2 by omega, show 64 - (63 - a.toNat.log2) = a.toNat.log2 + 1 by omega]
  exact ⟨by omega, Nat.log2_self_le h0, Nat.lt_log2_self⟩

theorem ctzFrom_zero (n : Nat) : ctzFrom n 0 = n := by
  induction n with
  | zero => rfl
  | succ n ih => rw [ctzFrom, if_neg (by decide), Nat.zero_div, ih, Nat.add_comm]

/-- The first one among the first `n` bits, and the zeros before it. -/
theorem ctzFrom_bounds {n v : Nat} (h0 : v ≠ 0) (h : v < 2 ^ n) :
    ctzFrom n v < n ∧ v.testBit (ctzFrom n v) = true ∧ ∀ i < ctzFrom n v, v.testBit i = false := by
  induction n generalizing v with
  | zero => omega
  | succ n ih =>
    rw [ctzFrom]
    by_cases hv : v % 2 = 1
    · rw [if_pos hv]
      exact ⟨Nat.succ_pos n, by simp [Nat.testBit_zero, hv], fun i hi => absurd hi (Nat.not_lt_zero i)⟩
    · obtain ⟨hlt, hone, hlow⟩ := ih (v := v / 2) (by omega) (by omega)
      rw [if_neg hv, Nat.add_comm]
      refine ⟨by omega, by rwa [Nat.testBit_succ], fun i hi => ?_⟩
      cases i with
      | zero => simp [Nat.testBit_zero]; omega
      | succ i => rw [Nat.testBit_succ]; exact hlow i (by omega)

theorem ctzW_bounds {a : Word} (h : a ≠ 0) :
    ctzW a < 64 ∧ a.getLsbD (ctzW a) = true ∧ ∀ i, i < ctzW a → a.getLsbD i = false :=
  ctzFrom_bounds (fun e => h (BitVec.eq_of_toNat_eq e)) a.isLt

theorem popFrom_eq (n v : Nat) : popFrom n v = ((List.range n).filter fun i => v.testBit i).length := by
  induction n generalizing v with
  | zero => rfl
  | succ n ih =>
    rw [popFrom, ih, List.range_succ_eq_map, List.filter_cons, List.filter_map, Nat.testBit_zero]
    have e : ((fun i => v.testBit i) ∘ Nat.succ) = fun i => (v / 2).testBit i := funext fun i => Nat.testBit_succ v i
    rw [e]
    obtain h | h := Nat.mod_two_eq_zero_or_one v <;> simp [h, Nat.add_comm]

/-! ## Bit fields (R104) -/

theorem fieldPos_eq (f : Word) : fieldPos f = f.toNat % 64 := amount_eq f

theorem getLsbD_fieldMask {f : Word} {i : Nat} (hi : i < 64) : (fieldMask f).getLsbD i =
    (decide (i < Nat.min (f.toNat / 256 % 128) 64) && decide (f.toNat % 64 + i < 64)) := by
  rw [fieldMask, BitVec.getLsbD_ofNat, Nat.testBit_two_pow_sub_one, fieldPos_eq, extractLsb'_toNat_div]
  have hlen : f.toNat / 2 ^ 8 % 2 ^ 7 = f.toNat / 256 % 128 := rfl
  have hmin : Nat.min (f.toNat / 256 % 128) 64 = min (f.toNat / 256 % 128) 64 := rfl
  rw [hlen, hmin, decide_eq_true hi, Bool.true_and, ← Bool.decide_and]
  exact decide_eq_decide.2 (by omega)

theorem getLsbD_bextW (a f : Word) {i : Nat} (hi : i < 64) : (bextW a f).getLsbD i =
    (decide (i < Nat.min (f.toNat / 256 % 128) 64) && decide (f.toNat % 64 + i < 64) && a.getLsbD (f.toNat % 64 + i)) := by
  rw [bextW, BitVec.getLsbD_and, getLsbD_fieldMask hi, BitVec.getLsbD_ushiftRight, fieldPos_eq, Bool.and_comm]

/-- The field's bits come from a, the others stay. -/
theorem getLsbD_binsW (d a f : Word) {i : Nat} (hi : i < 64) : (binsW d a f).getLsbD i =
    if f.toNat % 64 ≤ i ∧ i < f.toNat % 64 + Nat.min (f.toNat / 256 % 128) 64 then a.getLsbD (i - f.toNat % 64) else d.getLsbD i := by
  rw [binsW, fieldPos_eq]
  simp only [BitVec.getLsbD_or, BitVec.getLsbD_and, BitVec.getLsbD_not, BitVec.getLsbD_shiftLeft, hi, decide_true, Bool.true_and]
  by_cases hp : f.toNat % 64 ≤ i
  · rw [getLsbD_fieldMask (show i - f.toNat % 64 < 64 by omega)]
    by_cases hl : i < f.toNat % 64 + Nat.min (f.toNat / 256 % 128) 64
    · have h1 : i - f.toNat % 64 < Nat.min (f.toNat / 256 % 128) 64 := by omega
      simp [hi, hp, hl, h1, Nat.not_lt.2 hp]
    · have h1 : ¬i - f.toNat % 64 < Nat.min (f.toNat / 256 % 128) 64 := by omega
      simp [hl, h1]
  · simp [hp, Nat.not_le.1 hp]

theorem bitInstructionsSetRd : BitInstructionsSetRd := by
  intro s rd rs1 rs2 a f d pos len
  refine ⟨⟨clzW a, gives_setR (fun a => BitVec.ofNat 64 (clzW a)) rfl rfl rfl, fun h => h ▸ clzW_zero, clzW_bounds⟩,
    ⟨ctzW a, gives_setR (fun a => BitVec.ofNat 64 (ctzW a)) rfl rfl rfl, fun h => h ▸ ctzFrom_zero 64, ctzW_bounds⟩,
    gives_setR (fun a => BitVec.ofNat 64 (popcW a)) rfl rfl (congrArg (BitVec.ofNat 64) (popFrom_eq 64 a.toNat)),
    ⟨bextW a f, gives_setRR bextW rfl rfl rfl, fun i hi => getLsbD_bextW a f hi⟩,
    ⟨binsW d a f, gives_setRR (fun a f => binsW (xread s.me rd) a f) rfl rfl rfl, fun i hi => getLsbD_binsW d a f hi⟩⟩

/-! ## The immediate forms (R105) -/

theorem sext12_eq (imm : BitVec 12) : sext12 imm = BitVec.ofInt 64 imm.toInt := rfl

theorem zext12_eq (imm : BitVec 12) : zext12 imm = BitVec.ofNat 64 imm.toNat := (BitVec.ofNat_toNat ..).symm

theorem immediateInstructionsSetRd : ImmediateInstructionsSetRd := by
  intro s rd rs1 imm lit sh a sx zx
  have hs : sext12 imm = sx := sext12_eq imm
  have hz : zext12 imm = zx := zext12_eq imm
  rw [← hs, ← hz]
  exact ⟨gives_ret (j := .movi rd imm) rfl rfl, gives_ret (j := .moviLit rd lit) rfl rfl,
    gives_setR (fun a => a + sext12 imm) rfl rfl rfl, gives_setR (fun a => a + lit) rfl rfl rfl,
    gives_setR (fun a => a &&& zext12 imm) rfl rfl rfl, gives_setR (fun a => a &&& lit) rfl rfl rfl,
    gives_setR (fun a => a ||| zext12 imm) rfl rfl rfl, gives_setR (fun a => a ||| lit) rfl rfl rfl,
    gives_setR (fun a => a ^^^ zext12 imm) rfl rfl rfl, gives_setR (fun a => a ^^^ lit) rfl rfl rfl,
    gives_setR (fun a => a <<< sh.toNat) rfl rfl rfl, gives_setR (fun a => a >>> sh.toNat) rfl rfl rfl,
    gives_setR (fun a => a.sshiftRight sh.toNat) rfl rfl rfl⟩

/-- Settles O2: each instruction sets rd to its function of the sources, and each function has the bits that R102 to R105 give. -/
theorem compareBitAndImmediateFormsSetRd : Obligations.CompareBitAndImmediateFormsSetRd :=
  ⟨compareAndSelectSetRd, bitInstructionsSetRd, immediateInstructionsSetRd⟩

end Sys2Proof.Machine

/-! # Control transfers (R74, R106-R110) -/

namespace Sys2Proof.Machine

open Sys2Proof

/-! ## BR and LOOP (R107, R108) -/

theorem exec_br (cond : BitVec 3) (rs1 : Reg) (off : BitVec 15) (s : State) : exec (.br cond rs1 off) s =
    .next (if brTest cond (xread s.me rs1) then s.setMe { s.me with pc := target15 s.me.pc off } else s.pass (.br cond rs1 off)) := rfl

theorem exec_loop (rs1 : Reg) (off : BitVec 15) (s : State) : exec (.loop rs1 off) s = execLoop rs1 off s := rfl

theorem toInt_eq_zero_iff (a : Word) : a.toInt = 0 ↔ a = 0 := by
  rw [← BitVec.toInt_inj]; rfl

theorem brTest_iff {cond : BitVec 3} (hc : cond.toNat ≤ 5) (a : Word) : brTest cond a = true ↔ brHolds cond.toNat a := by
  unfold brTest brHolds
  generalize cond.toNat = c at hc
  interval_cases c <;> simp [BitVec.slt, toInt_eq_zero_iff]

/-- A signed word offset, taken in bytes. -/
theorem signExtend_mul_four {w : Nat} (off : BitVec w) : off.signExtend 64 * 4 = BitVec.ofInt 64 (4 * off.toInt) := by
  rw [Int.mul_comm, BitVec.ofInt_mul]; rfl

theorem target15_eq (pc : Word) (off : BitVec 15) : target15 pc off = pc + BitVec.ofInt 64 (4 * off.toInt) :=
  congrArg (pc + ·) (signExtend_mul_four off)

theorem target18_eq (pc : Word) (off : BitVec 18) : target18 pc off = pc + BitVec.ofInt 64 (4 * off.toInt) :=
  congrArg (pc + ·) (signExtend_mul_four off)

theorem branchesGoToTheirTarget : BranchesGoToTheirTarget := by
  intro s rs1 cond off there v
  have hthere : target15 s.me.pc off = there := target15_eq ..
  refine ⟨fun hc => ⟨fun h => becomes_setMe ?_, fun h => becomes_setMe ?_⟩, fun h0 => ?_⟩
  · rw [exec_br, if_pos ((brTest_iff hc _).2 h), hthere]
  · rw [exec_br, if_neg fun e => h ((brTest_iff hc _).1 e)]; rfl
  · refine ⟨_, exec_loop rs1 off s, onlyCtx_setMe _ _, ?_⟩
    rw [State.ctx_setMe, if_pos ⟨rfl, rfl⟩]
    by_cases hv : v ≠ 0
    · rw [if_pos hv, if_pos hv, xwrite_pc, hthere]
      exact writesReg_xwrite ..
    · rw [if_neg hv, if_neg hv]
      exact writesReg_advance ..

/-! ## Jumps, calls and returns (R109, R110) -/

theorem linksTo_jump {i : Instr} {s : State} {rd : Reg} {n : Nat} {t : Word} (h : exec i s = .next (s.jump i rd t)) (hn : byteLen i = n) :
    LinksTo i s rd (s.me.pc + BitVec.ofNat 64 n) t := by
  subst hn
  refine ⟨_, h, onlyCtx_setMe _ _, ?_⟩
  rw [State.jump, State.ctx_setMe, if_pos ⟨rfl, rfl⟩]
  exact writesReg_xwrite ..

/-- Bits [1:0] of a target (R106). -/
theorem low_bits_eq_zero_iff (t : Word) : t.extractLsb' 0 2 = 0 ↔ t.toNat % 4 = 0 := by
  rw [← BitVec.toNat_inj, extractLsb'_toNat_div, Nat.pow_zero, Nat.div_one]
  rfl

theorem jumpChecked_aligned {t : Word} (h : t.toNat % 4 = 0) (s : State) (i : Instr) (rd : Reg) : s.jumpChecked i rd t = s.jump i rd t :=
  if_pos ((low_bits_eq_zero_iff t).2 h)

theorem jumpChecked_misaligned {t : Word} (h : t.toNat % 4 ≠ 0) (s : State) (i : Instr) (rd : Reg) :
    s.jumpChecked i rd t = s.trap (illegal i 6) :=
  if_neg fun e => h ((low_bits_eq_zero_iff t).1 e)

theorem linksTo_jumpChecked {i : Instr} {s : State} {rd : Reg} {n : Nat} {t : Word} (h : exec i s = .next (s.jumpChecked i rd t))
    (hn : byteLen i = n) (ht : t.toNat % 4 = 0) : LinksTo i s rd (s.me.pc + BitVec.ofNat 64 n) t :=
  linksTo_jump (by rw [h, jumpChecked_aligned ht]) hn

theorem traps_jumpChecked {i : Instr} {s : State} {rd : Reg} {t : Word} (h : exec i s = .next (s.jumpChecked i rd t))
    (ht : t.toNat % 4 ≠ 0) : Traps i s (illegal i 6) := by
  rw [Traps, h, jumpChecked_misaligned ht]

theorem exec_jmpLit (lit : Word) (s : State) : exec (.jmpLit lit) s = .next (s.jumpChecked (.jmpLit lit) 0 lit) := rfl
theorem exec_callLit (rd : Reg) (lit : Word) (s : State) : exec (.callLit rd lit) s = .next (s.jumpChecked (.callLit rd lit) rd lit) := rfl
theorem exec_jr (rd rs1 : Reg) (s : State) : exec (.jr rd rs1) s = .next (s.jumpChecked (.jr rd rs1) rd (xread s.me rs1)) := rfl
theorem exec_ret (s : State) : exec .ret s = .next (s.jumpChecked .ret 0 (xread s.me 1)) := rfl

theorem jumpsLinkAndGo : JumpsLinkAndGo := by
  intro s rd rs1 off lit there
  have hthere : target18 s.me.pc off = there := target18_eq ..
  refine ⟨hthere ▸ linksTo_jump rfl rfl, hthere ▸ linksTo_jump rfl rfl,
    fun h => ⟨linksTo_jumpChecked (exec_jmpLit lit s) rfl h, linksTo_jumpChecked (exec_callLit rd lit s) rfl h⟩,
    linksTo_jumpChecked (exec_jr rd rs1 s) rfl, linksTo_jumpChecked (exec_ret s) rfl⟩

theorem misalignedTargetsTrap : MisalignedTargetsTrap := fun s rd rs1 lit =>
  ⟨fun h => ⟨traps_jumpChecked (exec_jmpLit lit s) h, traps_jumpChecked (exec_callLit rd lit s) h⟩,
    traps_jumpChecked (exec_jr rd rs1 s), traps_jumpChecked (exec_ret s)⟩

/-- Settles O3: a transfer is `State.jump`, behind the test of bits [1:0] where the target is a literal or a register. -/
theorem transfersGoToTheirTarget : Obligations.TransfersGoToTheirTarget :=
  ⟨branchesGoToTheirTarget, jumpsLinkAndGo, misalignedTargetsTrap⟩

end Sys2Proof.Machine

/-! # Stores of the local window and of GDDR (R111, R113, R114, R276) -/

namespace Sys2Proof.Machine

open Sys2Proof

/-- A store instruction: `State.store` of its bytes, and then past the instruction. -/
def StoreOf (i : Instr) (s : State) (e : Word) (bs : List Byte) : Prop := exec i s = .next (s.store .store e.toNat bs fun t => t.pass i)

/-! ## The bytes of a store (R114) -/

theorem bytesOfNat_eq_map (n v : Nat) : bytesOfNat n v = (List.range n).map fun i => BitVec.ofNat 8 (v / 2 ^ (8 * i)) := by
  induction n generalizing v with
  | zero => rfl
  | succ n ih =>
    rw [bytesOfNat, ih, List.range_succ_eq_map, List.map_cons, List.map_map]
    congr 1
    · refine BitVec.eq_of_toNat_eq ?_
      simp
    · refine List.map_congr_left fun i _ => ?_
      rw [Function.comp_apply, Nat.div_div_eq_div_mul, Nat.succ_eq_add_one, Nat.mul_succ, Nat.pow_add, Nat.mul_comm]

/-- The store sizes are 1, 2, 4 and 8. -/
theorem szBytes_of_le {sz : BitVec 3} (h : sz.toNat ≤ 3) : szBytes sz = 2 ^ sz.toNat := by
  rw [szBytes, Nat.mod_eq_of_lt (by omega)]

/-- The low `2 ^ sz` bytes of a word. -/
theorem bytesOfNat_szBytes {sz : BitVec 3} (h : sz.toNat ≤ 3) (v : Nat) :
    bytesOfNat (szBytes sz) v = (List.range (2 ^ sz.toNat)).map fun i => BitVec.ofNat 8 (v / 2 ^ (8 * i)) := by
  rw [bytesOfNat_eq_map, szBytes_of_le h]

theorem storeOf_st {sz : BitVec 3} (h : sz.toNat ≤ 3) (rt rb : Reg) (disp : BitVec 10) (s : State) :
    StoreOf (.st sz rt rb disp) s (xread s.me rb + BitVec.ofInt 64 disp.toInt)
      ((List.range (2 ^ sz.toNat)).map fun i => BitVec.ofNat 8 ((xread s.me rt).toNat / 2 ^ (8 * i))) := by
  rw [← bytesOfNat_szBytes h]; rfl

theorem storeOf_stLit {sz : BitVec 3} (h : sz.toNat ≤ 3) (rt rb : Reg) (lit : Word) (s : State) :
    StoreOf (.stLit sz rt rb lit) s (xread s.me rb + lit)
      ((List.range (2 ^ sz.toNat)).map fun i => BitVec.ofNat 8 ((xread s.me rt).toNat / 2 ^ (8 * i))) := by
  rw [← bytesOfNat_szBytes h]; rfl

theorem storeOf_stp (rt rb : Reg) (disp : BitVec 10) (s : State) :
    StoreOf (.stp rt rb disp) s (xread s.me rb + BitVec.ofInt 64 disp.toInt)
      (((List.range 8).map fun i => BitVec.ofNat 8 ((xread s.me rt).toNat / 2 ^ (8 * i))) ++
        (List.range 8).map fun i => BitVec.ofNat 8 ((xread s.me (rt + 1)).toNat / 2 ^ (8 * i))) := by
  rw [← bytesOfNat_eq_map, ← bytesOfNat_eq_map]; rfl

theorem storeOf_stpLit (rt rb : Reg) (lit : Word) (s : State) :
    StoreOf (.stpLit rt rb lit) s (xread s.me rb + lit)
      (((List.range 8).map fun i => BitVec.ofNat 8 ((xread s.me rt).toNat / 2 ^ (8 * i))) ++
        (List.range 8).map fun i => BitVec.ofNat 8 ((xread s.me (rt + 1)).toNat / 2 ^ (8 * i))) := by
  rw [← bytesOfNat_eq_map, ← bytesOfNat_eq_map]; rfl

/-! ## Local stores performed as one (R113, R410) -/

theorem mem_sectorsOf {a n q : Nat} (hn : 0 < n) : q ∈ sectorsOf a n ↔ a / 256 ≤ q ∧ q ≤ (a + n - 1) / 256 := by
  rw [sectorsOf, if_neg (Nat.pos_iff_ne_zero.1 hn), List.mem_map]
  simp only [List.mem_range]
  have hle : a / 256 ≤ (a + n - 1) / 256 := Nat.div_le_div_right (by omega)
  exact ⟨fun ⟨i, hi, e⟩ => by omega, fun h => ⟨q - a / 256, by omega, by omega⟩⟩

/-- The sectors that a run of bytes covers whole. -/
theorem mem_wholeSectors (a n q : Nat) : q ∈ wholeSectors a n ↔ a ≤ q * 256 ∧ q * 256 + 256 ≤ a + n := by
  rw [wholeSectors, List.mem_filter, Bool.and_eq_true, decide_eq_true_eq, decide_eq_true_eq, and_iff_right_iff_imp]
  intro h
  exact (mem_sectorsOf (by omega)).2 (by omega)

/-- A core after a write of local bytes. -/
def Core.written (k : Core) (a : Nat) (bs : List Byte) : Core :=
  { k with loc := memWrite k.loc a bs, locPoison := k.locPoison.filter fun q => !(wholeSectors a bs.length).contains q }

theorem locWrite_eq (s : State) (c a : Nat) (bs : List Byte) : locWrite s c a bs = s.setCore c ((s.core c).written a bs) := rfl

theorem Core.mem_written_locPoison (k : Core) (a q : Nat) (bs : List Byte) :
    q ∈ (k.written a bs).locPoison ↔ q ∈ k.locPoison ∧ ¬(a ≤ q * 256 ∧ q * 256 + 256 ≤ a + bs.length) := by
  rw [← mem_wholeSectors]
  simp [Core.written]

theorem storesLocal_of_store {i : Instr} {s : State} {e : Word} {lo n : Nat} {bs : List Byte} (hx : StoreOf i s e bs) (hn : byteLen i = n)
    (ho : LocalOpen s e lo bs.length) (ha : AtOnce e bs.length) : StoresLocal i s lo bs n := by
  subst hn
  obtain ⟨t, ht, hshared, hcore, hme, hctx, hcores⟩ := setsCore_setMe (k := s.myCore.written lo bs) (f := fun k => advance k (byteLen i))
    rfl (hx.trans (congrArg _ (ho.store .store ha.whole _)))
  have hloc : (t.core s.cur.1).loc = memWrite s.myCore.loc lo bs := congrArg Core.loc hcore
  have hpois : (t.core s.cur.1).locPoison = (s.myCore.written lo bs).locPoison := (congrArg Core.locPoison hcore :)
  refine ⟨t, ht, hshared, fun a => ?_, fun q => ?_, ?_, hme, fun d y h => ⟨?_, hcores d⟩⟩
  · rw [locByte, hloc, memByte_memWrite]; rfl
  · rw [hpois, Core.mem_written_locPoison]
  · rw [hcore]; rfl
  · by_cases hd : d = s.cur.1
    · subst hd; exact hctx y (h.resolve_left (· rfl))
    · simp only [State.ctx, hcores d hd]

theorem localStoresWriteTheBank : LocalStoresWriteTheBank := by
  intro s sz rt rb disp lit lo n ea eaL le two
  have hle (v : Word) (m : Nat) : (le v m).length = m := by simp [le]
  exact ⟨fun hsz ho ha => storesLocal_of_store (storeOf_st hsz rt rb disp s) rfl (by rwa [hle]) (by rwa [hle]),
    fun hsz ho ha => storesLocal_of_store (storeOf_stLit hsz rt rb lit s) rfl (by rwa [hle]) (by rwa [hle]),
    fun _ => storesLocal_of_store (storeOf_stp rt rb disp s) rfl, fun _ => storesLocal_of_store (storeOf_stpLit rt rb lit s) rfl⟩

/-! ## A local store in two parts (R113) -/

theorem splitAt_of_not_atOnce {e : Word} {n : Nat} (hn : n ≤ 16) (ha : ¬AtOnce e n) : splitAt e.toNat n = some (16 - e.toNat % 16) := by
  rw [AtOnce, not_or] at ha
  exact if_pos ⟨hn, ha.1, by omega⟩

/-- The local bytes of a core once what is left of its stores is performed. -/
def Core.settledLoc (k : Core) : Memory := k.late.foldl (fun m e => memWrite m e.1 e.2) k.loc

theorem loc_foldl_locWrite (c : Nat) (es : List (Addr × List Byte)) (s : State) :
    ((es.foldl (fun t e => locWrite t c e.1 e.2) s).core c).loc = es.foldl (fun m e => memWrite m e.1 e.2) (s.core c).loc := by
  induction es generalizing s with
  | nil => rfl
  | cons e es ih =>
    rw [List.foldl_cons, ih, List.foldl_cons, locWrite_eq, State.core_setCore, if_pos rfl]; rfl

theorem locByte_performLate (s : State) (c a : Nat) : locByte (performLate c s) c a = memByte (s.core c).settledLoc a := by
  rw [locByte, performLate, State.core_updCore, if_pos rfl]
  exact congrArg (memByte · a) (loc_foldl_locWrite ..)

theorem memWrite_append (M : Memory) (a : Nat) (bs cs : List Byte) :
    memWrite M a (bs ++ cs) = memWrite (memWrite M a bs) (a + bs.length) cs := by
  induction bs generalizing M a with
  | nil => rfl
  | cons b bs ih => rw [List.cons_append, memWrite_cons, memWrite_cons, ih, List.length_cons, Nat.add_right_comm, Nat.add_assoc]

/-- Writes of runs that do not overlap may change places. -/
theorem memByte_memWrite_comm {a c : Nat} {bs cs : List Byte} (h : a + bs.length ≤ c) (M : Memory) (b : Nat) :
    memByte (memWrite (memWrite M c cs) a bs) b = memByte (memWrite (memWrite M a bs) c cs) b := by
  simp only [memByte_memWrite]
  by_cases h1 : a ≤ b ∧ b < a + bs.length
  · rw [if_pos h1, if_neg (by omega), if_pos h1]
  · rw [if_neg h1, if_neg h1]

/-- The two parts of a run of bytes make the run, whichever is written first. -/
theorem memByte_memWrite_parts {m : Nat} {bs : List Byte} (hm : m ≤ bs.length) (M : Memory) (a b : Nat) :
    memByte (memWrite (memWrite M a (bs.take m)) (a + m) (bs.drop m)) b = memByte (memWrite M a bs) b ∧
    memByte (memWrite (memWrite M (a + m) (bs.drop m)) a (bs.take m)) b = memByte (memWrite M a bs) b := by
  have hl : (bs.take m).length = m := by rw [List.length_take, Nat.min_eq_left hm]
  have hlow : memWrite (memWrite M a (bs.take m)) (a + m) (bs.drop m) = memWrite M a bs := by
    have h := memWrite_append M a (bs.take m) (bs.drop m)
    rw [List.take_append_drop, hl] at h
    exact h.symm
  exact ⟨by rw [hlow], by rw [memByte_memWrite_comm (by rw [hl]), hlow]⟩

/-- The bytes of a store in two parts: its own once both are performed, and no others before that. -/
def Core.Stored (k k' : Core) (a : Nat) (bs : List Byte) : Prop :=
  k'.ctxs = k.ctxs ∧ (∀ b : Nat, memByte k'.settledLoc b = memByte (memWrite k.loc a bs) b) ∧
    ∀ b : Nat, memByte k'.loc b = memByte k.loc b ∨ (a ≤ b ∧ b < a + bs.length)

theorem memByte_memWrite_or (M : Memory) (a b : Nat) (bs : List Byte) :
    memByte (memWrite M a bs) b = memByte M b ∨ (a ≤ b ∧ b < a + bs.length) := by
  rw [memByte_memWrite]
  split
  · exact .inr ‹_›
  · exact .inl rfl

theorem stored_written {k : Core} (h : k.late = []) (a : Nat) (bs : List Byte) : k.Stored (k.written a bs) a bs :=
  ⟨rfl, fun _ => by rw [Core.settledLoc, show (k.written a bs).late = [] from h]; rfl, fun _ => memByte_memWrite_or ..⟩

theorem stored_lower_late {k : Core} (h : k.late = []) (a : Nat) {m : Nat} {bs : List Byte} (hm : m ≤ bs.length) :
    k.Stored { k.written (a + m) (bs.drop m) with late := k.late ++ [(a, bs.take m)] } a bs := by
  refine ⟨rfl, fun b => ?_, fun b => (memByte_memWrite_or ..).imp_right fun hb => ?_⟩
  · rw [h]; exact (memByte_memWrite_parts hm ..).2
  · rw [List.length_drop] at hb; omega

theorem stored_upper_late {k : Core} (h : k.late = []) (a : Nat) {m : Nat} {bs : List Byte} (hm : m ≤ bs.length) :
    k.Stored { k.written a (bs.take m) with late := k.late ++ [(a + m, bs.drop m)] } a bs := by
  refine ⟨rfl, fun b => ?_, fun b => (memByte_memWrite_or ..).imp_right fun hb => ?_⟩
  · rw [h]; exact (memByte_memWrite_parts hm ..).1
  · rw [List.length_take] at hb; omega

/-- A store in two parts, where none is left of an earlier one: it leaves nothing, its lower part or its upper part for later. -/
theorem storeLocal_split {s : State} {c m : Nat} {bs : List Byte} (h : (s.core c).late = []) (hm : m ≤ bs.length) (a : Nat) :
    ∃ k, storeLocal c a (some m) bs s = s.used.setCore c k ∧ (s.core c).Stored k a bs := by
  have leave (a : Nat) (bs : List Byte) (b : Addr × List Byte) : (locWrite s.used c a bs).updCore c (fun k => { k with late := k.late ++ [b] }) =
      s.used.setCore c { (s.core c).written a bs with late := (s.core c).late ++ [b] } := by
    rw [locWrite_eq, State.updCore, State.setCore_setCore, State.core_setCore, if_pos rfl]; rfl
  unfold storeLocal
  dsimp only
  split
  · exact ⟨_, locWrite_eq .., stored_written h a bs⟩
  · split
    · exact ⟨_, leave .., stored_lower_late h a hm⟩
    · exact ⟨_, leave .., stored_upper_late h a hm⟩

/-- A store across a 16-byte boundary of the local window. -/
theorem storesTwoParts_of_store {i : Instr} {s : State} {e : Word} {lo n : Nat} {bs : List Byte} (hx : StoreOf i s e bs)
    (hn : byteLen i = n) (hl : bs.length ≤ 16) (ho : LocalOpen s e lo bs.length) (ha : ¬AtOnce e bs.length) (hlate : s.myCore.late = []) :
    ∃ t, exec i s = .next t ∧ t.ctx s.cur.1 s.cur.2 = { s.me with pc := s.me.pc + BitVec.ofNat 64 n } ∧
      SameShared s { t with draws := s.draws } ∧ (∀ d, d ≠ s.cur.1 → t.core d = s.core d) ∧
      (∀ a, locByte t s.cur.1 a = locByte s s.cur.1 a ∨ (lo ≤ a ∧ a < lo + bs.length)) ∧
      ∀ a, locByte (performLate s.cur.1 t) s.cur.1 a = if lo ≤ a ∧ a < lo + bs.length then bs.getD (a - lo) 0 else locByte s s.cur.1 a := by
  subst hn
  have hm : 16 - e.toNat % 16 ≤ bs.length := by rw [AtOnce, not_or] at ha; omega
  obtain ⟨k, hk, hctxs, hsettled, hloc⟩ := storeLocal_split (s := s) (c := s.cur.1) hlate hm lo
  have hme : (s.used.setCore s.cur.1 k).me = s.me := ctx_setCore_of_ctxs (s := s.used) hctxs _ _
  have ht : exec i s = .next ((s.used.setCore s.cur.1 k).setCtx s.cur.1 s.cur.2 (advance s.me (byteLen i))) := by
    rw [hx, ho.storeParts, splitAt_of_not_atOnce hl ha, hk, State.pass, hme]; rfl
  have hcore : ((s.used.setCore s.cur.1 k).setCtx s.cur.1 s.cur.2 (advance s.me (byteLen i))).core s.cur.1 =
      k.setCtx s.cur.2 (advance s.me (byteLen i)) := by
    rw [State.core_setCtx, if_pos rfl, State.core_setCore, if_pos rfl]
  refine ⟨_, ht, ?_, rfl, fun d hd => ?_, fun a => ?_, fun a => ?_⟩
  · rw [State.ctx_setCtx, if_pos ⟨rfl, rfl⟩]; rfl
  · rw [State.core_setCtx, if_neg hd, State.core_setCore, if_neg hd]; rfl
  · rw [locByte, hcore]; exact hloc a
  · rw [locByte_performLate, hcore]
    exact (hsettled a).trans (memByte_memWrite ..)

theorem localStoresWriteTwoParts : LocalStoresWriteTwoParts := by
  intro s sz rt rb disp lit lo n ea eaL le two claim
  have hle (v : Word) (m : Nat) : (le v m).length = m := by simp [le]
  have hn (h : sz.toNat ≤ 3) : (le (xread s.me rt) n).length ≤ 16 := by
    rw [hle]
    exact (Nat.pow_le_pow_right (by decide) h).trans (by decide)
  have htwo : two.length ≤ 16 := by simp [two, hle]
  exact ⟨fun hsz => ⟨storesTwoParts_of_store (storeOf_st hsz rt rb disp s) rfl (hn hsz),
      storesTwoParts_of_store (storeOf_stLit hsz rt rb lit s) rfl (hn hsz)⟩,
    fun _ => ⟨storesTwoParts_of_store (storeOf_stp rt rb disp s) rfl htwo, storesTwoParts_of_store (storeOf_stpLit rt rb lit s) rfl htwo⟩⟩

/-! ## Stores that hit in the L1 (R276, R305) -/

theorem NoPartials.partialOut {s : State} (h : NoPartials s) (sec : Nat) : partialOut s s.cur.1 sec = false := by
  rw [Machine.partialOut, List.any_eq_false]
  intro j hj
  have hq := h.2 j hj
  cases j with
  | updPartialCombine m => simp_all [isPartialOf]
  | _ => exact Bool.false_ne_true

/-- A run in a sector that the L1 holds goes straight into it. -/
theorem HoldsSector.canStore {s : State} {e : Word} {t : Sector} (ht : HoldsSector s e t) (hb : s.myCore.stbuf = []) (hp : NoPartials s)
    (ha : NoAmos s) (n : Nat) : canStore s s.cur.1 0 e.toNat n = true := by
  obtain ⟨hfind, hupd, hkey, -, hl1⟩ := ht
  have hfind' : tfind (s.core s.cur.1).l1 (e.toNat / 256) = some t := hfind
  have hl1' : (s.core s.cur.1).hasL1 = true := hl1
  have hb' : (s.core s.cur.1).stbuf = [] := hb
  simp [Machine.canStore, hl1', sectorStores, hb', inUpd, hfind', hupd, hp.partialOut, ha _, hasSector, hkey]

/-- A store of one run that hits in the L1 (R276). -/
theorem GddrOpen.store {s : State} {e : Word} {bs : List Byte} {t : Sector} (h : GddrOpen s e bs.length) (ht : HoldsSector s e t)
    (ha : AtOnce e bs.length) (hp : NoPartials s) (hm : NoAmos s) (k : State → State) :
    s.store .store e.toNat bs k = k ((putSector s s.cur.1 (e.toNat / 256) (storeSector t (e.toNat % 256) s.cur.2 bs)).updCtx s.cur.1 s.cur.2
      fun q => { q with released := nadd q.released (e.toNat / 256) }) := by
  have hc := h.access .store false (by simp)
  obtain ⟨-, hend, h0, hsec, hu, hb, hq⟩ := h
  have hcan := ht.canStore hb hp hm bs.length
  obtain ⟨hfind, hupd, hkey, -, -⟩ := ht
  have hg : target e.toNat = .gddr := target_gddr (by omega)
  have hl1 : storeL1 s s.cur.1 s.cur.2 0 e.toNat bs = (putSector s s.cur.1 (e.toNat / 256) (storeSector t (e.toNat % 256) s.cur.2 bs)).updCtx
      s.cur.1 s.cur.2 fun q => { q with released := nadd q.released (e.toNat / 256) } := by
    have hfind' : tfind (s.core s.cur.1).l1 (e.toNat / 256) = some t := hfind
    simp [storeL1, hfind', hupd, hkey]
  have hparts : storeParts s.cur.1 s.cur.2 [⟨e.toNat, e.toNat, 0, bs.length⟩] bs s = storeL1 s s.cur.1 s.cur.2 0 e.toNat bs := by
    simp only [storeParts, storePart, hg, sectorRuns_one h0 hsec, storeRuns, List.take_length, storeRun, hcan, if_true]
  have hneed : storeNeeds s s.cur.1 ⟨e.toNat, e.toNat, 0, bs.length⟩ = 0 := by
    simp [storeNeeds, hg, sectorRuns_one h0 hsec, hcan]
  have hu' : Unwatched ((storeL1 s s.cur.1 s.cur.2 0 e.toNat bs).core s.cur.1) := by
    rw [hl1, State.core_updCtx, if_pos rfl, putSector, State.core_updCore, if_pos rfl]; exact hu
  simp only [State.store, hc, waitsWide_none hq, Bool.false_eq_true, if_false, ha.whole, Option.elim_none, List.map_cons, List.map_nil,
    hneed, List.foldl_cons, List.foldl_nil, ne_eq, not_true, false_and, hparts, hu'.trace]
  rw [hl1]

theorem mem_foldl_nadd (off n i : Nat) (l : List Nat) :
    i ∈ (List.range n).foldl (fun d j => nadd d (off + j)) l ↔ i ∈ l ∨ (off ≤ i ∧ i < off + n) := by
  induction n with
  | zero => simp
  | succ n ih =>
    rw [List.range_succ, List.foldl_append, List.foldl_cons, List.foldl_nil, mem_nadd, ih, or_assoc]
    exact or_congr_right (by omega)

/-- A core whose L1 holds a sector anew. -/
def Core.withSector (k : Core) (sec : Nat) (u : Sector) : Core := { k with l1 := tput k.l1 sec u }

theorem storesL1_of_store {i : Instr} {s : State} {e : Word} {n : Nat} {bs : List Byte} {t : Sector} (hx : StoreOf i s e bs)
    (hn : byteLen i = n) (h : GddrOpen s e bs.length) (ht : HoldsSector s e t) (ha : AtOnce e bs.length) (hp : NoPartials s)
    (hm : NoAmos s) :
    SetsCore i s s.cur.1 (s.myCore.withSector (e.toNat / 256) (storeSector t (e.toNat % 256) s.cur.2 bs)).shell s.cur.2
      { s.me with pc := s.me.pc + BitVec.ofNat 64 n, released := nadd s.me.released (e.toNat / 256) } := by
  subst hn
  refine setsCore_setMe (k := s.myCore.withSector _ _)
    (f := fun k => advance { k with released := nadd k.released (e.toNat / 256) } (byteLen i)) rfl ?_
  rw [hx, h.store ht ha hp hm]
  show Host.Outcome.next (((s.setMyCore (s.myCore.withSector _ _)).setMe _).pass i) = _
  rw [State.pass, State.setMe_setMe, State.me_setMe]; rfl

theorem gddrStoresGoToTheL1 : GddrStoresGoToTheL1 := by
  intro s sz rt rb disp lit t n bs stores hsz hp hm
  have hl : bs.length = n := by simp [bs]
  have key {i : Instr} {e : Word} {m : Nat} (hx : StoreOf i s e bs) (hi : byteLen i = m) (ho : GddrOpen s e n) (ht : HoldsSector s e t)
      (ha : AtOnce e n) : stores i e m := by
    rw [← hl] at ho ha
    obtain ⟨v, hv, hshared, hcore, hme, hctx, hcores⟩ := storesL1_of_store hx hi ho ht ha hp hm
    obtain ⟨-, hupd, hkey, hpois, -⟩ := ht
    have hl1 : (v.core s.cur.1).l1 = _ := (congrArg Core.l1 hcore :)
    refine ⟨v, storeSector t (e.toNat % 256) s.cur.2 bs, hv, hshared, fun q => ?_, ?_, fun i => ?_, hupd, hkey, ?_, rfl, ?_, hme,
      fun d y h => ⟨?_, hcores d⟩⟩
    · rw [hl1]; exact tfind_tput ..
    · rw [← hl]; rfl
    · rw [← hl]; exact mem_foldl_nadd ..
    · show (t.pois && _) = false
      rw [hpois, Bool.false_and]
    · rw [hcore]; rfl
    · by_cases hd : d = s.cur.1
      · subst hd; exact hctx y (h.resolve_left (· rfl))
      · simp only [State.ctx, hcores d hd]
  exact ⟨key (storeOf_st hsz rt rb disp s) rfl, key (storeOf_stLit hsz rt rb lit s) rfl⟩

/-- Settles O5: `State.store` in the local window is a write of local bytes, in two parts where the store is split, and on a hit in the L1
a write of the sector's copy. -/
theorem storesWriteTheBytes : Obligations.StoresWriteTheBytes := ⟨localStoresWriteTheBank, localStoresWriteTwoParts, gddrStoresGoToTheL1⟩

end Sys2Proof.Machine

/-! # Prefetches (R115) -/

namespace Sys2Proof.Machine

open Sys2Proof

theorem exec_pref (hint rb : Reg) (disp : BitVec 10) (s : State) :
    exec (.pref hint rb disp) s = prefAt (.pref hint rb disp) hint (xread s.me rb + BitVec.ofInt 64 disp.toInt).toNat s := rfl

theorem exec_prefLit (hint rb : Reg) (lit : Word) (s : State) :
    exec (.prefLit hint rb lit) s = prefAt (.prefLit hint rb lit) hint (xread s.me rb + lit).toNat s := rfl

/-- The kind of access whose checks a prefetch makes (log 49). -/
def prefAccess (hint : Reg) : Access := if hint = 1 then .store else .load

theorem prefAt_window (i : Instr) (hint : Reg) {e : Word} (s : State) (h : (18446744073707454464 : Nat) ≤ e.toNat) :
    prefAt i hint e.toNat s = .next (s.pass i) := by
  simp [prefAt, (inWindow_iff _).2 h]

/-- Where the checks pass, a prefetch asks for its fills and goes on. -/
theorem GddrOpen.prefAt {s : State} {e : Word} (h : GddrOpen s e 1) (hp : sectorPoisoned s s.cur.1 (e.toNat / 256) = false) (i : Instr)
    (hint : Reg) : prefAt i hint e.toNat s = .next ((prefGo hint s (.ok false [⟨e.toNat, e.toNat, 0, 1⟩])).pass i) := by
  have hw : inWindow e.toNat = false := by
    have hlt := h.2.1
    rw [Bool.eq_false_iff, ne_eq, inWindow_iff]; omega
  simp only [Machine.prefAt, hw, Bool.false_eq_true, if_false, h.access _ true fun _ => hp]

/-! ## The fills that are asked for (R276, R282) -/

/-- A state whose agenda has grown by messages, each with a property. -/
def Sends (p : Instr → Prop) (s t : State) : Prop := ∃ sent, t = s.sendAll sent ∧ ∀ m ∈ sent, p m

theorem Sends.refl (p : Instr → Prop) (s : State) : Sends p s s := ⟨[], by simp [State.sendAll], by simp⟩

theorem Sends.trans {p : Instr → Prop} {s t u : State} (h : Sends p s t) (g : Sends p t u) : Sends p s u := by
  obtain ⟨a, rfl, ha⟩ := h
  obtain ⟨b, rfl, hb⟩ := g
  exact ⟨a ++ b, by simp [State.sendAll], fun m hm => (List.mem_append.1 hm).elim (ha m) (hb m)⟩

theorem Sends.send {p : Instr → Prop} {m : Instr} (h : p m) (s : State) : Sends p s (s.send m) := ⟨[m], rfl, by simpa using h⟩

theorem Sends.agenda_subset {p : Instr → Prop} {s t : State} (h : Sends p s t) {m : Instr} (hm : m ∈ s.agenda) : m ∈ t.agenda := by
  obtain ⟨a, rfl, -⟩ := h
  exact List.mem_append_left _ hm

/-- A message is no fill of a sector that the L1 holds. -/
def Missing (l1 : Tbl Sector) (c : Nat) (m : Instr) : Prop := ∀ q, (tfind l1 q).isSome = true → m ≠ .l1SectorFill c q 0

/-- Asking for a sector sends at most the fills of its line and of itself; the sector's fill is then on its way. -/
theorem sends_askFill {l1 : Tbl Sector} {c sec : Nat} (h : tfind l1 sec = none) (s : State) (x : Nat) :
    Sends (Missing l1 c) s (askFill s c x sec 0) ∧ .l1SectorFill c sec 0 ∈ (askFill s c x sec 0).agenda := by
  have hline (t : State) (cls rcls : Nat) : Sends (Missing l1 c) t (t.send (.llcFill (sec / 4) 0 cls rcls)) := .send (fun q _ => nofun) t
  have hsec (t : State) : Sends (Missing l1 c) t (t.send (.l1SectorFill c sec 0)) :=
    .send (fun q hq e => by cases e; rw [h] at hq; cases hq) t
  have hfirst : Sends (Missing l1 c) s (if (tfind s.llc (sec / 4)).any fun l => l.key == 0 then s
      else s.send (.llcFill (sec / 4) 0 (s.ctx c x).cclass.toNat (s.ctx c x).rescls.toNat)) := by
    split
    · exact .refl _ s
    · exact hline ..
  unfold askFill
  dsimp only
  by_cases hin : s.agenda.contains (.l1SectorFill c sec 0) = true
  · rw [if_pos hin]
    exact ⟨.refl _ s, by simpa using hin⟩
  · rw [if_neg hin]
    exact ⟨hfirst.trans (hsec _), by simp [State.send]⟩

/-- A prefetch of a line takes its sectors in turn. -/
def askMissing (l1 : Tbl Sector) (c x base : Nat) (t : State) (i : Nat) : State :=
  if (tfind l1 (base + i)).isSome then t else askFill t c x (base + i) 0

theorem sends_askMissing (l1 : Tbl Sector) (c x base : Nat) (is : List Nat) (s : State) :
    Sends (Missing l1 c) s (is.foldl (askMissing l1 c x base) s) ∧
    ∀ i ∈ is, tfind l1 (base + i) = none → .l1SectorFill c (base + i) 0 ∈ (is.foldl (askMissing l1 c x base) s).agenda := by
  induction is generalizing s with
  | nil => exact ⟨.refl _ s, by simp⟩
  | cons i is ih =>
    obtain ⟨hsends, hrest⟩ := ih (askMissing l1 c x base s i)
    have hone : Sends (Missing l1 c) s (askMissing l1 c x base s i) ∧
        (tfind l1 (base + i) = none → .l1SectorFill c (base + i) 0 ∈ (askMissing l1 c x base s i).agenda) := by
      unfold askMissing
      split
      next h => exact ⟨.refl _ s, fun e => by rw [e] at h; cases h⟩
      next h =>
        have hf := sends_askFill (c := c) (Option.not_isSome_iff_eq_none.1 h) s x
        exact ⟨hf.1, fun _ => hf.2⟩
    refine ⟨hone.1.trans hsends, fun j hj hf => ?_⟩
    obtain rfl | hj := List.mem_cons.1 hj
    · exact hsends.agenda_subset (hone.2 hf)
    · exact hrest j hj hf

/-! ## What a prefetch asks for -/

theorem prefGo_llc (s : State) {a : Nat} (hg : isGddr a = true) :
    prefGo 2 s (.ok false [⟨a, a, 0, 1⟩]) = s.send (.llcFill (a / 1024) 0 s.me.cclass.toNat s.me.rescls.toNat) := by
  simp [prefGo, hg]

theorem prefGo_no_l1 {s : State} {hint : Reg} (h2 : hint ≠ 2) (hl : s.myCore.hasL1 = false) (a : Nat) :
    prefGo hint s (.ok false [⟨a, a, 0, 1⟩]) = s := by
  simp only [prefGo, h2, hl, Bool.false_eq_true, if_false, ite_self]

theorem prefGo_l1 {s : State} {hint : Reg} {a : Nat} (hg : isGddr a = true) (h2 : hint ≠ 2) (hl : s.myCore.hasL1 = true) :
    prefGo hint s (.ok false [⟨a, a, 0, 1⟩]) = (List.range 4).foldl (askMissing s.myCore.l1 s.cur.1 s.cur.2 (a / 1024 * 4)) s := by
  simp only [prefGo, hg, h2, hl, Bool.not_true, Bool.false_eq_true, if_false, if_true]
  rfl

/-- The messages of a prefetch that passes its checks. -/
def PrefSends (hint : Reg) (s : State) (a : Nat) (sent : List Instr) : Prop :=
  (hint = 2 → sent = [.llcFill (a / 1024) 0 s.me.cclass.toNat s.me.rescls.toNat]) ∧
  (hint ≠ 2 → s.myCore.hasL1 = false → sent = []) ∧
  (hint ≠ 2 → s.myCore.hasL1 = true → ∀ q, q / 4 = a / 1024 →
    (tfind s.myCore.l1 q = none → .l1SectorFill s.cur.1 q 0 ∈ s.agenda ++ sent) ∧
    ((tfind s.myCore.l1 q).isSome = true → .l1SectorFill s.cur.1 q 0 ∉ sent))

theorem prefGo_sends (hint : Reg) (s : State) {a : Nat} (hg : isGddr a = true) :
    ∃ sent, prefGo hint s (.ok false [⟨a, a, 0, 1⟩]) = s.sendAll sent ∧ PrefSends hint s a sent := by
  by_cases h2 : hint = 2
  · subst h2
    exact ⟨_, prefGo_llc s hg, fun _ => rfl, fun h => absurd rfl h, fun h => absurd rfl h⟩
  cases hl : s.myCore.hasL1 with
  | false =>
    exact ⟨[], by rw [prefGo_no_l1 h2 hl]; simp [State.sendAll], fun h => absurd h h2, fun _ _ => rfl,
      fun _ h => absurd (hl.symm.trans h) (by decide)⟩
  | true =>
    obtain ⟨⟨sent, hsent, hmissing⟩, hfills⟩ := sends_askMissing s.myCore.l1 s.cur.1 s.cur.2 (a / 1024 * 4) (List.range 4) s
    refine ⟨sent, (prefGo_l1 hg h2 hl).trans hsent, fun h => absurd h h2, fun _ h => absurd (hl.symm.trans h) (by decide),
      fun _ _ q hq => ⟨fun hn => ?_, fun hs hm => ?_⟩⟩
    · have hi : a / 1024 * 4 + q % 4 = q := by omega
      have h := hfills (q % 4) (List.mem_range.2 (Nat.mod_lt _ (by decide)))
      rw [hi, hsent] at h
      exact h hn
    · exact hmissing _ hm q hs rfl

/-- Settles O6: a prefetch is `prefGo` behind the checks of R112, and `prefGo` adds messages to the agenda alone. -/
theorem prefetchesAskForFills : Obligations.PrefetchesAskForFills := by
  intro s hint rb disp lit claim
  have key {i : Instr} {e : Word} {m : Nat} (hx : exec i s = prefAt i hint e.toNat s) (hi : byteLen i = m) : claim i e m := by
    subst hi
    refine ⟨fun h => becomes_setMe (hx.trans (prefAt_window i hint s h)), fun ho hp _ => ?_⟩
    have hg : isGddr e.toNat = true := isGddr_of (by have := ho.2.1; omega)
    obtain ⟨sent, hsent, hllc, hnone, hl1⟩ := prefGo_sends hint s hg
    refine ⟨_, sent, hx.trans (ho.prefAt hp i hint), ?_, ?_, ?_, hllc, hnone, ?_⟩
    · rw [hsent]; rfl
    · rw [hsent]; exact onlyCtx_setMe s _
    · rw [hsent, State.pass, State.ctx_setMe, if_pos ⟨rfl, rfl⟩]; rfl
    · rw [hsent]; exact hl1
  exact ⟨key (exec_pref hint rb disp s) rfl, key (exec_prefLit hint rb lit s) rfl⟩

end Sys2Proof.Machine

/-! # System instructions (R125, R127-R130) -/

namespace Sys2Proof.Machine

open Sys2Proof

theorem exec_nop (s : State) : exec .nop s = .next (s.pass .nop) := rfl
theorem exec_trap (code : BitVec 12) (s : State) : exec (.trap code) s = .next (s.trap (cause 0x0D (code.setWidth 64))) := rfl
theorem exec_brk (s : State) :
    exec .brk s = .next (if s.myCore.dbg.ctl.getLsbD 8 then s.stopFor 2 0 else s.trap (cause 0x03 s.me.pc)) := rfl
theorem exec_halt (s : State) : exec .halt s = .next (if s.cur.2 ≠ 0 then s.ill .halt 6 else s.hold .halt) := rfl
theorem exec_rand (rd : Reg) (s : State) : exec (.rand rd) s = execRand rd s := rfl
theorem exec_randEntropyReady (c x : Nat) (s : State) : exec (.randEntropyReady c x) s = execRandEntropyReady c x s := rfl
theorem exec_haltComplete (c : Nat) (s : State) : exec (.haltComplete c) s = execHaltComplete c s := rfl

/-! ## BRK under BRKSTOP (R127, R415) -/

/-- A core that runs, or steps, begins to stop. -/
theorem Core.stop_of_runs {k : Core} (h : k.run = .running ∨ ∃ x o, k.run = .stepping x o) (why x wp : Nat) :
    k.stop why x wp = { k with run := .stopping why x wp } := by
  obtain h | ⟨y, o, h⟩ := h <;> simp only [Core.stop, h]

theorem setsCore_stopFor {i : Instr} {s : State} {why wp : Nat} (hx : exec i s = .next (s.stopFor why wp))
    (h : s.myCore.run = .running ∨ ∃ x o, s.myCore.run = .stepping x o) :
    SetsCore i s s.cur.1 { s.myCore.shell with run := .stopping why s.cur.2 wp } s.cur.2 s.me := by
  have hk : (s.myCore.stop why s.cur.2 wp).shell = { s.myCore.shell with run := .stopping why s.cur.2 wp } := by
    rw [Core.stop_of_runs h]; rfl
  rw [← hk]
  have hctxs : (s.myCore.stop why s.cur.2 wp).ctxs = s.myCore.ctxs := Core.stop_ctxs ..
  refine ⟨_, hx, rfl, ?_, ctx_setCore_of_ctxs hctxs _ _, fun y _ => ctx_setCore_of_ctxs hctxs _ y, fun d hd => ?_⟩
  · exact congrArg Core.shell ((State.core_setCore ..).trans (if_pos rfl))
  · exact (State.core_setCore ..).trans (if_neg hd)

/-! ## RAND (R130) -/

/-- A core whose source has given its bits: whether it still holds 64 is free. -/
def drawnCore (s : State) (c : Nat) : Core := { s.core c with entropy := s.pick % 2 == 0 }

def drawn (s : State) (c : Nat) : State := s.used.setCore c (drawnCore s c)

theorem drawn_ctx (s : State) (c d y : Nat) : (drawn s c).ctx d y = s.ctx d y := ctx_setCore_of_ctxs (s := s.used) (k := drawnCore s c) rfl d y

theorem drawn_core (s : State) (c : Nat) : (drawn s c).core c = drawnCore s c := (State.core_setCore ..).trans (if_pos rfl)

/-- Outside a replay log a draw gives the source's own value. -/
theorem Unlogged.randTake {s : State} {c : Nat} (h : Unlogged s c) (x : Nat) : randTake s c x = (Config.entropy s.draws, drawn s c) := by
  have hu : Unlogged (drawn s c) c := h.of_eq rfl (by rw [drawn_core]; rfl)
  exact hu.input x 3 _

theorem execRand_empty {s : State} (h : Unlogged s s.cur.1) (he : s.myCore.entropy = false) (rd : Reg) :
    execRand rd s = .next (s.hold (.rand rd)) := by
  simp [execRand, h.replayFull, he]

theorem execRand_full {s : State} (h : Unlogged s s.cur.1) (he : s.myCore.entropy = true) (rd : Reg) :
    execRand rd s = .next ((drawn s s.cur.1).ret (.rand rd) rd (Config.entropy s.draws)) := by
  simp [execRand, h.replayFull, he, h.randTake]

theorem systemInstructions : SystemInstructions := by
  intro s code rd k
  refine ⟨becomes_setMe (exec_nop s), ?_, fun h => ?_, fun h hr => setsCore_stopFor ?_ hr, fun h => becomes_setMe ?_, fun h => ?_,
    fun hu he => becomes_setMe ?_, fun hu he => ?_⟩
  · rw [Traps, exec_trap, BitVec.ofNat_toNat]
  · rw [Traps, exec_brk, h]; rfl
  · rw [exec_brk, h]; rfl
  · rw [exec_halt, if_neg (not_not.2 h)]; rfl
  · rw [Traps, exec_halt, if_pos h]; rfl
  · rw [exec_rand, execRand_empty hu he]; rfl
  · have hme : (drawn s s.cur.1).me = s.me := drawn_ctx ..
    refine ⟨_, s.pick % 2 == 0, (exec_rand rd s).trans (execRand_full hu he rd), rfl, rfl, ?_, ?_, fun d y h => ?_⟩
    · rw [State.ret, State.core_setMe]
      exact congrArg Core.shell ((if_pos rfl).trans (congrArg (Core.setCtx · s.cur.2 _) (drawn_core s s.cur.1)))
    · rw [State.ret, State.ctx_setMe, if_pos ⟨rfl, rfl⟩, hme]; rfl
    · rw [State.ret, State.ctx_setMe, if_neg, drawn_ctx]
      rintro ⟨rfl, rfl⟩
      exact h.elim (· rfl) (· rfl)

/-! ## The ends of the waits (R129, R130) -/

theorem haltDone_of {s : State} {c : Nat} (hr : (s.core c).run = .running) (hl : (s.ctx c 0).live = true) (hw : (s.ctx c 0).wait = .halt)
    (hh : ∀ e ∈ (s.core c).ctxs, e.1 ≠ 0 → e.2.live = false) (hq : (s.core c).wide.queue = []) : haltDone s c = true := by
  have hl' : ((s.core c).ctx 0).live = true := hl
  have hw' : ((s.core c).ctx 0).wait = .halt := hw
  have hno : ((s.core c).ctxs.any fun e => e.1 != 0 && e.2.live) = false := by
    rw [List.any_eq_false]
    intro e he hb
    rw [Bool.and_eq_true, bne_iff_ne] at hb
    rw [hh e he hb.1] at hb
    exact Bool.false_ne_true hb.2
  simp [haltDone, hr, hl', hw', hno, hq]

/-- A workgroup with another core that has not ended goes on. -/
theorem lastCore_eq_false {w : Wg} {c : Nat} (h : ∃ d ∈ w.cores, d ≠ c ∧ d ∉ w.ended) : lastCore w c = false := by
  obtain ⟨d, hd, hne, hnot⟩ := h
  rw [lastCore, List.all_eq_false]
  exact ⟨d, hd, by simp [hne, hnot]⟩

theorem execRandEntropyReady_rand {s : State} {c x : Nat} {rd : Reg} (hw : (s.ctx c x).wait = .rand rd) (h : Unlogged s c) :
    execRandEntropyReady c x s = .next ((drawn s c).updCtx c x fun k => { advance (xwrite k rd (Config.entropy s.draws)) 4 with wait := .none }) := by
  simp only [execRandEntropyReady, hw, h.randTake]

theorem waitsOfSystemInstructionsEnd : WaitsOfSystemInstructionsEnd := by
  intro s c x n w rd k ended
  refine ⟨fun hr hl hw hh hq => ?_, fun hw hu => ?_⟩
  · have hdone := haltDone_of hr hl hw hh hq
    refine ⟨fun hn => ?_, fun hn hlast => ?_⟩
    · rw [exec_haltComplete, execHaltComplete, hdone, hn]; rfl
    · have hl := lastCore_eq_false hlast
      rw [exec_haltComplete, execHaltComplete, hdone, hn]
      simp only [hl]
      rfl
  · refine ⟨_, (exec_randEntropyReady c x s).trans (execRandEntropyReady_rand hw hu), rfl, ?_, fun d y h => ?_⟩
    · rw [State.ctx_updCtx, if_pos ⟨rfl, rfl⟩, drawn_ctx]
    · rw [State.ctx_updCtx, if_neg, drawn_ctx]
      rintro ⟨rfl, rfl⟩
      exact h.elim (· rfl) (· rfl)

/-- Settles O15: each instruction by its case; a draw outside a log is the source's own value. -/
theorem systemInstructionsAct : Obligations.SystemInstructionsAct := ⟨systemInstructions, waitsOfSystemInstructionsEnd⟩

end Sys2Proof.Machine

/-! # Floating-point selection, comparison, conversion and classes (R116, R118-R120) -/

namespace Sys2Proof.Machine

open Sys2Proof

/-- The code of an operand, read in the width of its format (R54). -/
theorem fcode_eq (d : BitVec 1) (w : Word) : fcode d w = w.toNat % 2 ^ (fmtD d).width := by
  rw [fcode, fmtD_width]
  split
  · rw [Nat.mod_eq_of_lt w.isLt]
  · rfl

/-! ## FMIN to FMAXM (R116) -/

theorem givesF_fselect {i : Instr} {s : State} {rd rs1 rs2 : Reg} {d : BitVec 1} {op : Nat} {v : Nat} {f : FFlags}
    (h : exec i s = fselect i rd rs1 rs2 d op s) (hn : byteLen i = 4)
    (hv : selectCode (fmtD d) op ((xread s.me rs1).toNat % 2 ^ (fmtD d).width) ((xread s.me rs2).toNat % 2 ^ (fmtD d).width) = (v, f)) :
    GivesF i s rd (BitVec.ofNat 64 v) f 4 := by
  refine givesF_retF (j := i) ?_ hn
  rw [h, fselect, fcode_eq, fcode_eq, hv]

theorem belowVal_iff (a b : Val) : belowVal a b = true ↔ ltVal a b ∨ (eqVal a b ∧ signOf a ∧ ¬signOf b) := by
  simp [belowVal, and_assoc]

theorem eqVal_comm (a b : Val) : eqVal a b = eqVal b a := by
  rw [eqVal, eqVal, Bool.and_comm (!isNan a), Bool.and_right_comm]

/-- What a selection picks of two numbers: the lower operand, or the higher one. -/
def picked (F : Fmt) (least : Bool) (x y : Nat) : Nat :=
  if least then (if belowVal (decodeCode F y) (decodeCode F x) then y else x)
  else (if belowVal (decodeCode F x) (decodeCode F y) then y else x)

/-- FMIN and FMAX give the other operand of a single NaN. -/
theorem selectCode_number {F : Fmt} {op : Nat} (least : Bool) (h : op = if least then 5 else 6) (x y : Nat) : selectCode F op x y =
    (if isNan (decodeCode F x) ∧ isNan (decodeCode F y) then F.nanCode else if isNan (decodeCode F x) then y
      else if isNan (decodeCode F y) then x else picked F least x y,
    if isSnan (decodeCode F x) ∨ isSnan (decodeCode F y) then 16 else 0) := by
  subst h
  cases least <;> cases ha : isNan (decodeCode F x) <;> cases hb : isNan (decodeCode F y) <;> simp [selectCode, picked, ha, hb, nv]

/-- FMINM and FMAXM give the canonical NaN of any NaN. -/
theorem selectCode_propagate {F : Fmt} {op : Nat} (least : Bool) (h : op = if least then 7 else 8) (x y : Nat) : selectCode F op x y =
    (if isNan (decodeCode F x) ∨ isNan (decodeCode F y) then F.nanCode else picked F least x y,
    if isSnan (decodeCode F x) ∨ isSnan (decodeCode F y) then 16 else 0) := by
  subst h
  cases least <;> simp [selectCode, picked, nv] <;> split <;> rfl

/-! ## FCMP (R118) -/

theorem exec_fcmp (d : BitVec 1) (cond : BitVec 3) (rd rs1 rs2 : Reg) (s : State) :
    exec (.fcmp d cond rd rs1 rs2) s = execFcmp d cond rd rs1 rs2 s := rfl

/-- A NaN is neither below nor equal to anything. -/
theorem ltVal_of_nan {a b : Val} (h : isNan a = true ∨ isNan b = true) : ltVal a b = false := by
  cases a <;> cases b <;> simp_all [isNan, ltVal]

theorem eqVal_of_nan {a b : Val} (h : isNan a = true ∨ isNan b = true) : eqVal a b = false := by
  obtain h | h := h <;> simp [eqVal, h]

theorem fcmpCode_eq {F : Fmt} {cond : BitVec 3} (hc : cond.toNat ≤ 3) (x y : Nat) :
    let a := decodeCode F x
    let b := decodeCode F y
    let un := isNan a = true ∨ isNan b = true
    fcmpCode F cond.toNat x y = (decide ((cond = 0 ∧ eqVal a b) ∨ (cond = 1 ∧ ltVal a b) ∨ (cond = 2 ∧ (ltVal a b ∨ eqVal a b)) ∨ (cond = 3 ∧ un)),
      if (cond = 1 ∨ cond = 2) ∧ un then 16 else if isSnan a ∨ isSnan b then 16 else 0) := by
  intro a b un
  have hcond : cond = 0 ∨ cond = 1 ∨ cond = 2 ∨ cond = 3 :=
    (by decide : ∀ c : BitVec 3, c.toNat ≤ 3 → c = 0 ∨ c = 1 ∨ c = 2 ∨ c = 3) cond hc
  have hun : (isNan a || isNan b) = decide un := by simp [un]
  by_cases h : un
  · have hlt := ltVal_of_nan h
    have heq := eqVal_of_nan h
    obtain rfl | rfl | rfl | rfl := hcond <;> simp [fcmpCode, a, b, hun, h, hlt, heq, nv]
  · obtain rfl | rfl | rfl | rfl := hcond <;> simp [fcmpCode, a, b, hun, h, nv]

theorem floatSelectionAndComparison : FloatSelectionAndComparison := by
  intro s rd rs1 rs2 d cond f x y a b nanA nanB low high snan number propagate w holds invalid
  have hlow : picked f true x y = low := by
    simp only [picked, if_true, belowVal_iff, eqVal_comm (decodeCode f y)]; rfl
  have hhigh : picked f false x y = high := by
    simp only [picked, Bool.false_eq_true, if_false, belowVal_iff]; rfl
  refine ⟨givesF_fselect rfl rfl ?_, givesF_fselect rfl rfl ?_, givesF_fselect rfl rfl ?_, givesF_fselect rfl rfl ?_, fun hc => ?_⟩
  · rw [← hlow]; exact selectCode_number true rfl x y
  · rw [← hhigh]; exact selectCode_number false rfl x y
  · rw [← hlow]; exact selectCode_propagate true rfl x y
  · rw [← hhigh]; exact selectCode_propagate false rfl x y
  · refine givesF_retF (j := .fcmp d cond rd rs1 rs2) ?_ rfl
    rw [exec_fcmp, execFcmp, fcode_eq, fcode_eq, fcmpCode_eq hc]
    simp only [decide_eq_true_eq]
    rfl

/-! ## FCVT (R119) -/

theorem exec_fcvt (rd rs1 : Reg) (tk fk rm : BitVec 3) (s : State) : exec (.fcvt rd rs1 tk fk rm) s = execFcvt rd rs1 tk fk rm s := rfl

theorem kindFmt_eq {k : BitVec 3} (h : k.toNat ≤ 5) : kindFmt k = [fp32, fp64, int32, uint32, int64, uint64].getD k.toNat fp32 := by
  unfold kindFmt
  generalize k.toNat = n at h
  interval_cases n <;> rfl

/-- A result that is rounded into W lies within 32 bits. -/
theorem roundVal_int32 (m : Rm) (v : Val) : ∃ neg n, (roundVal int32 m v).1 = .fin neg n 1 0 ∧ n < 2 ^ 32 := by
  cases v with
  | nan q => exact ⟨false, 0, rfl, by decide⟩
  | inf neg => cases neg <;> exact ⟨_, _, rfl, by decide⟩
  | fin neg num den e =>
    have hlim : (if neg then int32.minMag else int32.maxInt) < 2 ^ 32 := by cases neg <;> decide
    show ∃ neg' n, (roundInt int32 m neg num den e).1 = .fin neg' n 1 0 ∧ n < 2 ^ 32
    unfold roundInt
    dsimp only
    generalize (if neg then int32.minMag else int32.maxInt) = lim at hlim ⊢
    split
    · exact ⟨_, _, rfl, hlim⟩
    · exact ⟨_, _, rfl, by omega⟩

theorem roundCode_int32_lt (m : Rm) (v : Val) : (roundCode int32 m false v).1 < 2 ^ 32 := by
  obtain ⟨neg, n, hv, hn⟩ := roundVal_int32 m v
  show encodeVal int32 (roundVal int32 m v).1 < 2 ^ 32
  rw [hv]
  simp only [encodeVal, show int32.isInt = true from rfl, show int32.twos = true from rfl, show int32.m = 31 from rfl, quot_one_self, if_true]
  split
  · exact hn
  next h =>
    simp at h
    omega

/-- R119: a W result is sign-extended. -/
theorem kindWord_w {c : Nat} (h : c < 2 ^ 32) : kindWord 2 c = BitVec.ofInt 64 (if c < 2 ^ 31 then (c : Int) else c - 2 ^ 32) := by
  show BitVec.ofInt 64 (BitVec.ofNat 32 c).toInt = _
  rw [BitVec.toInt_eq_toNat_cond, BitVec.toNat_ofNat, Nat.mod_eq_of_lt h]
  congr 1
  split <;> split <;> omega

/-! ## FCLASS (R120) -/

theorem exec_fclass (rd rs1 : Reg) (d : BitVec 1) (s : State) : exec (.fclass rd rs1 d) s =
    .next (s.ret (.fclass rd rs1 d) rd (BitVec.ofNat 64 (fclassCode (fmtD d) (fcode d (xread s.me rs1))))) := rfl

/-- A value is an integer where its quantum divides it. -/
theorem quot_rest_eq_false_iff (num : Nat) (e : Int) : (quot num 1 e 0).2.1 = false ↔ 2 ^ (-e).toNat ∣ num := by
  have h : (quot num 1 e 0).2.1 = false ↔ 2 ^ (-e).toNat ∣ num * 2 ^ e.toNat := by
    simp [quot, Nat.dvd_iff_mod_eq_zero]
  rw [h]
  obtain he | he := Int.le_total 0 e
  · rw [Int.toNat_of_nonpos (show -e ≤ 0 by omega)]; simp
  · rw [Int.toNat_of_nonpos he, pow_zero, mul_one]

theorem log2_pow_iff (num : Nat) : (num ≠ 0 ∧ 2 ^ num.log2 = num) ↔ ∃ j, num = 2 ^ j := by
  constructor
  · exact fun ⟨_, h⟩ => ⟨num.log2, h.symm⟩
  · rintro ⟨j, rfl⟩
    exact ⟨by positivity, by rw [Nat.log2_two_pow]⟩

/-- Zero, subnormal or normal, of a finite value with a code. -/
def finiteClass (F : Fmt) (x num : Nat) : Nat := if num = 0 then 1 else if x / 2 ^ F.m % 2 ^ F.e = 0 then 2 else 3

theorem finiteClass_lt (F : Fmt) (x num : Nat) : finiteClass F x num < 4 := by
  unfold finiteClass; split_ifs <;> decide

section
variable {F : Fmt} {x : Nat} (hx : x < 2 ^ (F.m + F.e + 1))
include hx

/-- Bit 7 of a class is the sign bit. -/
theorem signClass_eq : (if nbit x (F.m + F.e) then 128 else 0) = 128 * (x / 2 ^ (F.m + F.e)) := by
  have h2 : x / 2 ^ (F.m + F.e) < 2 := Nat.div_lt_of_lt_mul (by rwa [← pow_succ])
  rw [nbit]
  interval_cases x / 2 ^ (F.m + F.e) <;> rfl

theorem fclassCode_nan {q : Bool} (h : decodeCode F x = .nan q) : fclassCode F x = 128 * (x / 2 ^ (F.m + F.e)) + if q then 6 else 5 := by
  rw [fclassCode, h, signClass_eq hx]

theorem fclassCode_inf {q : Bool} (h : decodeCode F x = .inf q) : fclassCode F x = 128 * (x / 2 ^ (F.m + F.e)) + 4 := by
  rw [fclassCode, h, signClass_eq hx]

theorem fclassCode_fin {q : Bool} {num den : Nat} {e : Int} (h : decodeCode F x = .fin q num den e) :
    ∃ i p, fclassCode F x = 128 * (x / 2 ^ (F.m + F.e)) + 64 * i + 32 * p + finiteClass F x num ∧
      i < 2 ∧ p < 2 ∧ (i = 1 ↔ 2 ^ (-e).toNat ∣ num) ∧ (p = 1 ↔ ∃ j, num = 2 ^ j) := by
  refine ⟨if (quot num 1 e 0).2.1 then 0 else 1, if num ≠ 0 ∧ 2 ^ num.log2 = num then 1 else 0, ?_, ?_, ?_, ?_, ?_⟩
  · rw [fclassCode, h, signClass_eq hx]
    simp only [mul_ite, mul_one, mul_zero]
    rfl
  · split <;> decide
  · split <;> decide
  · rw [← quot_rest_eq_false_iff]
    cases (quot num 1 e 0).2.1 <;> simp
  · rw [← log2_pow_iff]
    split <;> simp_all

/-- The low bits of a class say what the value is. -/
theorem fclassCode_bounds : ∃ k < 128, fclassCode F x = 128 * (x / 2 ^ (F.m + F.e)) + k := by
  cases h : decodeCode F x with
  | nan q => exact ⟨_, by split <;> decide, fclassCode_nan hx h⟩
  | inf q => exact ⟨_, by decide, fclassCode_inf hx h⟩
  | fin q num den e =>
    obtain ⟨i, p, hc, hi, hp, -⟩ := fclassCode_fin hx h
    have ht := finiteClass_lt F x num
    exact ⟨64 * i + 32 * p + finiteClass F x num, by omega, by rw [hc, Nat.add_assoc, Nat.add_assoc, Nat.add_assoc]⟩

end

theorem floatConversionAndClass : FloatConversionAndClass := by
  intro s rd rs1 tk fk rm d kind x r f c
  refine ⟨fun ht hf _ _ => ?_, fclassCode f c, gives_ret (j := .fclass rd rs1 d) (by rw [exec_fclass, fcode_eq]; rfl) rfl, ?_⟩
  · refine givesF_retF (j := .fcvt rd rs1 tk fk rm) ?_ rfl
    have hk : kindWord tk r.1 =
        if tk = 2 then BitVec.ofInt 64 (if r.1 < 2 ^ 31 then (r.1 : Int) else r.1 - 2 ^ 32) else BitVec.ofNat 64 r.1 := by
      by_cases h2 : tk = 2
      · subst h2
        exact (kindWord_w (roundCode_int32_lt ..)).trans (if_pos rfl).symm
      · rw [kindWord, if_neg h2, if_neg h2]
    rw [exec_fcvt, execFcvt, kindFmt_eq ht, kindFmt_eq hf, ← hk]
    rfl
  · have hw : f.width = f.m + f.e + 1 := by
      rw [show f = if d = 1 then fp64 else fp32 from rfl]
      split <;> rfl
    have hc : c < 2 ^ (f.m + f.e + 1) := hw ▸ Nat.mod_lt _ (by positivity)
    have hs : c / 2 ^ (f.m + f.e) < 2 := Nat.div_lt_of_lt_mul (by rwa [← pow_succ])
    obtain ⟨k, hk, hcode⟩ := fclassCode_bounds hc
    refine ⟨by omega, by omega, fun q h => ?_, fun q h => ?_, fun q num den e h => ?_⟩
    · rw [fclassCode_nan hc h]; split <;> omega
    · rw [fclassCode_inf hc h]; omega
    · obtain ⟨i, p, hcode, hi, hp, hint, hpow⟩ := fclassCode_fin hc h
      have ht := finiteClass_lt f c num
      show fclassCode f c % 16 = finiteClass f c num ∧ _
      rw [← hint, ← hpow]
      omega

/-- Settles O18: `selectCode`, `fcmpCode` and `fclassCode` in the words of R116, R118 and R120, and an FCVT rounded once, whose W result is a
32-bit code. -/
theorem floatSelectionAndConversion : Obligations.FloatSelectionAndConversion := ⟨floatSelectionAndComparison, floatConversionAndClass⟩

end Sys2Proof.Machine

/-! # Data that comes back, and the host's completions (R96, R114, R308, R459, R464) -/

namespace Sys2Proof.Machine

open Sys2Proof

theorem exec_loadDataReturn (c x : Nat) (data : List Byte) (s : State) : exec (.loadDataReturn c x data) s =
    .next (onHolder c x (fun t => dataReturn t c (x % 16) data) s) := rfl
theorem exec_hostWindowCompletion (c x : Nat) (st : HostStatus) (s : State) : exec (.hostWindowCompletion c x st) s =
    .next (onHolder c x (hostAnswer c (x % 16) st) s) := rfl
theorem exec_hostLoadTimeout (c x : Nat) (s : State) : exec (.hostLoadTimeout c x) s =
    .next (onHolder c x (hostAnswer c (x % 16) .timeout) s) := rfl
theorem exec_postedWriteErrorMessage (s : State) : exec .postedWriteErrorMessage s = .next (countHost s 4) := rfl

/-! ## Answers that are written on the core (R96, R401) -/

/-- An answer to a context whose records stand on its core is written there. -/
theorem onHolder_asker {s : State} {c x : Nat} {f : State → State} (hi : ((f s).core c).image = none) :
    onHolder c (s.asker c x) f s = f s :=
  onHolder_of_here (isHere_asker s c x) hi

theorem loadDataReturn_here {s : State} {c x : Nat} (h : OnItsCore s c x) {data : List Byte} {t : State} (ht : dataReturn s c x data = t)
    (hi : (t.core c).image = none) : exec (.loadDataReturn c (s.asker c x) data) s = .next t := by
  obtain ⟨-, hx, -⟩ := h
  rw [exec_loadDataReturn, asker_mod s c hx, onHolder_asker (by rw [ht]; exact hi), ht]

theorem OnItsCore.image {s : State} {c x : Nat} (h : OnItsCore s c x) : (s.core c).image = none := by
  obtain ⟨-, -, hi⟩ := h
  exact hi

theorem OnItsCore.updCtx_image {s : State} {c x : Nat} (h : OnItsCore s c x) (f : Ctx → Ctx) : ((s.updCtx c x f).core c).image = none :=
  (core_updCtx_field Core.image (fun _ _ _ => rfl) ..).trans h.image

theorem dataReturn_stale {s : State} {c x : Nat} (h : (s.ctx c x).stale = true) (data : List Byte) : dataReturn s c x data =
    s.updCtx c x fun k => { k with stale := false, wait := if k.wait = .stale then .none else k.wait } :=
  if_pos h

section
variable {s : State} {c x : Nat} (hs : (s.ctx c x).stale = false)
include hs

theorem dataReturn_data {ea n : Nat} (hw : (s.ctx c x).wait = .data ea n) (data : List Byte) : dataReturn s c x data =
    s.updCtx c x fun k => { k with rdata := some (k.rdata.getD [] ++ data), wait := .none } := by
  simp [dataReturn, hs, hw]

theorem dataReturn_request {n : Nat} (hw : (s.ctx c x).wait = .request n) (data : List Byte) : dataReturn s c x data =
    s.updCtx c x fun k => { k with recd := some data, wait := .none } := by
  simp [dataReturn, hs, hw]

theorem dataReturn_fetch {pa key : Nat} (hw : (s.ctx c x).wait = .fetch pa key) (data : List Byte) : dataReturn s c x data =
    s.updCtx c x fun k => { k with fetched := tput k.fetched pa (wordOfBytes (data.take 4)), wait := .none } := by
  simp [dataReturn, hs, hw]

theorem dataReturn_amo {rt : Reg} {n ea : Nat} (hw : (s.ctx c x).wait = .amo rt n ea) (data : List Byte) : dataReturn s c x data =
    s.updCtx c x fun k => { advance (amoWrite k rt n (natOfBytes data)) 4 with wait := .none } := by
  simp [dataReturn, hs, hw]

theorem dataReturn_none (hw : (s.ctx c x).wait = .none) (data : List Byte) : dataReturn s c x data = s := by
  simp [dataReturn, hs, hw]

end

theorem amoWrite_single {n : Nat} (h : n ≠ 16) (k : Ctx) (rt : Reg) (v : Nat) : amoWrite k rt n v = xwrite k rt (BitVec.ofNat 64 v) := if_neg h

theorem amoWrite_pair (k : Ctx) (rt : Reg) (v : Nat) : amoWrite k rt 16 v =
    xwrite (xwrite k rt (BitVec.ofNat 64 v)) (rt + 1) (BitVec.ofNat 64 (v / 2 ^ 64)) := rfl

theorem dataReturnsToItsContext : DataReturnsToItsContext := by
  intro s c x n ea pa key rt data k v becomes hc
  have hbecomes {g : Ctx → Ctx} (h : dataReturn s c x data = s.updCtx c x g) : becomes (g k) :=
    ⟨_, loadDataReturn_here hc h (hc.updCtx_image g), onlyCtx_setCtx .., (State.ctx_updCtx ..).trans (if_pos ⟨rfl, rfl⟩)⟩
  refine ⟨fun hs => ⟨fun hw => hbecomes (dataReturn_data hs hw data), fun hw => hbecomes (dataReturn_request hs hw data),
    fun hw => hbecomes (dataReturn_fetch hs hw data), fun hw hn => ?_, fun hw hn => ?_,
    fun hw => loadDataReturn_here hc (dataReturn_none hs hw data) hc.image⟩, fun hs => hbecomes (dataReturn_stale hs data)⟩
  · rw [← amoWrite_single hn]
    exact hbecomes (dataReturn_amo hs hw data)
  · rw [← amoWrite_pair, ← hn]
    exact hbecomes (dataReturn_amo hs hw data)

/-! ## Data at the log (R435) -/

theorem natOfBytes_lt (bs : List Byte) : natOfBytes bs < 256 ^ bs.length := by
  induction bs with
  | nil => exact Nat.one_pos
  | cons b bs ih =>
    rw [natOfBytes, List.length_cons, pow_succ]
    omega

/-- A run of bytes is what its number holds. -/
theorem take_bytesOfNat_natOfBytes {bs : List Byte} {n : Nat} (h : bs.length ≤ n) : (bytesOfNat n (natOfBytes bs)).take bs.length = bs := by
  induction bs generalizing n with
  | nil => rfl
  | cons b bs ih =>
    obtain ⟨n, rfl⟩ : ∃ m, n = m + 1 := ⟨n - 1, by rw [List.length_cons] at h; omega⟩
    have hb : (b.toNat + 256 * natOfBytes bs) % 256 = b.toNat := by omega
    have hr : (b.toNat + 256 * natOfBytes bs) / 256 = natOfBytes bs := by omega
    rw [natOfBytes, bytesOfNat, List.length_cons, List.take_succ_cons, hb, hr, ih (Nat.le_of_succ_le_succ h), BitVec.ofNat_toNat,
      BitVec.setWidth_eq]

/-- A doubleword of the log holds the bytes that it was made of. -/
theorem doubleword_bytes (bs : List Byte) : (bytesOfNat 8 (wordOf (bs.take 8)).toNat).take (min 8 bs.length) = bs.take 8 := by
  have hl : (bs.take 8).length = min 8 bs.length := List.length_take
  have hlt : natOfBytes (bs.take 8) < 2 ^ 64 :=
    (natOfBytes_lt _).trans_le ((Nat.pow_le_pow_right (by decide) (hl.trans_le (Nat.min_le_left ..))).trans_eq (by norm_num))
  rw [wordOf, BitVec.toNat_ofNat, Nat.mod_eq_of_lt hlt, ← hl]
  exact take_bytesOfNat_natOfBytes (hl.trans_le (Nat.min_le_left ..))

theorem Unlogged.logData {s : State} {c : Nat} (h : Unlogged s c) (x f : Nat) {bs : List Byte} (hf : bs.length ≤ f) :
    logData s c x f bs = (bs, s) := by
  induction f generalizing bs with
  | zero => rfl
  | succ f ih =>
    cases bs with
    | nil => rfl
    | cons b bs =>
      have hd : ((b :: bs).drop 8).length ≤ f := by
        rw [List.length_drop]; rw [List.length_cons] at hf ⊢; omega
      simp only [Machine.logData, List.isEmpty_cons, Bool.false_eq_true, if_false, h.logInput, ih hd, doubleword_bytes,
        List.take_append_drop]

theorem Unlogged.dataInput {s : State} {c : Nat} (h : Unlogged s c) (x a : Nat) (bs : List Byte) : dataInput s c x a bs = (bs, s) := by
  simp [Machine.dataInput, h.logData x (bs.length + 1) (Nat.le_succ _), h.records]

/-! ## Completions of the host port (R459) -/

theorem hostValue_data {s : State} {c x ea n : Nat} (hs : (s.ctx c x).stale = false) (hw : (s.ctx c x).wait = .data ea n)
    (hu : Unlogged s c) (bs : List Byte) : hostValue s c x bs =
    s.updCtx c x fun k => { k with rdata := some (k.rdata.getD [] ++ bs), wait := .none } := by
  simp only [hostValue, hs, Bool.false_eq_true, if_false, hu.dataInput]
  exact dataReturn_data hs hw bs

theorem hostOnes_data {s : State} {c x ea n : Nat} (hs : (s.ctx c x).stale = false) (hf : (s.ctx c x).flushing = false)
    (hw : (s.ctx c x).wait = .data ea n) (hu : Unlogged s c) : hostOnes s c x =
    s.updCtx c x fun k => { k with rdata := some (k.rdata.getD [] ++ List.replicate n 0xFF), wait := .none } := by
  rw [hostOnes, hf, if_neg Bool.false_ne_true, hostValue_data hs hw hu, askedBytes, hw]

theorem poisonAt_data {s : State} {c x ea n : Nat} (hs : (s.ctx c x).stale = false) (hw : (s.ctx c x).wait = .data ea n) :
    poisonAt s c x none = s.trapAt c x { cause 0x09 (BitVec.ofNat 64 ea) with access := .load } := by
  simp [poisonAt, hs, hw]

/-! ## A trap that an answer raises (R19, R459) -/

theorem core_setCore_field {α : Type} (g : Core → α) {s : State} {c : Nat} {k : Core} (h : g k = g (s.core c)) (d : Nat) :
    g ((s.setCore c k).core d) = g (s.core d) := by
  rw [State.core_setCore]
  split
  next e => rw [e, h]
  next => rfl

theorem drainTrace_core_field {α : Type} (g : Core → α) (hg : ∀ (k : Core) e, g { k with enc := e } = g k) (s : State) (c d : Nat) :
    g ((s.drainTrace c).core d) = g (s.core d) :=
  core_setCore_field g (hg (s.core c) _) d

/-- The trace changes a core's encoder and its count of losses alone. -/
theorem traceIf_core_field {α : Type} (g : Core → α) (hg : ∀ (k : Core) e l, g { k with enc := e, lossOwed := l } = g k) (s : State)
    (c x ty arg : Nat) (ws : List Word) (d : Nat) : g ((s.traceIf c x ty arg ws).core d) = g (s.core d) := by
  have trace (r : TraceRec) : g ((s.trace c r).core d) = g (s.core d) := by
    unfold State.trace
    dsimp only
    split
    · exact core_setCore_field g (hg (s.core c) _ _) d
    · exact (drainTrace_core_field g (fun k e => hg k e k.lossOwed) ..).trans (core_setCore_field g (hg (s.core c) _ _) d)
  unfold State.traceIf
  split
  · exact trace _
  · rfl

theorem traceIf_wgs (s : State) (c x ty arg : Nat) (ws : List Word) : (s.traceIf c x ty arg ws).wgs = s.wgs := by
  unfold State.traceIf State.trace
  dsimp only
  split
  · split <;> rfl
  · rfl

/-- Outside a replay log a trap entry leaves the image of its core's partition alone. -/
theorem Unlogged.enterAt_image {s : State} {c : Nat} (hu : Unlogged s c) (x : Nat) (z : Cause) :
    ((s.enterAt c x z).core c).image = (s.core c).image := by
  have hcore : ((s.setCtx c x (enterTrap (s.core c) (s.ctx c x) z)).updCore c fun k => k.stepped x).core c =
      ((s.core c).setCtx x (enterTrap (s.core c) (s.ctx c x) z)).stepped x := by simp
  have hlog (ty arg : Nat) (ws : List Word) : Unlogged (((s.setCtx c x (enterTrap (s.core c) (s.ctx c x) z)).updCore c
      fun k => k.stepped x).traceIf c x ty arg ws) c :=
    hu.of_eq (traceIf_wgs ..) ((traceIf_core_field Core.wg (fun _ _ _ => rfl) ..).trans (by rw [hcore]; rfl))
  rw [State.enterAt, (hlog _ _ _).logTrap, traceIf_core_field Core.image (fun _ _ _ => rfl), hcore]
  rfl

theorem Unlogged.trapAt_image {s : State} {c : Nat} (hu : Unlogged s c) (x : Nat) (z : Cause) :
    ((s.trapAt c x z).core c).image = (s.core c).image := by
  rw [State.trapAt]
  split
  · exact core_updCtx_field Core.image (fun _ _ _ => rfl) ..
  · exact hu.enterAt_image x z

theorem hostCompletionsAreCounted : HostCompletionsAreCounted := by
  intro s c x n ea data k counted gives m
  refine ⟨fun hc hs hf hw hu => ?_, exec_postedWriteErrorMessage s⟩
  obtain ⟨-, hx, -⟩ := id hc
  have hm : m % 16 = x := asker_mod s c hx
  have hgives {ins : Instr} {bs : List Byte} (st : HostStatus) (r : HostRegs)
      (he : exec ins s = .next (onHolder c m (hostAnswer c (m % 16) st) s))
      (hv : hostAnswer c x st s = ({ s with hostRegs := r } : State).updCtx c x fun k =>
        { k with rdata := some (k.rdata.getD [] ++ bs), wait := .none }) : gives ins r.counts bs := by
    have hi : ((hostAnswer c x st s).core c).image = none := by
      rw [hv]; exact OnItsCore.updCtx_image (s := { s with hostRegs := r }) hc _
    refine ⟨_, he, ?_⟩
    rw [hm, onHolder_asker hi, hv]
    refine ⟨rfl, (State.ctx_updCtx ..).trans (if_pos ⟨rfl, rfl⟩), rfl, fun d y h => (State.ctx_updCtx ..).trans (if_neg ?_)⟩
    exact not_and_or.2 h
  have hcounted (i : Nat) : Unlogged (countHost s i) c := hu.of_eq rfl rfl
  have ones (i : Nat) := hostOnes_data (s := countHost s i) hs hf hw (hcounted i)
  have value : hostAnswer c x (.ok data) s = _ := (if_neg (by rw [hf]; exact Bool.false_ne_true)).trans (hostValue_data hs hw hu data)
  have poison : hostAnswer c x .poisoned s = (countHost s 0).trapAt c x { cause 0x09 (BitVec.ofNat 64 ea) with access := .load } :=
    (if_neg (by rw [hf]; exact Bool.false_ne_true)).trans (poisonAt_data (s := countHost s 0) hs hw)
  refine ⟨hgives (.ok data) s.hostRegs rfl value, hgives .unsupported { s.hostRegs with counts := counted 1 } rfl (ones 1),
    hgives .aborted { s.hostRegs with counts := counted 2 } rfl (ones 2), hgives .timeout { s.hostRegs with counts := counted 3 } rfl (ones 3), ?_⟩
  rw [exec_hostWindowCompletion, hm, onHolder_asker (by rw [poison]; exact ((hcounted 0).trapAt_image ..).trans hc.image), poison]
  rfl

/-- Settles O31: data that comes back is kept for the wait of its context, by one equation for each kind of wait; a completion of the host is such
data at a state whose count alone differs. -/
theorem answersOfMemoryAndHost : Obligations.AnswersOfMemoryAndHost := ⟨dataReturnsToItsContext, hostCompletionsAreCounted⟩

end Sys2Proof.Machine

/-! # REP: the captured body and its passes (R34, R156-R159) -/

namespace Sys2Proof.Machine

open Sys2Proof

/-! ## The capture (R156, R157) -/

theorem exec_rep (cnt : BitVec 12) (ni rowstep : BitVec 4) (ptrstep : BitVec 3) (s : State) :
    exec (.rep cnt ni rowstep ptrstep) s = execRep cnt ni rowstep ptrstep s := rfl

/-- One word of a body: its instruction, or the cause that it raises (R157). -/
def bodyWord (w : Half) : Except Cause Instr :=
  let bad (item : Nat) : Except Cause Instr := .error { cause 0x02 (w.setWidth 64) with reason := item }
  if 0x30 ≤ (fOp w).toNat ∧ (fOp w).toNat ≤ 0x35 then
    match decodeWords w 0 0 with
    | .illegal n => bad n
    | .ok i => .ok i
  else match decodeWords w 0 0 with
    | .illegal n => bad (if n ≤ 2 ∨ fLen w = 0 then n else 6)
    | .ok _ => bad 6

theorem repBody_cons (w : Half) (ws : List Half) : repBody (w :: ws) = match bodyWord w with
    | .error z => .error z
    | .ok i => match repBody ws with
      | .ok is => .ok (i :: is)
      | .error z => .error z := by
  rw [bodyWord]
  show (if _ then _ else _) = _
  generalize decodeWords w 0 0 = r
  split
  · cases r <;> rfl
  · cases r <;> rfl

/-- `ws` are the words that a context fetches from an address on, with nothing else changed. -/
def FetchesFrom (s : State) (c x : Nat) : Nat → List Half → Prop
  | _, [] => True
  | a, w :: ws => fetchFrom c x 1 (a % 2 ^ 64) [] s = .words [w] s ∧ FetchesFrom s c x (a + 4) ws

theorem fetchesFrom_of_getD {s : State} {c x : Nat} {ws : List Half} {a : Nat}
    (h : ∀ j, j < ws.length → fetchFrom c x 1 ((a + 4 * j) % 2 ^ 64) [] s = .words [ws.getD j 0] s) : FetchesFrom s c x a ws := by
  induction ws generalizing a with
  | nil => trivial
  | cons w ws ih =>
    refine ⟨h 0 (Nat.zero_lt_succ _), ih fun j hj => ?_⟩
    rw [show a + 4 + 4 * j = a + 4 * (j + 1) by omega]
    exact h (j + 1) (Nat.succ_lt_succ hj)

theorem captureBody_fetch {s : State} {c x a n : Nat} {w : Half} (h : fetchFrom c x 1 (a % 2 ^ 64) [] s = .words [w] s) (is : List Instr) :
    captureBody c x (n + 1) (a % 2 ^ 64) is s = match bodyWord w with
      | .error z => .trap z s
      | .ok i => captureBody c x n ((a + 4) % 2 ^ 64) (is ++ [i]) s := by
  rw [captureBody, h, Nat.mod_add_mod]
  dsimp only
  rw [repBody_cons]
  cases bodyWord w <;> rfl

/-- R157: the first word that is no wide instruction discards the capture, whatever would follow it. -/
theorem captureBody_bad {s : State} {c x : Nat} {ws : List Half} {a n : Nat} {is : List Instr} {z : Cause} (hf : FetchesFrom s c x a ws)
    (hn : ws.length ≤ n) (hz : repBody ws = .error z) : captureBody c x n (a % 2 ^ 64) is s = .trap z s := by
  induction ws generalizing a n is with
  | nil => cases hz
  | cons w ws ih =>
    obtain ⟨hw, hf⟩ := hf
    obtain ⟨n, rfl⟩ := Nat.exists_eq_add_of_le' hn
    rw [repBody_cons] at hz
    rw [show n + (w :: ws).length = n + ws.length + 1 from rfl, captureBody_fetch hw]
    cases hb : bodyWord w with
    | error y => rw [hb] at hz; cases hz; rfl
    | ok i =>
      rw [hb] at hz
      cases hr : repBody ws with
      | ok is => rw [hr] at hz; cases hz
      | error y => rw [hr] at hz; cases hz; exact ih hf (Nat.le_add_left ..) hr

/-- R156: words that are all wide instructions are captured as the body. -/
theorem captureBody_ok {s : State} {c x : Nat} {ws : List Half} {a : Nat} {is body : List Instr} (hf : FetchesFrom s c x a ws)
    (hb : repBody ws = .ok body) : captureBody c x ws.length (a % 2 ^ 64) is s = .body (is ++ body) s := by
  induction ws generalizing a is body with
  | nil => cases hb; rw [List.append_nil]; rfl
  | cons w ws ih =>
    obtain ⟨hw, hf⟩ := hf
    rw [repBody_cons] at hb
    rw [List.length_cons, captureBody_fetch hw]
    cases hj : bodyWord w with
    | error y => rw [hj] at hb; cases hb
    | ok i =>
      rw [hj] at hb
      cases hr : repBody ws with
      | error y => rw [hr] at hb; cases hb
      | ok js => rw [hr] at hb; cases hb; exact (ih hf hr).trans (by rw [List.append_assoc]; rfl)

/-! ## The checks of the passes (R159) -/

/-- The checks look at no context. -/
theorem passCheck_setCtx (k : Core) (x : Nat) (v : Ctx) (p rs ps : Nat) (is : List Instr) (w : WView) (runs : List (Nat × Nat)) :
    passCheck (k.setCtx x v) p rs ps is w runs = passCheck k p rs ps is w runs := by
  induction is generalizing w runs with
  | nil => rfl
  | cons i is ih =>
    rw [passCheck, passCheck, show wformCheck (k.setCtx x v) w (stagger p rs ps i) = wformCheck k w (stagger p rs ps i) from rfl]
    split
    · rfl
    · exact ih ..

theorem passesCheck_setCtx (k : Core) (x : Nat) (v : Ctx) (rs ps : Nat) (body : List Instr) (n p : Nat) (w : WView) (runs : List (Nat × Nat)) :
    passesCheck (k.setCtx x v) rs ps body n p w runs = passesCheck k rs ps body n p w runs := by
  induction n generalizing p w runs with
  | zero => rfl
  | succ n ih =>
    rw [passesCheck, passesCheck, passCheck_setCtx]
    split
    · rfl
    · exact ih ..

/-! ## REP enters the queue (R156-R158) -/

/-- R157: a bad word of the body is trapped at the REP, with the capture over. -/
theorem exec_rep_bad {s : State} {cnt : BitVec 12} {ni rowstep : BitVec 4} {ptrstep : BitVec 3} {ws : List Half} {z : Cause} (h0 : s.cur.2 = 0)
    (hq : s.myCore.wide.queue.length < 8) (hf : FetchesFrom s s.cur.1 s.cur.2 (s.me.pc.toNat + 4) ws) (hn : ws.length ≤ ni.toNat + 1)
    (hz : repBody ws = .error z) :
    exec (.rep cnt ni rowstep ptrstep) s = .next ((s.setMe { s.me with capturing := false }).trap z) := by
  rw [exec_rep, execRep, wideEnter_room h0 hq, captureBody_bad hf hn hz]

/-- The state after a REP whose body and passes have passed their checks. -/
def State.repQueued (s : State) (e : WEntry) (n : Nat) : State :=
  let q := (s.setMe { s.me with capturing := false }).queueUp e
  count (q.setMe (advance q.me (4 * (n + 1)))) s.cur.1 0 n

theorem exec_rep_ok {s : State} {cnt : BitVec 12} {ni rowstep : BitVec 4} {ptrstep : BitVec 3} {ws : List Half} {body : List Instr}
    {runs : List (Nat × Nat)} (h0 : s.cur.2 = 0) (hq : s.myCore.wide.queue.length < 8)
    (hf : FetchesFrom s s.cur.1 s.cur.2 (s.me.pc.toNat + 4) ws) (hn : ws.length = ni.toNat + 1) (hb : repBody ws = .ok body)
    (hp : passesCheck s.myCore rowstep.toNat ptrstep.toNat body (cnt.toNat + 1) 0 (queueView s s.cur.1) [] = .ok runs) :
    exec (.rep cnt ni rowstep ptrstep) s = .next (s.repQueued
      { (s.setMe { s.me with capturing := false }).wentry (.rep cnt ni rowstep ptrstep) 0 0 runs with body := body } (ni.toNat + 1)) := by
  have hk : (s.setMe { s.me with capturing := false }).myCore = s.myCore.setCtx s.cur.2 { s.me with capturing := false } :=
    (State.core_setMe ..).trans (if_pos rfl)
  rw [← passesCheck_setCtx _ s.cur.2 { s.me with capturing := false }, ← hk] at hp
  rw [exec_rep, execRep, wideEnter_room h0 hq, ← hn, captureBody_ok hf hb]
  dsimp only
  rw [List.nil_append, hp, hn]
  rfl

/-- A core with another wide queue. -/
def Core.withQueue (k : Core) (q : List WEntry) : Core := { k with wide := { k.wide with queue := q } }

/-- A context after a REP and its body of `n` words. -/
def Ctx.pastRep (k : Ctx) (n : Nat) : Ctx := { k with pc := k.pc + BitVec.ofNat 64 (4 * (n + 1)), capturing := false }

theorem setMe_queueUp (s : State) (v : Ctx) (e : WEntry) :
    (s.setMe v).queueUp e = (s.setMyCore (s.myCore.withQueue (s.myCore.wide.queue ++ [e]))).setMe v := by
  have hk : (s.setMe v).myCore = s.myCore.setCtx s.cur.2 v := (State.core_setMe ..).trans (if_pos rfl)
  have hc : (s.setMyCore (s.myCore.withQueue (s.myCore.wide.queue ++ [e]))).core s.cur.1 = s.myCore.withQueue (s.myCore.wide.queue ++ [e]) :=
    State.myCore_setMyCore ..
  rw [State.queueUp, hk, State.setMe, State.setMe, State.setCtx, State.setCtx]
  refine (State.setCore_setCore ..).trans ((State.setCore_setCore ..).trans ?_).symm
  exact congrArg (fun k : Core => s.setCore s.cur.1 (k.setCtx s.cur.2 v)) hc

theorem repQueued_eq (s : State) (e : WEntry) (n : Nat) : s.repQueued e n =
    count ((s.setMyCore (s.myCore.withQueue (s.myCore.wide.queue ++ [e]))).setMe (s.me.pastRep n)) s.cur.1 0 n := by
  rw [State.repQueued, setMe_queueUp]
  dsimp only
  rw [State.me_setMe, State.setMe_setMe]
  rfl

theorem repQueued_core_field {α : Type} (g : Core → α) (hg : ∀ (k : Core) d, g { k with dbg := d } = g k)
    (hc : ∀ (k : Core) cs, g { k with ctxs := cs } = g k) (s : State) (e : WEntry) (n : Nat) :
    g ((s.repQueued e n).core s.cur.1) = g (s.myCore.withQueue (s.myCore.wide.queue ++ [e])) := by
  rw [repQueued_eq, count_core_field g hg, State.setMe, State.core_setCtx_field g hc]
  exact congrArg g (State.myCore_setMyCore ..)

theorem repQueued_ctx (s : State) (e : WEntry) (n d y : Nat) :
    (s.repQueued e n).ctx d y = if d = s.cur.1 ∧ y = s.cur.2 then s.me.pastRep n else s.ctx d y := by
  have hk : (s.myCore.withQueue (s.myCore.wide.queue ++ [e])).ctxs = (s.core s.cur.1).ctxs := rfl
  rw [repQueued_eq, State.ctx, count_core_field (Core.ctx · y) fun _ _ => rfl]
  refine (State.ctx_setMe ..).trans ?_
  rw [State.setMyCore, ctx_setCore_of_ctxs hk]
  rfl

theorem repCapturesItsBody : RepCapturesItsBody := by
  intro s cnt ni rowstep ptrstep ws body runs word h0 hq hn hw
  have hf : FetchesFrom s s.cur.1 s.cur.2 (s.me.pc.toNat + 4) ws := fetchesFrom_of_getD fun j hj => by
    rw [show s.me.pc.toNat + 4 + 4 * j = s.me.pc.toNat + 4 * (j + 1) by omega]
    exact hw j hj
  refine ⟨fun z hz => exec_rep_bad h0 hq hf hn hz, fun hl hb hp =>
    ⟨_, { (s.setMe { s.me with capturing := false }).wentry (.rep cnt ni rowstep ptrstep) 0 0 runs with body := body },
      exec_rep_ok h0 hq hf hl hb hp, rfl, rfl, rfl, rfl, ?_, ?_, rfl, fun a => ?_, fun d y h => ?_⟩⟩
  · exact repQueued_core_field Core.wide (fun _ _ => rfl) (fun _ _ => rfl) ..
  · exact (repQueued_ctx ..).trans (if_pos ⟨rfl, rfl⟩)
  · rw [locByte, repQueued_core_field Core.loc (fun _ _ => rfl) fun _ _ => rfl]
    rfl
  · rw [repQueued_ctx, if_neg fun e => h.elim (· e.1) (· e.2)]

/-! ## The passes (R34, R158) -/

theorem exec_repPass (c : Nat) (s : State) : exec (.repPass c) s = execRepPass c s := rfl

/-- A pass of a body of one instruction that can execute. -/
theorem repPass_single {s : State} {c : Nat} {e : WEntry} {rest : List WEntry} {cnt : BitVec 12} {ni rs : BitVec 4} {ps : BitVec 3} {b : Instr}
    (hh : HeadIs s c e rest) (hi : e.i = .rep cnt ni rs ps) (hb : e.body = [b]) (hrow : e.row = 0)
    (hr : wReady s c (stagger e.pass rs.toNat ps.toNat b) = true) :
    let j := stagger e.pass rs.toNat ps.toNat b
    let u := wExec s c j (wideRm j e.rm)
    exec (.repPass c) s = .next (if e.pass < cnt.toNat then repLeft u c cnt.toNat rs.toNat ps.toNat { e with pass := e.pass + 1 } else popHead u c) := by
  obtain ⟨hrun, hq⟩ := hh
  have hnext : repNext (s.core c) = some (stagger e.pass rs.toNat ps.toNat b) := by simp [repNext, hq, hi, hb, hrow]
  have hpass : passRuns (s.core c) = true := by simp [passRuns, wideRuns, hrun]
  have hready : repReady s c = true := by simp [repReady, hpass, hq, hi, hnext, hr]
  intro j u
  have hrun1 : repRun c e.rm e.pass rs.toNat ps.toNat [b] 0 s = (1, u) := if_pos hr
  rw [exec_repPass, execRepPass, hready, hq]
  simp only [List.head?_cons, hi, hb, hrow, List.drop_zero, hrun1, List.length_singleton, Nat.lt_irrefl, if_false]

theorem repLeft_wide (s : State) (c cnt rs ps : Nat) (e : WEntry) : ((repLeft s c cnt rs ps e).core c).wide =
    { (s.core c).wide with queue := { e with runs := restRuns (s.core c) cnt rs ps e } :: (s.core c).wide.queue.tail } := by
  rw [repLeft, State.core_updCore, if_pos rfl, setHead, State.core_updCore, if_pos rfl]
  rfl

theorem repLeft_loc (s : State) (c cnt rs ps : Nat) (e : WEntry) : ((repLeft s c cnt rs ps e).core c).loc = (s.core c).loc := by
  rw [repLeft, State.core_updCore, if_pos rfl, setHead, State.core_updCore, if_pos rfl]
  rfl

theorem repRunsPassAfterPass : RepRunsPassAfterPass := by
  intro s c e rest cnt ni rs ps b j u next hh hi hb hrow _ hr
  refine ⟨_, repPass_single hh hi hb hrow hr, ?_⟩
  by_cases hp : e.pass < cnt.toNat
  · rw [if_pos hp, if_pos hp]
    exact ⟨repLeft_wide .., rfl, repLeft_loc ..⟩
  · rw [if_neg hp, if_neg hp]
    exact ⟨popHead_wide .., rfl, popHead_loc ..⟩

/-- Settles O23: the capture by induction on the fetched words, whose first bad one is the cause; a pass by what `repRun` does with a body of one
instruction. -/
theorem repeatedBodiesRun : Obligations.RepeatedBodiesRun := ⟨repCapturesItsBody, repRunsPassAfterPass⟩

end Sys2Proof.Machine

/-! # The wide side executes (R131, R132): what an instruction at the head leaves -/

namespace Sys2Proof.Machine

open Sys2Proof

/-! ## From the head of the queue to the effect -/

theorem wideReady_of_isWForm {s : State} {c : Nat} {e : WEntry} {rest : List WEntry} (hh : HeadIs s c e rest) (hi : isWForm e.i = true) :
    wideReady s c = wReady s c e.i := by
  obtain ⟨hrun, hq⟩ := hh
  obtain ⟨i, v1, v2, rm, x1, x2, x3, x4, x5, x6, x7, x8, x9, x10⟩ := e
  rw [wideReady, wideRuns, hrun, hq]
  cases i with
  | vlda | vsta | vadd | vsub | vmul | vfma | vfms | vmax | vmin | vabs | vneg | vclamp | vscale | vdot | vand | vor | vxor | vshl | vshr | vsel
  | vcmp | vperm | vshuf | viota | vred | vbcast | vcvt | vcvtAuto | vexp2 | vlog2 | vrcp | vrsq | vtanh | vsig => rfl
  | _ => exact absurd hi Bool.false_ne_true

theorem entryRest_of_isWForm {e : WEntry} (hi : isWForm e.i = true) : entryRest e = none := by
  obtain ⟨i, v1, v2, rm, x1, x2, x3, x4, x5, x6, x7, x8, x9, x10⟩ := e
  cases i with
  | mspill | mfill => exact absurd hi Bool.false_ne_true
  | _ => rfl

theorem entryExec_of_isWForm (s : State) (c : Nat) {e : WEntry} (hi : isWForm e.i = true) :
    entryExec s c e = wExec s c e.i (wideRm e.i e.rm) := by
  obtain ⟨i, v1, v2, rm, x1, x2, x3, x4, x5, x6, x7, x8, x9, x10⟩ := e
  cases i with
  | vlda | vsta | vadd | vsub | vmul | vfma | vfms | vmax | vmin | vabs | vneg | vclamp | vscale | vdot | vand | vor | vxor | vshl | vshr | vsel
  | vcmp | vperm | vshuf | viota | vred | vbcast | vcvt | vcvtAuto | vexp2 | vlog2 | vrcp | vrsq | vtanh | vsig => rfl
  | _ => exact absurd hi Bool.false_ne_true

/-- An instruction of opcodes 0x30 to 0x35 at the head, with its mailbox and its FIFO elements there, executes and leaves the queue. -/
theorem wideExecute_wform {s : State} {c : Nat} {e : WEntry} {rest : List WEntry} (hh : HeadIs s c e rest) (hi : isWForm e.i = true)
    (hr : wReady s c e.i = true) : exec (.wideExecute c) s = .next (popHead (wExec s c e.i (wideRm e.i e.rm)) c) := by
  rw [exec_wideExecute, execWideExecute, wideReady_of_isWForm hh hi, hr, hh.2]
  dsimp only [List.head?_cons]
  rw [entryRest_of_isWForm hi, entryExec_of_isWForm s c hi]

/-! ## What follows the effect: the FIFO elements are taken, the pointers advance, the queue moves up -/

theorem popUse_core_field {α : Type} (g : Core → α) (hg : ∀ (k : Core) f, g { k with fifo := f } = g k) (s : State) (c : Nat) (u : RUse) :
    g ((popUse s c u).core c) = g (s.core c) := by
  rw [popUse]
  split
  · rw [State.core_updCore, if_pos rfl]; exact hg ..
  · rfl

theorem popUses_core_field {α : Type} (g : Core → α) (hg : ∀ (k : Core) f, g { k with fifo := f } = g k) (c : Nat) (us : List RUse) (s : State) :
    g ((us.foldl (popUse · c ·) s).core c) = g (s.core c) := by
  induction us generalizing s with
  | nil => rfl
  | cons u us ih => exact (ih _).trans (popUse_core_field g hg ..)

theorem popUse_mem (s : State) (c : Nat) (u : RUse) : (popUse s c u).mem = s.mem := by
  unfold popUse
  split <;> rfl

theorem popUses_mem (c : Nat) (us : List RUse) (s : State) : (us.foldl (popUse · c ·) s).mem = s.mem := by
  induction us generalizing s with
  | nil => rfl
  | cons u us ih => exact (ih _).trans (popUse_mem ..)

/-- A use that writes takes nothing off a FIFO bank. -/
theorem popUses_write (c : Nat) {us : List RUse} (h : ∀ u ∈ us, u.write = true) (s : State) : us.foldl (popUse · c ·) s = s := by
  induction us with
  | nil => rfl
  | cons u us ih =>
    have hu : popUse s c u = s := if_neg fun e => absurd e.2 (by rw [h u (List.mem_cons_self ..)]; decide)
    rw [List.foldl_cons, hu]
    exact ih fun v hv => h v (List.mem_cons_of_mem _ hv)

/-- The uses of an instruction as its core stands. -/
def Core.usesOf (k : Core) (i : Instr) : List RUse := (k.view.uses (wUses k.view i)).1

theorem wExec_eq (s : State) (c : Nat) (i : Instr) (rm : Rm) : wExec s c i rm =
    wideCycles ((((s.core c).usesOf i).foldl (popUse · c ·) (wEffect s c i rm ((s.core c).usesOf i))).updCore c fun k =>
      { k with wide := { k.wide with ptr := ((s.core c).view.uses (wUses (s.core c).view i)).2.ptr } }) c := rfl

/-- Beside the effect, an instruction moves FIFO counters, pointers and the counters of the debug block. -/
theorem wExec_core_field {α : Type} (g : Core → α) (hf : ∀ (k : Core) f, g { k with fifo := f } = g k)
    (hp : ∀ (k : Core) p, g { k with wide := { k.wide with ptr := p } } = g k) (hd : ∀ (k : Core) d, g { k with dbg := d } = g k)
    (s : State) (c : Nat) (i : Instr) (rm : Rm) :
    g ((wExec s c i rm).core c) = g ((wEffect s c i rm ((s.core c).usesOf i)).core c) := by
  rw [wExec_eq, wideCycles_core_field g hd, State.core_updCore, if_pos rfl]
  exact (hp ..).trans (popUses_core_field g hf ..)

theorem wExec_fifo {s : State} {c : Nat} {i : Instr} (h : ∀ u ∈ (s.core c).usesOf i, u.write = true) (rm : Rm) :
    ((wExec s c i rm).core c).fifo = ((wEffect s c i rm ((s.core c).usesOf i)).core c).fifo := by
  rw [wExec_eq, wideCycles_core_field Core.fifo fun _ _ => rfl, State.core_updCore, if_pos rfl, popUses_write c h]

theorem popHead_core_field {α : Type} (g : Core → α) (hq : ∀ (k : Core) q, g { k with wide := { k.wide with queue := q } } = g k)
    (hc : ∀ (k : Core) cs, g { k with ctxs := cs } = g k) (s : State) (c : Nat) : g ((popHead s c).core c) = g (s.core c) := by
  rw [popHead, State.core_updCore, if_pos rfl]
  exact (hc ..).trans (hq ..)

theorem tget_wakeCtxs_field {α : Type} (g : Ctx → α) (hg : ∀ (k : Ctx) w, g { k with wait := w } = g k) (p : Wait → Bool) (t : Tbl Ctx) (x : Nat) :
    g (tget Ctx.reset (wakeCtxs p t) x) = g (tget Ctx.reset t x) := by
  rw [tget, tget, tfind_wakeCtxs]
  cases tfind t x with
  | none => rfl
  | some k =>
    dsimp only [Option.map_some, Option.getD_some]
    split
    · exact hg ..
    · rfl

/-- Of a context, the queue's moving up ends a wait at most. -/
theorem popHead_ctx_field {α : Type} (g : Ctx → α) (hg : ∀ (k : Ctx) w, g { k with wait := w } = g k) (s : State) (c x : Nat) :
    g ((popHead s c).ctx c x) = g (s.ctx c x) := by
  rw [State.ctx, popHead, State.core_updCore, if_pos rfl]
  exact tget_wakeCtxs_field g hg ..

/-- When an instruction has left the queue, its core is as its effect left it, but for pointers, FIFO counters, counters and waits. -/
structure WideEnd (c : Nat) (rest : List WEntry) (u t : State) : Prop where
  queue : (t.core c).wide.queue = rest
  acc : (t.core c).wide.acc = (u.core c).wide.acc
  mb : (t.core c).mb = (u.core c).mb
  mbFull : (t.core c).mbFull = (u.core c).mbFull
  loc : (t.core c).loc = (u.core c).loc
  x : (t.ctx c 0).x = (u.ctx c 0).x
  pc : (t.ctx c 0).pc = (u.ctx c 0).pc
  fflags : (t.ctx c 0).fflags = (u.ctx c 0).fflags
  mem : t.mem = u.mem

theorem wExec_ctx (s : State) (c x : Nat) (i : Instr) (rm : Rm) :
    (wExec s c i rm).ctx c x = (wEffect s c i rm ((s.core c).usesOf i)).ctx c x :=
  wExec_core_field (Core.ctx · x) (fun _ _ => rfl) (fun _ _ => rfl) (fun _ _ => rfl) s c i rm

/-- Of its core, all else is as the effect left it. -/
theorem popHead_wExec_core_field {α : Type} (g : Core → α)
    (hg : ∀ (k : Core) f d cs p q, g { k with fifo := f, dbg := d, ctxs := cs, wide := { k.wide with ptr := p, queue := q } } = g k)
    (s : State) (c : Nat) (i : Instr) (rm : Rm) :
    g ((popHead (wExec s c i rm) c).core c) = g ((wEffect s c i rm ((s.core c).usesOf i)).core c) := by
  rw [popHead_core_field g (fun k q => hg k k.fifo k.dbg k.ctxs k.wide.ptr q) fun k cs => hg k k.fifo k.dbg cs k.wide.ptr k.wide.queue]
  exact wExec_core_field g (fun k f => hg k f k.dbg k.ctxs k.wide.ptr k.wide.queue) (fun k p => hg k k.fifo k.dbg k.ctxs p k.wide.queue)
    (fun k d => hg k k.fifo d k.ctxs k.wide.ptr k.wide.queue) ..

theorem popHead_wExec_ctx_field {α : Type} (g : Ctx → α) (hg : ∀ (k : Ctx) w, g { k with wait := w } = g k) (s : State) (c x : Nat) (i : Instr)
    (rm : Rm) : g ((popHead (wExec s c i rm) c).ctx c x) = g ((wEffect s c i rm ((s.core c).usesOf i)).ctx c x) :=
  (popHead_ctx_field g hg ..).trans (congrArg g (wExec_ctx ..))

theorem wideEnd_wExec {s : State} {c : Nat} {i : Instr} {rm : Rm} {u : State} (hu : wEffect s c i rm ((s.core c).usesOf i) = u) :
    WideEnd c (u.core c).wide.queue.tail u (popHead (wExec s c i rm) c) := by
  subst hu
  constructor
  · rw [popHead_wide]
    exact congrArg List.tail (wExec_core_field (fun k => k.wide.queue) (fun _ _ => rfl) (fun _ _ => rfl) (fun _ _ => rfl) ..)
  · exact popHead_wExec_core_field (fun k => k.wide.acc) (fun _ _ _ _ _ _ => rfl) ..
  · exact popHead_wExec_core_field Core.mb (fun _ _ _ _ _ _ => rfl) ..
  · exact popHead_wExec_core_field Core.mbFull (fun _ _ _ _ _ _ => rfl) ..
  · exact popHead_wExec_core_field Core.loc (fun _ _ _ _ _ _ => rfl) ..
  · exact popHead_wExec_ctx_field Ctx.x (fun _ _ => rfl) ..
  · exact popHead_wExec_ctx_field Ctx.pc (fun _ _ => rfl) ..
  · exact popHead_wExec_ctx_field Ctx.fflags (fun _ _ => rfl) ..
  · exact popUses_mem ..

/-- What an instruction of opcodes 0x30 to 0x35 at the head comes to, given its effect. -/
theorem wideExecute_ends {s : State} {c : Nat} {e : WEntry} {rest : List WEntry} (hh : HeadIs s c e rest) (hi : isWForm e.i = true)
    (hr : wReady s c e.i = true) {u : State} (hu : wEffect s c e.i (wideRm e.i e.rm) ((s.core c).usesOf e.i) = u)
    (hq : (u.core c).wide.queue = (s.core c).wide.queue) : ∃ t, exec (.wideExecute c) s = .next t ∧ WideEnd c rest u t := by
  have h := wideEnd_wExec hu
  rw [hq, hh.2] at h
  exact ⟨_, wideExecute_wform hh hi hr, h⟩

end Sys2Proof.Machine

/-! # Rows and mailboxes that a wide instruction writes (R131, R135-R137, R142-R150, R152) -/

namespace Sys2Proof.Machine

open Sys2Proof

/-! ## A row of ACC written (R29, R135) -/

@[simp] theorem length_lset {α : Type} (l : List α) (n : Nat) (v : α) : (lset l n v).length = l.length := by
  induction l generalizing n with
  | nil => rfl
  | cons a l ih =>
    cases n with
    | zero => rfl
    | succ n => exact congrArg (· + 1) (ih n)

theorem getD_lset {α : Type} (l : List α) {n : Nat} (h : n < l.length) (v d : α) (m : Nat) :
    (lset l n v).getD m d = if m = n then v else l.getD m d := by
  induction l generalizing n m with
  | nil => exact absurd h (Nat.not_lt_zero _)
  | cons a l ih =>
    cases n with
    | zero => cases m <;> rfl
    | succ n =>
      cases m with
      | zero => rfl
      | succ m =>
        rw [lset, List.getD_cons_succ, ih (Nat.lt_of_succ_lt_succ h), List.getD_cons_succ]
        simp only [Nat.succ_inj]

/-- ACC when an instruction has written its row `d`: with a fresh status word unless it reads the row, and with its flags. -/
def Acc.withRow (a : Acc) (i : Instr) (d : Nat) (ls : List Half) (f : FFlags) : Acc :=
  rowFlags (setRow (if wSrc i = some d then a else rowFresh a d) d ls) d f

theorem Acc.withRow_lanes (a : Acc) (i : Instr) (d : Nat) (ls : List Half) (f : FFlags) :
    (a.withRow i d ls f).lanes = a.lanes.take (64 * d) ++ ls ++ a.lanes.drop (64 * d + 64) := by
  rw [Acc.withRow]
  split <;> rfl

@[simp] theorem Acc.withRow_rows (a : Acc) (i : Instr) (d : Nat) (ls : List Half) (f : FFlags) : (a.withRow i d ls f).rows = a.rows := by
  rw [Acc.withRow]
  split <;> rfl

@[simp] theorem Acc.withRow_int (a : Acc) (i : Instr) (d : Nat) (ls : List Half) (f : FFlags) : (a.withRow i d ls f).int = a.int := by
  rw [Acc.withRow]
  split <;> rfl

theorem Acc.withRow_lane {a : Acc} (ha : a.lanes.length = 1024) (i : Instr) {d : Nat} (hd : d < 16) {ls : List Half} (hl : ls.length = 64)
    (f : FFlags) {q l : Nat} (h : l < 64) :
    (a.withRow i d ls f).lanes.getD (64 * q + l) 0 = if q = d then ls.getD l 0 else a.lanes.getD (64 * q + l) 0 := by
  have ht : (a.lanes.take (64 * d)).length = 64 * d := by rw [List.length_take]; omega
  rw [Acc.withRow_lanes]
  simp only [List.getD_eq_getElem?_getD]
  rcases Nat.lt_trichotomy q d with hlt | rfl | hlt
  · rw [if_neg (by omega), List.append_assoc, List.getElem?_append_left (by omega), List.getElem?_take_of_lt (by omega)]
  · rw [if_pos rfl, List.append_assoc, List.getElem?_append_right (by omega), List.getElem?_append_left (by omega), ht, Nat.add_sub_cancel_left]
  · have h0 : (a.lanes.take (64 * d) ++ ls).length = 64 * d + 64 := by rw [List.length_append, ht, hl]
    rw [if_neg (by omega), List.getElem?_append_right (by omega), h0, List.getElem?_drop, Nat.add_sub_cancel' (by omega)]

theorem Acc.withRow_st {a : Acc} (ha : a.st.length = 16) (i : Instr) {d : Nat} (hd : d < 16) (ls : List Half) (f : FFlags) (q : Nat) :
    (a.withRow i d ls f).st.getD q 0 = if q = d then (if wSrc i = some d then a.st.getD d 0 else 0) ||| f.setWidth 32 else a.st.getD q 0 := by
  have hd' : d < a.st.length := ha.symm ▸ hd
  rw [Acc.withRow]
  split
  · exact getD_lset _ hd' ..
  · have hf : (setRow (rowFresh a d) d ls).st = lset a.st d 0 := rfl
    rw [rowFlags, hf]
    dsimp only
    rw [getD_lset _ (by rwa [length_lset]), getD_lset _ hd', getD_lset _ hd', if_pos rfl]
    split <;> rfl

/-- Of its core, an instruction that writes a row changes ACC and a context. -/
theorem putRow_core_field {α : Type} (g : Core → α) (ha : ∀ (k : Core) a, g { k with wide := { k.wide with acc := a } } = g k)
    (hc : ∀ (k : Core) x v, g (k.setCtx x v) = g k) (s : State) (c : Nat) (i : Instr) (d : Nat) (ls : List Half) (f : FFlags) :
    g ((putRow s c i d ls f).core c) = g (s.core c) := by
  rw [putRow, core_updCtx_field g hc, State.core_updCore, if_pos rfl]
  exact ha ..

theorem putRow_acc (s : State) (c : Nat) (i : Instr) (d : Nat) (ls : List Half) (f : FFlags) :
    ((putRow s c i d ls f).core c).wide.acc = (s.core c).wide.acc.withRow i d ls f := by
  rw [putRow, core_updCtx_field Core.wide fun _ _ _ => rfl, State.core_updCore, if_pos rfl]
  rfl

theorem putRow_ctx (s : State) (c : Nat) (i : Instr) (d : Nat) (ls : List Half) (f : FFlags) :
    (putRow s c i d ls f).ctx c 0 = (s.ctx c 0).orFlags s.cycle f := by
  rw [putRow, State.ctx_updCtx, if_pos ⟨rfl, rfl⟩, State.ctx_updCore, if_pos rfl]
  rfl

/-- In `t`, row `d` of ACC and its status word are what instruction `i` writes in `s`, FFLAGS has gained the flags, the full bits of the mailboxes
are `full`, and nothing else of these has changed. -/
structure RowWritten (s : State) (c : Nat) (i : Instr) (d : Nat) (ls : List Half) (f : FFlags) (full : BitVec 8) (t : State) : Prop where
  acc : (t.core c).wide.acc = (s.core c).wide.acc.withRow i d ls f
  mb : (t.core c).mb = (s.core c).mb
  mbFull : (t.core c).mbFull = full
  loc : (t.core c).loc = (s.core c).loc
  x : (t.ctx c 0).x = (s.ctx c 0).x
  pc : (t.ctx c 0).pc = (s.ctx c 0).pc
  fflags : (t.ctx c 0).fflags = (s.ctx c 0).fflags ||| f
  mem : t.mem = s.mem

theorem rowWritten_putRow (s : State) (c : Nat) (i : Instr) (d : Nat) (ls : List Half) (f : FFlags) :
    RowWritten s c i d ls f (s.core c).mbFull (putRow s c i d ls f) where
  acc := putRow_acc ..
  mb := putRow_core_field Core.mb (fun _ _ => rfl) (fun _ _ _ => rfl) ..
  mbFull := putRow_core_field Core.mbFull (fun _ _ => rfl) (fun _ _ _ => rfl) ..
  loc := putRow_core_field Core.loc (fun _ _ => rfl) (fun _ _ _ => rfl) ..
  x := by rw [putRow_ctx]; rfl
  pc := by rw [putRow_ctx]; rfl
  fflags := by rw [putRow_ctx]; rfl
  mem := rfl

theorem RowWritten.ends {s : State} {c : Nat} {i : Instr} {d : Nat} {ls : List Half} {f : FFlags} {full : BitVec 8} {rest : List WEntry} {u t : State}
    (h : RowWritten s c i d ls f full u) (he : WideEnd c rest u t) : RowWritten s c i d ls f full t where
  acc := he.acc.trans h.acc
  mb := he.mb.trans h.mb
  mbFull := he.mbFull.trans h.mbFull
  loc := he.loc.trans h.loc
  x := he.x.trans h.x
  pc := he.pc.trans h.pc
  fflags := he.fflags.trans h.fflags
  mem := he.mem.trans h.mem

/-- How a mailbox is left by the instruction that has read it (R137). -/
def mbAfterRead (n : Nat) (peek : BitVec 1) (k : Core) : Core := if peek = 1 then mbPeek k n else mbEmpty k n

theorem mbAfterRead_core_field {α : Type} (g : Core → α) (hg : ∀ (k : Core) f p, g { k with mbFull := f, peeked := p } = g k) (n : Nat)
    (peek : BitVec 1) (k : Core) : g (mbAfterRead n peek k) = g k := by
  unfold mbAfterRead mbPeek
  split
  · split
    · exact hg k k.mbFull _
    · rfl
  · exact hg ..

theorem mbAfterRead_mbFull (n : Nat) (peek : BitVec 1) (k : Core) :
    (mbAfterRead n peek k).mbFull = if peek = 1 then k.mbFull else k.mbFull &&& ~~~((1 : BitVec 8) <<< n) := by
  unfold mbAfterRead mbPeek
  split
  · split <;> rfl
  · rfl

theorem RowWritten.mbAfterRead {s : State} {c : Nat} {i : Instr} {d : Nat} {ls : List Half} {f : FFlags} {full : BitVec 8} {u : State}
    (h : RowWritten s c i d ls f full u) (n : Nat) (peek : BitVec 1) :
    RowWritten s c i d ls f (if peek = 1 then full else full &&& ~~~((1 : BitVec 8) <<< n)) (u.updCore c (mbAfterRead n peek)) := by
  have hk {α : Type} (g : Core → α) (hg : ∀ (k : Core) f p, g { k with mbFull := f, peeked := p } = g k) :
      g ((u.updCore c (Machine.mbAfterRead n peek)).core c) = g (u.core c) := by
    rw [State.core_updCore, if_pos rfl]
    exact mbAfterRead_core_field g hg ..
  have hx : (u.updCore c (Machine.mbAfterRead n peek)).ctx c 0 = u.ctx c 0 := hk (Core.ctx · 0) fun _ _ _ => rfl
  constructor
  · exact (hk (fun k => k.wide.acc) fun _ _ _ => rfl).trans h.acc
  · exact (hk Core.mb fun _ _ _ => rfl).trans h.mb
  · rw [State.core_updCore, if_pos rfl, mbAfterRead_mbFull, h.mbFull]
  · exact (hk Core.loc fun _ _ _ => rfl).trans h.loc
  · rw [hx, h.x]
  · rw [hx, h.pc]
  · rw [hx, h.fflags]
  · exact h.mem

theorem putRow_queue (s : State) (c : Nat) (i : Instr) (d : Nat) (ls : List Half) (f : FFlags) :
    ((putRow s c i d ls f).core c).wide.queue = (s.core c).wide.queue :=
  putRow_core_field (fun k => k.wide.queue) (fun _ _ => rfl) (fun _ _ _ => rfl) ..

theorem putRow_mbAfterRead_queue (s : State) (c : Nat) (i : Instr) (d : Nat) (ls : List Half) (f : FFlags) (n : Nat) (peek : BitVec 1) :
    (((putRow s c i d ls f).updCore c (mbAfterRead n peek)).core c).wide.queue = (s.core c).wide.queue := by
  rw [State.core_updCore, if_pos rfl, mbAfterRead_core_field (fun k => k.wide.queue) fun _ _ _ => rfl]
  exact putRow_queue ..

/-! ## Integer lanes (R62, R136, R142) -/

/-- R136: an exact integer result is clamped to 32 bits, with OF exactly where it was. -/
theorem intLane_clamps (v : Int) : (intLane v).1.toInt = max (-2 ^ 31) (min v (2 ^ 31 - 1)) ∧
    (intLane v).2 = if v < -2 ^ 31 ∨ 2 ^ 31 - 1 < v then 4 else 0 := by
  unfold intLane clamp32
  by_cases h1 : v > 2147483647
  · rw [if_pos h1, if_pos (by omega)]
    refine ⟨?_, rfl⟩
    rw [min_eq_right (by omega)]
    decide
  · rw [if_neg h1]
    by_cases h2 : v < -2147483648
    · rw [if_pos h2, if_pos (by omega)]
      refine ⟨?_, rfl⟩
      rw [min_eq_left (by omega), max_eq_left (by omega)]
      decide
    · rw [if_neg h2, if_neg (by omega)]
      refine ⟨?_, rfl⟩
      rw [min_eq_left (by omega), max_eq_right (by omega)]
      dsimp only
      rw [wrap, BitVec.toInt_ofNat', Int.toNat_of_nonneg (Int.emod_nonneg _ (by decide)), Int.bmod]
      split <;> omega

theorem pickLane_int_max (c b : Half) : pickLane true 6 c b = (if c.toInt ≤ b.toInt then b else c, 0) := by
  simp [pickLane, BitVec.sle_iff_toInt_le]

theorem pickLane_int_min (c b : Half) : pickLane true 5 c b = (if c.toInt ≤ b.toInt then c else b, 0) := by
  simp only [pickLane, ← BitVec.sle_iff_toInt_le]
  cases c.sle b <;> rfl

/-- A lane that is one of the operands lies in the range. -/
theorem toInt_clamped (x : Half) : x.toInt = max (-2 ^ 31) (min x.toInt (2 ^ 31 - 1)) ∧
    (0 : FFlags) = if x.toInt < -2 ^ 31 ∨ 2 ^ 31 - 1 < x.toInt then 4 else 0 := by
  have h1 := BitVec.le_toInt x
  have h2 := BitVec.toInt_lt (x := x)
  exact ⟨by omega, (if_neg (by omega)).symm⟩

theorem integerLanesClamp : IntegerLanesClamp := by
  intro m c a b n d r p q rm sat is
  have habs : (c.toInt.natAbs : Int) = if 0 ≤ c.toInt then c.toInt else -c.toInt := by split <;> omega
  refine ⟨intLane_clamps _, intLane_clamps _, intLane_clamps _, intLane_clamps _, intLane_clamps _, ?_, intLane_clamps _, ?_, ?_⟩
  · rw [← habs]
    exact intLane_clamps _
  · have hi : laneFn true m (.vmax d r q) c a b n = _ := pickLane_int_max c b
    simp only [is, hi, max_def c.toInt, ← apply_ite BitVec.toInt]
    exact toInt_clamped _
  · have hi : laneFn true m (.vmin d r q) c a b n = _ := pickLane_int_min c b
    simp only [is, hi, min_def c.toInt, ← apply_ite BitVec.toInt]
    exact toInt_clamped _

/-! ## Lane by lane (R131, R135, R142, R144, R152) -/

/-- The effect of an instruction that works lane by lane. -/
theorem wEffect_byLane {i : Instr} {d r : Nat} (hb : byLane i = true) (hd : wDst i = some d) (hr : wSrc i = some r) (s : State) (c : Nat) (rm : Rm)
    (us : List RUse) :
    let k := s.core c
    let ab := operandLanes k rm i us
    let t := mapLanes (laneFn k.wide.acc.int rm i) (accRow k.wide.acc (BitVec.ofNat 4 r).toNat) ab.1 ab.2.1 ab.2.2.1
    wEffect s c i rm us = putRow s c i (BitVec.ofNat 4 d).toNat t.1 (t.2 ||| ab.2.2.2) := by
  cases i with
  | vadd | vsub | vmul | vfma | vfms | vmax | vmin | vabs | vneg | vclamp | vscale | vand | vor | vxor | vshl | vshr | vexp2 | vlog2 | vrcp | vrsq
  | vtanh | vsig => cases hd; cases hr; rfl
  | _ => exact absurd hb Bool.false_ne_true

theorem isWForm_of_wDst {i : Instr} {d : Nat} (hd : wDst i = some d) : isWForm i = true := by
  rw [isWForm, hd]
  rfl

theorem mapLanes_length (g : Half → Half → Half → Int → Half × FFlags) {cs as bs : List Half} {ns : List Int} (ha : as.length = cs.length)
    (hb : bs.length = cs.length) (hn : ns.length = cs.length) : (mapLanes g cs as bs ns).1.length = cs.length := by
  induction cs generalizing as bs ns with
  | nil => rfl
  | cons c cs ih =>
    obtain ⟨a, as, rfl⟩ := List.exists_cons_of_length_eq_add_one ha
    obtain ⟨b, bs, rfl⟩ := List.exists_cons_of_length_eq_add_one hb
    obtain ⟨n, ns, rfl⟩ := List.exists_cons_of_length_eq_add_one hn
    exact congrArg (· + 1) (ih (Nat.succ.inj ha) (Nat.succ.inj hb) (Nat.succ.inj hn))

theorem accRow_length {a : Acc} (ha : a.lanes.length = 1024) {r : Nat} (hr : r < 16) : (accRow a r).length = 64 := by
  rw [accRow, List.length_take, List.length_drop]
  omega

theorem lanesAreWrittenTogether : LanesAreWrittenTogether := by
  intro s c d r e rest k a us m ab out flags hb hd hs hh hready hl hst hd16 hr16 h1 h2 h3
  have hu : wEffect s c e.i m us = putRow s c e.i d out.1 flags := by
    have h := wEffect_byLane hb hd hs s c m us
    rw [BitVec.toNat_ofNat, BitVec.toNat_ofNat, Nat.mod_eq_of_lt hd16, Nat.mod_eq_of_lt hr16] at h
    exact h
  have hrow := accRow_length hl hr16
  have hout : out.1.length = 64 :=
    (mapLanes_length _ (h1.trans hrow.symm) (h2.trans hrow.symm) (h3.trans hrow.symm)).trans hrow
  obtain ⟨t, ht, hend⟩ := wideExecute_ends hh (isWForm_of_wDst hd) hready hu (putRow_queue ..)
  obtain ⟨hacc, hmb, hfull, hloc, hx, hpc, hf, hmem⟩ := (rowWritten_putRow ..).ends hend
  refine ⟨t, ht, hend.queue, fun q l hq h => ?_, fun q hq => ?_, ?_, ?_, hf, hx, hpc, hmb, hfull, hloc, hmem⟩
  · rw [hacc, Acc.withRow_lane hl e.i hd16 hout _ h]
  · rw [hacc, Acc.withRow_st hst e.i hd16, hs]
    simp only [Option.some.injEq]
  · rw [hacc, Acc.withRow_rows]
  · rw [hacc, Acc.withRow_int]

/-! ## Across lanes, and through mailboxes (R137, R143, R145-R150) -/

/-- WIDE_EXECUTE goes on to `t`: the head has left the queue, FFLAGS has gained flags, and no byte, X register or PC has changed. -/
def EndsWithFlags (s : State) (c : Nat) (rest : List WEntry) (f : FFlags) (t : State) : Prop :=
  exec (.wideExecute c) s = .next t ∧ (t.core c).wide.queue = rest ∧ t.mem = s.mem ∧ (t.core c).loc = (s.core c).loc ∧
    (t.ctx c 0).x = (s.ctx c 0).x ∧ (t.ctx c 0).pc = (s.ctx c 0).pc ∧ (t.ctx c 0).fflags = (s.ctx c 0).fflags ||| f

/-- An instruction that writes a row, at the head of the queue. -/
theorem wideExecute_row {s : State} {c : Nat} {e : WEntry} {rest : List WEntry} (hh : HeadIs s c e rest) (hr : wReady s c e.i = true)
    (hl : (s.core c).wide.acc.lanes.length = 1024) (hst : (s.core c).wide.acc.st.length = 16) {d : BitVec 4} (hd : wDst e.i = some d.toNat)
    {u : State} (hu : wEffect s c e.i (wideRm e.i e.rm) ((s.core c).usesOf e.i) = u) (hq : (u.core c).wide.queue = (s.core c).wide.queue)
    {ls : List Half} {f : FFlags} {full : BitVec 8} (hw : RowWritten s c e.i d.toNat ls f full u) (hlen : ls.length = 64)
    {lane : Nat → Half} (hlane : ∀ l, l < 64 → ls.getD l 0 = lane l) :
    ∃ t, EndsWithFlags s c rest f t ∧
      (∀ j l, j < 16 → l < 64 → (t.core c).wide.acc.lanes.getD (64 * j + l) 0 =
        if j = d.toNat then lane l else (s.core c).wide.acc.lanes.getD (64 * j + l) 0) ∧
      (∀ j, j < 16 → (t.core c).wide.acc.st.getD j 0 =
        if j = d.toNat then (if wSrc e.i = some d.toNat then (s.core c).wide.acc.st.getD j 0 else 0) ||| f.setWidth 32
        else (s.core c).wide.acc.st.getD j 0) ∧
      (t.core c).mb = (s.core c).mb ∧ (t.core c).mbFull = full := by
  obtain ⟨t, ht, hend⟩ := wideExecute_ends hh (isWForm_of_wDst hd) hr hu hq
  obtain ⟨hacc, hmb, hfull, hloc, hx, hpc, hf, hmem⟩ := hw.ends hend
  refine ⟨t, ⟨ht, hend.queue, hmem, hloc, hx, hpc, hf⟩, fun j l _ h => ?_, fun j hj => ?_, hmb, hfull⟩
  · rw [hacc, Acc.withRow_lane hl e.i d.isLt hlen _ h, hlane l h]
  · rw [hacc, Acc.withRow_st hst e.i d.isLt]
    split
    · next e => rw [e]
    · rfl

theorem flagRow_core_field {α : Type} (g : Core → α) (ha : ∀ (k : Core) st, g { k with wide := { k.wide with acc := { k.wide.acc with st := st } } } = g k)
    (hc : ∀ (k : Core) x v, g (k.setCtx x v) = g k) (s : State) (c r : Nat) (f : FFlags) : g ((flagRow s c r f).core c) = g (s.core c) := by
  rw [flagRow, core_updCtx_field g hc, State.core_updCore, if_pos rfl]
  exact ha ..

theorem flagRow_ctx (s : State) (c r : Nat) (f : FFlags) : (flagRow s c r f).ctx c 0 = (s.ctx c 0).orFlags s.cycle f := by
  rw [flagRow, State.ctx_updCtx, if_pos ⟨rfl, rfl⟩, State.ctx_updCore, if_pos rfl]
  rfl

/-- The effect of an instruction that fills a mailbox, with flags for its source row. -/
def fillAndFlag (s : State) (c n r : Nat) (v : Word) (f : FFlags) : State := flagRow (s.updCore c (mbFill · n v)) c r f

theorem fillAndFlag_core_field {α : Type} (g : Core → α)
    (ha : ∀ (k : Core) st, g { k with wide := { k.wide with acc := { k.wide.acc with st := st } } } = g k)
    (hc : ∀ (k : Core) x v, g (k.setCtx x v) = g k) (s : State) (c n r : Nat) (v : Word) (f : FFlags) :
    g ((fillAndFlag s c n r v f).core c) = g (mbFill (s.core c) n v) := by
  rw [fillAndFlag, flagRow_core_field g ha hc, State.core_updCore, if_pos rfl]

theorem fillAndFlag_ctx (s : State) (c n r : Nat) (v : Word) (f : FFlags) :
    (fillAndFlag s c n r v f).ctx c 0 = (s.ctx c 0).orFlags s.cycle f := by
  rw [fillAndFlag, flagRow_ctx, State.ctx_updCore, if_pos rfl]
  rfl

/-- An instruction that fills a mailbox, at the head of the queue. -/
theorem wideExecute_fill {s : State} {c : Nat} {e : WEntry} {rest : List WEntry} (hh : HeadIs s c e rest) (hi : isWForm e.i = true)
    (hr : wReady s c e.i = true) {n : BitVec 3} {r : Nat} {v : Word} {f : FFlags}
    (hu : wEffect s c e.i (wideRm e.i e.rm) ((s.core c).usesOf e.i) = fillAndFlag s c n.toNat r v f) :
    ∃ t, EndsWithFlags s c rest f t ∧
      (t.core c).wide.acc.lanes = (s.core c).wide.acc.lanes ∧ (t.core c).mb = (s.core c).mb.set n.toNat v n.isLt ∧
      (t.core c).mbFull = (s.core c).mbFull ||| ((1 : BitVec 8) <<< n.toNat) := by
  have hk {α : Type} (g : Core → α) (ha : ∀ (k : Core) st, g { k with wide := { k.wide with acc := { k.wide.acc with st := st } } } = g k)
      (hc : ∀ (k : Core) x v, g (k.setCtx x v) = g k) := fillAndFlag_core_field g ha hc s c n.toNat r v f
  have hctx := fillAndFlag_ctx s c n.toNat r v f
  obtain ⟨t, ht, hend⟩ := wideExecute_ends hh hi hr hu (hk (fun k => k.wide.queue) (fun _ _ => rfl) fun _ _ _ => rfl)
  refine ⟨t, ⟨ht, hend.queue, hend.mem, ?_, ?_, ?_, ?_⟩, ?_, ?_, ?_⟩
  · exact hend.loc.trans (hk Core.loc (fun _ _ => rfl) fun _ _ _ => rfl)
  · rw [hend.x, hctx]; rfl
  · rw [hend.pc, hctx]; rfl
  · rw [hend.fflags, hctx]; rfl
  · rw [hend.acc]
    exact hk (fun k => k.wide.acc.lanes) (fun _ _ => rfl) fun _ _ _ => rfl
  · exact hend.mb.trans ((hk Core.mb (fun _ _ => rfl) fun _ _ _ => rfl).trans (dif_pos n.isLt))
  · exact hend.mbFull.trans (hk Core.mbFull (fun _ _ => rfl) fun _ _ _ => rfl)

theorem mbValue_eq (k : Core) (n : BitVec 3) : mbValue k n.toNat = k.mb[n.toNat] := dif_pos n.isLt

@[simp] theorem length_codesOf (es n : Nat) (bs : List Byte) : (codesOf es bs n).length = n := by
  induction n generalizing bs with
  | zero => rfl
  | succ n ih => exact congrArg (· + 1) (ih _)

theorem length_readLanes (k : Core) (int : Bool) (rm : Rm) (sat : Bool) (u : RUse) : (readLanes k int rm sat u).1.length = u.n := by
  simp [readLanes, useCodes]

/-- The number whose bits are those of a list, the first one lowest. -/
def maskOf (bs : List Bool) : Nat := bs.foldr Nat.bit 0

theorem testBit_maskOf (bs : List Bool) (l : Nat) : (maskOf bs).testBit l = bs.getD l false := by
  induction bs generalizing l with
  | nil => exact Nat.zero_testBit l
  | cons b bs ih =>
    cases l with
    | zero => exact Nat.testBit_bit_zero ..
    | succ l => exact (Nat.testBit_bit_succ ..).trans (ih l)

/-- The mask that VCMP sums up, from lane `j` on. -/
theorem sum_zipIdx_eq_maskOf (rs : List (Bool × FFlags)) (j : Nat) :
    ((rs.zipIdx j).map fun p => if p.1.1 then 2 ^ p.2 else 0).sum = 2 ^ j * maskOf (rs.map (·.1)) := by
  induction rs generalizing j with
  | nil => rfl
  | cons r rs ih =>
    rw [List.zipIdx_cons, List.map_cons, List.sum_cons, ih, List.map_cons]
    show _ = 2 ^ j * Nat.bit r.1 (maskOf (rs.map (·.1)))
    rw [Nat.bit_val]
    cases r.1 <;> simp [pow_succ] <;> ring

theorem getLsbD_vcmpMask (rs : List (Bool × FFlags)) {l : Nat} (h : l < 64) :
    (BitVec.ofNat 64 ((rs.zipIdx.map fun p => if p.1.1 then 2 ^ p.2 else 0).foldl (· + ·) 0)).getLsbD l = (rs.map (·.1)).getD l false := by
  rw [← List.sum_eq_foldl, sum_zipIdx_eq_maskOf, pow_zero, one_mul, BitVec.getLsbD_ofNat, testBit_maskOf]
  simp [h]

/-- R149: the sum of integer lanes is exact. -/
theorem redValue_int_sum (m : Nat) (row : List Half) : (redValue true m 0 row).1 = BitVec.ofInt 64 (row.map fun x => x.toInt).sum := by
  rw [List.sum_eq_foldl]
  rfl

/-- R148: FP32 represents the numbers of the lanes. -/
theorem viota_fp32 : ∀ l, l < 64 → eqVal (decodeCode fp32 (BitVec.ofNat 32 (encodeVal fp32 (.fin false l 1 0))).toNat) (.fin false l 1 0) = true := by
  decide

/-! ## The effects of the instructions that do not work lane by lane -/

section
variable {i : Instr} {d r : BitVec 4} {p q rm n cond pat op : BitVec 3} {sat peek : BitVec 1}

theorem wEffect_vlda {u : RUse} (hi : i = .vlda d p rm sat) (s : State) (c m : Nat) :
    let t := readLanes (s.core c) (s.core c).wide.acc.int m (sat == 1) u
    wEffect s c i m [u] = putRow s c i d.toNat t.1 t.2 := by
  subst hi; rfl

theorem wEffect_vdot (hi : i = .vdot d r p q rm sat) (s : State) (c m : Nat) (us : List RUse) :
    let a := (s.core c).wide.acc
    let b := operandLanes (s.core c) m i us
    let t := dotLane a.int m sat ((accRow a r.toNat).headD 0) b.1 b.2.1
    wEffect s c i m us = putRow s c i d.toNat (t.1 :: (accRow a r.toNat).tail) (t.2 ||| b.2.2.2) := by
  subst hi; rfl

theorem wEffect_vsel (hi : i = .vsel d r q n peek) (s : State) (c m : Nat) (us : List RUse) :
    let b := operandLanes (s.core c) m i us
    let ls := ((accRow (s.core c).wide.acc r.toNat).zip b.2.1).zipIdx.map fun p => if (mbValue (s.core c) n.toNat).getLsbD p.2 then p.1.1 else p.1.2
    wEffect s c i m us = (putRow s c i d.toNat ls b.2.2.2).updCore c (mbAfterRead n.toNat peek) := by
  subst hi; rfl

theorem wEffect_vperm (hi : i = .vperm d r q) (s : State) (c m : Nat) (us : List RUse) : wEffect s c i m us = putRow s c i d.toNat
    ((operandLanes (s.core c) m i us).2.2.1.map fun v => (accRow (s.core c).wide.acc r.toNat).getD (v % 64).toNat 0) 0 := by
  subst hi; rfl

theorem wEffect_vshuf (hi : i = .vshuf d r pat) (s : State) (c m : Nat) (us : List RUse) : wEffect s c i m us = putRow s c i d.toNat
    ((List.range 64).map fun l => (accRow (s.core c).wide.acc r.toNat).getD (shufLane pat.toNat l) 0) 0 := by
  subst hi; rfl

/-- The number of a lane, in ACC's kind. -/
def iotaLane (int : Bool) (l : Nat) : Half := if int then BitVec.ofNat 32 l else BitVec.ofNat 32 (encodeVal fp32 (.fin false l 1 0))

theorem wEffect_viota (hi : i = .viota d) (s : State) (c m : Nat) (us : List RUse) :
    wEffect s c i m us = putRow s c i d.toNat ((List.range 64).map (iotaLane (s.core c).wide.acc.int)) 0 := by
  subst hi; rfl

theorem wEffect_vbcast (hi : i = .vbcast d n peek) (s : State) (c m : Nat) (us : List RUse) : wEffect s c i m us =
    (putRow s c i d.toNat (List.replicate 64 ((mbValue (s.core c) n.toNat).setWidth 32)) 0).updCore c (mbAfterRead n.toNat peek) := by
  subst hi; rfl

theorem wEffect_vcmp (hi : i = .vcmp n r q cond) (s : State) (c m : Nat) (us : List RUse) :
    let a := (s.core c).wide.acc
    let b := operandLanes (s.core c) m i us
    let rs := ((accRow a r.toNat).zip b.2.1).map fun p => cmpLane a.int cond.toNat p.1 p.2
    wEffect s c i m us = fillAndFlag s c n.toNat r.toNat
      (BitVec.ofNat 64 ((rs.zipIdx.map fun p => if p.1.1 then 2 ^ p.2 else 0).foldl (· + ·) 0)) ((rs.map (·.2)).foldl (· ||| ·) b.2.2.2) := by
  subst hi; rfl

theorem wEffect_vred (hi : i = .vred n r op) (s : State) (c m : Nat) (us : List RUse) :
    let t := redValue (s.core c).wide.acc.int m op.toNat (accRow (s.core c).wide.acc r.toNat)
    wEffect s c i m us = fillAndFlag s c n.toNat r.toNat t.1 t.2 := by
  subst hi; rfl

end

/-- The use of an instruction with one pointer. -/
theorem usesOf_single {k : Core} {i : Instr} {pu : PUse} (hi : wUses k.view i = [pu]) :
    k.usesOf i = [⟨k.view.p pu.p, k.view.org pu.p, k.view.pf pu.p, pu.n, pu.write, tget 0 k.view.popped (pBank (k.view.p pu.p))⟩] := by
  rw [Core.usesOf, hi]; rfl

/-- R145: what VCMP finds of two lanes. -/
theorem cmpLane_iff {cond : BitVec 3} (hc : cond.toNat ≤ 3) (int : Bool) (x y : Half) :
    let v := decodeCode fp32 x.toNat
    let w := decodeCode fp32 y.toNat
    (cmpLane int cond.toNat x y).1 = true ↔
      if int then (cond = 0 ∧ x = y) ∨ (cond = 1 ∧ x.toInt < y.toInt) ∨ (cond = 2 ∧ x.toInt ≤ y.toInt)
      else (cond = 0 ∧ eqVal v w = true) ∨ (cond = 1 ∧ ltVal v w = true) ∨ (cond = 2 ∧ (ltVal v w = true ∨ eqVal v w = true)) ∨
        (cond = 3 ∧ (isNan v = true ∨ isNan w = true)) := by
  intro v w
  cases int with
  | true =>
    have hcond : cond = 0 ∨ cond = 1 ∨ cond = 2 ∨ cond = 3 :=
      (by decide : ∀ c : BitVec 3, c.toNat ≤ 3 → c = 0 ∨ c = 1 ∨ c = 2 ∨ c = 3) cond hc
    obtain rfl | rfl | rfl | rfl := hcond <;> simp [cmpLane, BitVec.slt_iff_toInt_lt, BitVec.sle_iff_toInt_le]
  | false =>
    have h : cmpLane false cond.toNat x y = _ := fcmpCode_eq hc x.toNat y.toNat
    rw [h]
    exact decide_eq_true_iff

/-- A lane of a row that is made of two. -/
theorem getD_map_zip {β : Type} {as bs : List Half} {l : Nat} (ha : l < as.length) (hb : l < bs.length) (f : Half × Half → β) (z : β) :
    ((as.zip bs).map f).getD l z = f (as.getD l 0, bs.getD l 0) := by
  simp [List.getD_eq_getElem?_getD, ha, hb]

theorem getD_map_zip_zipIdx {as bs : List Half} {l : Nat} (ha : l < as.length) (hb : l < bs.length) (f : (Half × Half) × Nat → Half) :
    ((as.zip bs).zipIdx.map f).getD l 0 = f ((as.getD l 0, bs.getD l 0), l) := by
  simp [List.getD_eq_getElem?_getD, ha, hb]

theorem getD_map_range {β : Type} {n l : Nat} (h : l < n) (f : Nat → β) (z : β) : ((List.range n).map f).getD l z = f l := by
  simp [List.getD_eq_getElem?_getD, h]

theorem wideRowsAreWritten : WideRowsAreWritten := by
  intro s c e rest d r p q rm n cond sat peek pat op u k a m us row b bit base row_ fills after rel hh hr hl hst hB hI
  have hrow : row.length = 64 := accRow_length hl r.isLt
  have hput (i : Instr) (ls : List Half) (f : FFlags) := putRow_queue s c i d.toNat ls f
  have hmb := mbValue_eq k n
  refine ⟨fun hi hu => ?_, fun hi => ?_, fun hi => ?_, fun hi => ?_, fun hi => ?_, fun hi => ?_, fun hi => ?_, fun hi hc => ?_, fun hi => ?_, fun hi => ?_⟩
  · have hn : u.n = 64 := by
      have h : us = _ := usesOf_single (k := k) (i := e.i) (pu := ⟨p.toNat, 64, false⟩) (by rw [hi]; rfl)
      rw [hu] at h
      cases h
      rfl
    have he : wEffect s c e.i m us = _ := hu ▸ wEffect_vlda hi s c m
    exact wideExecute_row hh hr hl hst (by rw [hi]; rfl) he (hput ..) (rowWritten_putRow ..) ((length_readLanes ..).trans hn) fun _ _ => rfl
  · refine wideExecute_row hh hr hl hst (by rw [hi]; rfl) (wEffect_vdot hi s c m us) (hput ..) (rowWritten_putRow ..) ?_ fun l _ => ?_
    · show (row.tail).length + 1 = 64
      rw [List.length_tail, hrow]
    · cases l with
      | zero => rfl
      | succ l =>
        show row.tail.getD l 0 = row.getD (l + 1) 0
        simp
  · have hlen : ((row.zip b.2.1).zipIdx.map fun p => if (mbValue k n.toNat).getLsbD p.2 then p.1.1 else p.1.2).length = 64 := by
      simp [hrow, hB]
    refine wideExecute_row hh hr hl hst (by rw [hi]; rfl) (wEffect_vsel hi s c m us) (putRow_mbAfterRead_queue ..)
      ((rowWritten_putRow ..).mbAfterRead ..) hlen fun l h => ?_
    rw [← hmb]
    exact getD_map_zip_zipIdx (hrow.symm ▸ h) (hB.symm ▸ h) _
  · refine wideExecute_row hh hr hl hst (by rw [hi]; rfl) (wEffect_vperm hi s c m us) (hput ..) (rowWritten_putRow ..) ?_ fun l h => ?_
    · rw [List.length_map]; exact hI
    · have h' : l < b.2.2.1.length := hI.symm ▸ h
      show (b.2.2.1.map fun v => row.getD (v % 64).toNat 0).getD l 0 = row.getD (b.2.2.1.getD l 0 % 64).toNat 0
      simp only [List.getD_eq_getElem?_getD, List.getElem?_map, List.getElem?_eq_getElem h', Option.map_some, Option.getD_some]
  · refine wideExecute_row hh hr hl hst (by rw [hi]; rfl) (wEffect_vshuf hi s c m us) (hput ..) (rowWritten_putRow ..) (by simp) fun l h => ?_
    have hpat : pat = 6 ↔ pat.toNat = 6 := ⟨fun e => by rw [e]; rfl, fun e => BitVec.eq_of_toNat_eq e⟩
    rw [getD_map_range h, shufLane]
    simp only [hpat]
    rfl
  · refine ⟨iotaLane a.int, wideExecute_row hh hr hl hst (by rw [hi]; rfl) (wEffect_viota hi s c m us) (hput ..) (rowWritten_putRow ..) (by simp)
      fun l h => getD_map_range h .., fun l h => ?_⟩
    unfold iotaLane
    cases a.int with
    | true => rfl
    | false => exact viota_fp32 l h
  · refine wideExecute_row hh hr hl hst (by rw [hi]; rfl) (wEffect_vbcast hi s c m us) (putRow_mbAfterRead_queue ..)
      ((rowWritten_putRow ..).mbAfterRead ..) (List.length_replicate ..) fun l h => ?_
    rw [← hmb]
    rw [List.getD_eq_getElem?_getD, List.getElem?_replicate, if_pos h]
    rfl
  · refine ⟨_, _, wideExecute_fill hh (by rw [hi]; rfl) hr (wEffect_vcmp hi s c m us), fun l h => ?_⟩
    rw [getLsbD_vcmpMask _ h, List.map_map, getD_map_zip (hrow.symm ▸ h) (hB.symm ▸ h)]
    exact cmpLane_iff hc ..
  · exact wideExecute_fill hh (by rw [hi]; rfl) hr (wEffect_vred hi s c m us)
  · rw [hi]
    exact redValue_int_sum m row

end Sys2Proof.Machine

/-! # Bytes that wide stores write (R31, R132, R141, R278, R423) -/

namespace Sys2Proof.Machine

open Sys2Proof

/-! ## Bytes stored one after another at a list of addresses -/

/-- Stores bytes at addresses, in order, until either list ends. -/
def putBytes (m : Memory) : List Nat → List Byte → Memory
  | a :: as, b :: bs => putBytes (memSet m a b) as bs
  | _, _ => m

@[simp] theorem putBytes_nil_bytes (m : Memory) (as : List Nat) : putBytes m as [] = m := by
  cases as <;> rfl

theorem memWrite_take (m : Memory) (a n : Nat) (bs : List Byte) : memWrite m a (bs.take n) = putBytes m (List.range' a n) bs := by
  induction n generalizing m a bs with
  | zero => rfl
  | succ n ih =>
    cases bs with
    | nil => rfl
    | cons b bs => exact ih ..

theorem putBytes_append (m : Memory) (as as' : List Nat) (bs : List Byte) :
    putBytes m (as ++ as') bs = putBytes (putBytes m as bs) as' (bs.drop as.length) := by
  induction as generalizing m bs with
  | nil => rfl
  | cons a as ih =>
    cases bs with
    | nil => rw [List.drop_nil]; simp
    | cons b bs => exact ih ..

/-- Segments that are as long as their bytes are stored one after another. -/
theorem putBytes_append_append (m : Memory) {as : List Nat} {bs : List Byte} (h : as.length = bs.length) (as' : List Nat) (bs' : List Byte) :
    putBytes m (as ++ as') (bs ++ bs') = putBytes (putBytes m as bs) as' bs' := by
  induction as generalizing m bs with
  | nil => rw [List.eq_nil_of_length_eq_zero h.symm]; rfl
  | cons a as ih =>
    obtain ⟨b, bs, rfl⟩ := List.exists_cons_of_length_eq_add_one h.symm
    exact ih _ (Nat.succ.inj h)

/-- A byte at none of the addresses stays. -/
theorem memByte_putBytes_out {as : List Nat} {x : Nat} (h : x ∉ as) (m : Memory) (bs : List Byte) : memByte (putBytes m as bs) x = memByte m x := by
  induction as generalizing m bs with
  | nil => rfl
  | cons a as ih =>
    obtain ⟨h1, h2⟩ := not_or.1 fun e => h (List.mem_cons.2 e)
    cases bs with
    | nil => rfl
    | cons b bs => exact (ih h2 ..).trans ((memByte_memSet ..).trans (if_neg h1))

/-- At each address the latest byte stands. -/
theorem memByte_putBytes_last {g : Nat → Nat} {bs : List Byte} {i : Nat} (hi : i < bs.length)
    (h : ∀ j, i < j → j < bs.length → g j ≠ g i) (m : Memory) :
    memByte (putBytes m ((List.range bs.length).map g) bs) (g i) = bs.getD i 0 := by
  induction bs generalizing g i m with
  | nil => exact absurd hi (Nat.not_lt_zero _)
  | cons b bs ih =>
    rw [List.length_cons, List.range_succ_eq_map, List.map_cons, List.map_map, putBytes]
    cases i with
    | zero =>
      refine (memByte_putBytes_out (fun hm => ?_) _ _).trans ((memByte_memSet ..).trans (if_pos rfl))
      obtain ⟨j, hj, e⟩ := List.mem_map.1 hm
      exact h (j + 1) (Nat.succ_pos _) (Nat.succ_lt_succ (List.mem_range.1 hj)) e
    | succ i => exact ih (g := g ∘ Nat.succ) (Nat.lt_of_succ_lt_succ hi) (fun j h1 h2 => h (j + 1) (Nat.succ_lt_succ h1) (Nat.succ_lt_succ h2)) _

theorem memByte_putBytes_map_out {g : Nat → Nat} {n x : Nat} (h : ∀ i, i < n → g i ≠ x) (m : Memory) (bs : List Byte) :
    memByte (putBytes m ((List.range n).map g) bs) x = memByte m x := by
  refine memByte_putBytes_out (fun hm => ?_) m bs
  obtain ⟨i, hi, e⟩ := List.mem_map.1 hm
  exact h i (List.mem_range.1 hi) e

/-! ## The runs of an extent and of a ring, address by address (R31, R132, R278) -/

/-- The addresses of runs, in order. -/
def runAddrs (runs : List (Nat × Nat)) : List Nat := runs.flatMap fun q => List.range' q.1 q.2

theorem extAddr_lt (w : Word) (org : BitVec 21) (i : Nat) : extAddr w org i < 2 ^ 21 := by
  unfold extAddr
  split <;> exact Nat.mod_lt _ (by decide)

theorem extRun_le (w : Word) (org : BitVec 21) (i n : Nat) : extRun w org i n ≤ n := by
  unfold extRun
  dsimp only
  split <;> omega

theorem extRun_pos (w : Word) (org : BitVec 21) (i : Nat) {n : Nat} (hn : 0 < n) : 0 < extRun w org i n := by
  have h := extAddr_lt w org i
  unfold extRun
  dsimp only
  split
  · omega
  · next hp =>
    have h1 := Int.emod_lt_of_pos ((pAddr w : Int) - org.toNat + i) (show (0 : Int) < pWrap w by omega)
    omega

/-- Within a run the bytes of an extent lie one after another. -/
theorem extAddr_run {w : Word} {org : BitVec 21} {i n j : Nat} (h : j < extRun w org i n) :
    extAddr w org (i + j) = extAddr w org i + j := by
  unfold extRun at h
  dsimp only at h
  unfold extAddr at h ⊢
  split at h
  · next hp =>
    rw [if_pos hp, if_pos hp]
    omega
  · next hp =>
    rw [if_neg hp, if_neg hp]
    have hpos : (0 : Int) < pWrap w := by omega
    rw [Nat.cast_add, ← add_assoc]
    generalize (pAddr w : Int) - org.toNat + i = v at *
    have h0 := Int.emod_nonneg v hpos.ne'
    have hj : (v + j) % (pWrap w : Int) = v % (pWrap w : Int) + j := by
      rw [← Int.emod_add_emod]
      exact Int.emod_eq_of_lt (by omega) (by omega)
    rw [hj]
    omega

theorem map_extAddr_run {w : Word} {org : BitVec 21} {i n m : Nat} (h : m ≤ extRun w org i n) :
    (List.range' i m).map (extAddr w org) = List.range' (extAddr w org i) m := by
  refine List.ext_getElem (by simp) fun j h1 h2 => ?_
  have hj : j < m := by simpa using h2
  simp only [List.getElem_map, List.getElem_range', one_mul]
  exact extAddr_run (hj.trans_le h)

theorem runAddrs_extRuns (w : Word) (org : BitVec 21) (f i n : Nat) (h : n ≤ i + f) :
    runAddrs (extRuns w org f i n) = (List.range' i (n - i)).map (extAddr w org) := by
  induction f generalizing i with
  | zero => rw [Nat.sub_eq_zero_of_le (show n ≤ i from h)]; rfl
  | succ f ih =>
    rw [extRuns]
    split
    · next hle => rw [Nat.sub_eq_zero_of_le hle]; rfl
    · next hlt =>
      have hm : max 1 (extRun w org i (n - i)) = extRun w org i (n - i) := max_eq_right (extRun_pos w org i (by omega))
      have hle := extRun_le w org i (n - i)
      have hpos := extRun_pos w org i (n := n - i) (by omega)
      have hrest : runAddrs (extRuns w org f (i + extRun w org i (n - i)) n) = _ := ih (i + extRun w org i (n - i)) (by omega)
      have hsplit : List.range' i (n - i) = List.range' i (extRun w org i (n - i)) ++
          List.range' (i + extRun w org i (n - i)) (n - (i + extRun w org i (n - i))) := by
        rw [List.range'_append_1]
        congr 1
        omega
      simp only [hm]
      rw [hsplit, List.map_append, map_extAddr_run le_rfl, ← hrest]
      rfl

theorem runAddrs_extent (w : Word) (org : BitVec 21) (n : Nat) : runAddrs (extent w org n) = (List.range n).map (extAddr w org) := by
  rw [extent, runAddrs_extRuns _ _ _ _ _ (Nat.le_add_left ..), List.range_eq_range']
  rfl

/-- The address of the byte at a position of a FIFO bank's ring. -/
def ringAddr (b pos i : Nat) : Nat := b * 65536 + (pos + i) % 65536

theorem runAddrs_ringRuns (b pos : Nat) {n : Nat} (hn : n ≤ 65536) : runAddrs (ringRuns b pos n) = (List.range n).map (ringAddr b pos) := by
  unfold ringRuns
  dsimp only
  split
  · next h =>
    refine List.ext_getElem (by simp [runAddrs]) fun j h1 h2 => ?_
    have hj : j < n := by simpa using h2
    simp only [runAddrs, List.flatMap_cons, List.flatMap_nil, List.append_nil, List.getElem_range', List.getElem_map, List.getElem_range, ringAddr]
    omega
  · next h =>
    refine List.ext_getElem (by simp [runAddrs]; omega) fun j h1 h2 => ?_
    have hj : j < n := by simpa using h2
    simp only [runAddrs, List.flatMap_cons, List.flatMap_nil, List.append_nil, List.getElem_append, List.getElem_range', List.length_range',
      List.getElem_map, List.getElem_range, ringAddr]
    split <;> omega

theorem ringAddr_injective (b pos : Nat) {i j : Nat} (hi : i < 65536) (hj : j < 65536) (h : ringAddr b pos i = ringAddr b pos j) : i = j := by
  unfold ringAddr at h
  omega

/-! ## Local bytes written without a watchpoint that is met (R423) -/

theorem watchBank_of_no_watch {s : State} (h : s.watches = []) (c a n agent : Nat) (own : Option Nat) :
    watchBank s c a n agent .wideWrite own = s := by
  rw [watchBank, h]
  exact if_pos rfl

theorem writeRunsAt_cons {s : State} (h : s.watches = []) (c a n : Nat) (t : List (Nat × Nat)) (bs : List Byte) :
    writeRunsAt s c ((a, n) :: t) bs = writeRunsAt (locWrite s c a (bs.take n)) c t (bs.drop n) := by
  rw [writeRunsAt, watchBank_of_no_watch (s := locWrite s c a (bs.take n)) h]

/-- Of a state, stores of wide instructions change the cores alone. -/
theorem writeRunsAt_field {α : Type} (g : State → α) (hg : ∀ s c k, g (State.setCore s c k) = g s) (c : Nat) (runs : List (Nat × Nat)) (bs : List Byte)
    {s : State} (h : s.watches = []) : g (writeRunsAt s c runs bs) = g s := by
  induction runs generalizing s bs with
  | nil => rfl
  | cons q t ih =>
    obtain ⟨a, n⟩ := q
    rw [writeRunsAt_cons h, ih (s := locWrite s c a (bs.take n)) _ h]
    exact hg ..

/-- Of its core, local bytes and the poison of their sectors. -/
theorem writeRunsAt_core_field {α : Type} (g : Core → α) (hg : ∀ (k : Core) m p, g { k with loc := m, locPoison := p } = g k) (c : Nat)
    (runs : List (Nat × Nat)) (bs : List Byte) {s : State} (h : s.watches = []) : g ((writeRunsAt s c runs bs).core c) = g (s.core c) := by
  induction runs generalizing s bs with
  | nil => rfl
  | cons q t ih =>
    obtain ⟨a, n⟩ := q
    rw [writeRunsAt_cons h, ih (s := locWrite s c a (bs.take n)) _ h, locWrite, State.core_updCore, if_pos rfl]
    exact hg ..

theorem writeRunsAt_loc (c : Nat) (runs : List (Nat × Nat)) (bs : List Byte) {s : State} (h : s.watches = []) :
    ((writeRunsAt s c runs bs).core c).loc = putBytes (s.core c).loc (runAddrs runs) bs := by
  induction runs generalizing s bs with
  | nil => rfl
  | cons q t ih =>
    obtain ⟨a, n⟩ := q
    have hl : ((locWrite s c a (bs.take n)).core c).loc = putBytes (s.core c).loc (List.range' a n) bs := by
      rw [locWrite, State.core_updCore, if_pos rfl]
      exact memWrite_take ..
    have ha : runAddrs ((a, n) :: t) = List.range' a n ++ runAddrs t := rfl
    rw [writeRunsAt_cons h, ih (s := locWrite s c a (bs.take n)) _ h, hl, ha, putBytes_append, List.length_range']

end Sys2Proof.Machine

/-! # VSTA and VCVT (R56-R58, R132, R141, R151, R278) -/

namespace Sys2Proof.Machine

open Sys2Proof

/-! ## What a wide store leaves as it is -/

/-- From `s` to `t` no lane, no mailbox, no queue and no X register of core `c` changes, and no byte of memory; and no watch stands. -/
structure KeepsLanes (c : Nat) (s t : State) : Prop where
  queue : (t.core c).wide.queue = (s.core c).wide.queue
  lanes : (t.core c).wide.acc.lanes = (s.core c).wide.acc.lanes
  mb : (t.core c).mb = (s.core c).mb
  mbFull : (t.core c).mbFull = (s.core c).mbFull
  x : (t.ctx c 0).x = (s.ctx c 0).x
  mem : t.mem = s.mem
  watches : t.watches = s.watches

theorem KeepsLanes.refl (c : Nat) (s : State) : KeepsLanes c s s := ⟨rfl, rfl, rfl, rfl, rfl, rfl, rfl⟩

theorem KeepsLanes.trans {c : Nat} {s t u : State} (h : KeepsLanes c s t) (g : KeepsLanes c t u) : KeepsLanes c s u where
  queue := g.queue.trans h.queue
  lanes := g.lanes.trans h.lanes
  mb := g.mb.trans h.mb
  mbFull := g.mbFull.trans h.mbFull
  x := g.x.trans h.x
  mem := g.mem.trans h.mem
  watches := g.watches.trans h.watches

theorem keepsLanes_used (c : Nat) (s : State) : KeepsLanes c s s.used := ⟨rfl, rfl, rfl, rfl, rfl, rfl, rfl⟩

theorem keepsLanes_writeRunsAt {s : State} (h : s.watches = []) (c : Nat) (runs : List (Nat × Nat)) (bs : List Byte) :
    KeepsLanes c s (writeRunsAt s c runs bs) where
  queue := writeRunsAt_core_field (fun k => k.wide.queue) (fun _ _ _ => rfl) c runs bs h
  lanes := writeRunsAt_core_field (fun k => k.wide.acc.lanes) (fun _ _ _ => rfl) c runs bs h
  mb := writeRunsAt_core_field Core.mb (fun _ _ _ => rfl) c runs bs h
  mbFull := writeRunsAt_core_field Core.mbFull (fun _ _ _ => rfl) c runs bs h
  x := congrArg Ctx.x (writeRunsAt_core_field (Core.ctx · 0) (fun _ _ _ => rfl) c runs bs h)
  mem := writeRunsAt_field State.mem (fun _ _ _ => rfl) c runs bs h
  watches := writeRunsAt_field State.watches (fun _ _ _ => rfl) c runs bs h

/-- A core may change in other ways than these. -/
theorem keepsLanes_updCore {s : State} {c : Nat} {f : Core → Core} (hq : (f (s.core c)).wide.queue = (s.core c).wide.queue)
    (hl : (f (s.core c)).wide.acc.lanes = (s.core c).wide.acc.lanes) (hmb : (f (s.core c)).mb = (s.core c).mb)
    (hfull : (f (s.core c)).mbFull = (s.core c).mbFull) (hx : ((f (s.core c)).ctx 0).x = ((s.core c).ctx 0).x) :
    KeepsLanes c s (s.updCore c f) := by
  have hk : (s.updCore c f).core c = f (s.core c) := (State.core_updCore ..).trans (if_pos rfl)
  exact ⟨by rw [hk, hq], by rw [hk, hl], by rw [hk, hmb], by rw [hk, hfull], by rw [State.ctx, hk, hx]; rfl, rfl, rfl⟩

theorem keepsLanes_orFlags (s : State) (c : Nat) (now : Word) (f : FFlags) : KeepsLanes c s (s.updCtx c 0 fun x => x.orFlags now f) where
  queue := core_updCtx_field (fun k => k.wide.queue) (fun _ _ _ => rfl) ..
  lanes := core_updCtx_field (fun k => k.wide.acc.lanes) (fun _ _ _ => rfl) ..
  mb := core_updCtx_field Core.mb (fun _ _ _ => rfl) ..
  mbFull := core_updCtx_field Core.mbFull (fun _ _ _ => rfl) ..
  x := by rw [State.ctx_updCtx, if_pos ⟨rfl, rfl⟩]; rfl
  mem := rfl
  watches := rfl

theorem keepsLanes_flagRow (s : State) (c r : Nat) (f : FFlags) : KeepsLanes c s (flagRow s c r f) :=
  (keepsLanes_updCore rfl rfl rfl rfl rfl).trans (keepsLanes_orFlags ..)

/-- WIDE_EXECUTE goes on to `t`: the head has left the queue, and what a store keeps is as it was. -/
def StoreEnds (s : State) (c : Nat) (rest : List WEntry) (t : State) : Prop :=
  exec (.wideExecute c) s = .next t ∧ (t.core c).wide.queue = rest ∧ t.mem = s.mem ∧ (t.core c).wide.acc.lanes = (s.core c).wide.acc.lanes ∧
    (t.core c).mb = (s.core c).mb ∧ (t.core c).mbFull = (s.core c).mbFull ∧ (t.ctx c 0).x = (s.ctx c 0).x

/-- An instruction that stores, at the head of the queue. -/
theorem wideExecute_store {s : State} {c : Nat} {e : WEntry} {rest : List WEntry} (hh : HeadIs s c e rest) (hi : isWForm e.i = true)
    (hr : wReady s c e.i = true) {u : State} (hu : wEffect s c e.i (wideRm e.i e.rm) ((s.core c).usesOf e.i) = u) (hk : KeepsLanes c s u) :
    ∃ t, StoreEnds s c rest t ∧ (t.core c).loc = (u.core c).loc ∧ ((∀ v ∈ (s.core c).usesOf e.i, v.write = true) → (t.core c).fifo = (u.core c).fifo) := by
  have hend := wideEnd_wExec hu
  rw [hk.queue, hh.2, List.tail_cons] at hend
  refine ⟨_, ⟨wideExecute_wform hh hi hr, hend.queue, hend.mem.trans hk.mem, ?_, hend.mb.trans hk.mb, hend.mbFull.trans hk.mbFull,
    hend.x.trans hk.x⟩, hend.loc, fun hw => ?_⟩
  · rw [hend.acc, hk.lanes]
  · rw [popHead_core_field Core.fifo (fun _ _ => rfl) fun _ _ => rfl, wExec_fifo hw, hu]

/-! ## VSTA (R132, R141, R278) -/

@[simp] theorem length_bytesOfNat (n v : Nat) : (bytesOfNat n v).length = n := by
  rw [bytesOfNat_eq_map, List.length_map, List.length_range]

theorem fmtBytes_le (f : Half) : fmtBytes f ≤ 4 := by
  unfold fmtBytes
  split <;> decide

/-- Elements of `w` bytes, one after another. -/
theorem length_flatMap_bytes {α : Type} (w : Nat) (f : α → Nat) (l : List α) : (l.flatMap fun e => bytesOfNat w (f e)).length = l.length * w := by
  induction l with
  | nil => simp
  | cons a l ih => rw [List.flatMap_cons, List.length_append, ih, length_bytesOfNat, List.length_cons, Nat.succ_mul, Nat.add_comm]

theorem storeUse_extent {s : State} {u : RUse} (hw : s.watches = []) (hm : pMode u.w ≠ 2) (c : Nat) (bs : List Byte) :
    KeepsLanes c s (storeUse s c u bs) ∧ ((storeUse s c u bs).core c).loc =
      putBytes (s.core c).loc ((List.range bs.length).map (extAddr u.w u.org)) bs := by
  rw [storeUse, if_neg hm, ← runAddrs_extent]
  exact ⟨keepsLanes_writeRunsAt hw .., writeRunsAt_loc _ _ _ hw⟩

/-- R278: bytes go behind the tail of a FIFO bank, which moves past them. -/
theorem storeUse_ring {s : State} {u : RUse} (hw : s.watches = []) (hm : pMode u.w = 2) (c : Nat) {bs : List Byte} (hb : bs.length ≤ 65536) :
    let tail := (tget FifoBank.reset (s.core c).fifo (pBank u.w)).tail
    KeepsLanes c s (storeUse s c u bs) ∧ ((storeUse s c u bs).core c).loc =
        putBytes (s.core c).loc ((List.range bs.length).map (ringAddr (pBank u.w) tail.toNat)) bs ∧
      (tget FifoBank.reset ((storeUse s c u bs).core c).fifo (pBank u.w)).tail = tail + BitVec.ofNat 24 bs.length := by
  intro tail
  rw [storeUse, if_pos hm, ← runAddrs_ringRuns _ _ hb]
  refine ⟨(keepsLanes_writeRunsAt hw ..).trans (keepsLanes_updCore rfl rfl rfl rfl rfl), ?_, ?_⟩
  · rw [State.core_updCore, if_pos rfl]
    exact writeRunsAt_loc _ _ _ hw
  · rw [State.core_updCore, if_pos rfl]
    dsimp only
    rw [tget_tput, if_pos rfl]
    rfl

theorem flagRow_loc (s : State) (c r : Nat) (f : FFlags) : ((flagRow s c r f).core c).loc = (s.core c).loc :=
  flagRow_core_field Core.loc (fun _ _ => rfl) (fun _ _ _ => rfl) ..

theorem flagRow_fifo (s : State) (c r : Nat) (f : FFlags) : ((flagRow s c r f).core c).fifo = (s.core c).fifo :=
  flagRow_core_field Core.fifo (fun _ _ => rfl) (fun _ _ _ => rfl) ..

/-- The lanes of a row as VSTA stores them. -/
def vstaCells (a : Acc) (m : Nat) (sat : BitVec 1) (r : Nat) (u : RUse) : List (Nat × FFlags) :=
  (accRow a r).map fun x => storeLane a.int m sat u.fmt x

theorem wEffect_vsta {i : Instr} {r : BitVec 4} {p rm : BitVec 3} {sat : BitVec 1} (hi : i = .vsta r p rm sat) (s : State) (c m : Nat) (u : RUse) :
    let cells := vstaCells (s.core c).wide.acc m sat r.toNat u
    wEffect s c i m [u] = flagRow (storeUse s c u (cells.flatMap fun x => bytesOfNat (fmtBytes u.fmt) x.1)) c r.toNat
      ((cells.map (·.2)).foldl (· ||| ·) 0) := by
  subst hi; rfl

/-- R132, R141: VSTA stores over the extent of its pointer. -/
theorem vsta_extent {s : State} {c : Nat} {e : WEntry} {rest : List WEntry} {r : BitVec 4} {p rm : BitVec 3} {sat : BitVec 1} {u : RUse}
    (hh : HeadIs s c e rest) (hr : wReady s c e.i = true) (hw : s.watches = []) (hu : (s.core c).usesOf e.i = [u])
    (hi : e.i = .vsta r p rm sat) (hm : pMode u.w ≠ 2) :
    let bs := (vstaCells (s.core c).wide.acc (wideRm e.i e.rm) sat r.toNat u).flatMap fun x => bytesOfNat (fmtBytes u.fmt) x.1
    ∃ t, StoreEnds s c rest t ∧ (t.core c).loc = putBytes (s.core c).loc ((List.range bs.length).map (extAddr u.w u.org)) bs := by
  intro bs
  have he : wEffect s c e.i (wideRm e.i e.rm) ((s.core c).usesOf e.i) = _ := hu ▸ wEffect_vsta hi s c (wideRm e.i e.rm) u
  obtain ⟨hk, hloc⟩ := storeUse_extent (u := u) hw hm c bs
  obtain ⟨t, ht, htl, -⟩ := wideExecute_store hh (by rw [hi]; rfl) hr he (hk.trans (keepsLanes_flagRow ..))
  exact ⟨t, ht, htl.trans ((flagRow_loc ..).trans hloc)⟩

/-- R278: VSTA in MODE 10 appends to its FIFO bank. -/
theorem vsta_ring {s : State} {c : Nat} {e : WEntry} {rest : List WEntry} {r : BitVec 4} {p rm : BitVec 3} {sat : BitVec 1} {u : RUse}
    (hh : HeadIs s c e rest) (hr : wReady s c e.i = true) (hw : s.watches = []) (hu : (s.core c).usesOf e.i = [u])
    (hi : e.i = .vsta r p rm sat) (hm : pMode u.w = 2) :
    let bs := (vstaCells (s.core c).wide.acc (wideRm e.i e.rm) sat r.toNat u).flatMap fun x => bytesOfNat (fmtBytes u.fmt) x.1
    let tail := (tget FifoBank.reset (s.core c).fifo (pBank u.w)).tail
    bs.length ≤ 65536 → ∃ t, StoreEnds s c rest t ∧
      (t.core c).loc = putBytes (s.core c).loc ((List.range bs.length).map (ringAddr (pBank u.w) tail.toNat)) bs ∧
      (tget FifoBank.reset (t.core c).fifo (pBank u.w)).tail = tail + BitVec.ofNat 24 bs.length := by
  intro bs tail hb
  have he : wEffect s c e.i (wideRm e.i e.rm) ((s.core c).usesOf e.i) = _ := hu ▸ wEffect_vsta hi s c (wideRm e.i e.rm) u
  obtain ⟨hk, hloc, htail⟩ := storeUse_ring (u := u) hw hm c hb
  have hwrite : ∀ v ∈ (s.core c).usesOf e.i, v.write = true := by
    rw [usesOf_single (pu := ⟨p.toNat, 64, true⟩) (by rw [hi]; rfl)]
    simp
  obtain ⟨t, ht, htl, htf⟩ := wideExecute_store hh (by rw [hi]; rfl) hr he (hk.trans (keepsLanes_flagRow ..))
  refine ⟨t, ht, htl.trans ((flagRow_loc ..).trans hloc), ?_⟩
  rw [htf hwrite, flagRow_fifo]
  exact htail

/-! ## VCVT and VCVT.AUTO, block by block (R56-R58, R151) -/

/-- Lanes with their sign bits and numbers. -/
abbrev Numbered := List ((Val × Bool) × Nat)

/-- The lanes of a block. -/
def blockLanes (u : RUse) (xs : Numbered) (b : Nat) : Numbered := xs.filter fun x => blockOf u.w u.org u.fmt x.2 == b

/-- What the conversion makes of the lanes of a block: its elements, its scale and its status word. -/
def cvtOut (c : Nat) (u : RUse) (rm : Rm) (sat auto : Bool) (inputs : List (Val × Bool)) (b : Nat) (t : State) :
    List (Nat × FFlags × Bool × Bool) × Nat × Nat :=
  cvtBlock (fmtOf u.fmt) u.fmt rm sat auto (natOfBytes (memRead (t.core c).loc (scaleAddr u.w u.org b) 2))
    (bits (natOfBytes (memRead (t.core c).loc (statAddr u.w u.org b) 2)) 0 9) t.pick inputs

/-- The same of the lanes of a block among all. -/
def blockOut (c : Nat) (u : RUse) (rm : Rm) (sat auto : Bool) (xs : Numbered) (b : Nat) (t : State) : List (Nat × FFlags × Bool × Bool) × Nat × Nat :=
  cvtOut c u rm sat auto ((blockLanes u xs b).map (·.1)) b t

/-- The elements of a block, each with its lane. -/
def blockPairs (c : Nat) (u : RUse) (rm : Rm) (sat auto : Bool) (xs : Numbered) (b : Nat) (t : State) :
    List (((Val × Bool) × Nat) × (Nat × FFlags × Bool × Bool)) :=
  (blockLanes u xs b).zip (blockOut c u rm sat auto xs b t).1

/-- Stores elements, each at its place in the extent. -/
def storeElems (c : Nat) (u : RUse) (ps : List (((Val × Bool) × Nat) × (Nat × FFlags × Bool × Bool))) (t : State) : State :=
  ps.foldl (fun q p => writeRunsAt q c (extRuns u.w u.org (fmtBytes u.fmt) (p.1.2 * fmtBytes u.fmt) ((p.1.2 + 1) * fmtBytes u.fmt))
    (bytesOfNat (fmtBytes u.fmt) p.2.1)) t

/-- A block is stored: its elements, its scale where the conversion chose it, its status word. -/
def storeBlock (c : Nat) (u : RUse) (rm : Rm) (sat auto : Bool) (xs : Numbered) (b : Nat) (t : State) : State :=
  let t1 := storeElems c u (blockPairs c u rm sat auto xs b t) t.used
  let t2 := if auto then writeRunsAt t1 c [(scaleAddr u.w u.org b, 2)] (bytesOfNat 2 (blockOut c u rm sat auto xs b t).2.1) else t1
  writeRunsAt t2 c [(statAddr u.w u.org b, 2)] (bytesOfNat 2 (blockOut c u rm sat auto xs b t).2.2)

/-- The status words of the rows that a block was taken from gain its flags. -/
def flagElems (s : Nat) (ps : List (((Val × Bool) × Nat) × (Nat × FFlags × Bool × Bool))) (k : Core) : Core :=
  { k with wide := { k.wide with acc := ps.foldl (fun a p => rowFlags a (s + p.1.2 / 64) p.2.2.1) k.wide.acc } }

/-- One block of the conversion. -/
def cvtStep (c : Nat) (u : RUse) (rm : Rm) (sat auto : Bool) (s : Nat) (xs : Numbered) (b : Nat) (t : State) : State :=
  let t4 := (storeBlock c u rm sat auto xs b t).updCore c (flagElems s (blockPairs c u rm sat auto xs b t))
  t4.updCtx c 0 fun x => x.orFlags t4.cycle (((blockOut c u rm sat auto xs b t).1.map (·.2.1)).foldl (· ||| ·) 0)

theorem cvtBlocks_cons (c : Nat) (u : RUse) (rm : Rm) (sat auto : Bool) (s : Nat) (xs : Numbered) (b : Nat) (bs : List Nat) (t : State) :
    cvtBlocks c u rm sat auto s xs (b :: bs) t = cvtBlocks c u rm sat auto s xs bs (cvtStep c u rm sat auto s xs b t) := rfl

/-! ## The bytes that the conversion writes -/

/-- The addresses of the element of lane `i`. -/
def elemAddrs (u : RUse) (i : Nat) : List Nat := (List.range' (i * fmtBytes u.fmt) (fmtBytes u.fmt)).map (extAddr u.w u.org)

theorem runAddrs_elem (u : RUse) (i : Nat) : runAddrs (extRuns u.w u.org (fmtBytes u.fmt) (i * fmtBytes u.fmt) ((i + 1) * fmtBytes u.fmt)) = elemAddrs u i := by
  have h : (i + 1) * fmtBytes u.fmt = i * fmtBytes u.fmt + fmtBytes u.fmt := Nat.succ_mul ..
  rw [runAddrs_extRuns _ _ _ _ _ h.le, h, Nat.add_sub_cancel_left, elemAddrs]

section
variable {c : Nat} {u : RUse} {t : State} (hw : t.watches = [])
include hw

theorem keepsLanes_storeElems (ps : List (((Val × Bool) × Nat) × (Nat × FFlags × Bool × Bool))) : KeepsLanes c t (storeElems c u ps t) := by
  induction ps generalizing t with
  | nil => exact .refl ..
  | cons p ps ih =>
    have h := keepsLanes_writeRunsAt hw c (extRuns u.w u.org (fmtBytes u.fmt) (p.1.2 * fmtBytes u.fmt) ((p.1.2 + 1) * fmtBytes u.fmt))
      (bytesOfNat (fmtBytes u.fmt) p.2.1)
    exact h.trans (ih (h.watches.trans hw))

theorem storeElems_loc (ps : List (((Val × Bool) × Nat) × (Nat × FFlags × Bool × Bool))) : ((storeElems c u ps t).core c).loc =
    putBytes (t.core c).loc (ps.flatMap fun p => elemAddrs u p.1.2) (ps.flatMap fun p => bytesOfNat (fmtBytes u.fmt) p.2.1) := by
  induction ps generalizing t with
  | nil => rfl
  | cons p ps ih =>
    have h := keepsLanes_writeRunsAt hw c (extRuns u.w u.org (fmtBytes u.fmt) (p.1.2 * fmtBytes u.fmt) ((p.1.2 + 1) * fmtBytes u.fmt))
      (bytesOfNat (fmtBytes u.fmt) p.2.1)
    have hl := writeRunsAt_loc c (extRuns u.w u.org (fmtBytes u.fmt) (p.1.2 * fmtBytes u.fmt) ((p.1.2 + 1) * fmtBytes u.fmt))
      (bytesOfNat (fmtBytes u.fmt) p.2.1) hw
    rw [List.flatMap_cons, List.flatMap_cons, putBytes_append_append _ (by simp [elemAddrs]), ← runAddrs_elem, ← hl]
    exact ih (h.watches.trans hw)

variable (rm : Rm) (sat auto : Bool) (xs : Numbered) (b : Nat)

theorem keepsLanes_storeBlock : KeepsLanes c t (storeBlock c u rm sat auto xs b t) := by
  have h1 : KeepsLanes c t (storeElems c u (blockPairs c u rm sat auto xs b t) t.used) := (keepsLanes_used c t).trans (keepsLanes_storeElems (t := t.used) hw _)
  have hw1 := h1.watches.trans hw
  rw [storeBlock]
  split
  · have h2 := keepsLanes_writeRunsAt hw1 c [(scaleAddr u.w u.org b, 2)] (bytesOfNat 2 (blockOut c u rm sat auto xs b t).2.1)
    exact h1.trans (h2.trans (keepsLanes_writeRunsAt (h2.watches.trans hw1) ..))
  · exact h1.trans (keepsLanes_writeRunsAt hw1 ..)

/-- The local bytes when a block is stored: its elements, then its scale, then its status word. -/
theorem storeBlock_loc :
    let ps := blockPairs c u rm sat auto xs b t
    let out := blockOut c u rm sat auto xs b t
    let m := putBytes (t.core c).loc (ps.flatMap fun p => elemAddrs u p.1.2) (ps.flatMap fun p => bytesOfNat (fmtBytes u.fmt) p.2.1)
    ((storeBlock c u rm sat auto xs b t).core c).loc =
      putBytes (if auto then putBytes m [scaleAddr u.w u.org b, scaleAddr u.w u.org b + 1] (bytesOfNat 2 out.2.1) else m)
        [statAddr u.w u.org b, statAddr u.w u.org b + 1] (bytesOfNat 2 out.2.2) := by
  intro ps out m
  have h1 : KeepsLanes c t (storeElems c u ps t.used) := (keepsLanes_used c t).trans (keepsLanes_storeElems (t := t.used) hw _)
  have hm : ((storeElems c u ps t.used).core c).loc = m := storeElems_loc (t := t.used) hw _
  have hw1 := h1.watches.trans hw
  rw [storeBlock]
  split
  · have h2 := keepsLanes_writeRunsAt hw1 c [(scaleAddr u.w u.org b, 2)] (bytesOfNat 2 out.2.1)
    rw [writeRunsAt_loc _ _ _ (h2.watches.trans hw1), writeRunsAt_loc _ _ _ hw1, hm]
    rfl
  · rw [writeRunsAt_loc _ _ _ hw1, hm]
    rfl

end

theorem flagElems_lanes (s : Nat) (ps : List (((Val × Bool) × Nat) × (Nat × FFlags × Bool × Bool))) (k : Core) :
    (flagElems s ps k).wide.acc.lanes = k.wide.acc.lanes := by
  show (ps.foldl _ k.wide.acc).lanes = _
  generalize k.wide.acc = a
  induction ps generalizing a with
  | nil => rfl
  | cons p ps ih => exact ih _

theorem keepsLanes_cvtStep {c : Nat} {u : RUse} {t : State} (hw : t.watches = []) (rm : Rm) (sat auto : Bool) (s : Nat) (xs : Numbered) (b : Nat) :
    KeepsLanes c t (cvtStep c u rm sat auto s xs b t) :=
  (keepsLanes_storeBlock hw ..).trans ((keepsLanes_updCore rfl (flagElems_lanes ..) rfl rfl rfl).trans (keepsLanes_orFlags ..))

theorem cvtStep_loc (c : Nat) (u : RUse) (rm : Rm) (sat auto : Bool) (s : Nat) (xs : Numbered) (b : Nat) (t : State) :
    ((cvtStep c u rm sat auto s xs b t).core c).loc = ((storeBlock c u rm sat auto xs b t).core c).loc := by
  rw [cvtStep, core_updCtx_field Core.loc fun _ _ _ => rfl, State.core_updCore, if_pos rfl]
  rfl

/-- The addresses that the conversion of a block may write. -/
def blockAddrs (u : RUse) (b : Nat) : List Nat :=
  [scaleAddr u.w u.org b, scaleAddr u.w u.org b + 1, statAddr u.w u.org b, statAddr u.w u.org b + 1]

theorem mem_elemAddrs {u : RUse} {i x : Nat} (h : x ∈ elemAddrs u i) : ∃ j, j < fmtBytes u.fmt ∧ extAddr u.w u.org (i * fmtBytes u.fmt + j) = x := by
  obtain ⟨k, hk, rfl⟩ := List.mem_map.1 h
  obtain ⟨h1, h2⟩ := List.mem_range'_1.1 hk
  exact ⟨k - i * fmtBytes u.fmt, by omega, by rw [Nat.add_sub_cancel' h1]⟩

/-- Element `i` of `n` lies in an extent of `n` elements. -/
theorem elem_lt {i j n w : Nat} (hi : i < n) (hj : j < w) : i * w + j < n * w :=
  calc i * w + j < i * w + w := Nat.add_lt_add_left hj _
    _ = (i + 1) * w := (Nat.succ_mul ..).symm
    _ ≤ n * w := Nat.mul_le_mul_right _ hi

/-- A block leaves every byte that is neither in the extent nor its scale or status word. -/
theorem memByte_cvtStep_out {c : Nat} {u : RUse} {t : State} (hw : t.watches = []) {xs : Numbered} (hx : ∀ x ∈ xs, x.2 < u.n) {b x : Nat}
    (he : ∀ i, i < u.size → extAddr u.w u.org i ≠ x) (hb : x ∉ blockAddrs u b) (rm : Rm) (sat auto : Bool) (s : Nat) :
    memByte ((cvtStep c u rm sat auto s xs b t).core c).loc x = memByte (t.core c).loc x := by
  have hps : x ∉ (blockPairs c u rm sat auto xs b t).flatMap fun p => elemAddrs u p.1.2 := by
    intro h
    obtain ⟨p, hp, h⟩ := List.mem_flatMap.1 h
    obtain ⟨j, hj, h⟩ := mem_elemAddrs h
    have hlane : p.1.2 < u.n := hx _ (List.mem_filter.1 (List.of_mem_zip hp).1).1
    exact he _ (elem_lt hlane hj) h
  simp only [blockAddrs, List.mem_cons, List.not_mem_nil, or_false, not_or] at hb
  obtain ⟨h1, h2, h3, h4⟩ := hb
  rw [cvtStep_loc, storeBlock_loc hw, memByte_putBytes_out (by simp [h3, h4])]
  split
  · rw [memByte_putBytes_out (by simp [h1, h2]), memByte_putBytes_out hps]
  · rw [memByte_putBytes_out hps]

/-- R151: the conversion changes no lane, and no byte but those of the extent, the scales and the status words of its blocks. -/
theorem cvtBlocks_frame {c : Nat} {u : RUse} {xs : Numbered} (hx : ∀ x ∈ xs, x.2 < u.n) (rm : Rm) (sat auto : Bool) (s : Nat) (bs : List Nat)
    {t : State} (hw : t.watches = []) :
    KeepsLanes c t (cvtBlocks c u rm sat auto s xs bs t) ∧ ∀ x, (∀ i, i < u.size → extAddr u.w u.org i ≠ x) → (∀ b ∈ bs, x ∉ blockAddrs u b) →
      memByte ((cvtBlocks c u rm sat auto s xs bs t).core c).loc x = memByte (t.core c).loc x := by
  induction bs generalizing t with
  | nil => exact ⟨.refl .., fun _ _ _ => rfl⟩
  | cons b bs ih =>
    have h1 := keepsLanes_cvtStep (c := c) (u := u) hw rm sat auto s xs b
    obtain ⟨h2, h3⟩ := ih (h1.watches.trans hw)
    rw [cvtBlocks_cons]
    exact ⟨h1.trans h2, fun x he hb => (h3 x he fun y hy => hb y (List.mem_cons_of_mem _ hy)).trans
      (memByte_cvtStep_out hw hx he (hb b (List.mem_cons_self ..)) ..)⟩

/-! ## A conversion of one block -/

theorem mem_foldl_nadd_map {α : Type} (f : α → Nat) (l : List α) (t : List Nat) (q : Nat) :
    q ∈ l.foldl (fun t k => nadd t (f k)) t ↔ q ∈ t ∨ ∃ k ∈ l, f k = q := by
  induction l generalizing t with
  | nil => simp
  | cons a l ih => rw [List.foldl_cons, ih, mem_nadd]; simp [or_assoc, eq_comm]

theorem mem_useBlocks (u : RUse) (b : Nat) : b ∈ useBlocks u ↔ ∃ k, k < u.n ∧ blockOf u.w u.org u.fmt k = b := by
  rw [useBlocks, mem_foldl_nadd_map]
  simp

/-- Where a use has one block, all its lanes belong to it. -/
theorem blockLanes_single {u : RUse} {b : Nat} (h : useBlocks u = [b]) {xs : Numbered} (hx : ∀ x ∈ xs, x.2 < u.n) : blockLanes u xs b = xs := by
  refine List.filter_eq_self.2 fun x hm => ?_
  have := (mem_useBlocks u _).2 ⟨x.2, hx x hm, rfl⟩
  rw [h, List.mem_singleton] at this
  exact beq_iff_eq.2 this

theorem length_cvtBlock (F : Fmt) (fmt : Half) (rm : Rm) (sat auto : Bool) (scale old free : Nat) (xs : List (Val × Bool)) :
    (cvtBlock F fmt rm sat auto scale old free xs).1.length = xs.length := List.length_map ..

theorem flatMap_elemAddrs_range (u : RUse) (n : Nat) : (List.range n).flatMap (elemAddrs u) = (List.range (n * fmtBytes u.fmt)).map (extAddr u.w u.org) := by
  induction n with
  | zero => simp
  | succ n ih =>
    rw [List.range_succ, List.flatMap_append, ih, Nat.succ_mul, List.range_eq_range', List.range_eq_range', ← List.range'_append_1, List.map_append]
    simp [elemAddrs]

theorem getD_flatMap_bytes {α : Type} (f : α → Nat) (z : α) {l : List α} {i j w : Nat} (hi : i < l.length) (hj : j < w) :
    (l.flatMap fun e => bytesOfNat w (f e)).getD (i * w + j) 0 = BitVec.ofNat 8 (f (l.getD i z) / 2 ^ (8 * j)) := by
  induction l generalizing i with
  | nil => exact absurd hi (Nat.not_lt_zero _)
  | cons a l ih =>
    rw [List.flatMap_cons, List.getD_eq_getElem?_getD]
    cases i with
    | zero =>
      rw [Nat.zero_mul, Nat.zero_add, List.getElem?_append_left (by simpa using hj), bytesOfNat_eq_map, List.getElem?_map, List.getElem?_range hj]
      rfl
    | succ i =>
      have e : (i + 1) * w + j - (bytesOfNat w (f a)).length = i * w + j := by rw [length_bytesOfNat, Nat.succ_mul]; omega
      have hle : (bytesOfNat w (f a)).length ≤ (i + 1) * w + j := by rw [length_bytesOfNat, Nat.succ_mul]; omega
      rw [List.getElem?_append_right hle, e, ← List.getD_eq_getElem?_getD, ih (Nat.lt_of_succ_lt_succ hi)]
      rfl

section
variable {c : Nat} {u : RUse} {b : Nat} {inputs : List (Val × Bool)} (h : useBlocks u = [b]) (hn : inputs.length ≤ u.n)
include h hn

theorem blockOut_single (rm : Rm) (sat auto : Bool) (t : State) :
    blockOut c u rm sat auto inputs.zipIdx b t = cvtOut c u rm sat auto inputs b t := by
  rw [blockOut, blockLanes_single h fun x hx => (List.snd_lt_of_mem_zipIdx hx).trans_le hn, List.zipIdx_map_fst]

/-- The local bytes after a conversion of one block. -/
theorem cvtBlocks_single_loc {t : State} (hw : t.watches = []) (rm : Rm) (sat auto : Bool) (s : Nat) :
    let out := cvtOut c u rm sat auto inputs b t
    let bytes := out.1.flatMap fun e => bytesOfNat (fmtBytes u.fmt) e.1
    let m := putBytes (t.core c).loc ((List.range bytes.length).map (extAddr u.w u.org)) bytes
    ((cvtBlocks c u rm sat auto s inputs.zipIdx (useBlocks u) t).core c).loc =
      putBytes (if auto then putBytes m [scaleAddr u.w u.org b, scaleAddr u.w u.org b + 1] (bytesOfNat 2 out.2.1) else m)
        [statAddr u.w u.org b, statAddr u.w u.org b + 1] (bytesOfNat 2 out.2.2) := by
  intro out bytes m
  have hlen : out.1.length = inputs.length := length_cvtBlock ..
  have hpairs : blockPairs c u rm sat auto inputs.zipIdx b t = inputs.zipIdx.zip out.1 := by
    rw [blockPairs, blockOut_single h hn, blockLanes_single h fun x hx => (List.snd_lt_of_mem_zipIdx hx).trans_le hn]
  have hnums : (inputs.zipIdx.zip out.1).map (fun p => p.1.2) = List.range out.1.length := by
    have h1 : (inputs.zipIdx.zip out.1).map Prod.fst = inputs.zipIdx := List.map_fst_zip (by simp [hlen])
    refine (List.map_map (f := Prod.fst) (g := Prod.snd) ..).symm.trans ?_
    rw [h1, List.zipIdx_map_snd, hlen, List.range_eq_range']
  have hvals : (inputs.zipIdx.zip out.1).map Prod.snd = out.1 := List.map_snd_zip (by simp [hlen])
  have haddrs : (inputs.zipIdx.zip out.1).flatMap (fun p => elemAddrs u p.1.2) = (List.range bytes.length).map (extAddr u.w u.org) := by
    rw [length_flatMap_bytes, ← flatMap_elemAddrs_range, ← hnums, List.flatMap_map]
  have hbytes : (inputs.zipIdx.zip out.1).flatMap (fun p => bytesOfNat (fmtBytes u.fmt) p.2.1) = bytes := by
    show _ = out.1.flatMap _
    conv_rhs => rw [← hvals, List.flatMap_map]
  have hl := storeBlock_loc (c := c) (u := u) hw rm sat auto inputs.zipIdx b
  dsimp only at hl
  rw [hpairs, haddrs, hbytes, blockOut_single h hn] at hl
  rw [h]
  exact (cvtStep_loc ..).trans hl

end

/-! ## VCVT and VCVT.AUTO at the head of the queue -/

theorem wEffect_vcvt {i : Instr} {r : BitVec 4} {p rm : BitVec 3} {sat : BitVec 1} (hi : i = .vcvt r p rm sat) (s : State) (c m : Nat) (u : RUse) :
    wEffect s c i m [u] =
      cvtBlocks c u m (sat == 1) false r.toNat (cvtInputs (s.core c).wide.acc r.toNat u.n).zipIdx (useBlocks u) s := by
  subst hi; rfl

theorem wEffect_vcvtAuto {i : Instr} {r : BitVec 4} {p rm : BitVec 3} {sat : BitVec 1} (hi : i = .vcvtAuto r p rm sat) (s : State) (c m : Nat)
    (u : RUse) : wEffect s c i m [u] =
      cvtBlocks c u m true true r.toNat (cvtInputs (s.core c).wide.acc r.toNat u.n).zipIdx (useBlocks u) s := by
  subst hi; rfl

theorem length_cvtInputs_le (a : Acc) (r n : Nat) : (cvtInputs a r n).length ≤ n := by
  rw [cvtInputs, List.length_map]
  exact List.length_take_le ..

/-- R56, R151: the status word is stored last, so it stands as the conversion gave it. -/
theorem statWord_stored (m : Memory) (a v : Nat) :
    natOfBytes ((List.range 2).map fun i => memByte (putBytes m [a, a + 1] (bytesOfNat 2 v)) (a + i)) = v % 65536 := by
  have h0 : memByte (putBytes m [a, a + 1] (bytesOfNat 2 v)) a = BitVec.ofNat 8 (v % 256) := by
    refine (memByte_memSet ..).trans ((if_neg (Nat.ne_of_lt (Nat.lt_succ_self a))).trans ((memByte_memSet ..).trans (if_pos rfl)))
  have h1 : memByte (putBytes m [a, a + 1] (bytesOfNat 2 v)) (a + 1) = BitVec.ofNat 8 (v / 256 % 256) := (memByte_memSet ..).trans (if_pos rfl)
  show (memByte _ a).toNat + 256 * ((memByte _ (a + 1)).toNat + 256 * 0) = _
  rw [h0, h1, BitVec.toNat_ofNat, BitVec.toNat_ofNat]
  omega

/-- The element bytes stand, where the scale and the status word lie apart from the extent and no two bytes of it fall together. -/
theorem memByte_elem_stored {u : RUse} {b i j : Nat} {bytes : List Byte} (hlen : bytes.length ≤ u.size) (hij : i + j < bytes.length)
    (hout : extAddr u.w u.org (i + j) ∉ blockAddrs u b)
    (hinj : ∀ k l, k < u.size → l < u.size → extAddr u.w u.org k = extAddr u.w u.org l → k = l) (auto : Bool) (m : Memory) (sc st : List Byte) :
    let m1 := putBytes m ((List.range bytes.length).map (extAddr u.w u.org)) bytes
    memByte (putBytes (if auto then putBytes m1 [scaleAddr u.w u.org b, scaleAddr u.w u.org b + 1] sc else m1)
      [statAddr u.w u.org b, statAddr u.w u.org b + 1] st) (extAddr u.w u.org (i + j)) = bytes.getD (i + j) 0 := by
  intro m1
  have hm1 : memByte m1 (extAddr u.w u.org (i + j)) = bytes.getD (i + j) 0 :=
    memByte_putBytes_last hij (fun k h1 h2 e => absurd (hinj k (i + j) (h2.trans_le hlen) (hij.trans_le hlen) e) (by omega)) m
  simp only [blockAddrs, List.mem_cons, List.not_mem_nil, or_false, not_or] at hout
  obtain ⟨h1, h2, h3, h4⟩ := hout
  rw [memByte_putBytes_out (by simp [h3, h4])]
  split
  · rw [memByte_putBytes_out (by simp [h1, h2]), hm1]
  · exact hm1

/-- R56-R58, R151: a conversion at the head of the queue: what it leaves unchanged, and its bytes where it has one block. -/
theorem vcvt_converts {s : State} {c : Nat} {e : WEntry} {rest : List WEntry} {r : BitVec 4} {u : RUse} {sat auto : Bool} (hh : HeadIs s c e rest)
    (hr : wReady s c e.i = true) (hi : isWForm e.i = true) (hw : s.watches = []) (hu : (s.core c).usesOf e.i = [u])
    (he : wEffect s c e.i (wideRm e.i e.rm) [u] = cvtBlocks c u (wideRm e.i e.rm) sat auto r.toNat
      (cvtInputs (s.core c).wide.acc r.toNat u.n).zipIdx (useBlocks u) s) (b : Nat) :
    ∃ t, StoreEnds s c rest t ∧
      (∀ x, (∀ i, i < u.size → extAddr u.w u.org i ≠ x) → (∀ y ∈ useBlocks u, x ∉ blockAddrs u y) → locByte t c x = locByte s c x) ∧
      (useBlocks u = [b] → ∃ o, o = cvtOut c u (wideRm e.i e.rm) sat auto (cvtInputs (s.core c).wide.acc r.toNat u.n) b s ∧
        natOfBytes ((List.range 2).map fun i => locByte t c (statAddr u.w u.org b + i)) = o.2.2 % 65536 ∧
        ((∀ i, i < u.size → extAddr u.w u.org i ∉ blockAddrs u b) →
          (∀ i j, i < u.size → j < u.size → extAddr u.w u.org i = extAddr u.w u.org j → i = j) →
          ∀ i j, i < u.n → j < fmtBytes u.fmt → i < o.1.length → locByte t c (extAddr u.w u.org (i * fmtBytes u.fmt + j)) =
            BitVec.ofNat 8 ((o.1.getD i (0, 0, false, false)).1 / 2 ^ (8 * j)))) := by
  have hn := length_cvtInputs_le (s.core c).wide.acc r.toNat u.n
  obtain ⟨hk, hframe⟩ := cvtBlocks_frame (c := c) (u := u) (xs := (cvtInputs (s.core c).wide.acc r.toNat u.n).zipIdx)
    (fun x hx => (List.snd_lt_of_mem_zipIdx hx).trans_le hn) (wideRm e.i e.rm) sat auto r.toNat (useBlocks u) hw
  obtain ⟨t, ht, hloc, -⟩ := wideExecute_store hh hi hr (hu ▸ he) hk
  refine ⟨t, ht, fun x hx hb => ?_, fun h1 => ⟨_, rfl, ?_, fun hout hinj i j hin hj hio => ?_⟩⟩
  · rw [locByte, hloc]
    exact hframe x hx hb
  · simp only [locByte, hloc, cvtBlocks_single_loc h1 hn hw]
    exact statWord_stored ..
  · have hlen : (cvtOut c u (wideRm e.i e.rm) sat auto (cvtInputs (s.core c).wide.acc r.toNat u.n) b s).1.length ≤ u.n :=
      (length_cvtBlock ..).trans_le hn
    rw [locByte, hloc, cvtBlocks_single_loc h1 hn hw, memByte_elem_stored _ _ _ hinj, getD_flatMap_bytes Prod.fst (0, 0, false, false) hio hj]
    · rw [length_flatMap_bytes]
      exact Nat.mul_le_mul_right _ hlen
    · rw [length_flatMap_bytes]
      exact elem_lt hio hj
    · exact hout _ (elem_lt hin hj)

theorem wideStoresWriteTheExtent : WideStoresWriteTheExtent := by
  intro s c e rest r p rm sat u blk k a m row w at_ cells bs tail base sc stat converts hh hr hl hw hu
  have hrow : row.length = 64 := accRow_length hl r.isLt
  have hbs : bs.length ≤ 256 := by
    have h : bs.length = cells.length * w := length_flatMap_bytes ..
    have h4 : w ≤ 4 := fmtBytes_le u.fmt
    rw [h, List.length_map, hrow]
    omega
  refine ⟨fun hi => ⟨fun hm => ?_, fun hm => ?_⟩, fun hi => ?_, fun hi => ?_⟩
  · obtain ⟨t, ht, hloc⟩ := vsta_extent hh hr hw hu hi hm
    refine ⟨t, ht, fun i hib hlast => ?_, fun x hx => ?_⟩
    · rw [locByte, hloc]
      exact memByte_putBytes_last hib hlast _
    · rw [locByte, hloc]
      exact memByte_putBytes_map_out hx ..
  · obtain ⟨t, ht, hloc, htail⟩ := vsta_ring hh hr hw hu hi hm (hbs.trans (by decide))
    refine ⟨t, ht, htail, fun i hib => ?_, fun x hx => ?_⟩
    · rw [locByte, hloc]
      refine memByte_putBytes_last (g := ringAddr (pBank u.w) tail.toNat) hib (fun j h1 h2 e => ?_) _
      exact absurd (ringAddr_injective _ _ (show j < 65536 by omega) (by omega) e) (by omega)
    · rw [locByte, hloc]
      exact memByte_putBytes_map_out hx ..
  · exact vcvt_converts (sat := sat == 1 || false) hh hr (by rw [hi]; rfl) hw hu (by rw [Bool.or_false]; exact wEffect_vcvt hi s c m u) blk
  · exact vcvt_converts (sat := sat == 1 || true) hh hr (by rw [hi]; rfl) hw hu (by rw [Bool.or_true]; exact wEffect_vcvtAuto hi s c m u) blk

/-- Settles O22: the effect of each instruction by its case of `wEffect`, a row by what `putRow` leaves, a store by the list of its addresses and
bytes; what follows the effect moves pointers, FIFO counters and the queue. -/
theorem wideLanesExecute : Obligations.WideLanesExecute :=
  ⟨lanesAreWrittenTogether, integerLanesClamp, wideRowsAreWritten, wideStoresWriteTheExtent⟩

end Sys2Proof.Machine

/-! # Event homes: claims in order, back-off, withdrawals (R180, R181, R233, R235) -/

namespace Sys2Proof.Machine

open Sys2Proof

theorem exec_homeOfferArrives (home : Nat) (os : List OfferMsg) (s : State) :
    exec (.homeOfferArrives home os) s = execHomeOfferArrives home os s := rfl
theorem exec_homeGrant (ev : EvKey) (l : LatchId) (arm : Nat) (s : State) : exec (.homeGrant ev l arm) s = execHomeGrant ev l arm s := rfl
theorem exec_homeRefusal (ev : EvKey) (l : LatchId) (arm : Nat) (s : State) : exec (.homeRefusal ev l arm) s = execHomeRefusal ev l arm s := rfl
theorem exec_homeWoundRequest (ev : EvKey) (l : LatchId) (arm : Nat) (s : State) :
    exec (.homeWoundRequest ev l arm) s = execHomeWoundRequest ev l arm s := rfl
theorem exec_homeWithdrawal (ev : EvKey) (l : LatchId) (arm : Nat) (commit : Bool) (s : State) :
    exec (.homeWithdrawal ev l arm commit) s = .next (withdrawOne ev l arm commit s) := rfl
theorem exec_homeRetryTime (ev : EvKey) (s : State) : exec (.homeRetryTime ev) s = execHomeRetryTime ev s := rfl

/-! ## A home written and messages sent -/

/-- A state that differs from `base` in one home and in messages sent is what `HomeGoes` speaks of. -/
theorem homeGoes_setHome {i : Instr} {s base : State} {ev : EvKey} {h : Home} {sent : List Instr}
    (hx : exec i s = .next ((base.sendAll sent).setHome ev h)) (hh : base.homes = s.homes) (ha : base.agenda = s.agenda) :
    HomeGoes i s ev h sent base := by
  refine ⟨_, hx, (State.home_setHome ..).trans (if_pos rfl), fun f hf => ?_, ?_, rfl⟩
  · rw [State.home_setHome, if_neg hf, State.home, State.home, State.sendAll_homes, hh]
  · rw [State.setHome_agenda, State.sendAll, ha]

theorem State.sendAll_sendAll (s : State) (a b : List Instr) : (s.sendAll a).sendAll b = s.sendAll (a ++ b) := by
  simp [State.sendAll]

theorem State.sendAll_nil (s : State) : s.sendAll [] = s := by simp [State.sendAll]

/-! ## What the home's shared operations do -/

/-- The claims that begin: the first latch in ascending order is claimed under the stamp. -/
theorem startClaims_of_order {h : Home} {q : OfferMsg} {qs : List OfferMsg} (ho : claimOrder h.offers = q :: qs) (s : State) (ev : EvKey)
    (st : Stamp) : startClaims s ev h st =
    (s.sendAll [.latchClaim q.latch ev q.arm st]).setHome ev { h with st := .claiming 0, stamp := some st, granted := [] } := by
  simp only [startClaims, ho]; rfl

theorem backOff_eq (s : State) (ev : EvKey) (h : Home) (late : List (LatchId × Nat)) : backOff s ev h late =
    (s.sendAll (releasesOf ev h)).setHome ev
      { h with st := .backoff, granted := [], late := h.late ++ late, retryAt := s.cycle.toNat + 32 } := rfl

theorem allPresent_congr {h g : Home} (hd : h.desc = g.desc) (ho : h.offers = g.offers) : allPresent h = allPresent g := by
  rw [allPresent, allPresent, hd, ho]

theorem tryEnable_absent {ev : EvKey} {h : Home} (ht : isTakeName ev.name = false) (hp : allPresent h = false) (s : State) (time : Nat) :
    tryEnable s ev h time = s.setHome ev h := by
  simp [tryEnable, ht, hp]

/-- The last offer: the event is stamped, every participant is told, and the claims begin (R180). -/
theorem tryEnable_present {ev : EvKey} {h : Home} (ht : isTakeName ev.name = false) (hw : h.st = .waiting) (hs : h.spilled = false)
    (hp : allPresent h = true) {q : OfferMsg} {qs : List OfferMsg} (ho : claimOrder h.offers = q :: qs) (s : State) (time : Nat) :
    tryEnable s ev h time =
      (s.sendAll (((claimOrder h.offers).map fun p => .latchEnableNotice p.latch ev p.arm ⟨h.starve, time, ev.name⟩) ++
        [.latchClaim q.latch ev q.arm ⟨h.starve, time, ev.name⟩])).setHome ev
        { h with st := .claiming 0, stamp := some ⟨h.starve, time, ev.name⟩, granted := [], drained := false } := by
  have hstart := startClaims_of_order (h := { h with drained := false }) ho
    (s.sendAll ((claimOrder h.offers).map fun p => .latchEnableNotice p.latch ev p.arm ⟨h.starve, time, ev.name⟩)) ev ⟨h.starve, time, ev.name⟩
  rw [State.sendAll_sendAll] at hstart
  have hgo : (allPresent h && !h.spilled) = true := by simp [hp, hs]
  simp only [tryEnable, hw, ht, hgo, ne_eq, not_true_eq_false, if_false, Bool.false_eq_true, if_true]
  exact hstart

/-! ## Offers (R181, R216, R233, R235) -/

section
variable {s : State} {ev : EvKey} {h : Home} (he : s.entry ev = some h)
include he

theorem offersWait_single {o : OfferMsg} (hn : o.name = ev.name) : offersWait s ev.home [o] =
    (h.st == .commit && h.offers.any fun q => samePart q.latch.gid o.latch.gid) := by
  have hk : (⟨ev.home, o.name⟩ : EvKey) = ev := by rw [hn]
  simp [offersWait, hk, he]

theorem offerArrives_eq {o : OfferMsg} (hn : o.name = ev.name) (ht : isTakeName ev.name = false) (time : Nat) :
    offerArrives s ev.home o time = if offerWhy h o ≠ 0 then s.send (.latchRefusal o.latch ev o.arm (offerWhy h o))
      else tryEnable s ev { h with offers := h.offers ++ [o] } time := by
  have hk : (⟨ev.home, o.name⟩ : EvKey) = ev := by rw [hn]
  have ht' : isTakeName o.name = false := by rw [hn]; exact ht
  simp [offerArrives, hk, he, ht']

/-- An offer at an event that is not in COMMIT is handled at once. -/
theorem exec_homeOfferArrives_single {o : OfferMsg} (hn : o.name = ev.name) (hc : h.st ≠ .commit) :
    exec (.homeOfferArrives ev.home [o]) s = .next (offerArrives s ev.home o s.time.toNat) := by
  have hw : offersWait s ev.home [o] = false := by simp [offersWait_single he hn, hc]
  simp [exec_homeOfferArrives, execHomeOfferArrives, hw, offersArrive]

theorem homeOfferArrives_stored {o : OfferMsg} (hn : o.name = ev.name) (ht : isTakeName ev.name = false) (hw : h.st = .waiting)
    (hy : offerWhy h o = 0) (hp : allPresent { h with offers := h.offers ++ [o] } = false) :
    HomeGoes (.homeOfferArrives ev.home [o]) s ev { h with offers := h.offers ++ [o] } [] := by
  refine homeGoes_setHome ?_ rfl rfl
  rw [exec_homeOfferArrives_single he hn (by rw [hw]; decide), offerArrives_eq he hn ht, if_neg (not_not.2 hy), tryEnable_absent ht hp,
    State.sendAll_nil]

theorem homeOfferArrives_enables {o q : OfferMsg} {qs : List OfferMsg} (hn : o.name = ev.name) (ht : isTakeName ev.name = false)
    (hw : h.st = .waiting) (hs : h.spilled = false) (hy : offerWhy h o = 0) (hp : allPresent { h with offers := h.offers ++ [o] } = true)
    (ho : claimOrder (h.offers ++ [o]) = q :: qs) :
    HomeGoes (.homeOfferArrives ev.home [o]) s ev
      { h with offers := h.offers ++ [o], st := .claiming 0, stamp := some ⟨h.starve, s.time.toNat, ev.name⟩, granted := [], drained := false }
      (((claimOrder (h.offers ++ [o])).map fun p => .latchEnableNotice p.latch ev p.arm ⟨h.starve, s.time.toNat, ev.name⟩) ++
        [.latchClaim q.latch ev q.arm ⟨h.starve, s.time.toNat, ev.name⟩]) := by
  refine homeGoes_setHome ?_ rfl rfl
  rw [exec_homeOfferArrives_single he hn (by rw [hw]; decide), offerArrives_eq he hn ht, if_neg (not_not.2 hy)]
  exact congrArg _ (tryEnable_present (h := { h with offers := h.offers ++ [o] }) ht hw hs hp ho s s.time.toNat)

theorem homeOfferArrives_refused {o : OfferMsg} (hn : o.name = ev.name) (ht : isTakeName ev.name = false) (hc : h.st ≠ .commit)
    (hy : offerWhy h o ≠ 0) :
    exec (.homeOfferArrives ev.home [o]) s = .next (s.send (.latchRefusal o.latch ev o.arm (offerWhy h o))) := by
  rw [exec_homeOfferArrives_single he hn hc, offerArrives_eq he hn ht, if_pos hy]

/-- An offer of a participant whose earlier one is in COMMIT comes back later (R235). -/
theorem homeOfferArrives_waits {o : OfferMsg} (hn : o.name = ev.name) (hc : h.st = .commit) (hp : ∃ p ∈ h.offers, p.latch = o.latch) :
    exec (.homeOfferArrives ev.home [o]) s = .next (s.send (.homeOfferArrives ev.home [o])) := by
  obtain ⟨p, hp, hl⟩ := hp
  have hw : offersWait s ev.home [o] = true := by
    rw [offersWait_single he hn, hc, beq_self_eq_true, Bool.true_and, List.any_eq_true]
    exact ⟨p, hp, by simp [samePart, hl]⟩
  rw [exec_homeOfferArrives, execHomeOfferArrives, hw, if_pos rfl]

/-! ## Grants, refusals and wound requests (R181) -/

theorem homeGrant_claims_next {l : LatchId} {arm : Nat} {o : OfferMsg} {st : Stamp} (hl : isClaimed h l arm = true) (hn : (l, arm) ∉ h.late)
    (ho : (claimOrder h.offers)[h.granted.length + 1]? = some o) (hs : h.stamp = some st) :
    HomeGoes (.homeGrant ev l arm) s ev { h with granted := h.granted ++ [l], st := .claiming (h.granted.length + 1) }
      [.latchClaim o.latch ev o.arm st] := by
  refine homeGoes_setHome ?_ rfl rfl
  simp [exec_homeGrant, execHomeGrant, he, hl, hn, ho, hs]
  rfl

theorem homeRefusal_backsOff {l : LatchId} {arm : Nat} (hl : isClaimed h l arm = true) (hn : (l, arm) ∉ h.late) :
    HomeGoes (.homeRefusal ev l arm) s ev { h with st := .backoff, granted := [], retryAt := s.cycle.toNat + 32 } (releasesOf ev h) := by
  refine homeGoes_setHome ?_ rfl rfl
  simp [exec_homeRefusal, execHomeRefusal, he, hl, hn, backOff_eq]

theorem homeWoundRequest_backsOff {l : LatchId} {arm n : Nat} (hc : h.st = .claiming n) (hg : l ∈ h.granted)
    (ho : ∃ p ∈ h.offers, p.latch = l ∧ p.arm = arm) :
    HomeGoes (.homeWoundRequest ev l arm) s ev
      { h with st := .backoff, granted := [], late := h.late ++ lateClaim h, retryAt := s.cycle.toNat + 32 } (releasesOf ev h) := by
  have hany : (h.granted.contains l && h.offers.any fun p => p.latch == l && p.arm == arm) = true := by
    simpa [hg] using ho
  refine homeGoes_setHome ?_ rfl rfl
  rw [exec_homeWoundRequest, execHomeWoundRequest, he]
  simp only [hc, hany, if_true, backOff_eq]

theorem homeWoundRequest_committed (l : LatchId) (arm : Nat) (hc : h.st = .commit) : exec (.homeWoundRequest ev l arm) s = .next s := by
  rw [exec_homeWoundRequest, execHomeWoundRequest, he]
  simp only [hc]

theorem homeRetryTime_claims {st : Stamp} {q : OfferMsg} {qs : List OfferMsg} (hb : h.st = .backoff) (hp : allPresent h = true)
    (hs : h.spilled = false) (ht : h.stamp = some st) (ho : claimOrder h.offers = q :: qs) :
    HomeGoes (.homeRetryTime ev) s ev { h with st := .claiming 0, granted := [] } [.latchClaim q.latch ev q.arm st] := by
  refine homeGoes_setHome ?_ rfl rfl
  simp only [exec_homeRetryTime, execHomeRetryTime, he, hb, ht, hp, hs, Bool.not_false, Bool.and_self, if_true, startClaims_of_order ho]

end

/-! ## Withdrawals (R181) -/

/-- The claims that a withdrawal of `o` leaves behind, which the home no longer expects an answer of. -/
def lateAfter (h : Home) (o : OfferMsg) : List (LatchId × Nat) :=
  (h.late.filter fun q => q != (o.latch, o.arm)) ++
    if (match claimed h with
      | some q => q.latch == o.latch
      | none => true) then [] else lateClaim h

/-- The event as a withdrawal of one of its offers leaves it before its claims are given up. -/
def withoutOffer (h : Home) (o : OfferMsg) : Home :=
  { h with offers := h.offers.filter (· != o), granted := h.granted.filter (· != o.latch), late := lateAfter h o }

theorem releaseClaims_eq (s : State) (ev : EvKey) (h : Home) : releaseClaims s ev h = s.sendAll (releasesOf ev h) := rfl

theorem withdrawAt_absent {ev : EvKey} {h : Home} {o : OfferMsg} (ht : isTakeName ev.name = false)
    (hp : allPresent { h with offers := h.offers.filter (· != o), st := .waiting } = false) (s : State) (commit : Bool) :
    withdrawAt s ev h o commit =
      (s.sendAll (releasesOf ev (withoutOffer h o) ++
        if h.st ≠ .waiting then (h.offers.filter (· != o)).map fun q => .latchCancel q.latch ev q.arm else [])).setHome ev
        { h with offers := h.offers.filter (· != o), st := .waiting, granted := [], late := lateAfter h o,
                 starve := if commit = true ∧ h.st ≠ .waiting then Nat.min 65535 (h.starve + 1) else h.starve } := by
  have hback : ((h.offers.filter (· != o)).filter fun q => isTakeName ev.name && gidCtx q.latch.gid != 13) = [] := by simp [ht]
  have hen : isEnabled h = true ↔ h.st ≠ .waiting := by simp [isEnabled]
  simp only [withdrawAt, hback, List.isEmpty_nil, if_true]
  simp only [Bool.and_eq_true, hen, ht, Bool.false_eq_true, if_false]
  rw [tryEnable_absent ht]
  · split
    · rw [releaseClaims_eq, State.sendAll_sendAll]
      rfl
    · rw [releaseClaims_eq, List.append_nil]
      rfl
  · exact (allPresent_congr rfl rfl).trans hp

theorem mem_releasesOf_withoutOffer {ev : EvKey} {h : Home} {o : OfferMsg} {m : Instr} (hm : m ∈ releasesOf ev (withoutOffer h o)) :
    ∃ k a, m = .latchRelease k ev a ∧ k ∈ h.granted ∧ k ≠ o.latch := by
  obtain ⟨k, hk, hf⟩ := List.mem_filterMap.1 hm
  obtain ⟨q, -, rfl⟩ := Option.map_eq_some_iff.1 hf
  have hk' : k ∈ h.granted.filter (· != o.latch) := List.mem_reverse.1 hk
  obtain ⟨hg, hne⟩ := List.mem_filter.1 hk'
  exact ⟨k, q.arm, rfl, hg, by simpa using hne⟩

theorem exec_homeWithdrawal_held {s : State} {ev : EvKey} {h : Home} {o : OfferMsg} {l : LatchId} {arm : Nat} (he : s.entry ev = some h)
    (hc : h.st ≠ .commit) (ho : (h.offers.find? fun p => p.latch == l && p.arm == arm) = some o) (commit : Bool) :
    exec (.homeWithdrawal ev l arm commit) s = .next (withdrawAt s ev h o commit) := by
  simp [exec_homeWithdrawal, withdrawOne, he, ho, hc]

/-- Settles O35: each message at a home ends in one home written and messages sent; which ones, `tryEnable`, `backOff`, `startClaims` and
`withdrawAt` say. -/
theorem homesClaimInOrder : Obligations.HomesClaimInOrder := by
  intro s ev h l o arm commit st h1 order left he ht _ hs
  refine ⟨fun hw hn hy hp => homeOfferArrives_stored he hn ht hw hy hp,
    fun hw hn hy hp q qs ho => homeOfferArrives_enables he hn ht hw hs hy hp ho,
    fun hc hn hy => homeOfferArrives_refused he hn ht hc hy, fun hc hn hp => homeOfferArrives_waits he hn hc hp,
    fun hl hn => ⟨?_, homeRefusal_backsOff he hl hn⟩, fun n hc hg hp => ⟨_, homeWoundRequest_backsOff he hc hg hp⟩,
    homeWoundRequest_committed he l arm, fun hb hp stp q qs hst ho => homeRetryTime_claims he hb hp hs hst ho, fun hc ho hp => ?_⟩
  · rintro n stp rfl ho hst
    exact homeGrant_claims_next he hl hn ho hst
  · have hol : o.latch = l := by
      have := List.find?_some ho
      simp only [Bool.and_eq_true, beq_iff_eq] at this
      exact this.1
    refine ⟨lateAfter h o, releasesOf ev (withoutOffer h o), homeGoes_setHome ?_ rfl rfl, fun m hm => ?_⟩
    · rw [exec_homeWithdrawal_held he hc ho, withdrawAt_absent ht hp]
    · obtain ⟨k, a, rfl, hg, hne⟩ := mem_releasesOf_withoutOffer hm
      exact ⟨k, a, rfl, hg, hol ▸ hne⟩

end Sys2Proof.Machine

/-! # Commits, deliveries and the end of an occurrence (R173, R176, R181, R182, R390) -/

namespace Sys2Proof.Machine

open Sys2Proof

theorem exec_homeDeliveryConfirmed (ev : EvKey) (l : LatchId) (arm : Nat) (s : State) :
    exec (.homeDeliveryConfirmed ev l arm) s = execHomeDeliveryConfirmed ev l arm s := rfl

/-! ## Workgroups without a replay log (R435, R436) -/

theorem mem_of_tfind {α : Type} {t : Tbl α} {k : Nat} {v : α} (h : tfind t k = some v) : (k, v) ∈ t := by
  induction t with
  | nil => cases h
  | cons e t ih =>
    rw [tfind_cons] at h
    split at h
    next hk => cases h; rw [hk]; exact List.mem_cons_self ..
    next => exact List.mem_cons_of_mem _ (ih h)

section
variable {s : State} (hoff : ∀ w ∈ s.wgs, w.2.mode = .off)
include hoff

theorem mode_of_tfind_wgs {n : Nat} {w : Wg} (h : tfind s.wgs n = some w) : w.mode = .off := hoff _ (mem_of_tfind h)

theorem logAllows_off (ev : EvKey) (os : List OfferMsg) : logAllows s ev os = true := by
  refine List.all_eq_true.2 fun n _ => ?_
  cases hw : tfind s.wgs n with
  | none => rfl
  | some w => simp [mode_of_tfind_wgs hoff hw]

theorem logCommit_off (ev : EvKey) (h : Home) : logCommit s ev h = s := by
  refine List.foldlRecOn (motive := (· = s)) _ _ rfl ?_
  rintro _ rfl n -
  split
  next => rfl
  next w hw => simp only [mode_of_tfind_wgs hoff hw]

end

/-! ## The tile of a permit (R390) -/

/-- MCAST's taking of a tile changes its die alone. -/
theorem takeTile_field {α : Type} (g : State → α) (hg : ∀ s n d, g (State.setDie s n d) = g s) (s : State) (l : LatchId) :
    g (takeTile s l) = g s := by
  unfold takeTile
  dsimp only
  split
  · rfl
  · split
    · split
      · rfl
      · exact hg _ _ _
    · rfl

theorem tilesTaken_field {α : Type} (g : State → α) (hg : ∀ s n d, g (State.setDie s n d) = g s) (s : State) (os : List OfferMsg) :
    g (os.foldl (fun t o => takeTile t o.latch) s) = g s :=
  foldl_field g (fun t o => takeTile_field g hg t o.latch) os s

/-! ## The commit (R173, R181, R182) -/

/-- What each latch is told at a commit: what it gives, whether its landing is the only one, whether none lands at all. -/
def commitsOf (ev : EvKey) (h : Home) : List Instr :=
  (claimOrder h.offers).map fun o => .latchCommit o.latch ev o.arm
    ⟨(deliveries ev h).filter fun d => d.giver == o.latch, (deliveries ev h).length == 1 && (deliveries ev h).all fun d => d.taker == o.latch,
      (deliveries ev h).isEmpty, h.desc.mode == .bcast || h.desc.mode == .gather⟩

theorem serveAt_of_not_take {ev : EvKey} (ht : isTakeName ev.name = false) (s : State) (h : Home) : serveAt s ev h = s := by
  simp [serveAt, ht]

theorem enterCommit_eq {s : State} {ev : EvKey} (ht : isTakeName ev.name = false) (hph : isPhaseName s ev.name = false)
    (hoff : ∀ w ∈ s.wgs, w.2.mode = .off) (h : Home) : enterCommit s ev h =
    ((h.offers.foldl (fun t o => takeTile t o.latch) s).sendAll (commitsOf ev h)).setHome ev
      { h with st := .commit, due := if (deliveries ev h).isEmpty then dueCommits h else dueOf (deliveries ev h) } := by
  simp only [enterCommit, logCommit_off hoff, serveAt_of_not_take ht, hph, Bool.false_eq_true, if_false]
  congr 2
  refine List.map_congr_left fun o _ => ?_
  rcases deliveries ev h with _ | ⟨d, _ | ⟨d', ds⟩⟩ <;> simp

theorem tryCommit_commits {s : State} {ev : EvKey} (hph : isPhaseName s ev.name = false) (hoff : ∀ w ∈ s.wgs, w.2.mode = .off) (h : Home) :
    tryCommit s ev h = enterCommit s ev h := by
  simp [tryCommit, mayCommit, hph, logAllows_off hoff]

theorem homeGrant_commits {s : State} {ev : EvKey} {h : Home} {l : LatchId} {arm : Nat} (he : s.entry ev = some h)
    (ht : isTakeName ev.name = false) (hph : isPhaseName s ev.name = false) (hoff : ∀ w ∈ s.wgs, w.2.mode = .off)
    (hl : isClaimed h l arm = true) (hn : (l, arm) ∉ h.late) (ho : (claimOrder h.offers)[h.granted.length + 1]? = none) :
    HomeGoes (.homeGrant ev l arm) s ev
      { h with granted := h.granted ++ [l], st := .commit,
               due := if (deliveries ev h).isEmpty then dueCommits h else dueOf (deliveries ev h) }
      (commitsOf ev h) (h.offers.foldl (fun t o => takeTile t o.latch) s) := by
  refine homeGoes_setHome ?_ (tilesTaken_field State.homes (fun _ _ _ => rfl) ..) (tilesTaken_field State.agenda (fun _ _ _ => rfl) ..)
  have hx : exec (.homeGrant ev l arm) s =
      .next (tryCommit s ev { h with granted := h.granted ++ [l], st := .claiming (h.granted.length + 1) }) := by
    simp [exec_homeGrant, execHomeGrant, he, hl, hn, ho]
  rw [hx, tryCommit_commits hph hoff, enterCommit_eq ht hph hoff]
  rfl

/-! ## Confirmations, and the end of the occurrence (R176, R181) -/

/-- Outside the cores and the clusters a trace record changes nothing. -/
theorem traceIf_field {α : Type} (g : State → α) (hg : ∀ (s : State) cs ks, g { s with cores := cs, clusters := ks } = g s) (s : State)
    (c x ty arg : Nat) (ws : List Word) : g (s.traceIf c x ty arg ws) = g s := by
  unfold State.traceIf State.trace
  dsimp only
  split
  · split
    · exact hg s _ _
    · exact hg s _ _
  · rfl

/-- The messages that end the waits of those who gave or took bytes (R176). -/
def endsOf (ev : EvKey) (h : Home) : List Instr :=
  ((claimOrder h.offers).filter (!bare ·)).map fun o => .latchLastPayloadDelivered o.latch ev o.arm

theorem finishOccurrence_eq {s : State} {ev : EvKey} {h : Home} {st : Stamp} (hph : isPhaseName s ev.name = false) (hs : h.stamp = some st) :
    finishOccurrence s ev h =
      ((unstall (s.traceIf (homeCore ev.home % 576) 0 3 h.offers.length
        [BitVec.ofNat 64 (ev.name + 2 ^ 32 * h.starve), BitVec.ofNat 64 st.time]) ev.name).sendAll (endsOf ev h)).setHome ev
        { h with st := .waiting, offers := [], granted := [], starve := 0, occ := h.occ + 1, lasten := st.time, due := [], reduce := [],
                 desc := restDesc h, front := false } := by
  simp only [finishOccurrence, hph, hs, Bool.false_eq_true, if_false]
  rfl

theorem restDesc_of_plain {h : Home} (ht : isTakeName h.desc.name = false) (hf : h.front = false) : restDesc h = h.desc := by
  simp [restDesc, ht, hf]

section
variable {s : State} {ev : EvKey} {h : Home} {l : LatchId} (he : s.entry ev = some h) (hc : h.st = .commit) (hm : h.desc.mode ≠ .reduce)
include he hc hm

theorem exec_homeDeliveryConfirmed_commit {n : Nat} (arm : Nat) (hd : kfind h.due l = some n) :
    exec (.homeDeliveryConfirmed ev l arm) s = .next (
      let due := if n ≤ 1 then kdel h.due l else kput h.due l (n - 1)
      if due.isEmpty then finishOccurrence s ev { h with due := due } else s.setHome ev { h with due := due }) := by
  simp [exec_homeDeliveryConfirmed, execHomeDeliveryConfirmed, he, hc, hm, hd]

theorem homeDeliveryConfirmed_counts {n : Nat} (arm : Nat) (hd : kfind h.due l = some n) (hn : 1 < n) :
    HomeGoes (.homeDeliveryConfirmed ev l arm) s ev { h with due := kput h.due l (n - 1) } [] := by
  have hne : (kput h.due l (n - 1)).isEmpty = false := by
    cases hd' : kput h.due l (n - 1) with
    | nil => simpa [hd', kfind] using kfind_kput h.due l l (n - 1)
    | cons => rfl
  refine homeGoes_setHome ?_ rfl rfl
  rw [exec_homeDeliveryConfirmed_commit he hc hm arm hd, State.sendAll_nil]
  simp only [Nat.not_le.2 hn, if_false, hne, Bool.false_eq_true]

theorem exec_homeDeliveryConfirmed_last (arm : Nat) (hd : h.due = [(l, 1)]) :
    exec (.homeDeliveryConfirmed ev l arm) s = .next (finishOccurrence s ev { h with due := [] }) := by
  have hk : kfind h.due l = some 1 := by simp [hd, kfind]
  rw [exec_homeDeliveryConfirmed_commit he hc hm arm hk]
  simp [hd, kdel]

end

theorem endsOf_eq (ev : EvKey) (h : Home) : endsOf ev h =
    ((claimOrder h.offers).filter fun o => decide (regionLen o.give ≠ 0 ∨ regionLen o.take ≠ 0)).map fun o =>
      .latchLastPayloadDelivered o.latch ev o.arm := by
  refine congrArg (List.map _) (List.filter_congr fun o _ => ?_)
  rw [Bool.eq_iff_iff, decide_eq_true_iff]
  simp [bare]

/-- Settles O36: a last grant is `enterCommit`, which outside a replay log and the phase events sends the commits over the tiles taken; a
confirmation counts down what is due, and the last one is `finishOccurrence`. -/
theorem commitsDeliverAndEnd : Obligations.CommitsDeliverAndEnd := by
  intro s ev h l arm stp h2 took ds order commits moves ends ended he ht htd hph hfront hoff hst
  refine ⟨fun hl hn ho => ?_, fun hc hm n hd => ⟨homeDeliveryConfirmed_counts he hc hm arm hd, fun _ hdue => ?_⟩⟩
  · have hgoes := homeGrant_commits he ht hph hoff hl hn ho
    refine ⟨fun hds => ?_, fun hds => ?_⟩
    · rwa [if_neg (by simpa using hds)] at hgoes
    · rwa [if_pos (by simpa using hds)] at hgoes
  · refine ⟨_, exec_homeDeliveryConfirmed_last he hc hm arm hdue, ?_, ?_⟩
    · rw [finishOccurrence_eq (h := { h with due := [] }) hph hst]
      refine ⟨_, (State.home_setHome ..).trans (if_pos rfl), rfl, rfl, rfl, rfl, rfl, restDesc_of_plain (h := { h with due := [] }) htd hfront,
        fun f hf => ?_⟩
      rw [State.home_setHome, if_neg hf]
      exact congrArg (kfind · f) (traceIf_field State.homes (fun _ _ _ => rfl) ..)
    · rw [finishOccurrence_eq (h := { h with due := [] }) hph hst, State.setHome_agenda, endsOf_eq]
      exact congrArg (· ++ _) (traceIf_field State.agenda (fun _ _ _ => rfl) ..)

end Sys2Proof.Machine

/-! # Offer latches between their states (R178, R182, R206) -/

namespace Sys2Proof.Machine

open Sys2Proof

theorem exec_latchEnableNotice (l : LatchId) (ev : EvKey) (arm : Nat) (st : Stamp) (s : State) :
    exec (.latchEnableNotice l ev arm st) s = execLatchEnableNotice l ev arm st s := rfl
theorem exec_latchCancel (l : LatchId) (ev : EvKey) (arm : Nat) (s : State) : exec (.latchCancel l ev arm) s = execLatchCancel l ev arm s := rfl
theorem exec_latchClaim (l : LatchId) (ev : EvKey) (arm : Nat) (st : Stamp) (s : State) :
    exec (.latchClaim l ev arm st) s = execLatchClaim l ev arm st s := rfl
theorem exec_latchRelease (l : LatchId) (ev : EvKey) (arm : Nat) (s : State) : exec (.latchRelease l ev arm) s = execLatchRelease l ev arm s := rfl
theorem exec_latchCommit (l : LatchId) (ev : EvKey) (arm : Nat) (told : CommitMsg) (s : State) :
    exec (.latchCommit l ev arm told) s = execLatchCommit l ev arm told s := rfl
theorem exec_latchLimitExpiry (l : LatchId) (s : State) : exec (.latchLimitExpiry l) s = execLatchLimitExpiry l s := rfl
theorem exec_latchStop (l : LatchId) (s : State) : exec (.latchStop l) s = execLatchStop l s := rfl
theorem exec_latchResume (l : LatchId) (s : State) : exec (.latchResume l) s = execLatchResume l s := rfl

/-! ## A latch written and messages sent -/

/-- A state that differs in one latch and in messages sent is what `LatchGoes` speaks of. -/
theorem latchGoes_setLatch {i : Instr} {s : State} {l : LatchId} {m : Latch} {sent : List Instr}
    (hx : exec i s = .next ((s.sendAll sent).setLatch l m)) : LatchGoes i s l m sent := by
  refine ⟨_, hx, (State.latch_setLatch ..).trans (if_pos rfl), fun k hk => ?_, rfl, rfl⟩
  rw [State.latch_setLatch, if_neg hk, State.latch, State.latch, State.sendAll_latches]

theorem latchGoes_silent {i : Instr} {s : State} {l : LatchId} {m : Latch} (hx : exec i s = .next (s.setLatch l m)) : LatchGoes i s l m [] :=
  latchGoes_setLatch (by rw [State.sendAll_nil]; exact hx)

/-! ## Claims (R178) -/

/-- Outside a replay the log grants every claim. -/
theorem logGrants_off {s : State} (hoff : ∀ w ∈ s.wgs, w.2.mode = .off) (l : LatchId) (m : Latch) (ev : EvKey) : logGrants s l m ev = true := by
  rw [logGrants]
  split
  next => rfl
  next =>
    split
    next w hw => simp [mode_of_tfind_wgs hoff hw]
    next => rfl

theorem latchHas_eq_true {m : Latch} {ev : EvKey} {arm : Nat} (h : m.arm = arm ∧ (kfind m.offers ev).isSome = true) :
    latchHas m ev arm = true := by
  rw [latchHas, h.1, h.2, beq_self_eq_true]
  rfl

theorem outranked_iff (m : Latch) (ev : EvKey) (st : Stamp) : outranked m ev st = true ↔ ∃ n ∈ m.notices, n.1 ≠ ev ∧ stampAbove n.2 st = true := by
  simp [outranked]

section
variable {s : State} {l : LatchId} {m : Latch} {ev e f : EvKey} {arm : Nat} {st t u : Stamp} (hm : s.latch l = m)
include hm

section
variable (hhas : latchHas m ev arm = true) (hoff : ∀ w ∈ s.wgs, w.2.mode = .off)
include hhas

theorem latchClaim_dormant (hd : m.st = .dormant) : exec (.latchClaim l ev arm st) s = .next (s.send (.homeRefusal ev l arm)) := by
  simp [exec_latchClaim, execLatchClaim, hm, hhas, hd]

theorem latchEnableNotice_recorded (ha : m.st = .armed) :
    LatchGoes (.latchEnableNotice l ev arm st) s l { m with notices := kput m.notices ev st } [] :=
  latchGoes_silent (by simp [exec_latchEnableNotice, execLatchEnableNotice, hm, hhas, ha])

theorem latchCancel_erases : LatchGoes (.latchCancel l ev arm) s l { m with notices := kdel m.notices ev } [] :=
  latchGoes_silent (by simp [exec_latchCancel, execLatchCancel, hm, hhas])

include hoff

theorem latchClaim_armed (ha : m.st = .armed) : exec (.latchClaim l ev arm st) s =
    .next (if outranked m ev st then s.send (.homeRefusal ev l arm)
      else (s.setLatch l { m with st := .claimed ev st }).send (.homeGrant ev l arm)) := by
  simp [exec_latchClaim, execLatchClaim, hm, hhas, ha, logGrants_off hoff]

/-- A claim that comes while another event's holds the latch: with no wound yet, one that ranks above asks the holder to give way. -/
theorem latchClaim_unwounded (hc : m.st = .claimed e t) (hne : ev ≠ e) (hw : m.wound = none) : exec (.latchClaim l ev arm st) s =
    .next (if stampAbove st t then (s.setLatch l { m with wound := some (ev, st) }).send (.homeWoundRequest e l m.arm)
      else s.send (.homeRefusal ev l arm)) := by
  simp [exec_latchClaim, execLatchClaim, hm, hhas, hc, logGrants_off hoff, hne.symm, hw]

/-- The wound slot keeps the higher of two claims, and the other is refused. -/
theorem latchClaim_wounded (hc : m.st = .claimed e t) (hne : ev ≠ e) (hw : m.wound = some (f, u)) : exec (.latchClaim l ev arm st) s =
    .next (if stampAbove st u then (s.setLatch l { m with wound := some (ev, st) }).send (.homeRefusal f l m.arm)
      else s.send (.homeRefusal ev l arm)) := by
  simp [exec_latchClaim, execLatchClaim, hm, hhas, hc, logGrants_off hoff, hne.symm, hw]

end

theorem latchClaim_missing (hi : m.st = .idle ∨ m.st = .committed e) :
    exec (.latchClaim l ev arm st) s = .next (s.send (.homeWithdrawal ev l arm false)) := by
  rcases hi with hi | hi <;> simp [exec_latchClaim, execLatchClaim, hm, hi]

/-! ## Releases (R178) -/

section
variable (hc : m.st = .claimed ev st) (ha : m.arm = arm)
include hc ha

theorem latchRelease_wound (hw : m.wound = some (f, u)) :
    LatchGoes (.latchRelease l ev arm) s l { m with st := .claimed f u, wound := none } [.homeGrant f l arm] := by
  refine latchGoes_setLatch ?_
  simp [exec_latchRelease, execLatchRelease, hm, hc, ha, hw]
  rfl

theorem latchRelease_stop (hw : m.wound = none) (hp : m.stopPend = true) :
    LatchGoes (.latchRelease l ev arm) s l { m with st := .dormant, stopPend := false } [] :=
  latchGoes_silent (by simp [exec_latchRelease, execLatchRelease, hm, hc, ha, hw, hp])

theorem latchRelease_armed (hw : m.wound = none) (hp : m.stopPend = false) (he : pendingEnd m = none) :
    LatchGoes (.latchRelease l ev arm) s l { m with st := .armed } [] :=
  latchGoes_silent (by simp [exec_latchRelease, execLatchRelease, hm, hc, ha, hw, hp, he])

end

/-! ## Stops, limits and resumptions (R178, R184, R206) -/

theorem latchStop_armed (ha : m.st = .armed) : LatchGoes (.latchStop l) s l { m with st := .dormant } [] :=
  latchGoes_silent (by simp [exec_latchStop, execLatchStop, hm, ha])

theorem latchStop_claimed (hc : m.st = .claimed e t) : LatchGoes (.latchStop l) s l { m with stopPend := true } [] :=
  latchGoes_silent (by simp [exec_latchStop, execLatchStop, hm, hc])

theorem latchLimitExpiry_held (hh : m.st = .claimed e t ∨ m.st = .dormant) :
    LatchGoes (.latchLimitExpiry l) s l { m with expPend := true, expVal := waitValue s m } [] :=
  latchGoes_silent (by rcases hh with hh | hh <;> simp [exec_latchLimitExpiry, execLatchLimitExpiry, hm, hh])

theorem latchResume_dormant (hd : m.st = .dormant) (he : pendingEnd m = none) : LatchGoes (.latchResume l) s l { m with st := .armed } [] :=
  latchGoes_silent (by simp [exec_latchResume, execLatchResume, hm, hd, he])

end

theorem pendingEnd_eq_none {m : Latch} (hr : m.refusal = none) (he : m.expPend = false) (hc : m.causePend = false) : pendingEnd m = none := by
  simp [pendingEnd, hr, he, hc]

/-! ## Commits (R178, R182) -/

/-- A latch of a context is no subscription's, whose tile a commit sends on. -/
theorem commitTile_of_isCtxLatch {l : LatchId} (hl : isCtxLatch l = true) (s : State) : commitTile s l = s := by
  have hlt : gidCtx l.gid < 11 := by simpa [isCtxLatch] using hl
  rw [commitTile, if_pos (.inl (by omega))]

theorem any_bare_iff (r : Option OfferMsg) : r.any bare = true ↔ ∃ o, r = some o ∧ regionLen o.give = 0 ∧ regionLen o.take = 0 := by
  cases r <;> simp [bare]

/-- What a commit that gives nothing sends beside the withdrawals: the confirmation, and the result where the participant takes nothing. -/
def commitDone (m : Latch) (l : LatchId) (ev : EvKey) (arm : Nat) (void : Bool) : List Instr :=
  if (kfind m.offers ev).any bare then [.homeDeliveryConfirmed ev l arm, .latchLastPayloadDelivered l ev arm]
  else if void then [.homeDeliveryConfirmed ev l arm] else []

theorem withdrawOffers_eq {s : State} {l : LatchId} {m : Latch} (hm : s.latch l = m) (ev : EvKey) (commit : Bool) :
    withdrawOffers s l (some ev) commit = s.sendAll ((m.offers.filter fun o => o.1 != ev).map fun o => .homeWithdrawal o.1 l m.arm commit) := by
  rw [withdrawOffers, hm]
  rfl

theorem latchCommit_gives_nothing {s : State} {l : LatchId} {m : Latch} {ev : EvKey} {arm : Nat} {st : Stamp} (hm : s.latch l = m)
    (hl : isCtxLatch l = true) (hc : m.st = .claimed ev st) (ha : m.arm = arm) (sole void copied : Bool) :
    LatchGoes (.latchCommit l ev arm ⟨[], sole, void, copied⟩) s l
      { m with st := .committed ev, offers := m.offers.filter (·.1 == ev), notices := [], wound := none, expPend := false, stopPend := false,
               refusal := none, pollAt := none, gave := 0, sole := sole }
      (((m.offers.filter fun o => o.1 != ev).map fun o => .homeWithdrawal o.1 l arm true) ++ commitDone m l ev arm void) := by
  have hsent : (if copied = true then oncePerDevice s [] else []) = [] := by cases copied <;> rfl
  refine latchGoes_setLatch ?_
  rw [exec_latchCommit, execLatchCommit, hm]
  simp only [hc, ha, ne_eq, not_true_eq_false, or_self, if_false, List.map_nil, hsent, List.isEmpty_nil, if_true,
    commitTile_of_isCtxLatch hl, withdrawOffers_eq hm, List.nil_append, ← State.sendAll_sendAll]
  rfl

/-- Settles O37: each message at a latch ends in one latch written and messages sent; which ones, the lemma of its row above says. -/
theorem latchesFollowTheirTable : Obligations.LatchesFollowTheirTable := by
  intro s l ev e f arm st t u m claim has hm hl hoff
  refine ⟨fun ha hhas => ⟨fun hno => latchGoes_setLatch ?_, fun hout => ?_⟩, fun hc hhas hne => ⟨fun hw hab => latchGoes_setLatch ?_,
      fun hw hab => ?_, fun hw hab => latchGoes_setLatch ?_, fun hw hab => ?_⟩,
    fun hd hhas => latchClaim_dormant hm (latchHas_eq_true hhas) hd, latchClaim_missing hm,
    fun hc ha => ⟨latchRelease_wound hm hc ha, latchRelease_stop hm hc ha,
      fun hw hp hr he hcp => latchRelease_armed hm hc ha hw hp (pendingEnd_eq_none hr he hcp), fun sole void copied => ?_⟩,
    latchStop_armed hm, fun hc => ⟨latchStop_claimed hm hc, latchLimitExpiry_held hm (.inl hc)⟩,
    fun hd => ⟨latchLimitExpiry_held hm (e := e) (t := t) (.inr hd),
      fun hr he hcp => latchResume_dormant hm hd (pendingEnd_eq_none hr he hcp)⟩,
    fun ha hhas => ⟨latchEnableNotice_recorded hm (latchHas_eq_true hhas) ha, latchCancel_erases hm (latchHas_eq_true hhas)⟩⟩
  · have hnot : outranked m ev st ≠ true := fun h => by
      obtain ⟨n, hn, hne, hab⟩ := (outranked_iff ..).1 h
      simp [hno n hn hne] at hab
    rw [latchClaim_armed hm (latchHas_eq_true hhas) hoff ha, if_neg hnot]
    rfl
  · rw [latchClaim_armed hm (latchHas_eq_true hhas) hoff ha, if_pos ((outranked_iff ..).2 hout)]
  · rw [latchClaim_unwounded hm (latchHas_eq_true hhas) hoff hc hne hw, if_pos hab, hhas.1]
    rfl
  · rw [latchClaim_unwounded hm (latchHas_eq_true hhas) hoff hc hne hw, if_neg (Bool.not_eq_true _ ▸ hab)]
  · rw [latchClaim_wounded hm (latchHas_eq_true hhas) hoff hc hne hw, if_pos hab, hhas.1]
    rfl
  · rw [latchClaim_wounded hm (latchHas_eq_true hhas) hoff hc hne hw, if_neg (Bool.not_eq_true _ ▸ hab)]
  · have hgoes := latchCommit_gives_nothing hm hl hc ha sole void copied
    rw [commitDone] at hgoes
    simpa only [any_bare_iff] using hgoes

end Sys2Proof.Machine

/-! # Direct stores, releases and windows (R191, R286 to R288, R305, R310, R455) -/

namespace Sys2Proof.Machine

open Sys2Proof

theorem exec_storeAck (core ctx : Nat) (s : State) : exec (.storeAck core ctx) s = execStoreAck core ctx s := rfl
theorem exec_releaseComplete (core ctx : Nat) (s : State) : exec (.releaseComplete core ctx) s = execReleaseComplete core ctx s := rfl
theorem exec_windowAccessAtTarget (w : WinAcc) (s : State) : exec (.windowAccessAtTarget w) s = execWindowAccessAtTarget w s := rfl

/-! ## Acknowledgements (R191, R305) -/

/-- A field of a context other than its wait survives the waking of contexts. -/
theorem Core.ctx_wakeIf_field {α : Type} (g : Ctx → α) (hg : ∀ (k : Ctx) w, g { k with wait := w } = g k) (k : Core) (p : Wait → Bool) (x : Nat) :
    g ((k.wakeIf p).ctx x) = g (k.ctx x) := by
  unfold Core.ctx Core.wakeIf tget
  rw [tfind_wakeCtxs]
  cases tfind k.ctxs x with
  | none => rfl
  | some v =>
    simp only [Option.map_some, Option.getD_some]
    split
    · exact hg ..
    · rfl

theorem ctx_wakeStores_field {α : Type} (g : Ctx → α) (hg : ∀ (k : Ctx) w, g { k with wait := w } = g k) (s : State) (c : Nat) (secs : List Nat)
    (x : Nat) : g ((wakeStores s c secs).ctx c x) = g (s.ctx c x) := by
  rw [wakeStores, State.ctx_updCore, if_pos rfl]
  exact Core.ctx_wakeIf_field g hg ..

/-- An acknowledged store leaves its context one store less to wait for; only that count and the wait of the context change. -/
theorem ctx_acked_field {α : Type} (g : Ctx → α) (hg : ∀ (k : Ctx) w, g { k with wait := w } = g k) (s : State) (c x : Nat) (e : Option StEntry) :
    g ((acked s c x e).ctx c x) = g { s.ctx c x with owed := (s.ctx c x).owed - 1 } := by
  cases e with
  | none =>
    simp [acked]
    rfl
  | some e =>
    rw [acked]
    simp only
    rw [ctx_wakeStores_field g hg]
    simp
    rfl

/-- Of the state, an acknowledgement changes its core alone. -/
theorem acked_shared (s : State) (c x : Nat) (e : Option StEntry) : (acked s c x e).shared = s.shared := by
  cases e <;> rfl

theorem acked_loc (s : State) (c x : Nat) (e : Option StEntry) (d : Nat) : ((acked s c x e).core d).loc = (s.core d).loc := by
  by_cases h : d = c
  · subst h
    cases e <;> simp [acked, wakeStores, Core.wakeIf, Core.setCtx]
  · cases e <;> simp [acked, wakeStores, h]

/-! ## Direct stores (R286, R310) -/

/-- A sector that holds bytes under the access's key stays as it is. -/
theorem rekey_of_keyHolds {s : State} {key sec : Nat} (h : KeyHolds s key sec) : rekey s key sec = s := if_pos h

theorem foldl_rekey_of_keyHolds {s : State} {key : Nat} {secs : List Nat} (h : ∀ q ∈ secs, KeyHolds s key q) :
    secs.foldl (fun t q => rekey t key q) s = s := by
  refine List.foldlRecOn (motive := (· = s)) _ _ rfl ?_
  rintro _ rfl q hq
  exact rekey_of_keyHolds (h q hq)

/-- A write at the home under the key of its sectors is a write of memory. -/
theorem homeWrite_mem {s : State} {key a : Nat} {bs : List Byte} (h : ∀ q ∈ sectorsOf a bs.length, KeyHolds s key q) :
    (homeWrite s key a bs).mem = memWrite s.mem a bs := by
  simp only [homeWrite, foldl_rekey_of_keyHolds h, settle]

theorem homeWrite_cores {s : State} {key a : Nat} {bs : List Byte} (h : ∀ q ∈ sectorsOf a bs.length, KeyHolds s key q) :
    (homeWrite s key a bs).cores = s.cores := by
  simp only [homeWrite, foldl_rekey_of_keyHolds h, settle]

theorem homeWrite_watches {s : State} {key a : Nat} {bs : List Byte} (h : ∀ q ∈ sectorsOf a bs.length, KeyHolds s key q) :
    (homeWrite s key a bs).watches = s.watches := by
  simp only [homeWrite, foldl_rekey_of_keyHolds h, settle]

theorem watchHome_of_no_watch {s : State} (h : s.watches = []) (a n agent : Nat) (acc : Access) (own : Option Nat) :
    watchHome s a n agent acc own = s := by
  rw [watchHome, h]
  rfl

theorem keyHolds_homeTouch {s : State} {k sec : Nat} (h : KeyHolds s k sec) (key line : Nat) (x : Ctx) :
    KeyHolds (homeTouch s key line x) k sec := by
  rw [KeyHolds, keyNow, homeTouch_field State.keyTag (fun _ _ _ _ => rfl), homeTouch_field State.keyGen (fun _ _ _ _ => rfl)]
  exact h

theorem directStoresArePerformed : DirectStoresArePerformed := by
  intro s c x e
  refine ⟨rfl, fun ho hx h11 _ hpos hkey hw => ?_⟩
  have hmod : x % 16 = x := Nat.mod_eq_of_lt hx
  let u := homeTouch s e.key (e.pa / 1024) (s.ctx c x)
  have hkey' : ∀ q ∈ sectorsOf e.pa e.data.length, KeyHolds u e.key q := fun q hq => keyHolds_homeTouch (hkey q hq) ..
  have huw : u.watches = [] := (homeTouch_field State.watches (fun _ _ _ _ => rfl) ..).trans hw
  have hum : u.mem = s.mem := homeTouch_field State.mem (fun _ _ _ _ => rfl) ..
  have huc : u.cores = s.cores := homeTouch_field State.cores (fun _ _ _ _ => rfl) ..
  have hctx : (homeWrite u e.key e.pa e.data).ctx c x = s.ctx c x := by
    rw [State.ctx, State.core, homeWrite_cores hkey', huc]
    rfl
  refine ⟨acked (homeWrite u e.key e.pa e.data) c x (some e), ?_, ?_, ?_, fun a => ?_⟩
  · rw [exec_storeAck, execStoreAck]
    simp only [hmod, h11, if_false, show ¬ 2 ^ 40 ≤ x by omega, ho]
    rw [watchHome_of_no_watch ((homeWrite_watches hkey').trans huw)]
  · rw [ctx_acked_field Ctx.owed (fun _ _ => rfl), hctx]
  · rw [ctx_acked_field Ctx.x (fun _ _ => rfl), hctx]
  · rw [show (acked (homeWrite u e.key e.pa e.data) c x (some e)).mem = (homeWrite u e.key e.pa e.data).mem from rfl, homeWrite_mem hkey', hum,
      memByte_memWrite]

/-! ## Releases (R305) -/

/-- A context that has stored nothing since its last release has nothing to send. -/
theorem releaseSend_of_released_nil {s : State} {c x : Nat} (h : (s.ctx c x).released = []) : releaseSend s c x = s.setCtx c x (s.ctx c x) := by
  have hk : ({ s.ctx c x with released := [] } : Ctx) = s.ctx c x := by rw [← h]
  rw [releaseSend, h, List.foldl_nil, State.updCtx, hk]

/-- The four conditions of R305, which a rewrite of the context as it is leaves. -/
theorem releaseOk_of_nothing_owed {s : State} {c x : Nat} (hr : (s.ctx c x).released = []) (ho : (s.ctx c x).owed = 0)
    (hst : ∀ e ∈ (s.core c).stbuf, e.ctx ≠ x) (hp : ∀ i ∈ s.agenda, isPartialOf c i = false)
    (hq : ∀ e ∈ (s.core c).wide.queue, (comesBefore x e && touchesBytes e) = false) : releaseOk (s.setCtx c x (s.ctx c x)) c x = true := by
  have hs : ((s.core c).stbuf.any fun e => e.ctx == x) = false := by simpa using hst
  have ha : s.agenda.any (isPartialOf c) = false := by simpa using hp
  have hw : ((s.core c).wide.queue.any fun e => comesBefore x e && touchesBytes e) = false := by
    rw [List.any_eq_false]
    exact fun e he => by rw [hq e he]; exact Bool.false_ne_true
  have hcore : (s.setCtx c x (s.ctx c x)).core c = (s.core c).setCtx x (s.ctx c x) := (State.core_setCtx ..).trans (if_pos rfl)
  rw [releaseOk, hcore]
  simp only [Core.ctx_setCtx, if_true, ho, hr]
  simp only [Core.setCtx, hs, hw, State.setCtx_agenda, ha]
  rfl

theorem asker_setCtx (s : State) (c x d y : Nat) (k : Ctx) : (s.setCtx c x k).asker d y = s.asker d y := by
  rw [State.asker, State.asker, State.core_setCtx_field wgTag (fun _ _ => rfl)]

theorem releasesComplete : ReleasesComplete := by
  intro s c x h n k hr ho hst hp hq
  have hok := releaseOk_of_nothing_owed hr ho hst hp hq
  have hctx : (s.setCtx c x k).ctx c x = k := by simp
  refine ⟨fun hw => ⟨s.setCtx c x { k with wait := .none, relDone := true }, ?_, onlyCtx_setCtx .., by simp⟩,
    fun hw => ⟨(s.setCtx c x { k with wait := .request 4 }).send (.requestAnswer c (s.asker c x) (.done h n)), ?_, rfl, onlyCtx_setCtx ..,
      State.ctx_setCtx .. |>.trans (if_pos ⟨rfl, rfl⟩)⟩⟩
  · rw [exec_releaseComplete, execReleaseComplete, releaseSend_of_released_nil hr]
    simp only [hok, Bool.not_true, Bool.false_eq_true, if_false, hctx, hw, k, State.updCtx, State.setCtx_setCtx]
  · rw [exec_releaseComplete, execReleaseComplete, releaseSend_of_released_nil hr]
    simp only [hok, Bool.not_true, Bool.false_eq_true, if_false, hctx, hw, k, State.updCtx, State.setCtx_setCtx, asker_setCtx]

/-! ## Windows (R288, R423, R455) -/

/-- Matches at the entries of other devices change what leaves the package and what its senders hold, and nothing else. -/
theorem farMatch_field {α : Type} (g : State → α) (hg : ∀ (s : State) o ls, g { s with out := o, links := ls } = g s) (a n agent : Nat)
    (acc : Access) (s : State) : g (farMatch a n agent acc s) = g s := by
  have hdev (t : State) (c d : Nat) (m : Instr) : g (t.toDevice c d m) = g t :=
    (hg _ [] []).symm.trans ((congrArg g (toDevice_frame ..)).trans (hg ..))
  rw [farMatch]
  split
  next => rfl
  next =>
    refine foldl_field g (fun t w => ?_) ..
    split
    next => rfl
    next =>
      split
      next => exact hdev ..
      next => rfl

theorem watchBank_field {α : Type} (g : State → α) (hg : ∀ (s : State) o ls, g { s with out := o, links := ls } = g s) {s : State}
    (h : s.watches = []) (c a n agent : Nat) (acc : Access) (own : Option Nat) : g (watchBank s c a n agent acc own) = g s := by
  rw [watchBank, farMatch_field g hg, h]
  rfl

/-- A state that differs from `s` in what leaves the package alone, once byte `lo + i` of core `c` is `bs[i]`. -/
structure BankWritten (s : State) (c lo : Nat) (bs : List Byte) (t : State) : Prop where
  mem : t.mem = s.mem
  dev : t.dev = s.dev
  agenda : t.agenda = s.agenda
  bytes : ∀ d a, locByte t d a = if d = c ∧ lo ≤ a ∧ a < lo + bs.length then bs.getD (a - lo) 0 else locByte s d a

theorem locByte_countRefused (s : State) (c lo n d a : Nat) : locByte (countRefused s c lo n) d a = locByte s d a := by
  rw [locByte, locByte, countRefused, count_core_field Core.loc (fun _ _ => rfl)]

theorem role_countRefused (s : State) (c lo n d b : Nat) : ((countRefused s c lo n).core d).role b = (s.core d).role b :=
  count_core_field (Core.role · b) (fun _ _ => rfl) ..

/-- `n` bytes at `lo` lie in one bank of core `c`, whose role is SCRATCH. -/
def ScratchRun (s : State) (c lo n : Nat) : Prop := 0 < n ∧ lo / 65536 = (lo + n - 1) / 65536 ∧ (s.core c).role (lo / 65536) = .scratch

/-- Bytes that another agent writes in one SCRATCH bank. -/
theorem remoteWrite_eq {s : State} {c lo : Nat} {bs : List Byte} (h : ScratchRun s c lo bs.length) (agent : Gid) (acc : Access) (own : Option Nat) :
    remoteWrite s c lo bs agent acc own =
      watchBank (locWrite (countRefused s c lo bs.length) c lo bs) c lo bs.length agent acc own := by
  obtain ⟨hpos, hbank, hrole⟩ := h
  have hle : bs.length ≤ 65536 - lo % 65536 := by omega
  have hne : bs.isEmpty = false := by cases bs <;> simp_all
  rw [remoteWrite, scratchRuns, if_pos hle]
  simp only [hne, Bool.false_eq_true, if_false, role_countRefused, hrole, if_true, List.take_of_length_le hle, Nat.min_eq_right hle]

theorem bankWritten_watchBank {s u : State} {c lo : Nat} {bs : List Byte} (h : BankWritten s c lo bs u) (hw : u.watches = [])
    (d a n agent : Nat) (acc : Access) (own : Option Nat) : BankWritten s c lo bs (watchBank u d a n agent acc own) where
  mem := (watchBank_field State.mem (fun _ _ _ => rfl) hw ..).trans h.mem
  dev := (watchBank_field State.dev (fun _ _ _ => rfl) hw ..).trans h.dev
  agenda := (watchBank_field State.agenda (fun _ _ _ => rfl) hw ..).trans h.agenda
  bytes e b := (watchBank_field (locByte · e b) (fun _ _ _ => rfl) hw ..).trans (h.bytes e b)

theorem bankWritten_remoteWrite {s : State} {c lo : Nat} {bs : List Byte} (h : ScratchRun s c lo bs.length) (hw : s.watches = [])
    (agent : Gid) (acc : Access) (own : Option Nat) : BankWritten s c lo bs (remoteWrite s c lo bs agent acc own) := by
  rw [remoteWrite_eq h]
  have hloc : BankWritten s c lo bs (locWrite (countRefused s c lo bs.length) c lo bs) :=
    ⟨rfl, rfl, rfl, fun d a => by rw [locByte_locWrite, locByte_countRefused]⟩
  exact bankWritten_watchBank hloc hw ..

/-- What a window reads of one SCRATCH bank are the local bytes. -/
theorem windowBytes_eq {s : State} {c lo n : Nat} (h : ScratchRun s c lo n) :
    windowBytes s c lo n = (List.range n).map fun i => locByte s c (lo + i) := by
  obtain ⟨hpos, hbank, hrole⟩ := h
  refine List.map_congr_left fun i hi => ?_
  have hi' : (lo + i) / 65536 = lo / 65536 := by
    have := List.mem_range.1 hi
    omega
  rw [hi', if_pos hrole]
  rfl

theorem poisonIn_nil (a n : Nat) : poisonIn [] a n = none := by
  simp [poisonIn]

theorem getD_bytesOfNat {n v i : Nat} (h : i < n) : (bytesOfNat n v).getD i 0 = BitVec.ofNat 8 (v / 2 ^ (8 * i)) := by
  rw [bytesOfNat_eq_map]
  simp [h]

/-- A byte of the number that bytes make. -/
theorem ofNat_natOfBytes_div {bs : List Byte} {i : Nat} (h : i < bs.length) : BitVec.ofNat 8 (natOfBytes bs / 2 ^ (8 * i)) = bs.getD i 0 := by
  have hbs := take_bytesOfNat_natOfBytes (le_refl bs.length)
  rw [List.take_of_length_le (by simp)] at hbs
  rw [← getD_bytesOfNat h, hbs]

/-! ### Accesses of this package -/

theorem answerWindow_some {u : State} {w : WinAcc} (hd : w.dev = u.dev) (bs : List Byte) :
    answerWindow u w (some bs) = u.send (.loadDataReturn w.core w.ctx bs) := if_pos hd

theorem answerWindow_none {u : State} {w : WinAcc} (hd : w.dev = u.dev) : ∃ e, answerWindow u w none = acked u w.core (w.ctx % 16) e :=
  ⟨_, if_pos hd⟩

section
variable {s : State} {w : WinAcc} {c lo : Nat} (hd : w.dev = s.dev) (ht : target w.pa = .window s.dev c lo)
include hd ht

theorem exec_window_load (hp : (s.core c).locPoison = []) (ho : w.op = .load) : exec (.windowAccessAtTarget w) s =
    .next ((countRefused s c lo w.len).send (.loadDataReturn w.core w.ctx (windowBytes s c lo w.len))) := by
  rw [exec_windowAccessAtTarget, execWindowAccessAtTarget, ht]
  simp only [ho, hp, List.filter_nil, poisonIn_nil, ne_eq, not_true_eq_false, if_false]
  exact congrArg _ (answerWindow_some (u := countRefused s c lo w.len) hd _)

theorem exec_window_store (hw : s.watches = []) {bs : List Byte} (ho : w.op = .store bs) (hr : ScratchRun s c lo bs.length) :
    ∃ u e, exec (.windowAccessAtTarget w) s = .next (acked u w.core (w.ctx % 16) e) ∧ BankWritten s c lo bs u := by
  have hu := bankWritten_remoteWrite hr hw (gidOf w.dev w.core (w.ctx % 16)) .remoteStore (if w.dev = s.dev then some w.core else none)
  obtain ⟨e, he⟩ := answerWindow_none (hd.trans hu.dev.symm)
  refine ⟨_, e, ?_, hu⟩
  rw [exec_windowAccessAtTarget, execWindowAccessAtTarget, ht]
  simp only [ho, ne_eq, not_true_eq_false, if_false, he]

/-- An AMO at a bank: the element becomes the operation's result; a CAS that does not match leaves it. -/
theorem exec_window_amo (hp : (s.core c).locPoison = []) (hw : s.watches = []) {r : AmoReq} (ho : w.op = .amo r) (hr : ScratchRun s c lo r.n) :
    let old := natOfBytes ((List.range r.n).map fun i => locByte s c (lo + i))
    ∃ u, exec (.windowAccessAtTarget w) s = .next (u.send (.loadDataReturn w.core w.ctx (bytesOfNat r.n old))) ∧
      BankWritten s c lo (bytesOfNat r.n ((amoResult r.op r.n old r.v r.c).getD old)) u := by
  intro old
  have hscr : ((s.core c).role (lo / 65536) == .scratch) = true := by simp [hr.2.2]
  rw [exec_windowAccessAtTarget, execWindowAccessAtTarget, ht]
  simp only [ho, ne_eq, not_true_eq_false, if_false, hp, List.contains_nil, Bool.and_false, Bool.false_eq_true, windowBytes_eq hr, hscr, if_true]
  cases hres : amoResult r.op r.n old r.v r.c with
  | some new =>
    have hu := bankWritten_remoteWrite (bs := bytesOfNat r.n new) (by rw [length_bytesOfNat]; exact hr) hw (gidOf w.dev w.core (w.ctx % 16))
      .remoteAmo (if w.dev = s.dev then some w.core else none)
    exact ⟨_, congrArg _ (answerWindow_some (hd.trans hu.dev.symm) _), hu⟩
  | none =>
    have hself : BankWritten s c lo (bytesOfNat r.n old) s := ⟨rfl, rfl, rfl, fun d a => by
      split
      next h =>
        obtain ⟨rfl, hlo, hhi⟩ := h
        rw [length_bytesOfNat] at hhi
        rw [getD_bytesOfNat (by omega), ofNat_natOfBytes_div (by simp; omega)]
        simp [show a - lo < r.n by omega, show lo + (a - lo) = a by omega]
      next => rfl⟩
    have hu := bankWritten_watchBank hself hw c lo r.n (gidOf w.dev w.core (w.ctx % 16)) .remoteAmo (if w.dev = s.dev then some w.core else none)
    exact ⟨_, congrArg _ (answerWindow_some (hd.trans hu.dev.symm) _), hu⟩

end

theorem windowsReachTheBanks : WindowsReachTheBanks := by
  intro s w c lo bs r old new open_ hd ht hp hw
  refine ⟨fun ho hopen => ⟨_, exec_window_load hd ht hp ho, ?_, rfl, fun a => locByte_countRefused ..⟩, fun ho hopen => ?_, fun ho hopen => ?_⟩
  · rw [windowBytes_eq hopen]
    rfl
  · obtain ⟨u, e, hx, hu⟩ := exec_window_store hd ht hw ho hopen
    have hloc (d a : Nat) : locByte (acked u w.core (w.ctx % 16) e) d a = locByte u d a := by rw [locByte, locByte, acked_loc]
    refine ⟨_, hx, ?_, fun a => ?_, fun d hne a => ?_⟩
    · exact (congrArg State.mem (acked_shared u w.core (w.ctx % 16) e) :).trans hu.mem
    · simp [hloc, hu.bytes]
    · simp [hloc, hu.bytes, hne]
  · obtain ⟨u, hx, hu⟩ := exec_window_amo hd ht hp hw ho hopen
    refine ⟨_, hx, congrArg (· ++ _) hu.agenda, hu.mem, fun a => (hu.bytes c a).trans ?_⟩
    simp only [true_and, length_bytesOfNat]
    split
    next h => exact getD_bytesOfNat (by omega)
    next => rfl

/-- Settles O34: the acknowledgement of a direct store is a write at its home and a store less owed, a release ends in its context alone, and an
access through a window is a read or a write of one SCRATCH bank. -/
theorem storesArePerformedAndReleased : Obligations.StoresArePerformedAndReleased :=
  ⟨directStoresArePerformed, releasesComplete, windowsReachTheBanks⟩

end Sys2Proof.Machine

/-! # SELECT, GANG and PHASE (R177, R218, R220, R221) -/

namespace Sys2Proof.Machine

open Sys2Proof

theorem exec_selectNb (rd : Reg) (s : State) : exec (.selectNb rd) s = .next (select (.selectNb rd) false rd s.me.evlim.toNat s) := rfl
theorem exec_selectT (rd : Reg) (s : State) : exec (.selectT rd) s = .next (select (.selectT rd) true rd s.me.evlim.toNat s) := rfl
theorem exec_selectNbLimit (rd : Reg) (lit : BitVec 64) (s : State) :
    exec (.selectNbLimit rd lit) s = .next (selectLit (.selectNbLimit rd lit) false rd lit s) := rfl
theorem exec_selectTLimit (rd : Reg) (lit : BitVec 64) (s : State) :
    exec (.selectTLimit rd lit) s = .next (selectLit (.selectTLimit rd lit) true rd lit s) := rfl
theorem exec_gang (s : State) : exec .gang s = execGang s := rfl
theorem exec_phase (rd : Reg) (s : State) : exec (.phase rd) s = execPhase rd s := rfl

/-! ## A set armed at a latch (R177, R233) -/

theorem mem_addOnce {hs : List Nat} {h x : Nat} : x ∈ addOnce hs h ↔ x ∈ hs ∨ x = h := by
  unfold addOnce
  split
  next hc =>
    refine ⟨.inl, fun hx => hx.elim id fun e => ?_⟩
    rw [e]
    exact List.contains_iff_mem.1 hc
  next => simp

/-- The homes of a set, each once. -/
def homesOf (os : List (EvKey × OfferMsg)) : List Nat := os.foldl (fun hs o => addOnce hs o.1.home) []

theorem mem_homesOf {os : List (EvKey × OfferMsg)} {o : EvKey × OfferMsg} (ho : o ∈ os) : o.1.home ∈ homesOf os := by
  have hfold (hs : List Nat) (ps : List (EvKey × OfferMsg)) (x : Nat) (hx : x ∈ hs ∨ ∃ p ∈ ps, p.1.home = x) :
      x ∈ ps.foldl (fun hs o => addOnce hs o.1.home) hs := by
    induction ps generalizing hs with
    | nil => simpa using hx
    | cons p ps ih =>
      refine ih _ ?_
      rw [mem_addOnce]
      obtain hx | ⟨q, hq, rfl⟩ := hx
      · exact .inl (.inl hx)
      · rcases List.mem_cons.1 hq with rfl | hq
        · exact .inl (.inr rfl)
        · exact .inr ⟨q, hq, rfl⟩
  exact hfold [] os _ (.inr ⟨o, ho, rfl⟩)

/-- The messages that bring the offers of a set to their homes. -/
def arrivalsOf (os : List (EvKey × OfferMsg)) : List Instr :=
  (homesOf os).map fun h => .homeOfferArrives h ((os.filter fun o => o.1.home == h).map (·.2))

theorem armLatch_agenda (s : State) (l : LatchId) (seq : Bool) (limit n : Nat) (ws : List Want) :
    (armLatch s l seq limit n ws).agenda = s.agenda ++ arrivalsOf (offerMsgs s l (((s.latch l).arm + 1) % 256) seq ws) := rfl

theorem armLatch_latch (s : State) (l : LatchId) (seq : Bool) (limit n : Nat) (ws : List Want) :
    (armLatch s l seq limit n ws).latch l =
      let os := offerMsgs s l (((s.latch l).arm + 1) % 256) seq ws
      { Latch.reset with st := .armed, arm := ((s.latch l).arm + 1) % 256, offers := os, armedAt := s.cycle.toNat, limit := limit,
                         inAt := some s.cycle, pollAt := if anySpilled s os then some (pollTime s n) else none } :=
  (State.latch_setLatch ..).trans (if_pos rfl)

theorem armLatch_cores (s : State) (l : LatchId) (seq : Bool) (limit n : Nat) (ws : List Want) : (armLatch s l seq limit n ws).cores = s.cores := rfl

/-- Every offer of a set is in the message to its home. -/
theorem mem_arrivalsOf {os : List (EvKey × OfferMsg)} {o : EvKey × OfferMsg} (ho : o ∈ os) :
    ∃ ms, .homeOfferArrives o.1.home ms ∈ arrivalsOf os ∧ o.2 ∈ ms :=
  ⟨_, List.mem_map.2 ⟨_, mem_homesOf ho, rfl⟩, List.mem_map.2 ⟨o, List.mem_filter.2 ⟨ho, beq_self_eq_true _⟩, rfl⟩⟩

/-- The running context waits, behind its release. -/
def State.waits (s : State) (w : Wait) : State := s.setMe { s.me with wait := w, relDone := false }

/-- An instruction that ends in a set armed while its context waits. -/
theorem arms_of_armLatch {i : Instr} {s : State} {l : LatchId} {w : Wait} {limit n : Nat} {ws : List Want}
    (hx : exec i s = .next (armLatch (s.waits w) l false limit n ws)) : Arms i s l limit (ws.map fun v => (v.slot, v.ev, v.dir)) w := by
  have hctx (d y : Nat) : (armLatch (s.waits w) l false limit n ws).ctx d y = (s.waits w).ctx d y := rfl
  have hlatch := armLatch_latch (s.waits w) l false limit n ws
  refine ⟨_, _, hx, ?_, ?_, ?_, ?_, ?_, ?_, armLatch_agenda .., ?_, rfl, fun d => ?_, fun d y hne => ?_⟩
  · rw [hctx, State.waits, State.ctx_setMe, if_pos ⟨rfl, rfl⟩]
  · rw [hlatch]
  · rw [hlatch]
    rfl
  · rw [hlatch]
  · rw [hlatch]
    rfl
  · rw [hlatch]
    simp [offerMsgs, Function.comp_def]
  · rw [hlatch]
    exact fun o ho => mem_arrivalsOf ho
  · exact State.core_setCtx_field Core.loc (fun _ _ => rfl) ..
  · rw [hctx]
    exact (onlyCtx_setMe s _).2.2 d y hne

/-! ## Behind a release (R218, R305) -/

/-- With nothing owed an instruction goes on at once from its release. -/
theorem release_of_nothingOwed {s : State} (h : NothingOwed s) (go : State → State) :
    s.release go = go (s.setMe { s.me with relDone := false }) := by
  obtain ⟨hr, ho, hst, hp, hq⟩ := h
  rw [State.release]
  split
  next => rfl
  next hd =>
    have hk : ({ s.me with relDone := false } : Ctx) = s.me := by rw [← Bool.eq_false_of_not_eq_true hd]
    have hok : releaseOk (s.setCtx s.cur.1 s.cur.2 (s.ctx s.cur.1 s.cur.2)) s.cur.1 s.cur.2 = true := releaseOk_of_nothing_owed hr ho hst hp hq
    rw [hk, releaseSend_of_released_nil hr]
    exact if_pos hok

/-- Outside a log an arming is not checked. -/
theorem Unlogged.checkArming {s : State} (h : Unlogged s s.cur.1) (evs : List EvKey) : checkArming s evs = s := by
  have hw : waitItem s s.cur.1 s.cur.2 = none := by
    unfold waitItem
    split
    next => rfl
    next n w e => rw [h _ w e]; rfl
  rw [Machine.checkArming, hw]

theorem evKey_setMe (s : State) (k : Ctx) (c n : Nat) : evKey (s.setMe k) c n = evKey s c n := rfl

theorem ctxLatch_setMe (s : State) (k : Ctx) (c x : Nat) : ctxLatch (s.setMe k) c x = ctxLatch s c x := by
  rw [ctxLatch, ctxLatch, State.setMe, State.core_setCtx_field wgTag (fun _ _ => rfl)]
  rfl

theorem stagedWants_setMe (s : State) (k : Ctx) (h : k.staged = s.me.staged) : stagedWants (s.setMe k) = stagedWants s := by
  rw [stagedWants, State.me_setMe, h]
  rfl

theorem select_eq {s : State} (h : NothingOwed s) (hu : Unlogged s s.cur.1) (hs : s.me.staged ≠ []) (i : Instr) (t : Bool) (rd : Reg) (limit : Nat) :
    select i t rd limit s =
      armLatch (s.waits (.select t rd (byteLen i))) (ctxLatch s s.cur.1 s.cur.2) false limit s.me.backoff (stagedWants s) := by
  have hne : s.me.staged.isEmpty = false := by simpa using hs
  rw [select, hne, hu.replayFull, release_of_nothingOwed h]
  simp only [Bool.false_eq_true, if_false, (hu.setMe _).checkArming, stagedWants_setMe s { s.me with relDone := false } rfl, State.hold, State.me_setMe,
    State.setMe_setMe, State.waits, ctxLatch_setMe]
  rfl

theorem gang_arms {s : State} (h : NothingOwed s) (hu : Unlogged s s.cur.1) (hc : s.cur.2 = 0) (hg : gangPlaced s s.cur.1 = true) :
    exec .gang s = .next (armLatch (s.waits .gang) (ctxLatch s s.cur.1 0) false 0 0
      [syncWant 0 (evKey s s.cur.1 (gangName (gangOf s.cur.1)))]) := by
  rw [exec_gang, execGang, hg, hu.replayFull, release_of_nothingOwed h]
  simp only [hc, ne_eq, not_true_eq_false, if_false, Bool.not_true, Bool.false_eq_true, (hu.setMe _).checkArming, State.hold, State.me_setMe,
    State.setMe_setMe, State.waits, State.setMe_cur, ctxLatch_setMe, evKey_setMe]

/-- What PHASE leaves of the plan: its step runs, and none of its offers has occurred. -/
def stepBegins (s : State) (x : Exchange) : Exchange := { x with running := true, left := List.range (planStep s x x.step).length }

/-- The state in which PHASE arms: behind its release, with the step begun and the context waiting. -/
def phaseBegun (s : State) (x : Exchange) (rd : Reg) : State :=
  ((s.setMe { s.me with relDone := false }).updCore s.cur.1 fun k => { k with exch := some (stepBegins s x) }).hold (.phase rd)

theorem phaseBegun_me (s : State) (x : Exchange) (rd : Reg) :
    (phaseBegun s x rd).ctx s.cur.1 s.cur.2 = { s.me with wait := .phase rd, relDone := false } := by
  have hme : ((s.setMe { s.me with relDone := false }).updCore s.cur.1 fun k => { k with exch := some (stepBegins s x) }).me =
      { s.me with relDone := false } := by
    rw [State.me, State.updCore_cur, State.setMe_cur, State.ctx_updCore, if_pos rfl]
    exact State.me_setMe ..
  rw [phaseBegun, State.hold, hme]
  exact (State.ctx_setMe ..).trans (if_pos ⟨rfl, rfl⟩)

theorem phaseBegun_exch (s : State) (x : Exchange) (rd : Reg) : ((phaseBegun s x rd).core s.cur.1).exch = some (stepBegins s x) := by
  rw [phaseBegun, State.hold, State.setMe, State.core_setCtx_field Core.exch (fun _ _ => rfl), State.core_updCore, if_pos rfl]

theorem armExchange_cores (s : State) (es : List PlanEntry) (left : List Nat) : (armExchange s es left).cores = s.cores := by
  refine foldl_field State.cores (fun t i => ?_) ..
  simp only
  split <;> rfl

theorem phase_arms {s : State} {x : Exchange} (h : NothingOwed s) (hu : Unlogged s s.cur.1) (hc : s.cur.2 = 0) (hx : s.myCore.exch = some x)
    (hp : x.past = true) (hr : x.refused = none) (hrun : x.running = false) (hf : planFault s (planStep s x x.step) = none) (rd : Reg) :
    exec (.phase rd) s = .next (armLatch (armExchange (phaseBegun s x rd) (planStep s x x.step) (List.range (planStep s x x.step).length))
      (ctxLatch s s.cur.1 0) false 0 0 [syncWant 0 (evKey s s.cur.1 x.phase)]) := by
  have hfault : phaseFault s x (planStep s x x.step) = none := by
    rw [phaseFault, hr, hrun]
    exact hf
  rw [exec_phase, execPhase, hx, hu.replayFull]
  simp only [hc, ne_eq, not_true_eq_false, if_false, hp, Bool.not_true, Bool.false_eq_true, hfault, hrun]
  rw [release_of_nothingOwed h]
  simp only [(hu.setMe _).checkArming, State.setMe_cur, ctxLatch_setMe, evKey_setMe, phaseBegun, stepBegins, hp]

/-- PHASE's own event is armed at the latch of its context. -/
theorem armLatch_sync_offers (s : State) (l : LatchId) (ev : EvKey) :
    ((armLatch s l false 0 0 [syncWant 0 ev]).latch l).offers.map (fun o => (o.1, o.2.dir)) = [(ev, .sync)] := by
  rw [armLatch_latch]
  rfl

/-- Settles O29: behind a release that has nothing to wait for, each instruction arms its set at its context's latch and waits. -/
theorem selectArmsTheStagedSet : Obligations.SelectArmsTheStagedSet := by
  intro s rd lit x c l os arms
  have hselect (hown : NothingOwed s) (hu : Unlogged s c) (hs : s.me.staged ≠ []) (i : Instr) (limit : Nat) (t : Bool)
      (hx : exec i s = .next (select i t rd limit s)) : arms i limit t := by
    have ha := arms_of_armLatch (hx.trans (congrArg _ (select_eq hown hu hs i t rd limit)))
    rwa [stagedWants, List.map_map] at ha
  refine ⟨fun hs => ⟨?_, ?_⟩, fun hown hu hs => ⟨hselect hown hu hs _ _ _ rfl, hselect hown hu hs _ _ _ rfl, fun hlit => ⟨?_, ?_⟩⟩,
    fun hown hu hc hg => arms_of_armLatch (n := 0) (ws := [syncWant 0 (evKey s c (gangName (gangOf c)))]) ?_,
    fun hown hu hc hx hp hr hrun hf _ => ⟨_, phase_arms hown hu hc hx hp hr hrun hf rd, ?_, ?_, ?_, ?_⟩⟩
  · rw [Traps, exec_selectNb, select, hs]
    rfl
  · rw [Traps, exec_selectT, select, hs]
    rfl
  · exact hselect hown hu hs _ _ _ (congrArg _ (if_neg (by omega)))
  · exact hselect hown hu hs _ _ _ (congrArg _ (if_neg (by omega)))
  · rw [gang_arms hown hu hc hg]
    simp only [l, c, hc]
  · rw [← phaseBegun_me, State.ctx, State.ctx, State.core, State.core, armLatch_cores, armExchange_cores, hc]
  · simp only [l, hc]
    rw [armLatch_latch]
  · simp only [l, hc]
    exact armLatch_sync_offers ..
  · rw [State.core, armLatch_cores, armExchange_cores]
    exact phaseBegun_exch s x rd

end Sys2Proof.Machine

/-! # Payloads, standing agents and probes (R175, R176, R185, R188, R191, R192) -/

namespace Sys2Proof.Machine

open Sys2Proof

theorem exec_payloadLanding (ev : EvKey) (l : LatchId) (arm dst : Nat) (data : List Byte) (giver : Gid) (s : State) :
    exec (.payloadLanding ev l arm dst data giver) s = execPayloadLanding ev l arm dst data giver s := rfl
theorem exec_standingAgentOffer (l : LatchId) (s : State) : exec (.standingAgentOffer l) s = .next (armAgent s l) := rfl
theorem exec_probeRouterVisit (probe : Nat) (s : State) : exec (.probeRouterVisit probe) s = execProbeRouterVisit probe s := rfl

/-! ## The router's counts (R191) -/

theorem edgeAdd_core_field {α : Type} (g : Core → α) (hg : ∀ (k : Core) e, g { k with edge := e } = g k) (s : State) (c peer : Nat) (n : Int)
    (d : Nat) : g ((edgeAdd s c peer n).core d) = g (s.core d) := by
  rw [edgeAdd, State.core_updCore]
  split
  next h => subst h; exact hg ..
  next => rfl

/-- The edges that a received payload is counted on are all that follows the count of the router itself. -/
theorem receive_core_field {α : Type} (g : Core → α) (hg : ∀ (k : Core) e, g { k with edge := e } = g k) (s : State) (c : Nat) (giver : Gid)
    (d : Nat) : g ((receive s c giver).core d) = g (if d = c then { s.core c with sent := (s.core c).sent - 1, active := true } else s.core d) := by
  rw [← State.core_updCore s c d fun k => { k with sent := k.sent - 1, active := true }, receive]
  split
  · rw [edgeAdd_core_field g hg, edgeAdd_core_field g hg]
  · rw [edgeAdd_core_field g hg]

/-- What a core holds beside its router's counts is as before. -/
theorem receive_core_rest {α : Type} (g : Core → α) (hg : ∀ (k : Core) n a e, g { k with sent := n, active := a, edge := e } = g k) (s : State)
    (c : Nat) (giver : Gid) (d : Nat) : g ((receive s c giver).core d) = g (s.core d) := by
  refine (receive_core_field g (fun k e => hg k k.sent k.active e) ..).trans ?_
  split
  next h => subst h; exact hg (s.core d) _ _ (s.core d).edge
  next => rfl

theorem receive_sent (s : State) (c : Nat) (giver : Gid) : ((receive s c giver).core c).sent = (s.core c).sent - 1 :=
  (receive_core_field Core.sent (fun _ _ => rfl) ..).trans (by rw [if_pos rfl])

theorem receive_active (s : State) (c : Nat) (giver : Gid) : ((receive s c giver).core c).active = true :=
  (receive_core_field Core.active (fun _ _ => rfl) ..).trans (by rw [if_pos rfl])

/-- Of the state, a received payload changes the cores alone. -/
theorem receive_field {α : Type} (g : State → α) (hg : ∀ (s : State) cs, g { s with cores := cs } = g s) (s : State) (c : Nat) (giver : Gid) :
    g (receive s c giver) = g s := by
  unfold receive
  split
  · exact (hg _ _).trans ((hg _ _).trans (hg _ _))
  · exact (hg _ _).trans (hg _ _)

theorem unlogged_receive {s : State} {d : Nat} (h : Unlogged s d) (c : Nat) (giver : Gid) : Unlogged (receive s c giver) d :=
  h.of_eq (receive_field State.wgs (fun _ _ => rfl) ..) (receive_core_rest Core.wg (fun _ _ _ _ => rfl) ..)

/-! ## Landings (R175, R176) -/

/-- Outside a log the bytes that land are the giver's; flags land with a REDUCE alone. -/
theorem landPayload_plain {s : State} {h : Held} (hu : Unlogged s (gidCore h.l.gid)) (hd : h.dst < 65536) (now : Bool) :
    landPayload now s h = landBytes s now h.ev h.l h.arm h.dst h.data h.giver := by
  have hmod : h.dst % 65536 = h.dst := Nat.mod_eq_of_lt hd
  have hdiv : h.dst / 65536 = 0 := Nat.div_eq_of_lt hd
  simp only [landPayload, hmod, hdiv, hu.dataInput, ite_self]
  rfl

theorem landBytes_scratch {s : State} {ev : EvKey} {l : LatchId} {o : OfferMsg} {len place : Nat} (ho : kfind (s.latch l).offers ev = some o)
    (ht : o.take = some ⟨.scratch, len, place⟩) (now : Bool) (arm off : Nat) (data : List Byte) (who : Gid) :
    landBytes s now ev l arm off data who =
      confirmLanding (watchBank (locWrite s (gidCore l.gid) (place + off) data) (gidCore l.gid) (place + off) data.length who .landing none)
        ev l arm := by
  simp only [landBytes, ho, ht]

theorem confirmLanding_eq (s : State) (ev : EvKey) (l : LatchId) (arm : Nat) : confirmLanding s ev l arm =
    s.sendAll (.homeDeliveryConfirmed ev l arm ::
      if (s.latch l).sole = true ∧ (s.latch l).st = .committed ev ∧ (s.latch l).arm = arm then [.latchLastPayloadDelivered l ev arm] else []) := by
  simp [confirmLanding, and_assoc]

section
variable {s : State} {ev : EvKey} {l : LatchId} {arm dst : Nat} {data : List Byte} {giver : Gid} (hsub : l.sub < 0xFFFE)
include hsub

/-- A payload at a participant: held, sent again, or landed. -/
theorem exec_payloadLanding_taker : exec (.payloadLanding ev l arm dst data giver) s = .next (
    if routerHolds s l then
      if heldBytes (s.core (gidCore l.gid)) + data.length ≤ 16384 then
        (receive s (gidCore l.gid) giver).updCore (gidCore l.gid) fun k => { k with held := k.held ++ [⟨ev, l, arm, dst, data, giver⟩] }
      else s.send (.payloadLanding ev l arm dst data giver)
    else landPayload false (receive s (gidCore l.gid) giver) ⟨ev, l, arm, dst, data, giver⟩) := by
  rw [exec_payloadLanding, execPayloadLanding]
  simp only [show l.sub ≠ 0xFFFF by omega, show l.sub ≠ 0xFFFE by omega, if_false]

/-- A payload for SCRATCH at a core that runs: received, written, and confirmed. -/
theorem payloadLanding_scratch {o : OfferMsg} {len place : Nat} (hr : routerHolds s l = false) (hu : Unlogged s (gidCore l.gid))
    (ho : kfind (s.latch l).offers ev = some o) (ht : o.take = some ⟨.scratch, len, place⟩) (hd : dst < 65536) (hw : s.watches = []) :
    ∃ u, exec (.payloadLanding ev l arm dst data giver) s = .next (confirmLanding u ev l arm) ∧
      u.cores = (locWrite (receive s (gidCore l.gid) giver) (gidCore l.gid) (place + dst) data).cores ∧ u.latch l = s.latch l ∧
      u.agenda = s.agenda ∧ u.mem = s.mem := by
  have hlatch : (receive s (gidCore l.gid) giver).latch l = s.latch l := receive_field (State.latch · l) (fun _ _ => rfl) ..
  have hww : (locWrite (receive s (gidCore l.gid) giver) (gidCore l.gid) (place + dst) data).watches = [] :=
    (receive_field State.watches (fun _ _ => rfl) ..).trans hw
  have hready : kfind ((receive s (gidCore l.gid) giver).latch l).offers ev = some o := by rw [hlatch, ho]
  have hplain := landPayload_plain (h := ⟨ev, l, arm, dst, data, giver⟩) (unlogged_receive hu (gidCore l.gid) giver) hd false
  have hx : exec (.payloadLanding ev l arm dst data giver) s = .next (confirmLanding (watchBank
      (locWrite (receive s (gidCore l.gid) giver) (gidCore l.gid) (place + dst) data) (gidCore l.gid) (place + dst) data.length giver .landing none)
      ev l arm) := by
    rw [exec_payloadLanding_taker hsub, hr, if_neg Bool.false_ne_true, hplain, landBytes_scratch hready ht]
  exact ⟨_, hx, watchBank_field State.cores (fun _ _ _ => rfl) hww ..,
    (watchBank_field (State.latch · l) (fun _ _ _ => rfl) hww ..).trans hlatch,
    (watchBank_field State.agenda (fun _ _ _ => rfl) hww ..).trans (receive_field State.agenda (fun _ _ => rfl) ..),
    (watchBank_field State.mem (fun _ _ _ => rfl) hww ..).trans (receive_field State.mem (fun _ _ => rfl) ..)⟩

/-- A payload at a stopped core waits in its router. -/
theorem payloadLanding_held (hr : routerHolds s l = true) (hf : heldBytes (s.core (gidCore l.gid)) + data.length ≤ 16384) :
    exec (.payloadLanding ev l arm dst data giver) s = .next
      ((receive s (gidCore l.gid) giver).updCore (gidCore l.gid) fun k => { k with held := k.held ++ [⟨ev, l, arm, dst, data, giver⟩] }) := by
  rw [exec_payloadLanding_taker hsub, hr, if_pos rfl, if_pos hf]

theorem payloadLanding_resent (hr : routerHolds s l = true) (hf : 16384 < heldBytes (s.core (gidCore l.gid)) + data.length) :
    exec (.payloadLanding ev l arm dst data giver) s = .next (s.send (.payloadLanding ev l arm dst data giver)) := by
  rw [exec_payloadLanding_taker hsub, hr, if_pos rfl, if_neg (by omega)]

end

/-- The core at which bytes have been received and written. -/
theorem core_locWrite_receive_field {α : Type} (g : Core → α) (hg : ∀ (k : Core) b q, g { k with loc := b, locPoison := q } = g k) (s : State)
    (c : Nat) (giver : Gid) (a : Nat) (bs : List Byte) : g ((locWrite (receive s c giver) c a bs).core c) = g ((receive s c giver).core c) :=
  (congrArg g ((State.core_updCore ..).trans (if_pos rfl)) :).trans (hg ..)

/-! ## Standing agents (R188) -/

/-- An agent whose latch is IDLE arms what it wants. -/
theorem armAgent_idle {s : State} {l : LatchId} (hi : (s.latch l).st = .idle) (hw : wantsOf s l ≠ []) :
    armAgent s l = armLatch s l false 0 0 (wantsOf s l) := by
  have hne : (wantsOf s l).isEmpty = false := by simpa using hw
  simp [armAgent, hi, hne]

/-- What an agent whose latch is IDLE has armed. -/
theorem standingAgentOffer_arms {s : State} {l : LatchId} (hi : (s.latch l).st = .idle) (hw : wantsOf s l ≠ []) :
    ∃ t, exec (.standingAgentOffer l) s = .next t ∧ (t.latch l).st = .armed ∧ (t.latch l).offers.map (·.1) = (wantsOf s l).map (·.ev) := by
  refine ⟨_, congrArg Host.Outcome.next (armAgent_idle hi hw), ?_, ?_⟩
  · rw [armLatch_latch]
  · rw [armLatch_latch]
    simp [offerMsgs, Function.comp_def]

/-! ## Probes (R192) -/

/-- A visit that does not end the circuit clears the router's activity bit and takes its colour and counts into the probe. -/
theorem probeRouterVisit_next {s : State} {probe c : Nat} {p : Probe} (hp : tfind s.probes probe = some p) (hc : p.members[p.pos]? = some c)
    (hn : p.pos + 1 < p.members.length) : ∃ t, exec (.probeRouterVisit probe) s = .next t ∧ t.core c = { s.core c with active := false } ∧
      tfind t.probes probe = some { p with pos := p.pos + 1, black := p.black || (s.core c).active, sum := p.sum + countAt p.members (s.core c),
                                           still := p.still && coreStill s c } := by
  have hcore : (s.setCore c { s.core c with active := false }).core c = { s.core c with active := false } :=
    (State.core_setCore ..).trans (if_pos rfl)
  rw [exec_probeRouterVisit, execProbeRouterVisit, hp]
  simp only [hc, hn, if_true]
  exact ⟨_, rfl, hcore, (tfind_tput ..).trans (if_pos rfl)⟩

/-- Settles O39: a payload is received, then held, or written at its place and confirmed; an idle agent arms its wants; a visit writes the probe and
the activity bit. -/
theorem payloadsAndAgentsAndProbes : Obligations.PayloadsAndAgentsAndProbes := by
  intro s ev l arm dst place probe c data giver o len p d
  refine ⟨fun _ hsub hr hu ho ht hd _ hw => ?_, fun _ hsub hr hfit => ⟨_, payloadLanding_held hsub hr hfit, ?_, ?_, ?_, fun a => ?_⟩,
    fun _ hsub hr hfull => payloadLanding_resent hsub hr hfull, fun hi hne => standingAgentOffer_arms hi hne,
    fun hp hc hn => ?_⟩
  · obtain ⟨u, hx, hcores, hlatch, hagenda, hmem⟩ := payloadLanding_scratch (data := data) (giver := giver) hsub hr hu ho ht hd hw (arm := arm)
    have hcore : (confirmLanding u ev l arm).core d = (locWrite (receive s d giver) d (place + dst) data).core d :=
      congrArg (tget Core.reset · d) hcores
    refine ⟨_, hx, fun a => ?_, ?_, hmem, ?_, ?_, fun y => ?_⟩
    · rw [locByte, hcore, ← locByte, locByte_locWrite, locByte, locByte, receive_core_rest Core.loc (fun _ _ _ _ => rfl)]
      simp only [true_and]
    · rw [confirmLanding_eq, hlatch, State.sendAll, hagenda]
    · rw [hcore, core_locWrite_receive_field Core.active (fun _ _ _ => rfl), receive_active]
    · rw [hcore, core_locWrite_receive_field Core.sent (fun _ _ _ => rfl), receive_sent]
    · rw [State.ctx, hcore, core_locWrite_receive_field (Core.ctx · y) (fun _ _ _ => rfl), receive_core_rest (Core.ctx · y) (fun _ _ _ _ => rfl)]
      rfl
  · exact receive_field State.agenda (fun _ _ => rfl) ..
  · rw [State.core_updCore, if_pos rfl]
    exact congrArg (· ++ _) (receive_core_rest Core.held (fun _ _ _ _ => rfl) ..)
  · rw [State.core_updCore, if_pos rfl]
    exact receive_sent ..
  · rw [locByte, State.core_updCore, if_pos rfl]
    exact congrArg (memByte · a) (receive_core_rest Core.loc (fun _ _ _ _ => rfl) ..)
  · obtain ⟨t, hx, hcore, hprobe⟩ := probeRouterVisit_next hp hc hn
    exact ⟨t, hx, by rw [hcore], by rw [hcore], hprobe⟩

end Sys2Proof.Machine

/-! # Pipelines: binding, unbinding, production, and their agents (R344, R348 to R357, R372, R188) -/

namespace Sys2Proof.Machine

open Sys2Proof

theorem exec_weltBind (b : BindReq) (s : State) : exec (.weltBind b) s =
    .next (onHolder b.core b.ctx (fun t => answerTo b.core b.ctx (bindPipe t b.core b.ctx b.rd b.desc b.addr)) s) := rfl
theorem exec_weltUnbind (core ctx : Nat) (rd : Reg) (h : Word) (s : State) : exec (.weltUnbind core ctx rd h) s = execWeltUnbind core ctx rd h s := rfl
theorem exec_pipelineStageProduce (die i : Nat) (s : State) : exec (.pipelineStageProduce die i) s = execPipelineStageProduce die i s := rfl
theorem exec_permitAgentOffer (die i : Nat) (s : State) : exec (.permitAgentOffer die i) s = execPermitAgentOffer die i s := rfl
theorem exec_batchOffer (k t : Nat) (s : State) : exec (.batchOffer k t) s = .next (armAgent s (batchLatch s k t)) := rfl

/-! ## Events defined and deleted (R186, R210, R212) -/

theorem settle_field {α : Type} (g : State → α) (hg : ∀ (s : State) m k p f, g { s with mem := m, keyTag := k, memPoison := p, fsums := f } = g s)
    (s : State) (a n : Nat) : g (settle s a n) = g s := hg s s.mem s.keyTag s.memPoison _

theorem rekey_field {α : Type} (g : State → α) (hg : ∀ (s : State) m k p f, g { s with mem := m, keyTag := k, memPoison := p, fsums := f } = g s)
    (s : State) (key q : Nat) : g (rekey s key q) = g s := by
  unfold rekey
  split
  · rfl
  · exact hg s _ _ s.memPoison _

/-- Of the state, a write at the home changes memory, its keys, its poison and its sums. -/
theorem homeWrite_field {α : Type} (g : State → α)
    (hg : ∀ (s : State) m k p f, g { s with mem := m, keyTag := k, memPoison := p, fsums := f } = g s) (s : State) (key a : Nat) (bs : List Byte) :
    g (homeWrite s key a bs) = g s := by
  have hkeyed : g (settle ((sectorsOf a bs.length).foldl (fun t q => rekey t key q) s) a bs.length) = g s :=
    (settle_field g hg ..).trans (foldl_field g (fun t q => rekey_field g hg t key q) ..)
  rw [homeWrite]
  exact (hg _ _ _ _ _).trans hkeyed

/-- A descriptor's spill over the home's partition and the free places of its area. As variables these stay closed to the kernel, which would
count through the 64 KiB of R411 to compare them. -/
def spillInto (s : State) (d : EventDesc) (free : Partition → List Addr) : Option Partition → Option Addr × State
  | none => (none, s)
  | some q => match (free q)[Config.spillSlot s.draws % max (free q).length 1]? with
    | none => (none, s)
    | some a => (some a, homeWrite s.used q.key a (descBytes d))

theorem spillDesc_eq (s : State) (ev : EvKey) (d : EventDesc) : spillDesc s ev d =
    spillInto s d (freeSpill s) ((clusterPart s (clusterOf (homeCore ev.home % 576))).bind (tfind s.parts)) := rfl

theorem spillInto_field {α : Type} (g : State → α)
    (hg : ∀ (s : State) m k p f d, g { s with mem := m, keyTag := k, memPoison := p, fsums := f, draws := d } = g s)
    (s : State) (d : EventDesc) (free : Partition → List Addr) (part : Option Partition) : g (spillInto s d free part).2 = g s := by
  unfold spillInto
  split
  next => rfl
  next q =>
    split
    next => rfl
    next =>
      refine (homeWrite_field g (fun t m k p f => hg t m k p f t.draws) ..).trans ?_
      exact hg s s.mem s.keyTag s.memPoison s.fsums _

theorem reoffer_field {α : Type} (g : State → α) (hg : ∀ (s : State) h c, g { s with homes := h, clusters := c } = g s) (s : State) (ev : EvKey) :
    g (reoffer s ev) = g s := hg s s.homes _

/-- An event that is defined changes the homes, what engines keep as refused, and the spill area. -/
theorem defineEvent_field {α : Type} (g : State → α)
    (hm : ∀ (s : State) m k p f d, g { s with mem := m, keyTag := k, memPoison := p, fsums := f, draws := d } = g s)
    (hh : ∀ (s : State) h c, g { s with homes := h, clusters := c } = g s)
    (s : State) (ev : EvKey) (d : EventDesc) : g (defineEvent s ev d).2 = g s := by
  have hset (t : State) (h : Home) : g (reoffer (t.setHome ev h) ev) = g t := (reoffer_field g hh ..).trans (hh t _ t.clusters)
  unfold defineEvent
  refine (hset ..).trans ?_
  split
  · rw [spillDesc_eq]
    exact spillInto_field g hm ..
  · rfl

/-- A deleted event leaves its home, and its participants are told. -/
theorem deleteEvent_field {α : Type} (g : State → α) (hg : ∀ (s : State) h a, g { s with homes := h, agenda := a } = g s) (s : State) (ev : EvKey) :
    g (deleteEvent s ev) = g s := by
  unfold deleteEvent
  split
  · rfl
  · exact hg s _ _

/-! ## Answers of Welt (R356, R357) -/

section
variable {s : State} {c x : Nat} (h : OnItsCore s c x)
include h

theorem weltBind_here (rd : Reg) (bs : List Byte) (a : Word) (hcores : (bindPipe s c (s.asker c x) rd bs a).2.cores = s.cores) :
    exec (.weltBind ⟨c, s.asker c x, rd, bs, a⟩) s = .next (answerTo c (s.asker c x) (bindPipe s c (s.asker c x) rd bs a)) := by
  have hi : ((answerTo c (s.asker c x) (bindPipe s c (s.asker c x) rd bs a)).core c).image = none :=
    (congrArg (fun cs => (tget Core.reset cs c).image) hcores).trans h.image
  rw [exec_weltBind]
  exact congrArg _ (onHolder_asker hi)

end

/-- Welt's answer is on its way. -/
theorem mem_answerTo_agenda (c m : Nat) (r : Answer × State) : .requestAnswer c m (.answer r.1) ∈ (answerTo c m r).agenda :=
  List.mem_append_right _ (List.mem_singleton_self _)

/-! ## Binding (R348, R349, R351, R356) -/

/-- The table entries that a bind needs: the stages not shared, and a catch-up branch for a ONCE source. -/
def pipeNeed (s : State) (c : Nat) (bs : List Byte) (l : Layout) : Nat :=
  let k := (sharedWith (s.die (coreDie c)) (partNum (s.core c)) (relPages l) none (stagesOf bs l).dropLast).length
  (stagesOf bs l).length - k + if pdCyc bs then 0 else k

/-- What Welt makes of a bind that nothing refuses. -/
def pipeBound (s : State) (c m : Nat) (bs : List Byte) (slot : Nat) (l : Layout) : Nat × Die :=
  let d := s.die (coreDie c)
  bindEntries d (partNum (s.core c)) c m (wgTag (s.core c)) bs slot l
    (sharedWith d (partNum (s.core c)) (relPages l) none (stagesOf bs l).dropLast) (freeEntries d (pipeNeed s c bs l))

section
variable {s : State} {c m slot : Nat} {bs : List Byte} {l : Layout} (hsrc : pipeSource s c bs = some (slot, l)) (rd : Reg) (a : Word)
include hsrc

theorem bindPipe_eq : bindPipe s c m rd bs a =
    if (freeEntries (s.die (coreDie c)) (pipeNeed s c bs l)).length < pipeNeed s c bs l then (answerReg rd 1, s)
    else if wrongBank s bs then (answerReg rd 2, s)
    else if landsOn (s.die (coreDie c)) bs then (answerReg rd 3, s)
    else if (pipeEvents s c (gidOf s.dev c (m % 16)) bs).any fun e => (s.home ⟨homeNum s.dev c, e.name⟩).isSome then (answerReg rd 4, s)
    else
      let r := pipeBound s c m bs slot l
      (answerReg rd (BitVec.ofNat 64 (pipeHandle (coreDie c) r.1 (tget 0 (s.die (coreDie c)).subGens r.1))),
        (pipeEvents s c (gidOf s.dev c (m % 16)) bs).foldl (fun t e => (defineEvent t ⟨homeNum s.dev c, e.name⟩ e).2)
          (s.setDie (coreDie c) r.2)) := by
  rw [bindPipe, hsrc]
  rfl

theorem bindPipe_cores : (bindPipe s c m rd bs a).2.cores = s.cores := by
  rw [bindPipe_eq hsrc]
  split_ifs
  · rfl
  · rfl
  · rfl
  · rfl
  · exact foldl_field State.cores (fun t e => defineEvent_field State.cores (fun _ _ _ _ _ _ => rfl) (fun _ _ _ => rfl) ..) ..

end

/-- A bind that finds nothing in its way lists its subscription under the last of its own entries. -/
theorem pipeBound_sub (s : State) (c m : Nat) (bs : List Byte) (slot : Nat) (l : Layout) :
    let r := pipeBound s c m bs slot l
    ∃ q, tfind r.2.subs r.1 = some q ∧ q.gen = tget 0 (s.die (coreDie c)).subGens r.1 ∧ q.core = c ∧ q.ctx = m % 16 ∧ q.wg = wgTag (s.core c) ∧
      q.pbase = field bs 0 4 ∧ q.seq = 0 :=
  ⟨_, (tfind_tput ..).trans (if_pos rfl), rfl, rfl, rfl, rfl, rfl, rfl⟩

section
variable {s : State} {c x slot : Nat} (h : OnItsCore s c x) {bs : List Byte} {l : Layout} (hsrc : pipeSource s c bs = some (slot, l)) (rd : Reg)
  (a : Word)
include h hsrc

/-- A bind that Welt refuses with a code. -/
theorem weltBind_refused {code : Word} (hr : bindPipe s c (s.asker c x) rd bs a = (answerReg rd code, s)) :
    ∃ t, (exec (.weltBind ⟨c, s.asker c x, rd, bs, a⟩) s = .next t ∧
      .requestAnswer c (s.asker c x) (.answer ⟨[(rd, code)], 0, none, false⟩) ∈ t.agenda) ∧ t.dies = s.dies := by
  refine ⟨_, ⟨weltBind_here h rd bs a (bindPipe_cores hsrc rd a), ?_⟩, ?_⟩
  · rw [hr]
    exact mem_answerTo_agenda ..
  · rw [hr]
    rfl

/-- A bind that nothing refuses: the handle is the new subscription's. -/
theorem weltBind_bound {t : State} (hr : bindPipe s c (s.asker c x) rd bs a =
      let r := pipeBound s c (s.asker c x) bs slot l
      (answerReg rd (BitVec.ofNat 64 (pipeHandle (coreDie c) r.1 (tget 0 (s.die (coreDie c)).subGens r.1))), t))
    (hdies : t.dies = (s.setDie (coreDie c) (pipeBound s c (s.asker c x) bs slot l).2).dies) :
    ∃ t j q, (exec (.weltBind ⟨c, s.asker c x, rd, bs, a⟩) s = .next t ∧
      .requestAnswer c (s.asker c x) (.answer ⟨[(rd, BitVec.ofNat 64 (pipeHandle (coreDie c) j q.gen))], 0, none, false⟩) ∈ t.agenda) ∧
      tfind (t.die (coreDie c)).subs j = some q ∧ q.core = c ∧ q.ctx = x ∧ q.wg = wgTag (s.core c) ∧ q.pbase = field bs 0 4 ∧ q.seq = 0 := by
  obtain ⟨q, hq, hgen, hcore, hctx, hwg, hbase, hseq⟩ := pipeBound_sub s c (s.asker c x) bs slot l
  have ⟨_, hx, _⟩ := h
  have hdie : t.die (coreDie c) = (pipeBound s c (s.asker c x) bs slot l).2 :=
    (congrArg (tget Die.reset · (coreDie c)) hdies).trans ((State.die_setDie ..).trans (if_pos rfl))
  refine ⟨_, (pipeBound s c (s.asker c x) bs slot l).1, q, ⟨weltBind_here h rd bs a (bindPipe_cores hsrc rd a), ?_⟩, ?_, hcore,
    hctx.trans (asker_mod s c hx), hwg, hbase, hseq⟩
  · rw [hr, hgen]
    exact mem_answerTo_agenda ..
  · rw [hr]
    exact (congrArg (fun e : Die => tfind e.subs _) hdie).trans hq

end

/-! ## Unbinding (R352, R357) -/

theorem leaveEntries_subs (d : Die) (sub : Nat) (is : List Nat) : (leaveEntries d sub is).subs = d.subs := by
  refine List.foldlRecOn (motive := fun e : Die => e.subs = d.subs) _ _ rfl ?_
  rintro e he i -
  split
  next => exact he
  next =>
    simp only
    split
    next => exact he
    next => exact he

/-- An unbound subscription is gone. -/
theorem unbindSub_gone {s : State} {die i : Nat} {v : Sub} (hv : tfind (s.die die).subs i = some v) :
    tfind ((unbindSub s die i).die die).subs i = none := by
  rw [unbindSub, hv]
  simp only [State.die_setDie, if_true, prune, leaveEntries_subs]
  exact (tfind_tdel ..).trans (if_pos rfl)

theorem unbindSub_cores (s : State) (die i : Nat) : (unbindSub s die i).cores = s.cores := by
  unfold unbindSub
  split
  · rfl
  · exact foldl_field State.cores (fun t n => deleteEvent_field State.cores (fun _ _ _ => rfl) ..) ..

theorem tfind_of_subOf {s : State} {die i : Nat} {h : Word} {v : Sub} (hs : subOf s h = some (die, i, v)) : tfind (s.die die).subs i = some v := by
  unfold subOf at hs
  simp only at hs
  split at hs
  next u hu =>
    split at hs
    next => cases hs; exact hu
    next => cases hs
  next => cases hs

theorem tfind_of_boundBy {s : State} {c x die i : Nat} {h : Word} {v : Sub} (hb : boundBy s c x h = some (die, i, v)) :
    tfind (s.die die).subs i = some v := by
  unfold boundBy at hb
  split at hb
  next hs =>
    split at hb
    next => cases hb; exact tfind_of_subOf hs
    next => cases hb
  next => cases hb

section
variable {s : State} {c x : Nat} (h : OnItsCore s c x) (rd : Reg) {hd : Word}
include h

theorem boundBy_asker : boundBy s c (s.asker c x) hd = boundBy s c x hd := by
  obtain ⟨-, hx, -⟩ := h
  rw [boundBy, asker_mod s c hx]
  simp only [boundBy, Nat.mod_eq_of_lt hx]

/-- An unbind that need not wait is served at once. -/
theorem weltUnbind_here (hw : unbindWaits s c x hd = false) (hcores : (serveUnbind c (s.asker c x) rd hd s).cores = s.cores) :
    exec (.weltUnbind c (s.asker c x) rd hd) s = .next (serveUnbind c (s.asker c x) rd hd s) := by
  have hi : ((serveUnbind c (s.asker c x) rd hd s).core c).image = none := (congrArg (fun cs => (tget Core.reset cs c).image) hcores).trans h.image
  have hlent : lent s c (s.asker c x) = s := by rw [lent, isHere_asker, if_pos rfl]
  have hwaits : unbindWaits s c (s.asker c x) hd = false := by rw [unbindWaits, boundBy_asker h]; exact hw
  rw [exec_weltUnbind, execWeltUnbind, hlent, hwaits, onHolder_asker hi]
  rfl

theorem weltUnbind_missing (hb : boundBy s c x hd = none) : ∃ t, (exec (.weltUnbind c (s.asker c x) rd hd) s = .next t ∧
    .requestAnswer c (s.asker c x) (.answer ⟨[(rd, 2)], 0, none, false⟩) ∈ t.agenda) ∧ t.dies = s.dies := by
  have hserve : serveUnbind c (s.asker c x) rd hd s = answerTo c (s.asker c x) (answerReg rd 2, s) := by rw [serveUnbind, boundBy_asker h, hb]
  refine ⟨_, ⟨weltUnbind_here h rd ?_ ?_, ?_⟩, ?_⟩
  · rw [unbindWaits, hb]
  · rw [hserve]
    rfl
  · rw [hserve]
    exact mem_answerTo_agenda ..
  · rw [hserve]
    rfl

theorem weltUnbind_gone {die i : Nat} {v : Sub} (hb : boundBy s c x hd = some (die, i, v)) (hp : permitCommits s v = false) :
    ∃ t, (exec (.weltUnbind c (s.asker c x) rd hd) s = .next t ∧
      .requestAnswer c (s.asker c x) (.answer ⟨[(rd, 0)], 0, none, false⟩) ∈ t.agenda) ∧ tfind (t.die die).subs i = none := by
  have hserve : serveUnbind c (s.asker c x) rd hd s = answerTo c (s.asker c x) (answerReg rd 0, unbindSub s die i) := by
    rw [serveUnbind, boundBy_asker h, hb]
  refine ⟨_, ⟨weltUnbind_here h rd ?_ ?_, ?_⟩, ?_⟩
  · rw [unbindWaits, hb]
    exact hp
  · rw [hserve]
    exact unbindSub_cores ..
  · rw [hserve]
    exact mem_answerTo_agenda ..
  · rw [hserve]
    exact unbindSub_gone (tfind_of_boundBy hb)

end

/-! ## Production (R340, R350) -/

theorem tfind_map_snd {α β : Type} (f : Nat × α → β) (t : Tbl α) (k : Nat) :
    tfind (t.map fun e => (e.1, f e)) k = (tfind t k).map fun v => f (k, v) := by
  induction t with
  | nil => rfl
  | cons e t ih =>
    rw [List.map_cons, tfind_cons, tfind_cons, ih]
    split
    next hk => subst hk; rfl
    next => rfl

/-- Pruning drops productions that nobody waits for, and keeps every entry's count. -/
theorem made_of_prune {d : Die} {i : Nat} {e : Entry} (h : tfind d.entries i = some e) (keep : List Nat) :
    ∃ e', tfind (prune d keep).entries i = some e' ∧ e'.made = e.made :=
  ⟨pruneEntry d keep i e, by rw [prune, tfind_map_snd, h]; rfl, rfl⟩

theorem putProd_entry (d : Die) (i : Nat) (e : Entry) (tile : Nat) (bs : List Byte) (pois : Bool) :
    ∃ e', tfind (putProd d i e tile bs pois).entries i = some e' ∧ e'.made = e.made + 1 :=
  ⟨_, (tfind_tput ..).trans (if_pos rfl), rfl⟩

/-- A die with one production more, whatever else of it has changed, once it is pruned. -/
theorem made_setDie_prune {s : State} {die i n : Nat} {d : Die} (h : ∃ e, tfind d.entries i = some e ∧ e.made = n) (keep : List Nat) :
    ∃ e', tfind ((s.setDie die (prune d keep)).die die).entries i = some e' ∧ e'.made = n := by
  obtain ⟨e, he, hn⟩ := h
  obtain ⟨e', he', hm⟩ := made_of_prune he keep
  rw [State.die_setDie, if_pos rfl]
  exact ⟨e', he', hm.trans hn⟩

section
variable {s : State} {die i : Nat} {e : Entry} (he : tfind (s.die die).entries i = some e)

theorem produceFetch_made {lay : Layout} {u : Sub} (hl : tfind (s.die die).layouts e.src = some lay) (hu : tfind (s.die die).subs e.owner = some u) :
    ∃ e', tfind ((produceFetch s die i e).die die).entries i = some e' ∧ e'.made = e.made + 1 := by
  rw [produceFetch, hl, hu]
  refine made_setDie_prune ?_ _
  simp only [apply_ite Die.entries, ite_self]
  exact putProd_entry ..

variable (hc : canProduce (s.die die) i = true)
include he hc

theorem exec_produce_fetch (hk : e.kind = 1) : exec (.pipelineStageProduce die i) s = .next (produceFetch s die i e) := by
  rw [exec_pipelineStageProduce, execPipelineStageProduce]
  simp only [he, hc, hk, Bool.not_true, Bool.false_eq_true, if_false, if_true]

theorem produce_stage {p : Prod} (hk : e.kind ≠ 1) (hp : nextProd (s.die die).entries e = some p) :
    ∃ t e', exec (.pipelineStageProduce die i) s = .next t ∧ tfind (t.die die).entries i = some e' ∧ e'.made = e.made + 1 ∧ t.mem = s.mem := by
  let r := stageTile e p.bytes
  let d1 := putProd (s.die die) i (tookNext (s.die die).entries e) p.tile r.1 p.pois
  let d2 := if r.2 = 0 then d1 else feedFlags d1 e r.2
  have hmade : ∃ e', tfind d2.entries i = some e' ∧ e'.made = e.made + 1 := by
    simp only [d2]
    split
    · exact putProd_entry ..
    · exact putProd_entry ..
  obtain ⟨e', he', hm⟩ := made_setDie_prune (s := s) (die := die) hmade (busySubs s die)
  refine ⟨s.setDie die (prune d2 (busySubs s die)), e', ?_, he', hm, rfl⟩
  rw [exec_pipelineStageProduce, execPipelineStageProduce]
  simp only [he, hc, hk, hp, Bool.not_true, Bool.false_eq_true, if_false, d2, d1, r]

end

/-! ## Agents of pipelines and trees (R188, R344, R372) -/

theorem latch_armAgent_ne (s : State) {l k : LatchId} (h : k ≠ l) : (armAgent s l).latch k = s.latch k := by
  have harm (t : State) (ws : List Want) : (armLatch t l false 0 0 ws).latch k = t.latch k := (State.latch_setLatch ..).trans (if_neg h)
  have hidle : (idleLatch s l).latch k = s.latch k := (State.latch_setLatch ..).trans (if_neg h)
  unfold armAgent
  simp only
  split_ifs <;> simp [harm, hidle]

/-- What an agent whose latch is IDLE arms. -/
theorem armAgent_armed {s : State} {l : LatchId} (hi : (s.latch l).st = .idle) (hw : wantsOf s l ≠ []) :
    ((armAgent s l).latch l).st = .armed ∧ ((armAgent s l).latch l).offers.map (·.1) = (wantsOf s l).map (·.ev) := by
  rw [armAgent_idle hi hw, armLatch_latch]
  exact ⟨rfl, by simp [offerMsgs, Function.comp_def]⟩

theorem permitLatch_ne_passLatch (s : State) (core i : Nat) : permitLatch s core i ≠ passLatch s core i := fun h => by
  have hsub : 2 * i = 2 * i + 1 := congrArg LatchId.sub h
  omega

theorem permitAgentOffer_armed {s : State} {die i : Nat} {u : Sub} (hu : tfind (s.die die).subs i = some u)
    (hi : (s.latch (permitLatch s u.core i)).st = .idle) (hw : wantsOf s (permitLatch s u.core i) ≠ []) :
    ∃ t, exec (.permitAgentOffer die i) s = .next t ∧ (t.latch (permitLatch s u.core i)).st = .armed ∧
      (t.latch (permitLatch s u.core i)).offers.map (·.1) = (wantsOf s (permitLatch s u.core i)).map (·.ev) := by
  refine ⟨armAgent (armAgent s (permitLatch s u.core i)) (passLatch s u.core i), ?_, ?_⟩
  · rw [exec_permitAgentOffer, execPermitAgentOffer, hu]
  · rw [latch_armAgent_ne _ (permitLatch_ne_passLatch s u.core i)]
    exact armAgent_armed hi hw

/-- Settles O41: a bind goes down the chain of its refusals to a subscription under its handle, an unbind deletes one, a production is `putProd` behind
`prune`, and an idle agent arms its wants. -/
theorem weltAnswersAndProduces : Obligations.WeltAnswersAndProduces := by
  intro s c x die i slot tree k rd bs a h l lay e u v p m b d gs shared need answers pl room named hown
  have ⟨_, hx, _⟩ := hown
  refine ⟨fun hsrc => ?_, fun hb => weltUnbind_missing hown rd hb, fun hb hp => weltUnbind_gone hown rd hb hp,
    fun he hc => ⟨fun hk hl hu => ?_, fun hk hp => produce_stage he hc hk hp⟩, fun hu hi hw => permitAgentOffer_armed hu hi hw,
    fun hi hw => ⟨_, exec_batchOffer .., armAgent_armed hi hw⟩⟩
  · have hdies (t : State) (evs : List EventDesc) : (evs.foldl (fun t e => (defineEvent t ⟨homeNum s.dev c, e.name⟩ e).2) t).dies = t.dies :=
      foldl_field State.dies (fun t e => defineEvent_field State.dies (fun _ _ _ _ _ _ => rfl) (fun _ _ _ => rfl) ..) ..
    have heq := bindPipe_eq (m := m) hsrc rd a
    rw [asker_mod s c hx] at heq
    have hroom (hr : room) : ¬ (freeEntries (s.die (coreDie c)) (pipeNeed s c bs l)).length < pipeNeed s c bs l := not_lt.2 hr
    have hnamed : (pipeEvents s c (gidOf s.dev c x) bs).any (fun e => (s.home ⟨homeNum s.dev c, e.name⟩).isSome) = true ↔ named := by
      simp [named, Option.isSome_iff_ne_none]
    refine ⟨fun hlt => weltBind_refused hown hsrc rd a (heq.trans (if_pos hlt)), fun hr hw => weltBind_refused hown hsrc rd a ?_,
      fun hr hw hl => weltBind_refused hown hsrc rd a ?_, fun hr hw hl hn => weltBind_refused hown hsrc rd a ?_,
      fun hr hw hl hn => weltBind_bound hown hsrc rd a (t := _) ?_ (hdies _ (pipeEvents s c (gidOf s.dev c x) bs))⟩
    · rw [heq, if_neg (hroom hr), if_pos hw]
    · rw [heq, if_neg (hroom hr), if_neg (hw ▸ Bool.false_ne_true), if_pos hl]
    · rw [heq, if_neg (hroom hr), if_neg (hw ▸ Bool.false_ne_true), if_neg (hl ▸ Bool.false_ne_true), if_pos (hnamed.2 hn)]
    · rw [heq, if_neg (hroom hr), if_neg (hw ▸ Bool.false_ne_true), if_neg (hl ▸ Bool.false_ne_true), if_neg (mt hnamed.1 hn)]
  · obtain ⟨e', he', hm⟩ := produceFetch_made (i := i) hl hu
    exact ⟨_, e', exec_produce_fetch he hc hk, he', hm⟩

end Sys2Proof.Machine

/-! # Records that a request carries (R113, R380) -/

namespace Sys2Proof.Machine

open Sys2Proof

/-- A context in the middle of the load of a misaligned extent record: it has taken the upper part when NODES was 128, and memory holds 64 since. -/
def regrown : State :=
  { State.reset with cores := [(0, { Core.reset with loc := [(0x100010, 64)],
                                                     ctxs := [(0, { Ctx.reset with half := some (true, [128, 0, 0, 0, 0, 0, 0, 0]) })] })] }

/-- The extent record as the two parts have it: a base of 0 and 128 nodes. -/
def takenRecord : List Byte := List.replicate 8 0 ++ [128, 0, 0, 0, 0, 0, 0, 0]

/-- The messages on their way after a step that goes on. -/
def agendaAfter : Ans → List Instr
  | .next t => t.agenda
  | _ => []

theorem regrown_open : LocalOpen regrown 0xFFFFFFFFFFF00008 0x100008 16 := by
  have hall : (regrown.myCore.wpCtl.all fun v => v.toNat % 4 == 0) = true := by decide +kernel
  refine ⟨by decide, by decide, by decide, by decide +kernel, rfl, fun v hv => by simpa using List.all_eq_true.mp hall v hv, rfl⟩

/-- Refutes O25: RecordRequestsAreSent gives TCFG.GROW the 16 bytes that memory holds. A misaligned record is split at its 16-byte boundary (R113), and
the part taken first stands: here the request carries the 128 nodes that were taken, not the 64 that memory holds since. -/
theorem not_requestsAreSent : ¬Obligations.RequestsAreSent := by
  unfold Obligations.RequestsAreSent
  rintro ⟨-, hrec, -⟩
  unfold RecordRequestsAreSent at hrec
  have hclean : LocalClean regrown 0x100008 16 := by unfold LocalClean; decide +kernel
  have howed : NothingOwed regrown := by unfold NothingOwed; decide +kernel
  obtain ⟨-, -, -, -, -, -, -, -, hgrow, -⟩ :=
    hrec regrown 1 0 0 0 0 0xFFFFFFFFFFF00008 0 0x100008 0 ⟨0, .sync, 0, 0, false, 0, 0, []⟩ (parseLayout 0 0 0 []) (by decide)
  obtain ⟨t, ht, hsent, -⟩ := hgrow howed ⟨regrown_open, hclean⟩ (by decide) (by decide +kernel)
  have htaken : agendaAfter (exec (.tcfgGrowLit 1 0 0xFFFFFFFFFFF00008) regrown) =
      [.cantleOperation 0 0 0 0 (.cfgGrow 1 takenRecord 0xFFFFFFFFFFF00008)] := by decide +kernel
  rw [ht] at htaken
  exact absurd (htaken.symm.trans hsent) (by decide +kernel)

end Sys2Proof.Machine

/-! # EVSTAT and PSTAT (R207, R213, R359) -/

namespace Sys2Proof.Machine

open Sys2Proof

/-! ## A request sent (R207) -/

/-- A message sent while the running context becomes `k`, and nothing else. -/
theorem asks_of_send {i m : Instr} {s : State} {k : Ctx} (h : exec i s = .next ((s.setMe k).send m)) : Asks i s m k :=
  ⟨_, h, rfl, onlyCtx_setMe s k, (State.ctx_setMe ..).trans (if_pos ⟨rfl, rfl⟩)⟩

/-- A request to a home of this device. -/
theorem State.request_here {s : State} {home : Nat} (h : homeDev home = s.dev) (n : Nat) (r : Request) :
    s.request n home r = (s.setMe (asking s n)).send (.requestAnswer s.cur.1 (s.asker s.cur.1 s.cur.2) r) :=
  if_pos h

theorem homeDev_homeNum {dev c : Nat} (h : c < 576) : homeDev (homeNum dev c) = dev := by
  unfold homeDev homeNum
  omega

theorem regName_of_isName {s : State} {v : Word} (h : IsName s v) : regName s v = some v.toNat := if_pos h

/-! ## A record stored (R213, R359) -/

/-- A core written with local bytes, and its running context: the record is stored. -/
theorem storesLocalTo_of_setsCore {i : Instr} {s : State} {lo : Nat} {bs : List Byte} {k : Ctx}
    (h : SetsCore i s s.cur.1 (s.myCore.written lo bs).shell s.cur.2 k) : StoresLocalTo i s lo bs k := by
  obtain ⟨t, ht, hshared, hcore, hme, hctx, hcores⟩ := h
  have hloc : (t.core s.cur.1).loc = memWrite s.myCore.loc lo bs := congrArg Core.loc hcore
  have hpois : (t.core s.cur.1).locPoison = (s.myCore.written lo bs).locPoison := (congrArg Core.locPoison hcore :)
  refine ⟨t, ht, hshared, fun a => ?_, fun q => ?_, ?_, hme, fun d y hne => ⟨?_, hcores d⟩⟩
  · rw [locByte, hloc, memByte_memWrite]; rfl
  · rw [hpois, Core.mem_written_locPoison]
  · rw [hcore]; rfl
  · by_cases hd : d = s.cur.1
    · subst hd; exact hctx y (hne.resolve_left (· rfl))
    · simp only [State.ctx, hcores d hd]

/-- The end of the instruction, where no log holds its value. -/
theorem Unlogged.record_ends {t : State} (h : Unlogged t t.cur.1) (i : Instr) (rd : Reg) (v : Word) :
    (let r := t.input t.cur.1 t.cur.2 4 v; (r.2.setMe { r.2.me with recd := none }).ret i rd r.1) =
      t.setMe (advance (xwrite { t.me with recd := none } rd v) (byteLen i)) := by
  simp only [h.input, ret_setMe]

/-- The record that has come back is stored, and a value of it goes to rd. -/
theorem storesLocalTo_storeRecord {i : Instr} {s : State} {rd : Reg} {e v : Word} {lo : Nat} {bs : List Byte} (ho : LocalOpen s e lo 64)
    (hu : Unlogged s s.cur.1) (hl : bs.length = 64) (hx : exec i s = .next (storeRecord i rd e.toNat bs v s)) :
    StoresLocalTo i s lo bs (advance (xwrite { s.me with recd := none } rd v) (byteLen i)) := by
  have ho' : LocalOpen s e lo bs.length := by rwa [hl]
  have hwhole : splitAt e.toNat bs.length = none := if_neg fun h => by omega
  have hu' : Unlogged (s.setMyCore (s.myCore.written lo bs)) s.cur.1 :=
    hu.of_eq rfl (by rw [State.setMyCore, State.core_setCore, if_pos rfl]; rfl)
  refine storesLocalTo_of_setsCore (setsCore_setMe (f := fun k => advance (xwrite { k with recd := none } rd v) (byteLen i)) rfl ?_)
  rw [hx, storeRecord, ho'.store .store hwhole, locWrite_eq]
  exact congrArg _ (hu'.record_ends i rd v)

/-- Where no record has come back and its destination may be stored to, it is asked for. -/
theorem recordAt_asks {s : State} {e : Word} {lo : Nat} (ho : LocalOpen s e lo 64) (hu : Unlogged s s.cur.1) (hr : s.me.recd = none)
    (hs : s.me.stale = false) (ask : State → State) (got : List Byte → State) : recordAt e.toNat ask got s = ask s := by
  simp [recordAt, hr, hs, hu.replayFull, ho.access .store false]

theorem recordAt_got {s : State} {bs : List Byte} (hr : s.me.recd = some bs) (e : Nat) (ask : State → State) (got : List Byte → State) :
    recordAt e ask got s = got bs := by
  simp only [recordAt, hr]

theorem exec_evstat (rd rs1 rs2 : Reg) (s : State) : exec (.evstat rd rs1 rs2) s = execEvstat rd rs1 rs2 s := rfl
theorem exec_pstat (rd rs1 rs2 : Reg) (s : State) : exec (.pstat rd rs1 rs2) s = execPstat rd rs1 rs2 s := rfl

/-- Settles O26: `recordAt` sends the request where the checks of the store pass, and stores the record that has come back. -/
theorem recordsAreStored : Obligations.RecordsAreStored := by
  unfold Obligations.RecordsAreStored
  intro s rd rs1 rs2 lo bs x y done ho hu hc
  refine ⟨fun hr hs => ⟨fun hn hd => ?_, fun hp => ?_⟩, fun hr hl => ⟨fun hn => ?_, ?_⟩⟩
  · refine asks_of_send ?_
    rw [exec_evstat, execEvstat, regName_of_isName hn]
    exact congrArg _ ((recordAt_asks ho hu hr hs ..).trans (State.request_here hd ..))
  · refine asks_of_send ?_
    rw [exec_pstat, execPstat, if_neg fun h => by rw [Option.isNone_eq_false_iff.2 hp] at h; exact Bool.false_ne_true h.2]
    exact congrArg _ ((recordAt_asks ho hu hr hs ..).trans (State.request_here (homeDev_homeNum hc) ..))
  · refine storesLocalTo_storeRecord ho hu hl ?_
    rw [exec_evstat, execEvstat, regName_of_isName hn]
    exact congrArg _ (recordAt_got hr ..)
  · refine storesLocalTo_storeRecord ho hu hl ?_
    rw [exec_pstat, execPstat, if_neg fun h => by rw [hr] at h; exact Bool.false_ne_true h.1]
    exact congrArg _ (recordAt_got hr ..)

end Sys2Proof.Machine

/-! # OFFER, TAKE, COPY, PERMIT and WDRAW (R215, R217, R224, R225, R338, R358) -/

namespace Sys2Proof.Machine

open Sys2Proof

/-! ## The staging (R215) -/

theorem freeSlot_of_takesSlot {s : State} {i : Nat} (h : TakesSlot s i) : freeSlot s.me.staged = some i := by
  obtain ⟨hi, hnone, hlow⟩ := h
  rw [freeSlot, List.find?_range_eq_some]
  exact ⟨by rw [hnone]; rfl, List.mem_range.2 hi, fun j hj => by rw [Option.isNone_eq_false_iff.2 (hlow j hj)]; rfl⟩

theorem stagedName_eq_false {t : Tbl Staged} {n : Nat} (h : ∀ e ∈ t, e.2.name ≠ n) : stagedName t n = false := by
  simpa [stagedName] using h

theorem pass_setMe (s : State) (k : Ctx) (i : Instr) : (s.setMe k).pass i = s.setMe (advance k (byteLen i)) := by
  rw [State.pass, State.me_setMe, State.setMe_setMe]

/-- An instruction that ends by staging an offer in the lowest free slot. -/
theorem becomes_stage {ins : Instr} {s : State} {i : Nat} {o : Staged} (hi : TakesSlot s i) (h : exec ins s = .next ((stage s o).pass ins)) :
    Becomes ins s (advance { s.me with staged := tput s.me.staged i o } (byteLen ins)) := by
  refine becomes_setMe (h.trans (congrArg _ ?_))
  simp only [stage, freeSlot_of_takesSlot hi, pass_setMe]

/-! ## OFFER (R215) -/

/-- A descriptor, where the offer has one, is in range, and its SCRATCH bytes lie in SCRATCH banks. -/
def RegionOk (s : State) (v : Option Word) (give : Bool) (r : Option Region) : Prop :=
  (v.map fun w => parseRegion w give (decide (s.cur.2 ≠ 0)) (queueView s s.cur.1).rows) = r.map some ∧ regionRefused s.myCore r = none

theorem regionOk_none (s : State) (give : Bool) : RegionOk s none give none := ⟨rfl, rfl⟩

theorem regionOk_some {s : State} {w : Word} {give : Bool} {r : Region}
    (h : parseRegion w give (decide (s.cur.2 ≠ 0)) (queueView s s.cur.1).rows = some r ∧ regionRefused s.myCore (some r) = none) :
    RegionOk s (some w) give (some r) := ⟨congrArg some h.1, h.2⟩

/-- OFFER's checks pass. -/
theorem offer_eq {s : State} {i n : Nat} {v : Word} {gv tv : Option Word} {g t : Option Region} (hi : TakesSlot s i)
    (hn : regName s v = some n) (hf : ∀ e ∈ s.me.staged, e.2.name ≠ n) (hg : RegionOk s gv true g) (ht : RegionOk s tv false t)
    (ins : Instr) (dir : Dir) : offer ins dir v gv tv s = (stage s ⟨n, dir, g, t, none⟩).pass ins := by
  obtain ⟨hg, hgr⟩ := hg
  obtain ⟨ht, htr⟩ := ht
  have hm (r : Option Region) : (r.map some == some none) = false := by cases r <;> rfl
  have hd (r : Option Region) : (r.map some).getD none = r := by cases r <;> rfl
  simp only [offer, hn, hg, ht, hm, hd, hgr, htr, lowest, stagedName_eq_false hf, freeSlot_of_takesSlot hi]
  rfl

theorem exec_offerSync (rn : Reg) (s : State) : exec (.offerSync rn) s = execOfferSync rn s := rfl
theorem exec_offerGive (rn rg : Reg) (s : State) : exec (.offerGive rn rg) s = execOfferGive rn rg s := rfl
theorem exec_offerTake (rt rn : Reg) (s : State) : exec (.offerTake rt rn) s = execOfferTake rt rn s := rfl
theorem exec_offerBoth (rt rn rg : Reg) (s : State) : exec (.offerBoth rt rn rg) s = execOfferBoth rt rn rg s := rfl
theorem exec_wdraw (slot : BitVec 3) (s : State) : exec (.wdraw slot) s = execWdraw slot s := rfl
theorem exec_wdrawAll (s : State) : exec .wdrawAll s = execWdrawAll s := rfl

/-! ## TAKE (R225) -/

theorem exec_take {s : State} {rs1 rs2 : Reg} {i : Nat} (hi : TakesSlot s i) (hp : (xread s.me rs1).toNat ≤ 15)
    (hw : (xread s.me rs2).toNat + 48 ≤ 2 ^ 21) (hr : regionRefused s.myCore (some ⟨.scratch, 48, (xread s.me rs2).toNat⟩) = none) :
    exec (.take rs1 rs2) s = .next ((stage s ⟨3 * 2 ^ 29 + clusterOf s.cur.1 * 2 ^ 16 + 0xFF00 + (xread s.me rs1).toNat, .take, none,
      some ⟨.scratch, 48, (xread s.me rs2).toNat⟩, none⟩).pass (.take rs1 rs2)) := by
  have hlen : min 48 (2 ^ 21 - (xread s.me rs2).toNat) = 48 := by omega
  show execTake rs1 rs2 s = _
  unfold execTake
  rw [if_neg (by rw [freeSlot_of_takesSlot hi, Option.isNone_some]; simp; omega), hlen, hr]
  dsimp only
  rw [if_neg (by omega), ename, ← Nat.add_assoc]

/-! ## COPY (R338) -/

/-- COPY's checks pass. -/
theorem copyAt_eq {s : State} {i first : Nat} {k src dst c : Word} {ls ld : Layout} (hi : TakesSlot s i) (hk : IsName s k) (hc : IsName s c)
    (hf : ∀ e ∈ s.me.staged, e.2.name ≠ k.toNat) (hs : layoutWith s src 0 = some ls) (hd : layoutWith s dst 1 = some ld)
    (hn : ls.count = ld.count) (hfirst : first < ls.count) (hfmt : ls.format = ld.format ∨ (fmtScaled ls.format = false ∧ fmtScaled ld.format = false))
    (ins : Instr) (rm : BitVec 3) (sat : BitVec 1) : copyAt ins rm sat k src dst c first s =
      (stage s ⟨k.toNat, .give, some ⟨.none, 32, 0⟩, none, some ⟨k.toNat, src.toNat, dst.toNat, c.toNat, first,
        if rm = 7 then s.me.frm.toNat else rm.toNat, decide (sat = 1), s.myGid⟩⟩).pass ins := by
  have hfmt' : ¬(ls.format ≠ ld.format ∧ (fmtScaled ls.format = true ∨ fmtScaled ld.format = true)) := by
    rcases hfmt with e | ⟨e, e'⟩
    · exact fun h => h.1 e
    · simp [e, e']
  simp only [copyAt, regName_of_isName hk, regName_of_isName hc, hs, hd]
  rw [if_neg (not_not.2 hn), if_neg hfmt', if_neg (by rw [stagedName_eq_false hf, freeSlot_of_takesSlot hi, Option.isNone_some]; simp; omega)]
  rfl

/-! ## PERMIT (R358) -/

/-- PERMIT of a slot of a subscription is the take of its permit event. -/
theorem exec_permit {s : State} {rt rs1 rs2 : Reg} {die sub : Nat} {u : Sub} (hb : boundBy s s.cur.1 s.cur.2 (xread s.me rs1) = some (die, sub, u))
    (hj : (xread s.me rs2).toNat < pdSlots u.desc) (hl : (xread s.me rt).toNat / 2 ^ 32 % 2 ^ 13 = 8) :
    exec (.permit rt rs1 rs2) s =
      .next (offer (.permit rt rs1 rs2) .take (BitVec.ofNat 64 (u.pbase + (xread s.me rs2).toNat)) none (some (xread s.me rt)) s) := by
  show execPermit rt rs1 rs2 s = _
  unfold execPermit
  rw [hb]
  dsimp only
  rw [if_neg]
  rw [bits]
  omega

/-- Settles O28: each instruction whose checks pass ends in `stage`, which takes the lowest free slot. -/
theorem offersAreStaged : Obligations.OffersAreStaged := by
  unfold Obligations.OffersAreStaged
  intro s rn rg rt rd rs1 rs2 rs3 i j die sub g t u rm sat lit slot ls ld x y name parse free stages give take cmd copies hi
  have copy {ins : Instr} {first : Nat} (h : exec ins s = .next (copyAt ins rm sat (xread s.me rd) x y (xread s.me rs3) first s)) :
      copies ins first := fun hk hc hf hs hd hn hfirst hfmt =>
    becomes_stage hi (h.trans (congrArg _ (copyAt_eq hi hk hc hf hs hd hn hfirst hfmt ins rm sat)))
  refine ⟨fun hn hf => ?_, fun hp hw hr => becomes_stage hi (exec_take hi hp hw hr), copy rfl, copy rfl, fun hb hj hs hlt hv hf hl ht => ?_,
    becomes_setMe ((exec_wdraw slot s).trans (congrArg _ (pass_setMe ..))), becomes_setMe ((exec_wdrawAll s).trans (congrArg _ (pass_setMe ..)))⟩
  · have key {gv tv : Option Word} {g t : Option Region} (hg : RegionOk s gv true g) (ht : RegionOk s tv false t) (ins : Instr) (dir : Dir)
        (h : exec ins s = .next (offer ins dir name gv tv s)) : stages ins ⟨name.toNat, dir, g, t, none⟩ :=
      becomes_stage hi (h.trans (congrArg _ (offer_eq hi (regName_of_isName hn) hf hg ht ins dir)))
    exact ⟨key (regionOk_none s _) (regionOk_none s _) _ _ (exec_offerSync rn s),
      fun hg => key (regionOk_some hg) (regionOk_none s _) _ _ (exec_offerGive rn rg s),
      fun ht => key (regionOk_none s _) (regionOk_some ht) _ _ (exec_offerTake rt rn s),
      fun hg ht => key (regionOk_some hg) (regionOk_some ht) _ _ (exec_offerBoth rt rn rg s)⟩
  · subst hj
    have hname : (BitVec.ofNat 64 (u.pbase + y.toNat)).toNat = u.pbase + y.toNat := by
      rw [BitVec.toNat_ofNat, Nat.mod_eq_of_lt (by omega)]
    have hreg : regName s (BitVec.ofNat 64 (u.pbase + y.toNat)) = some (u.pbase + y.toNat) := by
      rw [regName, hname, if_pos ⟨hlt, hv⟩]
    exact becomes_stage hi ((exec_permit hb hs hl).trans (congrArg _ (offer_eq hi hreg hf (regionOk_none s _) (regionOk_some ht) _ _)))

end Sys2Proof.Machine

/-! # SPAWN, HEND and DOMSET (R14, R222, R223, R231) -/

namespace Sys2Proof.Machine

open Sys2Proof

theorem exec_spawn (rd rs1 rs2 : Reg) (s : State) : exec (.spawn rd rs1 rs2) s = execSpawn rd rs1 rs2 s := rfl
theorem exec_hend (s : State) : exec .hend s = execHend s := rfl
theorem exec_domset (rs1 : Reg) (s : State) : exec (.domset rs1) s = execDomset rs1 s := rfl

/-! ## SPAWN (R222) -/

theorem misaligned_iff (v : Word) : v.extractLsb' 0 2 ≠ 0 ↔ v.toNat % 4 ≠ 0 := by
  rw [ne_eq, ← BitVec.toNat_inj, extractLsb'_toNat_div]
  simp

theorem mem_helpers {h : Nat} : h ∈ (List.range 10).map (· + 1) ↔ 1 ≤ h ∧ h ≤ 10 := by
  rw [List.mem_map]
  exact ⟨fun ⟨k, hk, e⟩ => by rw [List.mem_range] at hk; omega, fun hh => ⟨h - 1, List.mem_range.2 (by omega), by omega⟩⟩

theorem freeHelper_none {k : Core} (h : ∀ i, 1 ≤ i → i ≤ 10 → (k.ctx i).live = true) : freeHelper k = none := by
  rw [freeHelper, List.find?_eq_none]
  intro i hi
  obtain ⟨h1, h2⟩ := mem_helpers.1 hi
  simp [h i h1 h2]

/-- The lowest helper that is not live. -/
theorem freeHelper_some {k : Core} {h : Nat} (h1 : 1 ≤ h) (h10 : h ≤ 10) (hf : (k.ctx h).live = false)
    (hl : ∀ i, 1 ≤ i → i < h → (k.ctx i).live = true) : freeHelper k = some h := by
  have hp : (!(k.ctx (h - 1 + 1)).live) = true := by rw [Nat.sub_add_cancel h1, hf]; rfl
  rw [freeHelper, List.find?_map, Option.map_eq_some_iff]
  refine ⟨h - 1, List.find?_range_eq_some.2 ⟨hp, List.mem_range.2 (by omega), fun j hj => ?_⟩, by omega⟩
  simp [hl (j + 1) (by omega) (by omega)]

/-- A new helper holds the frame in X2 and 0 in every other register. -/
theorem xread_newHelper (old parent : Ctx) (entry frame : Word) (r : Reg) :
    xread (newHelper old parent entry frame) r = if r = 2 then frame else 0 := by
  have hz (r : Reg) : xread Ctx.reset r = 0 := by
    unfold xread Ctx.reset
    split
    · rfl
    · exact Vector.getElem_replicate _
  rw [newHelper, xread_xwrite]
  by_cases h : r = 2
  · rw [if_pos ⟨h, by decide⟩, if_pos h]
  · rw [if_neg fun e => h e.1, if_neg h]; exact hz r

/-- The core of a spawner beside its contexts. -/
def Core.spawned (k : Core) (h : Nat) : Core := { queueBefore h k with endFlags := tdel k.endFlags h }

/-- SPAWN, case by case. -/
theorem exec_spawn_eq (rd rs1 rs2 : Reg) (s : State) : exec (.spawn rd rs1 rs2) s = .next (
    if s.cur.2 ≠ 0 ∨ (xread s.me rs1).toNat % 4 ≠ 0 then s.ill (.spawn rd rs1 rs2) 6
    else match freeHelper s.myCore with
      | none => s.ret (.spawn rd rs1 rs2) rd 0
      | some h => ((s.setCore s.cur.1 (s.myCore.spawned h)).setCtx s.cur.1 h
          (newHelper (s.ctx s.cur.1 h) s.me (xread s.me rs1) (xread s.me rs2))).ret (.spawn rd rs1 rs2) rd (BitVec.ofNat 64 h)) := by
  simp only [exec_spawn, execSpawn, misaligned_iff]
  rfl

/-- SPAWN with a free helper: two contexts of the core are written. -/
theorem exec_spawn_free {s : State} {rd rs1 rs2 : Reg} {h : Nat} (hc : s.cur.2 = 0) (he : (xread s.me rs1).toNat % 4 = 0) (h1 : 1 ≤ h)
    (hf : freeHelper s.myCore = some h) : exec (.spawn rd rs1 rs2) s = .next
      (((s.setCore s.cur.1 (s.myCore.spawned h)).setCtx s.cur.1 h (newHelper (s.ctx s.cur.1 h) s.me (xread s.me rs1) (xread s.me rs2))).setCtx
        s.cur.1 0 (advance (xwrite s.me rd (BitVec.ofNat 64 h)) 4)) := by
  have hme (k : Ctx) : ((s.setCore s.cur.1 (s.myCore.spawned h)).setCtx s.cur.1 h k).me = s.me := by
    refine (State.ctx_setCtx ..).trans ((if_neg fun e => ?_).trans (ctx_setCore_of_ctxs (k := s.myCore.spawned h) rfl ..))
    have : s.cur.2 = h := e.2
    omega
  rw [exec_spawn_eq, if_neg (by simp [hc, he]), hf]
  dsimp only
  rw [State.ret, hme]
  show Host.Outcome.next (State.setCtx _ s.cur.1 s.cur.2 _) = _
  rw [hc]; rfl

theorem helpersComeAndGo : HelpersComeAndGo := by
  intro s rd rs1 rs2 h c entry i queued
  refine ⟨fun hi => ?_, fun hc he hl => gives_ret (j := i) ?_ rfl, fun hc he h1 h10 hf hl => ?_,
    fun hc => becomes_setMe ?_, fun hc => ?_⟩
  · show exec i s = _
    rw [exec_spawn_eq, if_pos hi]; rfl
  · rw [exec_spawn_eq, if_neg (by simp [hc, show (xread s.me rs1).toNat % 4 = 0 from he]), freeHelper_none (k := s.myCore) hl]
  · have hctx (k : Nat) : (s.setCore c (s.myCore.spawned h)).ctx c k = s.ctx c k := ctx_setCore_of_ctxs (k := s.myCore.spawned h) rfl c k
    have hne : h ≠ 0 := by omega
    have hnew : ∀ k, (((s.setCore c (s.myCore.spawned h)).setCtx c h (newHelper (s.ctx c h) s.me entry (xread s.me rs2))).setCtx c 0
        (advance (xwrite s.me rd (BitVec.ofNat 64 h)) 4)).ctx c k = if k = 0 then advance (xwrite s.me rd (BitVec.ofNat 64 h)) 4
          else if k = h then newHelper (s.ctx c h) s.me entry (xread s.me rs2) else s.ctx c k := fun k => by
      simp [hctx]
    have hh := hnew h
    rw [if_neg hne, if_pos rfl] at hh
    refine ⟨_, exec_spawn_free hc he h1 (freeHelper_some h1 h10 hf hl), rfl, ?_, hnew 0, ?_⟩
    · rw [State.core_setCtx, if_pos rfl, State.core_setCtx, if_pos rfl, State.core_setCore, if_pos rfl]; rfl
    · rw [hh]
      refine ⟨rfl, rfl, xread_newHelper _ _ _ _, rfl, rfl, rfl, rfl, rfl, rfl, rfl, rfl, rfl, rfl, rfl, fun k h0 hk => ?_, fun d hd => ?_⟩
      · rw [hnew, if_neg h0, if_neg hk]
      · rw [State.core_setCtx, if_neg hd, State.core_setCtx, if_neg hd, State.core_setCore, if_neg hd]
  · rw [exec_hend, execHend, if_neg hc]
  · rw [Traps, exec_hend, execHend, if_pos hc]; rfl

/-! ## DOMSET (R231) -/

theorem memberships_nodup (lmem lbase : Nat) : (memberships lmem lbase).Nodup :=
  (List.nodup_range.filter _).map fun _ _ h => Nat.add_left_cancel h

/-- A domain that a core joins or leaves. -/
def Ldom.withMember (l : Ldom) (g : Gid) (here : Bool) : Ldom :=
  let ms := if here then nadd l.members g else l.members.filter (· != g)
  { l with members := ms, scope := if l.scope = 6 then 6 else enclosing (ms.map gidCore) }

theorem Ldom.mem_withMember_of_ne (l : Ldom) {g h : Gid} (hne : h ≠ g) (here : Bool) : h ∈ (l.withMember g here).members ↔ h ∈ l.members := by
  cases here with
  | true => exact (mem_nadd ..).trans (or_iff_left hne)
  | false => simp [withMember, hne]

theorem Ldom.mem_withMember_self (l : Ldom) (g : Gid) (here : Bool) : g ∈ (l.withMember g here).members ↔ here = true := by
  cases here with
  | true => exact iff_of_true ((mem_nadd ..).2 (.inr rfl)) rfl
  | false => simp [withMember]

theorem tfind_setMember (s : State) (c d e : Nat) (here : Bool) :
    tfind (setMember s c d here).ldoms e = if e = d then (tfind s.ldoms d).map (·.withMember (gidOf s.dev c 0) here) else tfind s.ldoms e := by
  unfold setMember
  split
  next h =>
    split
    · subst e; rw [h]; rfl
    · rfl
  next l h => rw [h]; exact tfind_tput ..

/-- What a change of a domain's members leaves alone. -/
theorem setMember_field {α : Type} (g : State → α) (hg : ∀ (s : State) t, g { s with ldoms := t } = g s) (s : State) (c d : Nat) (here : Bool) :
    g (setMember s c d here) = g s := by
  unfold setMember
  split
  · rfl
  · exact hg ..

/-- A core joins or leaves several domains. -/
def setMembers (s : State) (c : Nat) (ds : List Nat) (here : Bool) : State := ds.foldl (fun t d => setMember t c d here) s

theorem setMembers_field {α : Type} (g : State → α) (hg : ∀ (s : State) t, g { s with ldoms := t } = g s) (s : State) (c : Nat) (ds : List Nat)
    (here : Bool) : g (setMembers s c ds here) = g s := by
  induction ds generalizing s with
  | nil => rfl
  | cons d ds ih => exact (ih _).trans (setMember_field g hg s c d here)

theorem tfind_setMembers {ds : List Nat} (hn : ds.Nodup) (s : State) (c e : Nat) (here : Bool) :
    tfind (setMembers s c ds here).ldoms e =
      if e ∈ ds then (tfind s.ldoms e).map (·.withMember (gidOf s.dev c 0) here) else tfind s.ldoms e := by
  induction ds generalizing s with
  | nil => rfl
  | cons d ds ih =>
    obtain ⟨hd, hn⟩ := List.nodup_cons.1 hn
    have hdev : (setMember s c d here).dev = s.dev := setMember_field (·.dev) (fun _ _ => rfl) ..
    show tfind (setMembers (setMember s c d here) c ds here).ldoms e = _
    rw [ih hn, tfind_setMember, hdev]
    by_cases he : e = d
    · subst he; simp [hd]
    · simp [he]

/-- A core moves from the domains `old` to the domains `new`. -/
def moveDomains (s : State) (c : Nat) (old new : List Nat) : State :=
  setMembers (setMembers s c (old.filter fun d => !new.contains d) false) c (new.filter fun d => !old.contains d) true

theorem moveDomains_field {α : Type} (g : State → α) (hg : ∀ (s : State) t, g { s with ldoms := t } = g s) (s : State) (c : Nat) (old new : List Nat) :
    g (moveDomains s c old new) = g s :=
  (setMembers_field g hg ..).trans (setMembers_field g hg ..)

/-- A domain after the move: it has a new member, or one member less, or is as before. -/
theorem tfind_moveDomains {s : State} {old new : List Nat} (ho : old.Nodup) (hn : new.Nodup) (c d : Nat) :
    tfind (moveDomains s c old new).ldoms d =
      if d ∈ old ∧ d ∉ new then (tfind s.ldoms d).map (·.withMember (gidOf s.dev c 0) false)
      else if d ∈ new ∧ d ∉ old then (tfind s.ldoms d).map (·.withMember (gidOf s.dev c 0) true) else tfind s.ldoms d := by
  have hdev : (setMembers s c (old.filter fun d => !new.contains d) false).dev = s.dev := setMembers_field (·.dev) (fun _ _ => rfl) ..
  rw [moveDomains, tfind_setMembers (hn.filter _), tfind_setMembers (ho.filter _), hdev]
  by_cases h1 : d ∈ old <;> by_cases h2 : d ∈ new <;> simp [h1, h2]

/-- The domain after the move, in the words of R231. -/
theorem moveDomains_domain {s : State} {old new : List Nat} {d : Nat} {l : Ldom} (ho : old.Nodup) (hn : new.Nodup) (c : Nat)
    (hl : tfind s.ldoms d = some l) : ∃ l', tfind (moveDomains s c old new).ldoms d = some l' ∧
      (∀ g, g ≠ gidOf s.dev c 0 → (g ∈ l'.members ↔ g ∈ l.members)) ∧
      (d ∈ new → d ∉ old → gidOf s.dev c 0 ∈ l'.members) ∧ (d ∈ old → d ∉ new → gidOf s.dev c 0 ∉ l'.members) ∧
      ((d ∈ old ↔ d ∈ new) → l' = l) ∧ (¬(d ∈ old ↔ d ∈ new) → l'.scope = if l.scope = 6 then 6 else enclosing (l'.members.map gidCore)) := by
  rw [tfind_moveDomains ho hn, hl]
  by_cases hleft : d ∈ old ∧ d ∉ new
  · rw [if_pos hleft]
    exact ⟨_, rfl, fun g hg => l.mem_withMember_of_ne hg _, by tauto, fun _ _ h => Bool.false_ne_true ((l.mem_withMember_self ..).1 h), by tauto, fun _ => rfl⟩
  by_cases hcame : d ∈ new ∧ d ∉ old
  · rw [if_neg hleft, if_pos hcame]
    exact ⟨_, rfl, fun g hg => l.mem_withMember_of_ne hg _, fun _ _ => (l.mem_withMember_self ..).2 rfl, by tauto, by tauto, fun _ => rfl⟩
  · rw [if_neg hleft, if_neg hcame]
    exact ⟨l, rfl, fun g _ => Iff.rfl, by tauto, by tauto, fun _ => rfl, by tauto⟩

/-- No event is defined in a domain that the core leaves or joins. -/
theorem any_domainUsed_of_moved {s : State} {old new : List Nat} (h : ∀ q, (q ∈ old ↔ q ∈ new) ∨ domainUsed s q = false) :
    ((old.filter fun d => !new.contains d) ++ new.filter fun d => !old.contains d).any (domainUsed s) = false := by
  simp only [List.any_eq_false, List.mem_append, List.mem_filter, Bool.not_eq_true', List.contains_eq_mem, decide_eq_false_iff_not]
  intro q hq hused
  have := (h q).resolve_right (by rw [hused]; decide)
  tauto

/-- DOMSET whose checks pass. -/
theorem exec_domset_ok {s : State} {rs1 : Reg} (hp : s.me.priv ≠ .u) (hv : (xread s.me rs1).toNat % 2 ^ 35 = 0)
    (hb : baseValid s s.myCore.part ((xread s.me rs1).toNat / 2 ^ 35 % 2 ^ 13) = true)
    (hu : ∀ q, (q ∈ memberships s.myCore.lmem.toNat s.myCore.lbase.toNat ↔
      q ∈ memberships ((xread s.me rs1).toNat / 2 ^ 48) ((xread s.me rs1).toNat / 2 ^ 35 % 2 ^ 13)) ∨ domainUsed s q = false) :
    exec (.domset rs1) s = .next (((moveDomains s s.cur.1 (memberships s.myCore.lmem.toNat s.myCore.lbase.toNat)
      (memberships ((xread s.me rs1).toNat / 2 ^ 48) ((xread s.me rs1).toNat / 2 ^ 35 % 2 ^ 13))).updCore s.cur.1 fun k =>
        { k with lmem := BitVec.ofNat 16 ((xread s.me rs1).toNat / 2 ^ 48),
                 lbase := BitVec.ofNat 13 ((xread s.me rs1).toNat / 2 ^ 35 % 2 ^ 13) }).pass (.domset rs1)) := by
  have hl : bits (xread s.me rs1).toNat 48 16 = (xread s.me rs1).toNat / 2 ^ 48 := Nat.mod_eq_of_lt (by omega)
  rw [exec_domset, execDomset, if_neg (not_or.2 ⟨hp, not_not.2 hv⟩), hl]
  simp only [bits, hb, any_domainUsed_of_moved hu]
  rfl

/-- A core written in a state with the same cores, then the instruction's end. -/
theorem pass_updCore {s m : State} (hc : m.cores = s.cores) (hcur : m.cur = s.cur) {f : Core → Core} (hf : (f s.myCore).ctxs = s.myCore.ctxs)
    (i : Instr) : (m.updCore s.cur.1 f).pass i = (m.setCore s.cur.1 (f s.myCore)).setCtx s.cur.1 s.cur.2 (advance s.me (byteLen i)) := by
  have hcore : m.core s.cur.1 = s.myCore := congrArg (tget Core.reset · s.cur.1) hc
  have hme : (m.setCore s.cur.1 (f s.myCore)).ctx s.cur.1 s.cur.2 = s.me :=
    (ctx_setCore_of_ctxs (by rw [hf, hcore]) ..).trans (congrArg (Core.ctx · s.cur.2) hcore)
  rw [State.updCore, hcore]
  show State.setCtx _ m.cur.1 m.cur.2 (advance (State.ctx _ m.cur.1 m.cur.2) _) = _
  rw [hcur, hme]

theorem domsetMovesTheCore : DomsetMovesTheCore := by
  intro s rs1 d l c v lmem lbase old new
  refine ⟨fun h => ?_, fun hp hv hb hu hl => ?_⟩
  · rw [Traps, exec_domset, execDomset, if_pos h]; rfl
  · have ht := exec_domset_ok hp hv hb hu
    obtain ⟨l', hfind, hothers, hjoins, hleaves, hkeeps, hscope⟩ := moveDomains_domain (s := s)
      (memberships_nodup s.myCore.lmem.toNat s.myCore.lbase.toNat) (memberships_nodup lmem lbase) c hl
    have hcores : (moveDomains s c old new).cores = s.cores := moveDomains_field (·.cores) (fun _ _ => rfl) ..
    have hcur : (moveDomains s c old new).cur = s.cur := moveDomains_field (·.cur) (fun _ _ => rfl) ..
    have hmem : (moveDomains s c old new).mem = s.mem := moveDomains_field (·.mem) (fun _ _ => rfl) ..
    rw [pass_updCore hcores hcur rfl] at ht
    refine ⟨_, l', ht, ?_, ?_, hfind, hothers, hjoins, hleaves, hkeeps, hscope, hmem⟩
    · rw [State.core_setCtx, if_pos rfl, State.core_setCore, if_pos rfl]; rfl
    · rw [State.ctx_setCtx, if_pos ⟨rfl, rfl⟩]; rfl

/-- Settles O30: SPAWN writes two contexts and the queue of the core, HEND one context, DOMSET two registers and the domains that change. -/
theorem helpersAndDomains : Obligations.HelpersAndDomains := ⟨helpersComeAndGo, domsetMovesTheCore⟩

end Sys2Proof.Machine

/-! # Packets of a queue (R229, R326, R327, R465 to R470) -/

namespace Sys2Proof.Machine

open Sys2Proof

/-! ## What the buffer modes leave alone (R309, R423, R468) -/

/-- A part of the state that no write-back, partial or watch match changes: it reads neither the cores, the levels of memory nor the messages on
their way, and the trace does not change it. -/
structure CacheBlind {α : Type} (g : State → α) : Prop where
  caches : ∀ (s : State) cs a m k p f l d,
    g { s with cores := cs, agenda := a, mem := m, keyTag := k, memPoison := p, fsums := f, llc := l, draws := d } = g s
  trace : ∀ (s : State) c r, g (s.trace c r) = g s

section
variable {α : Type} {g : State → α} (hg : CacheBlind g)
include hg

theorem CacheBlind.mem (s : State) (m : Memory) k p f : g { s with mem := m, keyTag := k, memPoison := p, fsums := f } = g s :=
  hg.caches s s.cores s.agenda m k p f s.llc s.draws

theorem CacheBlind.setCore (s : State) (c : Nat) (k : Core) : g (s.setCore c k) = g s :=
  hg.caches s _ s.agenda s.mem s.keyTag s.memPoison s.fsums s.llc s.draws

theorem CacheBlind.send (s : State) (i : Instr) : g (s.send i) = g s :=
  hg.caches s s.cores _ s.mem s.keyTag s.memPoison s.fsums s.llc s.draws

theorem CacheBlind.llcNew (s : State) (line key cls rcls : Nat) : g (llcNew s line key cls rcls) = g s := by
  have hput (t : State) (l : Tbl LlcLine) : g { t with llc := l } = g t := hg.caches t t.cores t.agenda t.mem t.keyTag t.memPoison t.fsums l t.draws
  unfold Machine.llcNew
  dsimp only
  split
  · rfl
  · split
    · split
      · exact hput ..
      · split
        · exact (hput ..).trans (hg.caches s s.cores s.agenda s.mem s.keyTag s.memPoison _ _ _)
        · rfl
    · split
      · exact (hput ..).trans (hg.caches s s.cores s.agenda s.mem s.keyTag s.memPoison _ _ _)
      · rfl

theorem CacheBlind.homeTouch (s : State) (key line : Nat) (x : Ctx) : g (homeTouch s key line x) = g s := by
  unfold Machine.homeTouch llcInsert
  split
  · split
    · split
      · rfl
      · exact (hg.llcNew ..).trans (hg.caches s s.cores s.agenda s.mem s.keyTag s.memPoison _ _ s.draws)
    · exact hg.llcNew ..
  · rfl

theorem CacheBlind.writeDirty (key base : Nat) (bytes : List Byte) (is : List Nat) (s : State) : g (writeDirty key base bytes is s) = g s := by
  induction is generalizing s with
  | nil => rfl
  | cons i is ih => exact (ih _).trans ((hg.mem ..).trans ((settle_field g hg.mem ..).trans (rekey_field g hg.mem ..)))

theorem CacheBlind.writeBack (s : State) (c sec : Nat) : g (writeBack s c sec) = g s := by
  unfold Machine.writeBack
  split
  · rfl
  · split
    · rfl
    · exact (hg.setCore ..).trans ((hg.mem ..).trans ((hg.writeDirty ..).trans (hg.homeTouch ..)))

theorem CacheBlind.sendPartial (s : State) (c sec : Nat) : g (sendPartial s c sec) = g s := by
  unfold Machine.sendPartial
  split
  · split
    · exact (hg.send ..).trans ((hg.setCore ..).trans (hg.setCore ..))
    · rfl
  · rfl

theorem CacheBlind.dropSector (s : State) (c sec : Nat) : g (dropSector s c sec) = g s :=
  (hg.setCore ..).trans ((hg.sendPartial ..).trans (hg.writeBack ..))

theorem CacheBlind.watchAct (core wp : Nat) (ctl : Word) (base i agent : Nat) (acc : Access) (s : State) :
    g (watchAct core wp ctl base i agent acc s) = g s := by
  unfold Machine.watchAct State.traceIf
  dsimp only
  split
  · split <;> exact hg.setCore ..
  · exact hg.setCore ..
  · split
    · exact hg.trace ..
    · rfl

theorem CacheBlind.watchWrite (kind a n agent : Nat) (acc : Access) (own : Option Nat) (ws : List (Nat × Nat × Nat × Nat)) (s : State) :
    g (watchWrite kind a n agent acc own ws s) = g s := by
  induction ws generalizing s with
  | nil => rfl
  | cons w ws ih =>
    refine (ih _).trans ?_
    split
    · split
      · exact hg.watchAct ..
      · rfl
    · rfl

theorem CacheBlind.combineElem (key op n : Nat) (s : State) (e : UpdElem) : g (combineElem key op n s e) = g s := by
  unfold Machine.combineElem
  split
  · exact hg.mem s _ s.keyTag s.memPoison _
  · exact hg.mem s _ s.keyTag s.memPoison s.fsums

theorem CacheBlind.combinePartial (m : UpdMsg) (s : State) : g (combinePartial m s) = g s := by
  have hs0 (x : Ctx) : g (Machine.homeTouch (s.updCore m.core fun k => { k with sent := k.sent - 1, active := true }) m.key (m.sector / 4) x) = g s :=
    (hg.homeTouch ..).trans (hg.setCore ..)
  unfold Machine.combinePartial wakeStores
  refine (hg.setCore ..).trans ?_
  split
  · exact hs0 _
  · refine (foldl_field g (fun t e => (hg.watchWrite ..).trans (hg.combineElem ..)) ..).trans ((rekey_field g hg.mem ..).trans ?_)
    split
    · exact (settle_field g hg.mem ..).trans (hs0 _)
    · exact hs0 _

theorem CacheBlind.cleanRun (s : State) (cores : List Nat) (drop : Bool) (b : Nat × Nat × Nat) : g (cleanRun s cores drop b) = g s := by
  unfold Machine.cleanRun combineRun
  refine (foldl_field g (fun t m => hg.combinePartial m t) ..).trans ?_
  refine (hg.caches _ _ _ _ _ _ _ _ _).trans (foldl_field g (fun t c => foldl_field g (fun u q => ?_) ..) ..)
  split
  · exact hg.dropSector ..
  · exact (hg.sendPartial ..).trans (hg.writeBack ..)

theorem CacheBlind.buffersBefore (s : State) (cores : List Nat) (pkt : List Byte) : g (buffersBefore s cores pkt) = g s := by
  refine foldl_field g (fun t b => ?_) ..
  split
  · exact hg.cleanRun ..
  · rfl

theorem CacheBlind.buffersAfter (s : State) (cores : List Nat) (bufs : List Byte) : g (buffersAfter s cores bufs) = g s := by
  refine foldl_field g (fun t i => ?_) ..
  dsimp only
  split
  · exact hg.cleanRun ..
  · rfl

end

/-- The trace changes the encoder of a core and the buffer of its cluster. -/
theorem trace_field {α : Type} (g : State → α) (hg : ∀ (s : State) cs ks, g { s with cores := cs, clusters := ks } = g s) (s : State) (c : Nat)
    (r : TraceRec) : g (s.trace c r) = g s := by
  unfold State.trace
  dsimp only
  split <;> exact hg s _ _

theorem cacheBlind_of {α : Type} {g : State → α} (hg : ∀ (s : State) cs a m k p f l d ks,
    g { s with cores := cs, agenda := a, mem := m, keyTag := k, memPoison := p, fsums := f, llc := l, draws := d, clusters := ks } = g s) :
    CacheBlind g where
  caches s cs a m k p f l d := hg s cs a m k p f l d s.clusters
  trace := trace_field g fun s cs ks => hg s cs s.agenda s.mem s.keyTag s.memPoison s.fsums s.llc s.draws ks

/-- A cluster whose pools stay leaves the pools of every cluster. -/
theorem pool_setCluster {s : State} {n : Nat} {v : Cluster} (hv : v.pools = (s.cluster n).pools) (k j : Nat) :
    (s.setCluster n v).pool k j = s.pool k j := by
  rw [State.pool, State.cluster_setCluster]
  split
  next h => rw [hv, h]; rfl
  next => rfl

theorem drainTrace_pool (s : State) (c k j : Nat) : (s.drainTrace c).pool k j = s.pool k j :=
  pool_setCluster (s := s.setCore c _) (by rfl) k j

theorem trace_pool (s : State) (c : Nat) (r : TraceRec) (k j : Nat) : (s.trace c r).pool k j = s.pool k j := by
  unfold State.trace
  dsimp only
  split
  · exact pool_setCluster (s := s.setCore c _) (by rfl) k j
  · exact drainTrace_pool ..

theorem cacheBlind_pool (k j : Nat) : CacheBlind (·.pool k j) := ⟨fun _ _ _ _ _ _ _ _ _ => rfl, fun s c r => trace_pool s c r k j⟩

theorem cacheBlind_queues : CacheBlind (·.queues) := cacheBlind_of fun _ _ _ _ _ _ _ _ _ _ => rfl

theorem cacheBlind_evKey (c n : Nat) : CacheBlind (evKey · c n) := cacheBlind_of fun _ _ _ _ _ _ _ _ _ _ => rfl

end Sys2Proof.Machine

namespace Sys2Proof.Machine

open Sys2Proof

/-! ## The queue of a packet (R465, R467, R469) -/

/-- A queue whose packet has been taken and ends with a record. -/
def Queue.ends (u : Queue) (r : CRec) : Queue := { u with recs := u.recs ++ [r], stage := .ending, qhead := u.qhead + 1 }

/-- A queue whose thread has taken a packet and offers its event. -/
def Queue.offersEvent (u : Queue) (name : Nat) (r : CRec) (st : QStage) : Queue :=
  { u with offers := u.offers ++ [(u.nextSub, name, some r)], nextSub := u.nextSub + 1, stage := st, qhead := u.qhead + 1 }

/-- The record of a packet that breaks its rules (R467). -/
def refusal (pkt : List Byte) : CRec := { crec pkt 1 0 true with bufs := [] }

theorem queue_taken (s : State) (q : Nat) : (taken s q).queue q = { s.queue q with qhead := (s.queue q).qhead + 1 } :=
  (State.queue_setQueue ..).trans (if_pos rfl)

theorem queue_congr {s t : State} (h : t.queues = s.queues) (q : Nat) : t.queue q = s.queue q := congrArg (tget Queue.reset · q) h

/-- The end of a packet that has been taken. -/
theorem queue_putRec_taken {s t : State} {q : Nat} (h : t.queues = (taken s q).queues) {r : CRec} (hr : r.last = true) :
    (putRec t q r).queue q = (s.queue q).ends r := by
  rw [putRec, State.queue_setQueue, if_pos rfl, queue_congr h, queue_taken, hr]
  rfl

theorem queue_offerFrom_taken {s t : State} {q : Nat} (h : t.queues = (taken s q).queues) (name : Nat) (r : CRec) (st : QStage) :
    (offerFrom t q name (some r) st).queue q = (s.queue q).offersEvent name r st := by
  rw [offerFrom, State.queue_setQueue, if_pos rfl, queue_congr h, queue_taken]
  rfl

theorem queue_refusePacket (s : State) (q : Nat) (pkt : List Byte) : (refusePacket s q pkt).queue q = (s.queue q).ends (refusal pkt) :=
  queue_putRec_taken rfl rfl

/-- A packet taken, and its buffers cleaned before it acts (R468). -/
def begun (s : State) (q : Nat) (pkt : List Byte) : State := buffersBefore (taken s q) (partCores s (s.queue q).part) pkt

theorem CacheBlind.begun {α : Type} {g : State → α} (hg : CacheBlind g) (s : State) (q : Nat) (pkt : List Byte) :
    g (begun s q pkt) = g (taken s q) := hg.buffersBefore ..

theorem begun_queues (s : State) (q : Nat) (pkt : List Byte) : (begun s q pkt).queues = (taken s q).queues := cacheBlind_queues.begun ..

/-- A thread that may take a packet takes it, or refuses it (R467). -/
theorem ite_packet {m : Bool} (hm : m = true) (ok : Bool) (s refused done : State) :
    (if !m then s else if !ok then refused else done) = if ok then done else refused := by
  subst hm
  cases ok <;> rfl

/-! ## WAIT and SIGNAL (R470) -/

section
variable {s : State} {q : Nat} (hm : mayTake s q = true) (pkt : List Byte)
include hm

theorem exec_waitPacket : exec (.waitPacket q pkt) s = .next
    (if headerOk s (s.queue q).part 3 pkt && signalOk s (s.queue q).part false pkt then
      offerFrom (begun s q pkt) q (field pkt 16 4) (some (crec pkt 0 0 true)) (.offering pkt)
    else refusePacket s q pkt) :=
  congrArg Host.Outcome.next (ite_packet hm ..)

theorem exec_signalPacket : exec (.signalPacket q pkt) s = .next
    (if headerOk s (s.queue q).part 4 pkt && signalOk s (s.queue q).part true pkt then
      offerFrom (buffersAfter (begun s q pkt) (partCores s (s.queue q).part) ((pkt.drop 144).take (16 * pkCount pkt))) q (field pkt 16 4)
        (some (crec pkt 0 0 (!nbit (field pkt 20 4) 0))) (if nbit (field pkt 20 4) 0 then .idle else .offering pkt)
    else refusePacket s q pkt) :=
  congrArg Host.Outcome.next (ite_packet hm ..)

/-! ## POOL (R229, R470) -/

theorem exec_poolPacket : exec (.poolPacket q pkt) s = .next
    (if headerOk s (s.queue q).part 2 pkt && poolOk s (s.queue q).part pkt then
      let k := bits (field pkt 16 4) 24 5
      let i := bits (field pkt 16 4) 0 4
      match if ((begun s q pkt).pool k i).en then placeTask ((begun s q pkt).pool k i) i ((pkt.drop 32).take 48)
          (evKey (begun s q pkt) (firstCore k) (field ((pkt.drop 32).take 48) 36 4)) else none with
      | none => putRec (begun s q pkt) q (crec pkt 1 0 true)
      | some (h, v) => putRec ((begun s q pkt).setPool k i v) q (crec pkt 0 (BitVec.ofNat 64 h) true)
    else refusePacket s q pkt) :=
  congrArg Host.Outcome.next (ite_packet hm ..)

/-! ## LAUNCH (R470) -/

theorem exec_launchPacket : exec (.launchPacket q pkt) s = .next
    (if headerOk s (s.queue q).part 1 pkt && launchBodyOk s (s.queue q).part pkt then
      if !imageFits s (s.queue q).part pkt (imageHead s (s.queue q).part (lpImage pkt)) then
        putRec (taken s q) q { crec pkt 5 0 true with bufs := [] }
      else (taken s q).setQueue q { (taken s q).queue q with stage := .candidate pkt s.cycle.toNat }
    else refusePacket s q pkt) :=
  congrArg Host.Outcome.next (ite_packet hm ..)

/-! ## BIND and RELEASE (R326, R327) -/

theorem exec_bindPacket : exec (.bindPacket q pkt) s = .next
    (if headerOk s (s.queue q).part 6 pkt && 1 ≤ field pkt 24 4 && field pkt 24 4 ≤ 3 && inRegions s (s.queue q).part (field pkt 16 8) 64 &&
        zeroFrom pkt 28 144 then
      match registerLayout (begun s q pkt) (q / 32) (bindCore (begun s q pkt) q (s.queue q).part) (some (s.queue q).part) bindCtx
          (partBytes (begun s q pkt) (s.queue q).part (field pkt 16 8) 64) (field pkt 24 4) with
      | .error _ => putRec (begun s q pkt) q (crec pkt 7 0 true)
      | .ok r => putRec r.2 q (crec pkt (if r.1 = 0 then 7 else 0) (BitVec.ofNat 64 r.1) true)
    else refusePacket s q pkt) :=
  congrArg Host.Outcome.next (ite_packet hm ..)

theorem exec_bindReleasePacket : exec (.bindReleasePacket q pkt) s = .next
    (if headerOk s (s.queue q).part 6 pkt && bits (field pkt 24 4) 2 30 == 1 && zeroFrom pkt 32 144 then
      let r := releaseLayout (begun s q pkt) (q / 32) (s.queue q).part (field pkt 28 4)
      putRec r.2 q (crec pkt (if r.1 = 0 then 0 else 7) 0 true)
    else refusePacket s q pkt) :=
  congrArg Host.Outcome.next (ite_packet hm ..)

end

end Sys2Proof.Machine

namespace Sys2Proof.Machine

open Sys2Proof

/-! ## Fields of a packet -/

theorem field_lt (bs : List Byte) (off n : Nat) : field bs off n < 256 ^ n :=
  lt_of_lt_of_le (natOfBytes_lt _) (Nat.pow_le_pow_right (by omega) (List.length_take_le ..))

/-- A field of the 48-byte task that begins at byte 32 of a POOL packet. -/
theorem field_task {off n : Nat} (h : off + n ≤ 48) (pkt : List Byte) : field ((pkt.drop 32).take 48) off n = field pkt (32 + off) n := by
  rw [field, field, List.drop_take, List.take_take, Nat.min_eq_left (by omega), List.drop_drop]

theorem nbit_field_top (pkt : List Byte) (off : Nat) : nbit (field pkt off 8) 63 = decide (2 ^ 63 ≤ field pkt off 8) := by
  have hlt : field pkt off 8 < 2 ^ 64 := field_lt pkt off 8
  rw [nbit, Bool.eq_iff_iff, decide_eq_true_iff, beq_iff_eq]
  omega

theorem bits_field_high (pkt : List Byte) (off : Nat) : bits (field pkt off 4) 2 30 = field pkt off 4 / 4 := by
  have hlt : field pkt off 4 < 2 ^ 32 := field_lt pkt off 4
  rw [bits]
  omega

/-! ## COPY (R470) -/

theorem countStatus_queues (s : State) (st : HostStatus) : (countStatus s st).queues = s.queues := by
  unfold countStatus
  split <;> rfl

theorem traceData_field {α : Type} (g : State → α) (hg : ∀ (s : State) c r, g (s.trace c r) = g s) (c : Nat) (i : Gid) (kind : Nat) (f a : Nat)
    (bs : List Byte) (s : State) : g (traceData c i kind f a bs s) = g s := by
  induction f generalizing a bs s with
  | zero => rfl
  | succ f ih =>
    rw [traceData]
    split
    · rfl
    · exact (ih ..).trans (hg ..)

theorem hostFor_queues (a : Nat) (r : List Byte × State) (e : Nat × Wg) : (hostFor a r e).2.queues = r.2.queues := by
  unfold hostFor
  dsimp only
  split
  · refine (traceData_field (·.queues) cacheBlind_queues.trace ..).trans (foldl_field (·.queues) (fun t v => ?_) ..)
    split <;> rfl
  · rfl
  · rfl

theorem hostLogged_queues (s : State) (p a : Nat) (bs : List Byte) : (hostLogged s p a bs).2.queues = s.queues := by
  have hfold : ∀ (l : List (Nat × Wg)) (r : List Byte × State), (l.foldl (hostFor a) r).2.queues = r.2.queues := by
    intro l
    induction l with
    | nil => exact fun _ => rfl
    | cons e l ih => exact fun r => (ih _).trans (hostFor_queues ..)
  exact hfold _ (bs, s)

/-- The data that a host read gives a COPY, and whether all of it has come. -/
def copyData (n : Nat) : HostStatus → List Byte × Bool
  | .ok data => (data.take n, n ≤ data.length)
  | .cut data _ => (data.take n, false)
  | _ => ([], false)

/-- The bytes that a COPY to the host moves, and whether the host has taken all of them. -/
def copySent (s : State) (n : Nat) : HostStatus → Nat × Bool
  | .ok _ => (n, true)
  | .cut data _ => (min data.length n, false)
  | _ => (s.pick % (n + 1), false)

/-- A COPY that keeps its rules reads the host's data into memory. -/
def copyIn (s : State) (q : Nat) (pkt : List Byte) (src : HostStatus) : State :=
  let p := (s.queue q).part
  let come := copyData (bits (field pkt 32 8) 0 40) src
  let r := hostLogged (countStatus (begun s q pkt) src) p (field pkt 24 8) come.1
  putRec (homeWrite r.2 (partKey s p) (field pkt 24 8) r.1) q (crec pkt (if come.2 then 0 else 6) 0 true)

/-- A COPY that keeps its rules writes memory's bytes to the host. -/
def copyOut (s : State) (q : Nat) (pkt : List Byte) (src : HostStatus) : State :=
  let t := countStatus (begun s q pkt) src
  let sent := copySent t (bits (field pkt 32 8) 0 40) src
  let r := homeRead t.used (partKey s (s.queue q).part) (field pkt 24 8) sent.1
  putRec (r.2.emit (.hostCopy q (field pkt 16 8) r.1)) q (crec pkt (if sent.2 then 0 else 6) 0 true)

theorem exec_copyPacket {s : State} {q : Nat} {part : Partition} (hm : mayTake s q = true) (hp : partOf s (s.queue q).part = some part)
    (pkt : List Byte) (src : HostStatus) : exec (.copyPacket q pkt src) s = .next
    (if headerOk s (s.queue q).part 5 pkt && copyPacketOk pkt && inRegions s (s.queue q).part (field pkt 24 8) (bits (field pkt 32 8) 0 40) &&
        (!nbit (field pkt 32 8) 63 || inHostRange part (field pkt 16 8) (bits (field pkt 32 8) 0 40)) then
      if nbit (field pkt 32 8) 63 then copyOut s q pkt src else copyIn s q pkt src
    else refusePacket s q pkt) := by
  refine Eq.trans ?_ (congrArg Host.Outcome.next (ite_packet (s := s) hm ..))
  refine congrArg Host.Outcome.next ?_
  dsimp only
  rw [hp]
  cases src <;> rfl

theorem queue_copyIn (s : State) (q : Nat) (pkt : List Byte) (src : HostStatus) :
    (copyIn s q pkt src).queue q =
      (s.queue q).ends (crec pkt (if (copyData (bits (field pkt 32 8) 0 40) src).2 then 0 else 6) 0 true) :=
  queue_putRec_taken ((homeWrite_field (·.queues) (fun _ _ _ _ _ => rfl) ..).trans
    ((hostLogged_queues ..).trans ((countStatus_queues ..).trans (begun_queues ..)))) rfl

theorem queue_copyOut (s : State) (q : Nat) (pkt : List Byte) (src : HostStatus) :
    (copyOut s q pkt src).queue q = (s.queue q).ends
      (crec pkt (if (copySent (countStatus (begun s q pkt) src) (bits (field pkt 32 8) 0 40) src).2 then 0 else 6) 0 true) := by
  have hq := (countStatus_queues (begun s q pkt) src).trans (begun_queues s q pkt)
  unfold copyOut
  dsimp only
  generalize countStatus (begun s q pkt) src = t at hq ⊢
  generalize copySent t (bits (field pkt 32 8) 0 40) src = sent
  refine queue_putRec_taken ?_ ?_
  · exact hq
  · rfl

theorem length_homeBytes (s : State) (key a n : Nat) : (homeBytes s key a n).length = n := by
  rw [homeBytes_eq_map, List.length_map, List.length_range]

/-- R468: the host gets as many bytes as the COPY names. -/
theorem copyOut_emits (s : State) (q : Nat) (pkt data : List Byte) : ∃ bs, bs.length = bits (field pkt 32 8) 0 40 ∧
    .hostCopy q (field pkt 16 8) bs ∈ (copyOut s q pkt (.ok data)).out :=
  ⟨_, length_homeBytes .., List.mem_append_right _ (List.mem_singleton_self _)⟩

/-! ## POOL: the pool that the packet names -/

theorem begun_pool (s : State) (q : Nat) (pkt : List Byte) (k j : Nat) : (begun s q pkt).pool k j = s.pool k j :=
  (cacheBlind_pool k j).begun ..

theorem begun_evKey (s : State) (q : Nat) (pkt : List Byte) (c n : Nat) : evKey (begun s q pkt) c n = evKey s c n :=
  (cacheBlind_evKey c n).begun ..

theorem pool_setPool (s : State) (k j : Nat) (v : Pool) : (s.setPool k j v).pool k j = v := by
  rw [State.pool, State.setPool, State.cluster_setCluster, if_pos rfl, tget_tput, if_pos rfl]

theorem pool_putRec (s : State) (q : Nat) (r : CRec) (k j : Nat) : (putRec s q r).pool k j = s.pool k j := rfl

end Sys2Proof.Machine

namespace Sys2Proof.Machine

open Sys2Proof

/-! ## What the packets come to (O43) -/

section
variable {s : State} {q : Nat} (hm : mayTake s q = true) {pkt : List Byte}
include hm

theorem waitPacket_offers (hh : headerOk s (s.queue q).part 3 pkt = true) (hs : signalOk s (s.queue q).part false pkt = true) :
    ∃ t, exec (.waitPacket q pkt) s = .next t ∧ t.queue q = (s.queue q).offersEvent (field pkt 16 4) (crec pkt 0 0 true) (.offering pkt) := by
  refine ⟨_, exec_waitPacket hm pkt, ?_⟩
  rw [hh, hs, Bool.and_self, if_pos rfl]
  exact queue_offerFrom_taken (begun_queues ..) ..

theorem waitPacket_refused (h : headerOk s (s.queue q).part 3 pkt = false ∨ signalOk s (s.queue q).part false pkt = false) :
    ∃ t, exec (.waitPacket q pkt) s = .next t ∧ t.queue q = (s.queue q).ends (refusal pkt) := by
  refine ⟨_, exec_waitPacket hm pkt, ?_⟩
  rw [Bool.and_eq_false_iff.mpr h]
  exact queue_refusePacket ..

theorem signalPacket_offers (hh : headerOk s (s.queue q).part 4 pkt = true) (hs : signalOk s (s.queue q).part true pkt = true) :
    ∃ t, exec (.signalPacket q pkt) s = .next t ∧ t.queue q = (s.queue q).offersEvent (field pkt 16 4)
      (crec pkt 0 0 (!nbit (field pkt 20 4) 0)) (if nbit (field pkt 20 4) 0 then .idle else .offering pkt) := by
  refine ⟨_, exec_signalPacket hm pkt, ?_⟩
  rw [hh, hs, Bool.and_self, if_pos rfl]
  exact queue_offerFrom_taken ((cacheBlind_queues.buffersAfter ..).trans (begun_queues ..)) ..

theorem signalPacket_refused (hh : headerOk s (s.queue q).part 4 pkt = false) :
    ∃ t, exec (.signalPacket q pkt) s = .next t ∧ t.queue q = (s.queue q).ends (refusal pkt) := by
  refine ⟨_, exec_signalPacket hm pkt, ?_⟩
  rw [hh, Bool.false_and]
  exact queue_refusePacket ..

theorem poolPacket_refused (hh : headerOk s (s.queue q).part 2 pkt = false) :
    ∃ t, exec (.poolPacket q pkt) s = .next t ∧ t.queue q = (s.queue q).ends (refusal pkt) := by
  refine ⟨_, exec_poolPacket hm pkt, ?_⟩
  rw [hh, Bool.false_and]
  exact queue_refusePacket ..

/-- R229, log 31: a pool that is not enabled takes no task. -/
theorem poolPacket_disabled (hh : headerOk s (s.queue q).part 2 pkt = true) (hp : poolOk s (s.queue q).part pkt = true)
    (he : (s.pool (bits (field pkt 16 4) 24 5) (bits (field pkt 16 4) 0 4)).en = false) :
    ∃ t, exec (.poolPacket q pkt) s = .next t ∧ t.queue q = (s.queue q).ends (crec pkt 1 0 true) := by
  refine ⟨_, exec_poolPacket hm pkt, ?_⟩
  rw [hh, hp, Bool.and_self, if_pos rfl]
  dsimp only
  rw [begun_pool, he]
  exact queue_putRec_taken (begun_queues ..) rfl

theorem poolPacket_placed {h : Nat} {v : Pool} (hh : headerOk s (s.queue q).part 2 pkt = true) (hp : poolOk s (s.queue q).part pkt = true)
    (he : (s.pool (bits (field pkt 16 4) 24 5) (bits (field pkt 16 4) 0 4)).en = true)
    (hv : placeTask (s.pool (bits (field pkt 16 4) 24 5) (bits (field pkt 16 4) 0 4)) (bits (field pkt 16 4) 0 4) ((pkt.drop 32).take 48)
      (evKey s (firstCore (bits (field pkt 16 4) 24 5)) (field pkt 68 4)) = some (h, v)) :
    ∃ t, exec (.poolPacket q pkt) s = .next t ∧ t.pool (bits (field pkt 16 4) 24 5) (bits (field pkt 16 4) 0 4) = v ∧
      t.queue q = (s.queue q).ends (crec pkt 0 (BitVec.ofNat 64 h) true) := by
  refine ⟨_, exec_poolPacket hm pkt, ?_⟩
  rw [hh, hp, Bool.and_self, if_pos rfl]
  dsimp only
  rw [begun_pool, he, if_pos rfl, begun_evKey, field_task (by omega), hv]
  exact ⟨(pool_putRec ..).trans (pool_setPool ..), queue_putRec_taken (begun_queues ..) rfl⟩

theorem launchPacket_candidate (hh : headerOk s (s.queue q).part 1 pkt = true) (hb : launchBodyOk s (s.queue q).part pkt = true)
    (hf : imageFits s (s.queue q).part pkt (imageHead s (s.queue q).part (lpImage pkt)) = true) :
    ∃ t, exec (.launchPacket q pkt) s = .next t ∧
      t.queue q = { s.queue q with stage := .candidate pkt s.cycle.toNat, qhead := (s.queue q).qhead + 1 } := by
  refine ⟨_, exec_launchPacket hm pkt, ?_⟩
  rw [hh, hb, hf, Bool.and_self, if_pos rfl, Bool.not_true, if_neg Bool.false_ne_true, State.queue_setQueue, if_pos rfl, queue_taken]

theorem launchPacket_unfit (hh : headerOk s (s.queue q).part 1 pkt = true) (hb : launchBodyOk s (s.queue q).part pkt = true)
    (hf : imageFits s (s.queue q).part pkt (imageHead s (s.queue q).part (lpImage pkt)) = false) :
    ∃ t, exec (.launchPacket q pkt) s = .next t ∧ t.queue q = (s.queue q).ends { crec pkt 5 0 true with bufs := [] } := by
  refine ⟨_, exec_launchPacket hm pkt, ?_⟩
  rw [hh, hb, hf, Bool.and_self, if_pos rfl, Bool.not_false, if_pos rfl]
  exact queue_putRec_taken rfl rfl

theorem launchPacket_refused (hh : headerOk s (s.queue q).part 1 pkt = false) :
    ∃ t, exec (.launchPacket q pkt) s = .next t ∧ t.queue q = (s.queue q).ends (refusal pkt) := by
  refine ⟨_, exec_launchPacket hm pkt, ?_⟩
  rw [hh, Bool.false_and]
  exact queue_refusePacket ..

/-- A COPY whose memory side keeps the rules: in, out, or refused for its host range. -/
theorem exec_copyPacket_of_ok {part : Partition} (hp : partOf s (s.queue q).part = some part) (hh : headerOk s (s.queue q).part 5 pkt = true)
    (hc : copyPacketOk pkt = true) (hr : inRegions s (s.queue q).part (field pkt 24 8) (bits (field pkt 32 8) 0 40) = true) (src : HostStatus) :
    exec (.copyPacket q pkt src) s = .next
      (if field pkt 32 8 < 2 ^ 63 then copyIn s q pkt src
      else if inHostRange part (field pkt 16 8) (bits (field pkt 32 8) 0 40) then copyOut s q pkt src
      else refusePacket s q pkt) := by
  rw [exec_copyPacket hm hp, hh, hc, hr, nbit_field_top]
  rcases lt_or_ge (field pkt 32 8) (2 ^ 63) with h | h
  · rw [if_pos h, decide_eq_false (Nat.not_le.mpr h)]
    rfl
  · rw [if_neg (Nat.not_lt.mpr h), decide_eq_true h]
    rfl

end

/-- R465 to R470, R229. -/
theorem packetsOfAQueueAreTaken : PacketsOfAQueueAreTaken := by
  intro s q n k j pkt data part h q1 u p name takes ends refused offers hm
  refine ⟨waitPacket_offers hm, waitPacket_refused hm, ?_, ?_, ?_, fun hh hb => ⟨launchPacket_candidate hm hh hb, launchPacket_unfit hm hh hb⟩,
    launchPacket_refused hm, poolPacket_refused hm, signalPacket_refused hm⟩
  · intro hh hs
    have hoff := signalPacket_offers hm hh hs
    exact ⟨fun h0 => by rwa [show nbit (field pkt 20 4) 0 = false by simp [nbit, h0]] at hoff,
      fun h1 => by rwa [show nbit (field pkt 20 4) 0 = true by simp [nbit, h1]] at hoff⟩
  · rintro hh hp rfl rfl
    exact ⟨poolPacket_disabled hm hh hp, poolPacket_placed hm hh hp⟩
  · rintro hpart hh hc rfl hr
    have hexec := exec_copyPacket_of_ok hm hpart hh hc hr
    refine ⟨fun hin hlen => ⟨_, (hexec _).trans (by rw [if_pos hin]), ?_⟩, fun hout hrange => ?_, fun hout hrange st => ?_,
      fun hin => ⟨_, (hexec _).trans (by rw [if_pos hin]), queue_copyIn ..⟩⟩
    · rw [queue_copyIn, copyData, hlen, decide_eq_true (le_refl _)]
      rfl
    · obtain ⟨bs, hlen, hbs⟩ := copyOut_emits s q pkt []
      exact ⟨_, bs, (hexec _).trans (by rw [if_neg (Nat.not_lt.mpr hout), if_pos hrange]), hlen, hbs, queue_copyOut ..⟩
    · exact ⟨_, (hexec _).trans (by rw [if_neg (Nat.not_lt.mpr hout), if_neg (by rw [hrange]; exact Bool.false_ne_true)]), queue_refusePacket ..⟩

/-! ## BIND and RELEASE on the die of the queue -/

theorem dies_putRec (s : State) (q : Nat) (r : CRec) : (putRec s q r).dies = s.dies := rfl

theorem dies_refusePacket (s : State) (q : Nat) (pkt : List Byte) : (refusePacket s q pkt).dies = s.dies := rfl

theorem layHandle_ne_zero (slot gen : Nat) : layHandle slot gen ≠ 0 := by
  unfold layHandle
  omega

section
variable {s : State} {die c p : Nat} {x : Ctx} {bs : List Byte} {kinds : Nat}

theorem registerLayout_registers {slot : Nat} {ps : List (Nat × Nat × Nat)} (hv : layoutValid s (some p) bs (parseLayout p 0 kinds bs) = true)
    (hp : pinLayout s c x (parseLayout p 0 kinds bs) = .ok ps) (hf : freeLayout (s.die die) = some slot) :
    registerLayout s die c (some p) x bs kinds = .ok (layHandle slot (tget 0 (s.die die).layGens slot), s.setDie die { s.die die with
      layouts := tput (s.die die).layouts slot { parseLayout p 0 kinds bs with gen := tget 0 (s.die die).layGens slot, pages := ps } }) := by
  simp only [registerLayout, Option.getD_some, hv, hp, hf, Bool.not_true, if_neg Bool.false_ne_true]

/-- A record that is not registered: the cause that refuses it, or no handle. -/
theorem registerLayout_refuses {z : Cause} (h : layoutValid s (some p) bs (parseLayout p 0 kinds bs) = false ∨
      pinLayout s c x (parseLayout p 0 kinds bs) = .error z ∨ freeLayout (s.die die) = none) :
    (∃ z, registerLayout s die c (some p) x bs kinds = .error z) ∨ registerLayout s die c (some p) x bs kinds = .ok (0, s) := by
  unfold registerLayout
  dsimp only [Option.getD_some]
  split
  · exact .inr rfl
  next hv =>
    split
    · exact .inl ⟨_, rfl⟩
    · exact .inr rfl
    next hp hf =>
      rcases h with h | h | h
      · exact absurd (by rw [h]; rfl) hv
      · rw [h] at hp; cases hp
      · rw [h] at hf; cases hf

end

section
variable {s : State} {die part h : Nat}

theorem releaseLayout_gone {slot : Nat} {l : Layout} (hl : layoutOf s die part h = some (slot, l)) (hb : layoutBusy s die slot = false) :
    releaseLayout s die part h = (0, s.setDie die { s.die die with
      layouts := tdel (s.die die).layouts slot, layGens := tput (s.die die).layGens slot ((l.gen + 1) % 4096) }) := by
  simp only [releaseLayout, hl, hb, if_neg Bool.false_ne_true]

theorem releaseLayout_busy {slot : Nat} {l : Layout} (hl : layoutOf s die part h = some (slot, l)) (hb : layoutBusy s die slot = true) :
    releaseLayout s die part h = (1, s) := by
  simp only [releaseLayout, hl, hb, if_pos]

theorem releaseLayout_none (hl : layoutOf s die part h = none) : releaseLayout s die part h = (2, s) := by
  simp only [releaseLayout, hl]

end

/-- What a BIND asks of its packet (R470). -/
def BindOk (s : State) (p : Nat) (pkt : List Byte) : Prop :=
  headerOk s p 6 pkt = true ∧ 1 ≤ field pkt 24 4 ∧ field pkt 24 4 ≤ 3 ∧ inRegions s p (field pkt 16 8) 64 = true ∧ zeroFrom pkt 28 144 = true

/-- What a RELEASE asks of its packet. -/
def ReleaseOk (s : State) (p : Nat) (pkt : List Byte) : Prop :=
  headerOk s p 6 pkt = true ∧ field pkt 24 4 / 4 = 1 ∧ zeroFrom pkt 32 144 = true

theorem bindOk_iff (s : State) (p : Nat) (pkt : List Byte) : (headerOk s p 6 pkt && 1 ≤ field pkt 24 4 && field pkt 24 4 ≤ 3 &&
    inRegions s p (field pkt 16 8) 64 && zeroFrom pkt 28 144) = true ↔ BindOk s p pkt := by
  simp only [Bool.and_eq_true, decide_eq_true_eq, BindOk, and_assoc]

theorem releaseOk_iff (s : State) (p : Nat) (pkt : List Byte) :
    (headerOk s p 6 pkt && bits (field pkt 24 4) 2 30 == 1 && zeroFrom pkt 32 144) = true ↔ ReleaseOk s p pkt := by
  simp only [Bool.and_eq_true, beq_iff_eq, ReleaseOk, and_assoc, bits_field_high]

section
variable {s : State} {q : Nat} (hm : mayTake s q = true) {pkt : List Byte}
include hm

theorem bindPacket_registers {slot : Nat} {ps : List (Nat × Nat × Nat)} (hok : BindOk s (s.queue q).part pkt) :
    let s1 := begun s q pkt
    let p := (s.queue q).part
    let bs := partBytes s1 p (field pkt 16 8) 64
    let new := parseLayout p 0 (field pkt 24 4) bs
    let gen := tget 0 (s1.die (q / 32)).layGens slot
    layoutValid s1 (some p) bs new = true → pinLayout s1 (bindCore s1 q p) bindCtx new = .ok ps → freeLayout (s1.die (q / 32)) = some slot →
      ∃ t, (exec (.bindPacket q pkt) s = .next t ∧ t.queue q = (s.queue q).ends (crec pkt 0 (BitVec.ofNat 64 (layHandle slot gen)) true)) ∧
        tfind (t.die (q / 32)).layouts slot = some { new with gen := gen, pages := ps } := by
  intro s1 p bs new gen hv hp hf
  refine ⟨_, ⟨exec_bindPacket hm pkt, ?_⟩, ?_⟩ <;> rw [if_pos ((bindOk_iff ..).mpr hok), registerLayout_registers hv hp hf] <;> dsimp only
  · rw [if_neg (layHandle_ne_zero _ _)]
    exact queue_putRec_taken (begun_queues ..) rfl
  · refine (congrArg (tfind · slot) (congrArg Die.layouts (State.die_setDie ..))).trans ?_
    rw [if_pos rfl, tfind_tput, if_pos rfl]

theorem bindPacket_notRegistered {z : Cause} (hok : BindOk s (s.queue q).part pkt) :
    let s1 := begun s q pkt
    let p := (s.queue q).part
    let bs := partBytes s1 p (field pkt 16 8) 64
    let new := parseLayout p 0 (field pkt 24 4) bs
    layoutValid s1 (some p) bs new = false ∨ pinLayout s1 (bindCore s1 q p) bindCtx new = .error z ∨ freeLayout (s1.die (q / 32)) = none →
      ∃ t, (exec (.bindPacket q pkt) s = .next t ∧ t.queue q = (s.queue q).ends (crec pkt 7 0 true)) ∧ t.dies = s1.dies := by
  intro s1 p bs new h
  refine ⟨putRec s1 q (crec pkt 7 0 true), ⟨(exec_bindPacket hm pkt).trans ?_, queue_putRec_taken (begun_queues ..) rfl⟩, dies_putRec ..⟩
  rw [if_pos ((bindOk_iff ..).mpr hok)]
  obtain ⟨z, hz⟩ | hz := registerLayout_refuses h
  · rw [hz]
  · rw [hz]
    rfl

theorem bindPacket_refused (hok : ¬BindOk s (s.queue q).part pkt) :
    ∃ t, (exec (.bindPacket q pkt) s = .next t ∧ t.queue q = (s.queue q).ends (refusal pkt)) ∧ t.dies = s.dies :=
  ⟨_, ⟨(exec_bindPacket hm pkt).trans (by rw [if_neg (mt (bindOk_iff ..).mp hok)]), queue_refusePacket ..⟩, dies_refusePacket ..⟩

/-- A RELEASE that keeps its rules ends as the die answers it. -/
theorem bindReleasePacket_ends {n : Nat} {t : State} (hok : ReleaseOk s (s.queue q).part pkt)
    (hr : releaseLayout (begun s q pkt) (q / 32) (s.queue q).part (field pkt 28 4) = (n, t)) (ht : t.queues = (begun s q pkt).queues) :
    exec (.bindReleasePacket q pkt) s = .next (putRec t q (crec pkt (if n = 0 then 0 else 7) 0 true)) ∧
      (putRec t q (crec pkt (if n = 0 then 0 else 7) 0 true)).queue q = (s.queue q).ends (crec pkt (if n = 0 then 0 else 7) 0 true) := by
  refine ⟨(exec_bindReleasePacket hm pkt).trans ?_, queue_putRec_taken (ht.trans (begun_queues ..)) rfl⟩
  rw [if_pos ((releaseOk_iff ..).mpr hok), hr]

theorem bindReleasePacket_refused (hok : ¬ReleaseOk s (s.queue q).part pkt) :
    ∃ t, (exec (.bindReleasePacket q pkt) s = .next t ∧ t.queue q = (s.queue q).ends (refusal pkt)) ∧ t.dies = s.dies :=
  ⟨_, ⟨(exec_bindReleasePacket hm pkt).trans (by rw [if_neg (mt (releaseOk_iff ..).mp hok)]), queue_refusePacket ..⟩, dies_refusePacket ..⟩

end

/-- R326, R327, R467, R470. -/
theorem bindPacketsRegisterRecords : BindPacketsRegisterRecords := by
  intro s q slot pkt ps l z u p die s1 c kind bs new gen ends refused bindOk relOk gone hm
  refine ⟨fun hok => ⟨bindPacket_registers hm hok, bindPacket_notRegistered hm hok⟩, bindPacket_refused hm, fun hok => ⟨fun hl hb => ?_,
    fun hl hb => ?_, fun hl => ?_⟩, bindReleasePacket_refused hm⟩
  · refine ⟨_, bindReleasePacket_ends hm hok (releaseLayout_gone hl hb) rfl, ?_⟩
    refine (congrArg (tfind · slot) (congrArg Die.layouts (State.die_setDie ..))).trans ?_
    rw [if_pos rfl, tfind_tdel, if_pos rfl]
  · exact ⟨_, bindReleasePacket_ends hm hok (releaseLayout_busy hl hb) rfl, rfl⟩
  · exact ⟨_, bindReleasePacket_ends hm hok (releaseLayout_none hl) rfl, rfl⟩

/-- Settles O43: each packet's equation, with the queue and the die read back after the caches have been cleaned for it. -/
theorem queuePacketsAreTaken : Obligations.QueuePacketsAreTaken := ⟨packetsOfAQueueAreTaken, bindPacketsRegisterRecords⟩

end Sys2Proof.Machine

/-! # Answers to requests (R207 to R232, R327, R338, R339, R360, R401, R404) -/

namespace Sys2Proof.Machine

open Sys2Proof

/-! ## What a trap entry leaves alone -/

theorem stopCores_image (why : Nat) (cs : List Nat) (s : State) (d : Nat) : ((stopCores why cs s).core d).image = (s.core d).image := by
  induction cs generalizing s with
  | nil => rfl
  | cons c cs ih =>
    rw [stopCores, ih, State.core_updCore]
    split
    next h =>
      rw [h, Core.stop]
      split <;> rfl
    next => rfl

theorem State.trace_image (s : State) (c : Nat) (r : TraceRec) (d : Nat) : ((s.trace c r).core d).image = (s.core d).image := by
  have hset (k : Core) (h : k.image = (s.core c).image) : ((s.setCore c k).core d).image = (s.core d).image :=
    core_setCore_field Core.image h d
  unfold State.trace
  dsimp only
  split
  · exact hset _ rfl
  · exact (drainTrace_core_field Core.image (fun _ _ => rfl) ..).trans (hset _ rfl)

theorem State.diverge_image (s : State) (n : Nat) (w : Wg) (c reason pos : Nat) (a b : Word) (d : Nat) :
    ((s.diverge n w c reason pos a b).core d).image = (s.core d).image := by
  rw [State.diverge, stopCores_image, State.trace_image]
  rfl

theorem State.logNext_image (s : State) (n : Nat) (w : Wg) (c x d : Nat) : ((s.logNext n w c x).core d).image = (s.core d).image := by
  rw [State.logNext]
  split
  · exact core_updCtx_field Core.image (fun _ _ _ => rfl) ..
  · rfl

theorem State.checkTrap_image (s : State) (c x code : Nat) (pc : Word) (old : Vector Word 32) (d : Nat) :
    ((s.checkTrap c x code pc old).core d).image = (s.core d).image := by
  unfold State.checkTrap
  dsimp only
  split
  · rfl
  · split
    · rfl
    · exact core_updCtx_field Core.image (fun _ _ _ => rfl) ..
    · split
      · split
        · exact State.logNext_image ..
        · exact State.diverge_image ..
      · exact State.diverge_image ..
      · rfl
      · rfl

theorem State.logTrap_image (s : State) (c x code : Nat) (pc : Word) (d : Nat) : ((s.logTrap c x code pc).core d).image = (s.core d).image := by
  have hupd (f : Ctx → Ctx) : ((s.updCtx c x f).core d).image = (s.core d).image := core_updCtx_field Core.image (fun _ _ _ => rfl) ..
  rw [State.logTrap]
  split
  · rfl
  · split
    · exact hupd _
    · exact (State.checkTrap_image ..).trans (hupd _)

/-- R19: a trap entry, logged or not, leaves the image that a core holds. -/
theorem State.enterAt_image (s : State) (c x : Nat) (z : Cause) (d : Nat) : ((s.enterAt c x z).core d).image = (s.core d).image := by
  rw [State.enterAt, State.logTrap_image, traceIf_core_field Core.image fun _ _ _ => rfl, State.core_updCore]
  split
  next h => rw [h]; exact congrArg Core.image (State.core_setCtx ..) |>.trans (by rw [if_pos rfl]; rfl)
  next h => rw [State.core_setCtx, if_neg h]

theorem State.trapAt_image (s : State) (c x : Nat) (z : Cause) (d : Nat) : ((s.trapAt c x z).core d).image = (s.core d).image := by
  rw [State.trapAt]
  split
  · exact core_updCtx_field Core.image (fun _ _ _ => rfl) ..
  · exact State.enterAt_image ..

/-! ## The answer at a context that waits (R207) -/

theorem exec_requestAnswer (core ctx : Nat) (r : Request) (s : State) : exec (.requestAnswer core ctx r) s = .next
    (if requestWaits (lent s core ctx) core r then s.send (.requestAnswer core ctx r) else onHolder core ctx (serveRequest core ctx r) s) := rfl

theorem lent_asker (s : State) (c x : Nat) : lent s c (s.asker c x) = s := if_pos (isHere_asker ..)

theorem askCore_of_lt {c : Nat} (h : c < 576) : askCore c = c := Nat.mod_eq_of_lt (by omega)

/-- An answer that traps nothing and refreshes nothing is written at the context that waits. -/
theorem applyAnswer_request {s : State} {c x n : Nat} {a : Answer} (hx : x ≠ 15) (hw : (s.ctx c x).wait = .request n) (ht : a.trap = none)
    (hf : a.refresh = false) : applyAnswer s c x a = s.updCtx c x fun k => answered s k n a.regs a.flags := by
  rw [applyAnswer, if_neg hx, hw, ht, hf]
  rfl

/-- What a handler leaves of the requester: its context, and the image that its core holds. -/
structure KeepsAsker (c x : Nat) (s t : State) : Prop where
  ctx : t.ctx c x = s.ctx c x
  image : (t.core c).image = (s.core c).image
  cycle : t.cycle = s.cycle

theorem KeepsAsker.refl (c x : Nat) (s : State) : KeepsAsker c x s s := ⟨rfl, rfl, rfl⟩

theorem keepsAsker_of_cores {s t : State} (h : t.cores = s.cores) (hc : t.cycle = s.cycle) (c x : Nat) : KeepsAsker c x s t :=
  have hcore : t.core c = s.core c := congrArg (tget Core.reset · c) h
  ⟨congrArg (fun k : Core => tget Ctx.reset k.ctxs x) hcore, congrArg Core.image hcore, hc⟩

section
variable {s : State} {c x n : Nat} (ha : Awaits s c x n)
include ha

theorem Awaits.askCore : askCore c = c := by
  obtain ⟨-, hc, -⟩ := ha
  exact askCore_of_lt hc

theorem Awaits.asker_mod : s.asker c x % 16 = x := by
  obtain ⟨-, -, hx, -⟩ := ha
  exact Machine.asker_mod s c (by omega)

/-- A request that need not wait is handled where its requester stands. -/
theorem Awaits.exec_served {r : Request} {t : State} (hr : requestWaits s c r = false) (hs : serveRequest c (s.asker c x) r s = t)
    (hi : (t.core c).image = (s.core c).image) : exec (.requestAnswer c (s.asker c x) r) s = .next t := by
  obtain ⟨-, -, -, himage⟩ := ha
  rw [exec_requestAnswer, lent_asker, hr, if_neg Bool.false_ne_true, onHolder_asker (by rw [hs, hi, himage]), hs]

theorem Awaits.giveAnswer_eq (home : Nat) (r : Answer × State) : giveAnswer home c (s.asker c x) r = applyAnswer r.2 c x r.1 := by
  obtain ⟨-, hc, -⟩ := id ha
  rw [giveAnswer, if_pos (by omega), ha.asker_mod]

/-- The state that a handler's answer leads to. -/
theorem Awaits.gives (r : Request) {out : Answer × State} {a : Answer} {t : State} (hr : requestWaits s c r = false)
    (hs : serveRequest c (s.asker c x) r s = giveAnswer (requestHome s c r) c (s.asker c x) out) (hout : out = (a, t))
    (hk : KeepsAsker c x s t) (ht : a.trap = none) (hf : a.refresh = false) :
    exec (.requestAnswer c (s.asker c x) r) s = .next (t.updCtx c x fun k => answered s k n a.regs a.flags) ∧
      (t.updCtx c x fun k => answered s k n a.regs a.flags).ctx c x = answered s (s.ctx c x) n a.regs a.flags := by
  subst hout
  obtain ⟨hw, -, hx, -⟩ := id ha
  have happly : applyAnswer t c x a = t.updCtx c x fun k => answered s k n a.regs a.flags := by
    rw [applyAnswer_request (by omega) (by rw [hk.ctx, hw]) ht hf]
    simp only [answered, hk.cycle]
  refine ⟨ha.exec_served hr (hs.trans ((ha.giveAnswer_eq ..).trans happly)) ?_, ?_⟩
  · exact (core_updCtx_field Core.image (fun _ _ _ => rfl) ..).trans hk.image
  · rw [State.ctx_updCtx, if_pos ⟨rfl, rfl⟩, hk.ctx]

/-- An answer that traps is written as its trap. -/
theorem Awaits.exec_trapped (r : Request) {z : Cause} (hr : requestWaits s c r = false)
    (hs : serveRequest c (s.asker c x) r s = giveAnswer (requestHome s c r) c (s.asker c x) (answerTrap z, s)) :
    exec (.requestAnswer c (s.asker c x) r) s = .next (applyAnswer s c x (answerTrap z)) := by
  obtain ⟨hw, -, hx, -⟩ := id ha
  refine ha.exec_served hr (hs.trans (ha.giveAnswer_eq ..)) ?_
  rw [applyAnswer, if_neg (by omega), hw]
  exact State.trapAt_image ..

/-- The answer itself comes back. -/
theorem Awaits.answer_applied {a : Answer} (ht : a.trap = none) (hf : a.refresh = false) :
    exec (.requestAnswer c (s.asker c x) (.answer a)) s = .next (s.updCtx c x fun k => answered s k n a.regs a.flags) :=
  (ha.gives (.answer a) rfl
    (by rw [ha.giveAnswer_eq]; simp only [serveRequest, ha.askCore, ha.asker_mod]) (Eq.refl (a, s)) (.refl c x s) ht hf).1

end

end Sys2Proof.Machine

namespace Sys2Proof.Machine

open Sys2Proof

/-! ## Homes (R210, R212) -/

theorem home_setHome (s : State) (ev : EvKey) (h : Home) : (s.setHome ev h).home ev = some h := by
  rw [State.home, State.setHome, kfind_kput, if_pos rfl]

/-- An event that is defined waits at its home, spilled or resident. -/
theorem defineEvent_home (s : State) (ev : EvKey) (d : EventDesc) : ∃ h, (defineEvent s ev d).2.home ev = some h ∧ h.desc = d ∧
    h.st = .waiting ∧ h.offers = [] ∧ h.occ = 0 :=
  ⟨_, home_setHome .., rfl, rfl, rfl, rfl⟩

theorem deleteEvent_home (s : State) (ev : EvKey) : (deleteEvent s ev).home ev = none := by
  unfold deleteEvent
  split
  next h => exact h
  next => exact (kfind_kdel ..).trans (if_pos rfl)

theorem defineEvent_asker (s : State) (ev : EvKey) (d : EventDesc) (c x : Nat) : KeepsAsker c x s (defineEvent s ev d).2 :=
  keepsAsker_of_cores (defineEvent_field State.cores (fun _ _ _ _ _ _ => rfl) (fun _ _ _ => rfl) ..)
    (defineEvent_field State.cycle (fun _ _ _ _ _ _ => rfl) (fun _ _ _ => rfl) ..) c x

theorem deleteEvent_asker (s : State) (ev : EvKey) (c x : Nat) : KeepsAsker c x s (deleteEvent s ev) :=
  keepsAsker_of_cores (deleteEvent_field State.cores (fun _ _ _ => rfl) ..) (deleteEvent_field State.cycle (fun _ _ _ => rfl) ..) c x

theorem State.updCtx_pool (s : State) (c x : Nat) (f : Ctx → Ctx) (k p : Nat) : (s.updCtx c x f).pool k p = s.pool k p := rfl

theorem setPool_asker (s : State) (k p : Nat) (v : Pool) (c x : Nat) : KeepsAsker c x s (s.setPool k p v) :=
  keepsAsker_of_cores (s := s) (t := s.setPool k p v) rfl rfl c x

theorem serveEvdef_defines {s : State} {c x : Nat} {bs : List Byte} {d : EventDesc} (hd : readDesc s c (gidOf s.dev c x) bs = some d)
    (hh : s.home (evKey s c (field bs 0 4)) = none) (rd : Reg) (addr : Word) : serveEvdef s c x rd bs addr =
    (answerReg rd (if 256 ≤ residents s (evKey s c (field bs 0 4)).home then 1 else 0), (defineEvent s (evKey s c (field bs 0 4)) d).2) := by
  rw [serveEvdef, hd]
  simp [hh, defineEvent]

theorem serveEvdel_none {s : State} {c name : Nat} (hh : s.home (evKey s c name) = none) (rd : Reg) :
    serveEvdel s c rd name = (answerReg rd 0, s) := by
  rw [serveEvdel, hh]

theorem serveEvdel_deletes {s : State} {c name : Nat} {h : Home} (hh : s.home (evKey s c name) = some h) (hg : isGangName name = false)
    (rd : Reg) : serveEvdel s c rd name = (answerReg rd 1, deleteEvent s (evKey s c name)) := by
  rw [serveEvdel, hh, hg]
  rfl

/-! ## Pools (R198, R227, R229, R230) -/

/-- A pool under a POOLCFG, but for its error, which the POOLCFG answers and clears. -/
def configured (q : Pool) (cfg : Word) : Pool :=
  let q1 := if cfg.getLsbD 2 then q else { q with en := cfg.getLsbD 0 }
  if cfg.getLsbD 1 then { q1 with tasks := [], gens := (List.range 64).map fun i => (i, (tget 0 q1.gens i + 1) % 4096) } else q1

theorem servePoolcfg_eq (s : State) (c : Nat) (rd : Reg) (p : Nat) (cfg : Word) : servePoolcfg s c rd p cfg =
    (answerReg rd (poolStatus (configured (s.pool (clusterOf c) p) cfg)),
      s.setPool (clusterOf c) p { configured (s.pool (clusterOf c) p) cfg with cerr := false }) := rfl

theorem configured_cerr (q : Pool) (cfg : Word) : (configured q cfg).cerr = q.cerr := by
  unfold configured
  dsimp only
  split <;> split <;> rfl

theorem configured_tasks {cfg : Word} (h : cfg.getLsbD 1 = true) (q : Pool) : (configured q cfg).tasks = [] := by
  unfold configured
  dsimp only
  rw [if_pos h]

theorem configured_en {cfg : Word} (h : cfg.getLsbD 2 = false) (q : Pool) : (configured q cfg).en = cfg.getLsbD 0 := by
  unfold configured
  dsimp only
  rw [h]
  split <;> rfl

theorem freeTask_full {q : Pool} (h : ∀ i, i < 64 → (tfind q.tasks i).isSome = true) : freeTask q = none := by
  rw [freeTask, List.find?_eq_none]
  intro i hi
  rw [Option.isNone_iff_eq_none, ← Option.not_isSome_iff_eq_none, not_not]
  exact h i (List.mem_range.mp hi)

theorem freeTask_lowest {q : Pool} {slot : Nat} (hs : slot < 64) (hn : tfind q.tasks slot = none)
    (hl : ∀ i, i < slot → (tfind q.tasks i).isSome = true) : freeTask q = some slot := by
  rw [freeTask, List.find?_range_eq_some]
  exact ⟨by rw [hn]; rfl, List.mem_range.mpr hs, fun i hi => by rw [Option.isNone_eq_false_iff.mpr (hl i hi)]; rfl⟩

/-- The task that a descriptor asks a pool for (R229). -/
def taskMade (q : Pool) (slot : Nat) (bs : List Byte) (ev : EvKey) : Task :=
  ⟨BitVec.ofNat 64 (field bs 0 8), BitVec.ofNat 64 (field bs 8 8), BitVec.ofNat 64 (field bs 16 8), BitVec.ofNat 64 (field bs 24 8),
    field bs 32 4, ev, tget 0 q.gens slot, q.nextAge, 0, [(field bs 16 8, field bs 24 8)], false⟩

theorem placeTask_full {q : Pool} (h : freeTask q = none) (p : Nat) (bs : List Byte) (ev : EvKey) : placeTask q p bs ev = none := by
  rw [placeTask, h]

theorem placeTask_places {q : Pool} {slot : Nat} (h : freeTask q = some slot) (hi : intervalCount q < 256) (p : Nat) (bs : List Byte)
    (ev : EvKey) : placeTask q p bs ev = some (taskHandle p slot (taskMade q slot bs ev),
      { q with tasks := tput q.tasks slot (taskMade q slot bs ev),
               gens := tput q.gens slot (((taskMade q slot bs ev).gen + 1) % 4096), nextAge := q.nextAge + 1 }) := by
  rw [placeTask, h]
  exact if_neg (by omega)

theorem servePoolput_full {s : State} {c p : Nat} {bs : List Byte} (he : (s.pool (clusterOf c) p).en = true)
    (hp : placeTask (s.pool (clusterOf c) p) p bs (evKey s c (field bs 36 4)) = none) (rd : Reg) (addr : Word) :
    servePoolput s c rd p bs addr = (answerReg rd 0, s) := by
  simp only [servePoolput, he, hp, Bool.not_true, if_neg Bool.false_ne_true]

theorem servePoolput_places {s : State} {c p h : Nat} {bs : List Byte} {q : Pool} (he : (s.pool (clusterOf c) p).en = true)
    (hp : placeTask (s.pool (clusterOf c) p) p bs (evKey s c (field bs 36 4)) = some (h, q)) (rd : Reg) (addr : Word) :
    servePoolput s c rd p bs addr = (answerReg rd (BitVec.ofNat 64 h), s.setPool (clusterOf c) p q) := by
  simp only [servePoolput, he, hp, Bool.not_true, if_neg Bool.false_ne_true]

theorem serveDone_retires {s : State} {c p slot : Nat} {h cnt : Word} {t : Task} (ht : taskOf s (clusterOf c) h = some (p, slot, t))
    (hc : t.retired + cnt.toNat ≤ t.hi.toNat - t.lo.toNat) : serveDone s c h cnt = (noAnswer, s.setPool (clusterOf c) p
      { s.pool (clusterOf c) p with tasks := tput (s.pool (clusterOf c) p).tasks slot { t with retired := t.retired + cnt.toNat } }) := by
  simp only [serveDone, ht, if_neg (Nat.not_lt.mpr hc)]

/-! ## What they answer -/

section
variable {s : State} {c x n : Nat} (ha : Awaits s c x n) (rd : Reg)
include ha

theorem answer_arrives {a : Answer} (ht : a.trap = none) (hf : a.refresh = false) :
    ∃ t, exec (.requestAnswer c (s.asker c x) (.answer a)) s = .next t ∧ OnlyCtx c x s t ∧
      t.ctx c x = answered s (s.ctx c x) n a.regs a.flags :=
  ⟨_, ha.answer_applied ht hf, onlyCtx_setCtx .., (State.ctx_updCtx ..).trans (if_pos ⟨rfl, rfl⟩)⟩

theorem evdef_answered {bs : List Byte} {d : EventDesc} (addr : Word) (hd : readDesc s c (gidOf s.dev c x) bs = some d)
    (hh : s.home (evKey s c (field bs 0 4)) = none) :
    ∃ t h, (exec (.requestAnswer c (s.asker c x) (.evdef rd bs addr)) s = .next t ∧ t.ctx c x = answered s (s.ctx c x) n
        [(rd, if 256 ≤ residents s (evKey s c (field bs 0 4)).home then 1 else 0)] 0) ∧
      t.home (evKey s c (field bs 0 4)) = some h ∧ h.desc = d ∧ h.st = .waiting ∧ h.offers = [] ∧ h.occ = 0 := by
  obtain ⟨h, hhome⟩ := defineEvent_home s (evKey s c (field bs 0 4)) d
  exact ⟨_, h, ha.gives (.evdef rd bs addr) rfl (by simp only [serveRequest, ha.askCore, ha.asker_mod]) (serveEvdef_defines hd hh rd addr)
    (defineEvent_asker ..) rfl rfl, hhome⟩

theorem evdel_answered_none {name : Nat} (hh : s.home (evKey s c name) = none) :
    ∃ t, exec (.requestAnswer c (s.asker c x) (.evdel rd name)) s = .next t ∧ t.ctx c x = answered s (s.ctx c x) n [(rd, 0)] 0 :=
  ⟨_, ha.gives (.evdel rd name) (by simp only [requestWaits, ha.askCore, hh]) (by simp only [serveRequest, ha.askCore]) (serveEvdel_none hh rd) (.refl c x s) rfl rfl⟩

theorem evdel_answered_deleted {name : Nat} {h : Home} (hh : s.home (evKey s c name) = some h) (hst : h.st ≠ .commit)
    (hg : isGangName name = false) : ∃ t, (exec (.requestAnswer c (s.asker c x) (.evdel rd name)) s = .next t ∧
      t.ctx c x = answered s (s.ctx c x) n [(rd, 1)] 0) ∧ t.home (evKey s c name) = none :=
  ⟨_, ha.gives (.evdel rd name) (by simp only [requestWaits, ha.askCore, hh, beq_eq_false_iff_ne, ne_eq, hst, not_false_eq_true])
    (by simp only [serveRequest, ha.askCore]) (serveEvdel_deletes hh hg rd) (deleteEvent_asker ..) rfl rfl, deleteEvent_home ..⟩

theorem poolcfg_answered {p : Nat} (cfg : Word) (hb : poolBusy s (clusterOf c) p = false) :
    ∃ t, (exec (.requestAnswer c (s.asker c x) (.poolcfg rd p cfg)) s = .next t ∧ t.ctx c x = answered s (s.ctx c x) n
        [(rd, poolStatus { t.pool (clusterOf c) p with cerr := (s.pool (clusterOf c) p).cerr })] 0) ∧
      (cfg.getLsbD 1 = true → (t.pool (clusterOf c) p).tasks = []) ∧
      (cfg.getLsbD 2 = false → (t.pool (clusterOf c) p).en = cfg.getLsbD 0) ∧ (t.pool (clusterOf c) p).cerr = false := by
  obtain ⟨hexec, hctx⟩ := ha.gives (.poolcfg rd p cfg) (by simp only [requestWaits, ha.askCore, hb])
    (by simp only [serveRequest, ha.askCore]) (servePoolcfg_eq s c rd p cfg) (setPool_asker ..) rfl rfl
  refine ⟨_, ⟨hexec, ?_⟩, ?_⟩
  · rw [hctx, State.updCtx_pool, pool_setPool, ← configured_cerr (s.pool (clusterOf c) p) cfg]
    rfl
  · rw [State.updCtx_pool, pool_setPool]
    exact ⟨(configured_tasks · _), (configured_en · _), rfl⟩

theorem poolput_answered_full {p : Nat} {bs : List Byte} (addr : Word) (he : (s.pool (clusterOf c) p).en = true)
    (hf : ∀ i, i < 64 → (tfind (s.pool (clusterOf c) p).tasks i).isSome = true) :
    ∃ t, exec (.requestAnswer c (s.asker c x) (.poolput rd p bs addr)) s = .next t ∧ t.ctx c x = answered s (s.ctx c x) n [(rd, 0)] 0 :=
  ⟨_, ha.gives (.poolput rd p bs addr) rfl (by simp only [serveRequest, ha.askCore]) (servePoolput_full he (placeTask_full (freeTask_full hf) p bs _) rd addr)
    (.refl c x s) rfl rfl⟩

theorem poolput_answered_placed {p slot : Nat} {bs : List Byte} (addr : Word) (he : (s.pool (clusterOf c) p).en = true) (hs : slot < 64)
    (hn : tfind (s.pool (clusterOf c) p).tasks slot = none) (hl : ∀ i, i < slot → (tfind (s.pool (clusterOf c) p).tasks i).isSome = true)
    (hi : intervalCount (s.pool (clusterOf c) p) < 256) :
    ∃ t t1, (exec (.requestAnswer c (s.asker c x) (.poolput rd p bs addr)) s = .next t ∧ t.ctx c x = answered s (s.ctx c x) n
        [(rd, BitVec.ofNat 64 (2 ^ 31 + t1.gen % 4096 * 2 ^ 10 + slot * 16 + p))] 0) ∧
      tfind (t.pool (clusterOf c) p).tasks slot = some t1 ∧ t1.intervals = [(field bs 16 8, field bs 24 8)] ∧ t1.retired = 0 ∧
      t1.grain = field bs 32 4 ∧ t1.cevent = evKey s c (field bs 36 4) := by
  have hplace := placeTask_places (freeTask_lowest hs hn hl) hi p bs (evKey s c (field bs 36 4))
  refine ⟨_, _, ha.gives (.poolput rd p bs addr) rfl (by simp only [serveRequest, ha.askCore]) (servePoolput_places he hplace rd addr) (setPool_asker ..) rfl rfl,
    ?_, rfl, rfl, rfl, rfl⟩
  rw [State.updCtx_pool, pool_setPool, tfind_tput, if_pos rfl]

theorem done_answered {p slot : Nat} {h cnt : Word} {t0 : Task} (ht : taskOf s (clusterOf c) h = some (p, slot, t0))
    (hc : t0.retired + cnt.toNat ≤ t0.hi.toNat - t0.lo.toNat) :
    ∃ t, exec (.requestAnswer c (s.asker c x) (.done h cnt)) s = .next t ∧ t.ctx c x = answered s (s.ctx c x) n [] 0 ∧
      tfind (t.pool (clusterOf c) p).tasks slot = some { t0 with retired := t0.retired + cnt.toNat } := by
  obtain ⟨hexec, hctx⟩ := ha.gives (.done h cnt) rfl (by simp only [serveRequest, ha.askCore]) (serveDone_retires ht hc)
    (setPool_asker ..) rfl rfl
  refine ⟨_, hexec, hctx, ?_⟩
  rw [State.updCtx_pool, pool_setPool, tfind_tput, if_pos rfl]

end

/-- R207, R210, R212, R227, R229, R230. -/
theorem requestsAreAnswered : RequestsAreAnswered := by
  intro s c x n rd a name p slot bs addr h cnt d t0 w k ev m gives ha
  refine ⟨answer_arrives ha, ?_, evdel_answered_none ha rd, fun _ => evdel_answered_deleted ha rd, poolcfg_answered ha rd h,
    poolput_answered_full ha rd addr, poolput_answered_placed ha rd addr, done_answered ha⟩
  rintro rfl hd hh
  exact evdef_answered ha rd addr hd hh

end Sys2Proof.Machine

namespace Sys2Proof.Machine

open Sys2Proof

/-! ## Dies and copy engines (R327, R339, R360) -/

theorem setDie_asker (s : State) (d : Nat) (v : Die) (c x : Nat) : KeepsAsker c x s (s.setDie d v) :=
  keepsAsker_of_cores (s := s) (t := s.setDie d v) rfl rfl c x

theorem State.updCtx_die (s : State) (c x : Nat) (f : Ctx → Ctx) (d : Nat) : (s.updCtx c x f).die d = s.die d := rfl

/-- One line of the extents under RESCLS, and the count of those it has changed. -/
def reclassOne (cls : Nat) (r : Nat × State) (line : Nat) : Nat × State :=
  let u := reclass r.2 line cls
  (if tfind u.llc line = tfind r.2.llc line then r.1 else r.1 + 1, u)

theorem reclass_field {α : Type} (g : State → α) (hg : ∀ (s : State) l, g { s with llc := l } = g s) (s : State) (line cls : Nat) :
    g (reclass s line cls) = g s := by
  unfold reclass
  split
  · rfl
  · exact hg ..

/-- RESCLS changes the classes of lines alone. -/
theorem reclassAll_field {α : Type} (g : State → α) (hg : ∀ (s : State) l, g { s with llc := l } = g s) (cls : Nat) (lines : List Nat)
    (r : Nat × State) : g (lines.foldl (reclassOne cls) r).2 = g r.2 := by
  induction lines generalizing r with
  | nil => rfl
  | cons line lines ih => exact (ih _).trans (reclass_field g hg ..)

theorem reclassAll_asker (cls : Nat) (lines : List Nat) (r : Nat × State) (c x : Nat) :
    KeepsAsker c x r.2 (lines.foldl (reclassOne cls) r).2 :=
  keepsAsker_of_cores (reclassAll_field State.cores (fun _ _ => rfl) ..) (reclassAll_field State.cycle (fun _ _ => rfl) ..) c x

theorem serveRescls_eq {s : State} {c slot : Nat} {h : Word} {l : Layout} (hl : layoutOf s (coreDie c) (partNum (s.core c)) h.toNat = some (slot, l))
    (rd : Reg) (cls : Nat) :
    let s1 := s.setDie (coreDie c) { s.die (coreDie c) with layouts := tput (s.die (coreDie c)).layouts slot { l with rcls := cls } }
    let r := (layLines s l).foldl (reclassOne cls) (0, s1)
    serveRescls s c rd h cls = (answerReg rd (BitVec.ofNat 64 r.1), r.2) := by
  rw [serveRescls, hl]
  rfl

/-! ## FIFO banks (R232) -/

/-- An armed latch of an unbound bank goes idle. -/
def dropArmed (t : State) (l : LatchId) : State := if (t.latch l).st = .armed then idleLatch t l else t

theorem dropArmed_field {α : Type} (g : State → α) (hg : ∀ (s : State) l a, g { s with latches := l, agenda := a } = g s) (t : State)
    (l : LatchId) : g (dropArmed t l) = g t := by
  unfold dropArmed
  split
  · exact hg t _ _
  · rfl

/-- A bank unbound, with its latches idle. -/
def unbindFifo (s : State) (c b : Nat) : State :=
  dropArmed (dropArmed (bindFifo s c b none) (fifoLatch s c b false)) (fifoLatch s c b true)

theorem serveFifobind_unbind (s : State) (c b : Nat) (d : Word) : serveFifobind s c b 0 d = .done noAnswer (unbindFifo s c b) := rfl

theorem serveFifobind_bind {nm : Word} (h : nm ≠ 0) (s : State) (c b : Nat) (d : Word) : serveFifobind s c b nm d =
    .goes (evKey s c nm.toNat).home
      (.fifoname (gidOf s.dev c 14) b (evKey s c nm.toNat) (if d = 0 then none else some (evKey s c d.toNat)) none) := if_neg h

theorem bindFifo_core (s : State) (c b : Nat) (v : Option (Nat × Nat × Nat)) : (bindFifo s c b v).core c =
    { s.core c with fifo := tput (s.core c).fifo b { tget FifoBank.reset (s.core c).fifo b with bound := v } } := by
  rw [bindFifo, State.core_updCore, if_pos rfl]

theorem bindFifo_bound (s : State) (c b : Nat) (v : Option (Nat × Nat × Nat)) :
    (tget FifoBank.reset ((bindFifo s c b v).core c).fifo b).bound = v := by
  rw [bindFifo_core, tget_tput, if_pos rfl]

theorem bindFifo_asker (s : State) (c b : Nat) (v : Option (Nat × Nat × Nat)) (x : Nat) : KeepsAsker c x s (bindFifo s c b v) :=
  ⟨by rw [State.ctx, bindFifo_core]; rfl, by rw [bindFifo_core], rfl⟩

theorem unbindFifo_cores (s : State) (c b : Nat) : (unbindFifo s c b).cores = (bindFifo s c b none).cores :=
  (dropArmed_field State.cores (fun _ _ _ => rfl) ..).trans (dropArmed_field State.cores (fun _ _ _ => rfl) ..)

theorem unbindFifo_cycle (s : State) (c b : Nat) : (unbindFifo s c b).cycle = s.cycle :=
  (dropArmed_field State.cycle (fun _ _ _ => rfl) ..).trans (dropArmed_field State.cycle (fun _ _ _ => rfl) ..)

theorem KeepsAsker.trans {c x : Nat} {s t u : State} (h : KeepsAsker c x s t) (g : KeepsAsker c x t u) : KeepsAsker c x s u :=
  ⟨g.ctx.trans h.ctx, g.image.trans h.image, g.cycle.trans h.cycle⟩

theorem unbindFifo_asker (s : State) (c b x : Nat) : KeepsAsker c x s (unbindFifo s c b) :=
  (bindFifo_asker ..).trans (keepsAsker_of_cores (unbindFifo_cores ..) (unbindFifo_cycle ..) c x)

theorem unbindFifo_bound (s : State) (c b : Nat) : (tget FifoBank.reset ((unbindFifo s c b).core c).fifo b).bound = none :=
  (congrArg (fun cs => (tget FifoBank.reset (tget Core.reset cs c).fifo b).bound) (unbindFifo_cores ..)).trans (bindFifo_bound ..)

theorem State.updCtx_fifo (s : State) (c x : Nat) (f : Ctx → Ctx) : ((s.updCtx c x f).core c).fifo = (s.core c).fifo :=
  core_updCtx_field Core.fifo (fun _ _ _ => rfl) ..

/-! ## What they answer -/

section
variable {s : State} {c x n : Nat} (ha : Awaits s c x n) (rd : Reg)
include ha

theorem layrel_answered {k : Nat} {h : Word} {t : State} (hr : releaseLayout s (coreDie c) (partNum (s.core c)) h.toNat = (k, t))
    (hk : KeepsAsker c x s t) : ∃ u, (exec (.requestAnswer c (s.asker c x) (.layrel rd h)) s = .next u ∧
      u.ctx c x = answered s (s.ctx c x) n [(rd, BitVec.ofNat 64 k)] 0) ∧ u.dies = t.dies :=
  ⟨_, ha.gives (.layrel rd h) rfl (by simp only [serveRequest, ha.askCore])
    (show serveLayrel s c rd h = (answerReg rd (BitVec.ofNat 64 k), t) by rw [serveLayrel, hr]) hk rfl rfl, rfl⟩

theorem rescls_answered {h : Word} {slot : Nat} {l : Layout} (cls : Nat)
    (hl : layoutOf s (coreDie c) (partNum (s.core c)) h.toNat = some (slot, l)) :
    ∃ t v, (exec (.requestAnswer c (s.asker c x) (.rescls rd h cls)) s = .next t ∧ t.ctx c x = answered s (s.ctx c x) n [(rd, v)] 0) ∧
      tfind (t.die (coreDie c)).layouts slot = some { l with rcls := cls } := by
  refine ⟨_, _, ha.gives (.rescls rd h cls) rfl (by simp only [serveRequest, ha.askCore]) (serveRescls_eq hl rd cls) ?_ rfl rfl, ?_⟩
  · refine KeepsAsker.trans ?_ (reclassAll_asker ..)
    exact setDie_asker ..
  · rw [State.updCtx_die, reclassAll_field (State.die · (coreDie c)) fun _ _ => rfl, State.die_setDie, if_pos rfl, tfind_tput, if_pos rfl]

theorem cstat_answered (hu : Unlogged s c) (name : Nat) :
    ∃ t, exec (.requestAnswer c (s.asker c x) (.cstat rd name false)) s = .next t ∧
      t.ctx c x = answered s (s.ctx c x) n [(rd, copyStatus (s.cluster (clusterOf c)).copy name)] 0 :=
  ⟨_, ha.gives (.cstat rd name false) rfl (by simp only [serveRequest, ha.askCore, ha.asker_mod])
    (show serveCstat s c x rd name false = (answerReg rd _, s) by rw [serveCstat, hu.input]; rfl) (.refl c x s) rfl rfl⟩

theorem unbind_answered {b : Nat} (d : Word) (hb : fifoBusy s c b = false) :
    ∃ t, exec (.requestAnswer c (s.asker c x) (.fifobind b 0 d)) s = .next t ∧ t.ctx c x = answered s (s.ctx c x) n [] 0 ∧
      (tget FifoBank.reset (t.core c).fifo b).bound = none := by
  obtain ⟨hexec, hctx⟩ := ha.gives (.fifobind b 0 d) (by simp only [requestWaits, ha.askCore, hb, Bool.and_false])
    (by simp only [serveRequest, ha.askCore, serveFifobind_unbind]; rfl) (Eq.refl (noAnswer, unbindFifo s c b)) (unbindFifo_asker ..) rfl rfl
  refine ⟨_, hexec, hctx, ?_⟩
  rw [State.updCtx_fifo, unbindFifo_bound]

end

/-- R232, R327, R338, R339, R360. -/
theorem engineRequestsAreAnswered : EngineRequestsAreAnswered := by
  intro s c x n slot cls b rd h d name l w m die part gives ha
  refine ⟨fun hl => ?_, fun hl => ⟨fun hb => ?_, fun hb => ?_, rescls_answered ha rd cls hl⟩, fun hu => cstat_answered ha rd hu name,
    unbind_answered ha d⟩
  · obtain ⟨t, ht, -⟩ := layrel_answered ha rd (releaseLayout_none hl) (.refl c x s)
    exact ⟨t, ht⟩
  · obtain ⟨t, ht, -⟩ := layrel_answered ha rd (releaseLayout_busy hl hb) (.refl c x s)
    exact ⟨t, ht⟩
  · obtain ⟨t, ht, hdies⟩ := layrel_answered ha rd (releaseLayout_gone hl hb) (setDie_asker ..)
    refine ⟨t, ht, (congrArg (fun ds => tfind (tget Die.reset ds die).layouts slot) hdies).trans ?_⟩
    refine (congrArg (fun v => tfind (Die.layouts v) slot) (State.die_setDie ..)).trans ?_
    rw [if_pos rfl, tfind_tdel, if_pos rfl]

end Sys2Proof.Machine

namespace Sys2Proof.Machine

open Sys2Proof

/-! ## FIFOBIND on its way from home to home (R232, log 26) -/

theorem gidDev_gidOf {dev c x : Nat} (hd : dev < 2 ^ 12) (hc : c < 576) (hx : x < 16) : gidDev (gidOf dev c x) = dev := by
  have hdie : coreDie c < 2 := by unfold coreDie; omega
  have hrow : coreRow c < 16 := by unfold coreRow; omega
  have hcol : coreCol c < 18 := Nat.mod_lt _ (by decide)
  unfold gidDev gidOf bits
  omega

theorem gidCore_lt (g : Gid) : gidCore g < 2 ^ 16 := by
  unfold gidCore gidCol coreAt bits
  omega

theorem homeDev_homeNum_of_lt {dev c : Nat} (h : c < 2 ^ 16) : homeDev (homeNum dev c) = dev := by
  unfold homeDev homeNum
  omega

theorem toDevice_core (s : State) (c dev : Nat) (m : Instr) (d : Nat) : (s.toDevice c dev m).core d = s.core d := by
  unfold State.toDevice
  split <;> rfl

/-- The home of the name to the router of the core that asked. -/
theorem homeDev_agent {dev c : Nat} (hd : dev < 2 ^ 12) (hc : c < 576) :
    homeDev (homeNum (gidDev (gidOf dev c 14)) (gidCore (gidOf dev c 14))) = dev := by
  rw [homeDev_homeNum_of_lt (gidCore_lt _), gidDev_gidOf hd hc (by decide)]

section
variable {s : State} {agent : Gid} {ev : EvKey} (b : Nat)

theorem serveFifoname_channel {size : Nat} (h : fifoChannel s agent ev = some size) : serveFifoname s agent b ev none none =
    .goes (homeNum (gidDev agent) (gidCore agent)) (.fifobound b ev.name size 0) := by
  simp only [serveFifoname, h, Option.elim_none]

theorem serveFifoname_next {size : Nat} (h : fifoChannel s agent ev = some size) (dv : EvKey) : serveFifoname s agent b ev (some dv) none =
    .goes dv.home (.fifoname agent b ev (some dv) (some size)) := by
  simp only [serveFifoname, h]

theorem serveFifoname_notChannel (h : fifoChannel s agent ev = none) (dn : Option EvKey) : serveFifoname s agent b ev dn none =
    .done (answerTrap (eventDesc (BitVec.ofNat 64 ev.name))) s := by
  simp only [serveFifoname, h]

theorem serveFifoname_ready {dv : EvKey} (h : fifoReady s agent dv = true) (size : Nat) : serveFifoname s agent b ev (some dv) (some size) =
    .goes (homeNum (gidDev agent) (gidCore agent)) (.fifobound b ev.name size dv.name) := by
  simp only [serveFifoname, h, if_pos, Option.elim_some]

theorem serveFifoname_notReady {dv : EvKey} (h : fifoReady s agent dv = false) (size : Nat) :
    serveFifoname s agent b ev (some dv) (some size) = .done (answerTrap (eventDesc (BitVec.ofNat 64 dv.name))) s := by
  simp only [serveFifoname, h, if_neg Bool.false_ne_true]

end

theorem serveFifobound_binds {s : State} {c : Nat} (h : ∀ f ∈ (s.core c).fifo, f.2.bound = none) (b n size d : Nat) :
    serveFifobound s c b n size d = (noAnswer, bindFifo s c b (some (n, size, d))) := by
  have hfree : ((s.core c).fifo.any fun f => f.2.bound.isSome) = false := by
    rw [List.any_eq_false]
    intro f hf
    rw [h f hf]
    exact Bool.false_ne_true
  rw [serveFifobound, hfree, if_neg Bool.false_ne_true]

section
variable {s : State} {c x n : Nat} (ha : Awaits s c x n)
include ha

theorem Awaits.passOn_here {home : Nat} (hh : homeDev home = s.dev) (own : Nat) (r : Request) :
    passOn s own c (s.asker c x) home r = s.send (.requestAnswer c (s.asker c x) r) := by
  obtain ⟨-, hc, -⟩ := id ha
  simp only [passOn, askDev, if_pos (show c < 2 ^ 16 by omega), ha.askCore, hh, if_pos]

theorem Awaits.passOn_away {home : Nat} (hh : homeDev home ≠ s.dev) (own : Nat) (r : Request) :
    passOn s own c (s.asker c x) home r = s.toDevice own (homeDev home) (.requestAnswer ((s.dev + 1) * 2 ^ 16 + c) (s.asker c x) r) := by
  obtain ⟨-, hc, -⟩ := id ha
  simp only [passOn, askDev, if_pos (show c < 2 ^ 16 by omega), ha.askCore, if_neg hh]

/-- A request that goes on to a home of this device. -/
theorem Awaits.goes_here {r r' : Request} {own home : Nat} (hr : requestWaits s c r = false)
    (hs : serveRequest c (s.asker c x) r s = goOn s own c (s.asker c x) (.goes home r')) (hh : homeDev home = s.dev) :
    exec (.requestAnswer c (s.asker c x) r) s = .next (s.send (.requestAnswer c (s.asker c x) r')) :=
  ha.exec_served hr (hs.trans (ha.passOn_here hh ..)) rfl

theorem Awaits.goes_away {r r' : Request} {own home : Nat} (hr : requestWaits s c r = false)
    (hs : serveRequest c (s.asker c x) r s = goOn s own c (s.asker c x) (.goes home r')) (hh : homeDev home ≠ s.dev) :
    exec (.requestAnswer c (s.asker c x) r) s =
      .next (s.toDevice own (homeDev home) (.requestAnswer ((s.dev + 1) * 2 ^ 16 + c) (s.asker c x) r')) :=
  ha.exec_served hr (hs.trans (ha.passOn_away hh ..)) (by rw [toDevice_core])

theorem Awaits.serve_fifobind {nm : Word} (hn : nm ≠ 0) (b : Nat) (d : Word) : serveRequest c (s.asker c x) (.fifobind b nm d) s =
    goOn s c c (s.asker c x) (.goes (evKey s c nm.toNat).home
      (.fifoname (gidOf s.dev c 14) b (evKey s c nm.toNat) (if d = 0 then none else some (evKey s c d.toNat)) none)) := by
  obtain ⟨-, hc, -⟩ := id ha
  have hhome : requestHome s c (.fifobind b nm d) = c := by
    show c % 2 ^ 16 % 576 = c
    omega
  simp only [serveRequest, ha.askCore, hhome, serveFifobind_bind hn]

theorem Awaits.serve_fifoname (agent : Gid) (b : Nat) (ev : EvKey) (dn : Option EvKey) (size : Option Nat) :
    serveRequest c (s.asker c x) (.fifoname agent b ev dn size) s =
      goOn s (requestHome s c (.fifoname agent b ev dn size)) c (s.asker c x) (serveFifoname s agent b ev dn size) := by
  simp only [serveRequest, ha.askCore]

theorem Awaits.fifoname_goes {agent : Gid} {b : Nat} {ev : EvKey} {dn : Option EvKey} {size : Option Nat} {home : Nat} {r : Request}
    (hs : serveFifoname s agent b ev dn size = .goes home r) (hh : homeDev home = s.dev) :
    exec (.requestAnswer c (s.asker c x) (.fifoname agent b ev dn size)) s = .next (s.send (.requestAnswer c (s.asker c x) r)) :=
  ha.goes_here rfl ((ha.serve_fifoname ..).trans (by rw [hs])) hh

theorem Awaits.fifoname_trapped {agent : Gid} {b : Nat} {ev : EvKey} {dn : Option EvKey} {size : Option Nat} {z : Cause}
    (hs : serveFifoname s agent b ev dn size = .done (answerTrap z) s) :
    exec (.requestAnswer c (s.asker c x) (.fifoname agent b ev dn size)) s = .next (applyAnswer s c x (answerTrap z)) :=
  ha.exec_trapped _ rfl ((ha.serve_fifoname ..).trans (by rw [hs]; rfl))

theorem fifobound_answered (b : Nat) (nm size d : Nat) (hf : ∀ f ∈ (s.core c).fifo, f.2.bound = none) :
    ∃ t, exec (.requestAnswer c (s.asker c x) (.fifobound b nm size d)) s = .next t ∧ t.ctx c x = answered s (s.ctx c x) n [] 0 ∧
      (tget FifoBank.reset (t.core c).fifo b).bound = some (nm, size, d) := by
  obtain ⟨hexec, hctx⟩ := ha.gives (.fifobound b nm size d) rfl (by simp only [serveRequest, ha.askCore])
    (serveFifobound_binds hf b nm size d) (bindFifo_asker ..) rfl rfl
  refine ⟨_, hexec, hctx, ?_⟩
  rw [State.updCtx_fifo, bindFifo_bound]

end

/-- R232. -/
theorem fifobindAsksTheHomes : FifobindAsksTheHomes := by
  intro s c x n b size nm d ev dv dn w m agent goes leaves bad ha hd hev hdv
  obtain ⟨-, hc, -⟩ := id ha
  have hagent : homeDev (homeNum (gidDev agent) (gidCore agent)) = s.dev := homeDev_agent hd hc
  refine ⟨?_, fun hch => ⟨ha.fifoname_goes (serveFifoname_channel b hch) hagent, ha.fifoname_goes (serveFifoname_next b hch dv) hdv⟩,
    fun hch => ha.fifoname_trapped (serveFifoname_notChannel b hch dn), fun hr => ha.fifoname_goes (serveFifoname_ready b hr size) hagent,
    fun hr => ha.fifoname_trapped (serveFifoname_notReady b hr size), fifobound_answered ha b _ size _⟩
  rintro hn rfl
  have hwait : requestWaits s c (.fifobind b nm d) = false := by
    simp only [requestWaits, beq_eq_false_iff_ne.mpr hn, Bool.false_and]
  exact ⟨ha.goes_here hwait (ha.serve_fifobind hn b d), ha.goes_away hwait (ha.serve_fifobind hn b d)⟩

/-! ## The image that holds a context (R401, R404) -/

/-- The ANS bit in the copy of a saved image's header (R404). -/
def markSaved (s : State) (m : Image) : State :=
  match tfind m.places 32, tfind s.parts m.part with
  | some a, some q => homeWrite s q.key (a + 17) [ansByte ((homeBytes s q.key (a + 17) 1).headD 0) (m.ctxs.any fun e => owesAnswer e.2)]
  | _, _ => s

/-- An image among those of a saved workgroup. -/
def putSaved (s : State) (n i : Nat) (m : Image) : State :=
  match tfind s.wgs n with
  | some w => { s with wgs := tput s.wgs n { w with images := tput w.images i m } }
  | none => s

theorem putImage_saved (s : State) (c n i : Nat) (m : Image) : putImage s c (.saved n i) m = putSaved (markSaved s m) n i m := rfl

theorem markSaved_field {α : Type} (g : State → α)
    (hg : ∀ (s : State) m k p f, g { s with mem := m, keyTag := k, memPoison := p, fsums := f } = g s) (s : State) (m : Image) :
    g (markSaved s m) = g s := by
  unfold markSaved
  split
  · exact homeWrite_field g hg ..
  · rfl

theorem putSaved_cores (s : State) (n i : Nat) (m : Image) : (putSaved s n i m).cores = s.cores := by
  unfold putSaved
  split <;> rfl

theorem putSaved_images {s : State} {n : Nat} {w : Wg} (hw : tfind s.wgs n = some w) (i : Nat) (m : Image) :
    ∃ w', tfind (putSaved s n i m).wgs n = some w' ∧ tfind w'.images i = some m := by
  unfold putSaved
  rw [hw]
  exact ⟨_, (tfind_tput ..).trans (if_pos rfl), (tfind_tput ..).trans (if_pos rfl)⟩

theorem putImage_ctx (s : State) (c : Nat) (p : Holder) (m : Image) (e : Nat) : (putImage s c p m).ctx c e = s.ctx c e := by
  cases p with
  | parked => exact putImage_parked_ctx ..
  | saved n i =>
    have hcores : (putImage s c (.saved n i) m).cores = s.cores := by
      rw [putImage_saved, putSaved_cores, markSaved_field State.cores fun _ _ _ _ _ => rfl]
    exact congrArg (fun cs => (tget Core.reset cs c).ctx e) hcores

theorem putImage_images {s : State} {n : Nat} {w : Wg} (hw : tfind s.wgs n = some w) (c i : Nat) (m : Image) :
    ∃ w', tfind (putImage s c (.saved n i) m).wgs n = some w' ∧ tfind w'.images i = some m := by
  rw [putImage_saved]
  exact putSaved_images (by rw [markSaved_field State.wgs fun _ _ _ _ _ => rfl, hw]) i m

/-- What writes one context of a core that is lent to an image. -/
theorem core_lent_updCtx (s : State) (c x : Nat) (m : Image) (g : Ctx → Ctx) :
    ((s.setCore c (lendCore (s.core c) m)).updCtx c x g).core c = (lendCore (s.core c) m).setCtx x (g (tget Ctx.reset m.ctxs x)) := by
  rw [State.core_updCtx, if_pos rfl, State.ctx, State.core_setCore, if_pos rfl]
  rfl

/-- An answer to a context whose workgroup does not run goes into the image that holds it; the core keeps its own contexts. -/
theorem onHolder_writes {s : State} {c x : Nat} {p : Holder} {m : Image} {f : State → State} {g : Ctx → Ctx} (hh : isHere s c x = false)
    (hi : imageAt s c x = some (p, m))
    (hf : f (s.setCore c (lendCore (s.core c) m)) = (s.setCore c (lendCore (s.core c) m)).updCtx c (x % 16) g) :
    ∃ t, onHolder c x f s = putImage t c p { m with ctxs := tput m.ctxs (x % 16) (g (tget Ctx.reset m.ctxs (x % 16))) } ∧
      t.wgs = s.wgs ∧ ∀ y, t.ctx c y = s.ctx c y := by
  refine ⟨((s.setCore c (lendCore (s.core c) m)).updCtx c (x % 16) g).setCore c (takeCore (s.core c)
    (((s.setCore c (lendCore (s.core c) m)).updCtx c (x % 16) g).core c)), ?_, rfl, fun y => ?_⟩
  · simp only [onHolder, hh, hi, if_neg Bool.false_ne_true, hf, core_lent_updCtx]
    rfl
  · rw [State.ctx, State.core_setCore, if_pos rfl]
    rfl

/-- R401, R404. -/
theorem answersReachSavedContexts : AnswersReachSavedContexts := by
  intro s c x n a p im old im' hc hx hh hi ht hf _ hw
  have hctx : (s.setCore c (lendCore (s.core c) im)).ctx c (x % 16) = old := by
    rw [State.ctx, State.core_setCore, if_pos rfl]
    rfl
  have happly : serveRequest c x (.answer a) (s.setCore c (lendCore (s.core c) im)) =
      (s.setCore c (lendCore (s.core c) im)).updCtx c (x % 16) fun k => answered s k n a.regs a.flags := by
    simp only [serveRequest, askCore_of_lt hc]
    exact applyAnswer_request hx (by rw [hctx, hw]) ht hf
  obtain ⟨t, heq, hwgs, hkeep⟩ := onHolder_writes hh hi happly
  refine ⟨_, exec_requestAnswer c x (.answer a) s, fun y => ?_, ?_, ?_⟩ <;> rw [show requestWaits _ c (.answer a) = false from rfl,
    if_neg Bool.false_ne_true, heq]
  · rw [putImage_ctx, hkeep]
  · rintro rfl
    exact putImage_parked_parked ..
  · rintro g i w rfl hg
    exact putImage_images (by rw [hwgs, hg]) ..

/-- Settles O27: each handler's equation read at the context that waits, or in the image that holds it. -/
theorem requestsGetTheirAnswers : Obligations.RequestsGetTheirAnswers :=
  ⟨requestsAreAnswered, engineRequestsAreAnswered, fifobindAsksTheHomes, answersReachSavedContexts⟩

end Sys2Proof.Machine

/-! # The joint array: MMULs of a gang (R242-R249) -/

namespace Sys2Proof.Machine

open Sys2Proof

/-! ## The heads of a gang (R242, R243) -/

theorem exec_mmulJoin (g : Nat) (s : State) : exec (.mmulJoin g) s = execMmulJoin g s := rfl
theorem exec_mmulRowBroadcast (g : Nat) (s : State) : exec (.mmulRowBroadcast g) s = execMmulRowBroadcast g s := rfl

theorem gangCore_inj {g p q : Nat} (h : gangCore g p = gangCore g q) : p = q := by
  unfold gangCore coreAt at h
  omega

theorem allSame_map_range {α : Type} [DecidableEq α] (f : Nat → α) (n : Nat) :
    allSame ((List.range (n + 1)).map f) = true ↔ ∀ p, p < n + 1 → f p = f 0 := by
  rw [List.range_succ_eq_map, List.map_cons, List.map_map, allSame, List.all_eq_true]
  simp only [List.mem_map, List.mem_range, Function.comp_apply, decide_eq_true_eq, forall_exists_index, and_imp,
    forall_apply_eq_imp_iff₂]
  refine ⟨fun h p hp => ?_, fun h p hp => h (p + 1) (by omega)⟩
  cases p with
  | zero => rfl
  | succ p => exact h p (by omega)

theorem zipIdx_map_range {α : Type} (f : Nat → α) (n : Nat) : ((List.range n).map f).zipIdx = (List.range n).map fun p => (f p, p) :=
  List.ext_getElem (by simp) fun i h1 h2 => by simp

section
variable {s : State} {g : Nat} {h : Nat → Head} {num : Nat × Nat}

theorem GangHas.heads {joined : Bool} (hg : GangHas s g h num joined) : gangHeads s g = some ((List.range 6).map h) :=
  gangHeads_of fun p hp => by
    obtain ⟨hrun, hhead, -, -⟩ := hg p hp
    rw [wideRuns, hrun]
    exact ⟨rfl, hhead⟩

theorem GangHas.joinReady (hg : GangHas s g h num false) : joinReady s g = true := by
  rw [Machine.joinReady, hg.heads]
  dsimp only
  rw [Bool.and_eq_true, List.map_map]
  refine ⟨(allSame_map_range _ 5).2 fun p hp => ?_, List.all_eq_true.2 fun a ha => ?_⟩
  · obtain ⟨-, -, hp, -⟩ := hg p hp
    obtain ⟨-, -, h0, -⟩ := hg 0 (by decide)
    exact hp.trans h0.symm
  · obtain ⟨p, hp, rfl⟩ := List.mem_map.1 ha
    obtain ⟨-, -, -, hj⟩ := hg p (List.mem_range.1 hp)
    rw [hj]
    rfl

theorem GangHas.rowReady (hg : GangHas s g h num true) {row : Nat} (hr : ∀ p, p < 6 → (h p).e.row = row) : rowReady s g = true := by
  rw [Machine.rowReady, hg.heads]
  dsimp only
  rw [Bool.and_eq_true, List.map_map]
  refine ⟨List.all_eq_true.2 fun a ha => ?_, (allSame_map_range _ 5).2 fun p hp => ?_⟩
  · obtain ⟨p, hp, rfl⟩ := List.mem_map.1 ha
    obtain ⟨-, -, -, hj⟩ := hg p (List.mem_range.1 hp)
    exact hj
  · obtain ⟨-, -, hp', -⟩ := hg p hp
    obtain ⟨-, -, h0, -⟩ := hg 0 (by decide)
    have hnum : ((h p).e.e, (h p).e.j) = ((h 0).e.e, (h 0).e.j) := hp'.trans h0.symm
    have he : (h p).e.e = (h 0).e.e := congrArg (·.1) hnum
    have hj : (h p).e.j = (h 0).e.j := congrArg (·.2) hnum
    show ((h p).e.e, (h p).e.j, (h p).e.row) = ((h 0).e.e, (h 0).e.j, (h 0).e.row)
    rw [he, hj, hr p hp, hr 0 (by decide)]

/-- The shape words of the heads are equal (R244). -/
theorem shapes_same_iff : allSame (((List.range 6).map h).map Head.shape) = true ↔ ∀ q, q < 6 → (h q).shape = (h 0).shape := by
  rw [List.map_map]
  exact allSame_map_range _ 5

end

/-! ## One core after another -/

/-- A step for position `p` of gang `g` changes the core there, from `k` to a `k'` with `P p k k'`, and no byte of memory. -/
structure StepsCore (g p : Nat) (P : Core → Core → Prop) (t u : State) : Prop where
  core : P (t.core (gangCore g p)) (u.core (gangCore g p))
  other : ∀ d, d ≠ gangCore g p → u.core d = t.core d
  mem : u.mem = t.mem

/-- Steps for the positions of a gang in turn: each core sees its own alone. -/
theorem foldl_stepsCore {g : Nat} {P : Nat → Core → Core → Prop} {f : State → Nat → State} (s : State) {n : Nat}
    (hf : ∀ t p, p < n → t.core (gangCore g p) = s.core (gangCore g p) → StepsCore g p (P p) t (f t p)) :
    let t := (List.range n).foldl f s
    t.mem = s.mem ∧ (∀ p, p < n → P p (s.core (gangCore g p)) (t.core (gangCore g p))) ∧
      ∀ d, (∀ p, p < n → d ≠ gangCore g p) → t.core d = s.core d := by
  induction n with
  | zero => exact ⟨rfl, fun p hp => absurd hp (Nat.not_lt_zero p), fun _ _ => rfl⟩
  | succ n ih =>
    obtain ⟨hmem, hcore, hother⟩ := ih fun t p hp => hf t p (by omega)
    have hsame : ∀ p, p < n → gangCore g n ≠ gangCore g p := fun p hp e => absurd (gangCore_inj e) (by omega)
    have hn := hother _ hsame
    have hstep := hf _ n n.lt_succ_self hn
    rw [List.range_succ, List.foldl_append, List.foldl_cons, List.foldl_nil]
    refine ⟨hstep.mem.trans hmem, fun p hp => ?_, fun d hd => ?_⟩
    · by_cases e : p = n
      · subst e
        rw [← hn]
        exact hstep.core
      · rw [hstep.other _ fun e' => e (gangCore_inj e')]
        exact hcore p (by omega)
    · rw [hstep.other _ (hd n n.lt_succ_self)]
      exact hother d fun p hp => hd p (by omega)

theorem stepsCore_updCore {g p : Nat} {P : Core → Core → Prop} {t : State} {f : Core → Core}
    (h : P (t.core (gangCore g p)) (f (t.core (gangCore g p)))) : StepsCore g p P t (t.updCore (gangCore g p) f) where
  core := by rwa [State.core_updCore, if_pos rfl]
  other d hd := by rw [State.core_updCore, if_neg hd]
  mem := rfl

/-! ## MMUL_JOIN (R242-R244) -/

/-- A core of a gang whose shape words differ, when its MMUL has left the queue (R244). -/
structure Dissolved (p : Nat) (k k' : Core) : Prop where
  gmis : k'.wide.gmis = true
  queue : k'.wide.queue = k.wide.queue.tail
  acc : k'.wide.acc = k.wide.acc
  ptr : p ≠ 0 → k'.wide.ptr = k.wide.ptr
  loc : k'.loc = k.loc

theorem execMmulJoin_joins {s : State} {g : Nat} {h : Nat → Head} {num : Nat × Nat} (hg : GangHas s g h num false)
    (hs : ∀ q, q < 6 → (h q).shape = (h 0).shape) : ∃ t, execMmulJoin g s = .next t ∧ t.mem = s.mem ∧
      ∀ p, p < 6 → t.core (gangCore g p) = joinCore (s.core (gangCore g p)) (h p) := by
  obtain ⟨hmem, hcore, -⟩ := foldl_stepsCore (g := g) (P := fun p k k' => k' = joinCore k (h p)) (n := 6)
    (f := fun t p => t.updCore (gangCore g p) fun k => joinCore k (h p)) s fun t p _ _ => stepsCore_updCore rfl
  refine ⟨_, ?_, hmem, hcore⟩
  rw [execMmulJoin, hg.joinReady, hg.heads]
  dsimp only
  rw [if_pos (shapes_same_iff.2 hs), zipIdx_map_range, List.foldl_map]

/-- What R244 does to the core at position `p`. -/
def dissolve (g : Nat) (h : Head) (p : Nat) (t : State) : State :=
  popHead (t.updCore (gangCore g p) fun k =>
    let k1 := if p = 0 then stepPa k h.pa h.n else k
    { k1 with wide := { k1.wide with gmis := true } }) (gangCore g p)

theorem popHead_other {s : State} {c d : Nat} (h : d ≠ c) : (popHead s c).core d = s.core d := by
  rw [popHead, State.core_updCore, if_neg h]

theorem stepsCore_dissolve (g : Nat) (h : Head) (p : Nat) (t : State) : StepsCore g p (Dissolved p) t (dissolve g h p t) where
  core := by
    rw [dissolve, popHead, State.core_updCore, if_pos rfl, State.core_updCore, if_pos rfl]
    split
    next e => exact ⟨rfl, rfl, rfl, fun hp => absurd e hp, rfl⟩
    next => exact ⟨rfl, rfl, rfl, fun _ => rfl, rfl⟩
  other d hd := by rw [dissolve, popHead_other hd, State.core_updCore, if_neg hd]
  mem := rfl

theorem execMmulJoin_dissolves {s : State} {g : Nat} {h : Nat → Head} {num : Nat × Nat} (hg : GangHas s g h num false)
    (hs : ¬∀ q, q < 6 → (h q).shape = (h 0).shape) : ∃ t, execMmulJoin g s = .next t ∧ t.mem = s.mem ∧
      ∀ p, p < 6 → Dissolved p (s.core (gangCore g p)) (t.core (gangCore g p)) := by
  obtain ⟨hmem, hcore, -⟩ := foldl_stepsCore s (n := 6) fun t p _ _ => stepsCore_dissolve g (h p) p t
  refine ⟨_, ?_, hmem, hcore⟩
  rw [execMmulJoin, hg.joinReady, hg.heads]
  dsimp only
  rw [if_neg (fun e => hs (shapes_same_iff.1 e)), zipIdx_map_range, List.foldl_map]
  rfl

theorem mmulsJoinTogether : MmulsJoinTogether := by
  intro s g h num c w shape hg
  by_cases hs : ∀ q, q < 6 → (h q).shape = (h 0).shape
  · obtain ⟨t, ht, hmem, hcore⟩ := execMmulJoin_joins hg hs
    refine ⟨t, (exec_mmulJoin ..).trans ht, hmem, fun p hp => ?_⟩
    rw [hcore p hp]
    exact ⟨rfl, fun _ => rfl, fun ⟨q, hq, hne⟩ => absurd (hs q hq) hne⟩
  · obtain ⟨t, ht, hmem, hcore⟩ := execMmulJoin_dissolves hg hs
    refine ⟨t, (exec_mmulJoin ..).trans ht, hmem, fun p hp => ?_⟩
    obtain ⟨hgmis, hqueue, hacc, hptr, hloc⟩ := hcore p hp
    exact ⟨hloc, fun hs' => absurd hs' hs, fun _ => ⟨hgmis, hqueue, hacc, hptr⟩⟩

/-! ## MMUL_ROW_BROADCAST (R245, R247, R249) -/

/-- The lanes of the row that one slice adds (R247). -/
def sliceLanes (k : Core) (h : Head) (codes scales : List Nat) (L : Nat) : List LaneAcc :=
  let base := mcBase k.wide.mcfg
  (accRow k.wide.acc (h.d + h.e.row)).zipIdx.map fun q =>
    laneBlocks k h.e.afmt (tget 0 k.tags (24 + base)) h.e.rm base q.2 L (mmulK h.km1) codes scales ((mmulK h.km1 + L - 1) / L) ⟨q.1, 0, 0⟩

/-- The core at position `p` when it has added a row `ls`, and holds `queue`. -/
structure RowAdded (p r : Nat) (ls : List LaneAcc) (queue : List WEntry) (k k' : Core) : Prop where
  lanes : k'.wide.acc.lanes = (setRow k.wide.acc r (ls.map (·.lane))).lanes
  queue : k'.wide.queue = queue
  ptr : p ≠ 0 → k'.wide.ptr = k.wide.ptr
  loc : k'.loc = k.loc

/-- Of its core, a row changes ACC, the context and counters. -/
theorem sliceRow_core_field {α : Type} (g : Core → α) (ha : ∀ (k : Core) a, g { k with wide := { k.wide with acc := a } } = g k)
    (hc : ∀ (k : Core) x v, g (k.setCtx x v) = g k) (hd : ∀ (k : Core) d, g { k with dbg := d } = g k)
    (s : State) (c : Nat) (h : Head) (codes scales : List Nat) (L : Nat) : g ((sliceRow s c h codes scales L).core c) = g (s.core c) := by
  rw [sliceRow, wideCycles_core_field g hd, count_core_field g hd, core_updCtx_field g hc, State.core_updCore, if_pos rfl]
  exact ha ..

theorem sliceRow_lanes (s : State) (c : Nat) (h : Head) (codes scales : List Nat) (L : Nat) :
    ((sliceRow s c h codes scales L).core c).wide.acc.lanes =
      (setRow (s.core c).wide.acc (h.d + h.e.row) ((sliceLanes (s.core c) h codes scales L).map (·.lane))).lanes := by
  rw [sliceRow, wideCycles_core_field (fun k => k.wide.acc.lanes) (fun _ _ => rfl), count_core_field (fun k => k.wide.acc.lanes) (fun _ _ => rfl),
    core_updCtx_field (fun k => k.wide.acc.lanes) (fun _ _ _ => rfl), State.core_updCore, if_pos rfl]
  rfl

theorem count_other {s : State} {c d : Nat} (hd : d ≠ c) (i n : Nat) : (count s c i n).core d = s.core d := by
  rw [count, State.core_updCore, if_neg hd]

theorem sliceRow_other {s : State} {c d : Nat} (hd : d ≠ c) (h : Head) (codes scales : List Nat) (L : Nat) :
    (sliceRow s c h codes scales L).core d = s.core d := by
  rw [sliceRow]
  refine (count_other hd ..).trans ((count_other hd ..).trans ?_)
  rw [State.core_updCtx, if_neg hd, State.core_updCore, if_neg hd]

/-- For position 0, the next use of its pointer (R245). -/
def pointerStepped (p c pa : Nat) (t : State) : State := if p = 0 then t.updCore c fun k => stepPa k pa 1 else t

/-- One position's share of a broadcast: its row, and for position 0 the next use of its pointer; then the MMUL notes the next row or leaves the
queue (R245, R249). -/
def broadcastAt (g : Nat) (h h0 : Head) (codes scales : List Nat) (L p : Nat) (t : State) : State :=
  let c := gangCore g p
  let u := pointerStepped p c h0.pa (sliceRow t c h codes scales L)
  if h.e.row + 1 < h.n then setHead u c { h.e with row := h.e.row + 1 } else popHead u c

/-- The queue of a core behind a row of its MMUL. -/
def afterRow (h : Head) (queue : List WEntry) : List WEntry :=
  if h.e.row + 1 < h.n then { h.e with row := h.e.row + 1 } :: queue.tail else queue.tail

/-- The pointers of position 0 step on, and nothing else of a core. -/
theorem pointerStepped_core_field {α : Type} (g : Core → α) {p : Nat}
    (hp : p = 0 → ∀ (k : Core) q, g { k with wide := { k.wide with ptr := q } } = g k) (c pa : Nat) (t : State) :
    g ((pointerStepped p c pa t).core c) = g (t.core c) := by
  rw [pointerStepped]
  split
  next e => rw [State.core_updCore, if_pos rfl]; exact hp e ..
  next => rfl

theorem pointerStepped_other {c d : Nat} (hd : d ≠ c) (p pa : Nat) (t : State) : (pointerStepped p c pa t).core d = t.core d := by
  rw [pointerStepped]
  split
  · rw [State.core_updCore, if_neg hd]
  · rfl

theorem pointerStepped_mem (p c pa : Nat) (t : State) : (pointerStepped p c pa t).mem = t.mem := by
  rw [pointerStepped]
  split <;> rfl

theorem setHead_core_field {α : Type} (g : Core → α) (hq : ∀ (k : Core) q, g { k with wide := { k.wide with queue := q } } = g k) (s : State)
    (c : Nat) (e : WEntry) : g ((setHead s c e).core c) = g (s.core c) := by
  rw [setHead, State.core_updCore, if_pos rfl]
  exact hq ..

/-- Behind its row, a position changes its queue, its waits and the pointers of position 0. -/
theorem broadcastAt_core_field {α : Type} (q : Core → α) (hq : ∀ (k : Core) e, q { k with wide := { k.wide with queue := e } } = q k)
    (hc : ∀ (k : Core) cs, q { k with ctxs := cs } = q k) {p : Nat} (hp : p = 0 → ∀ (k : Core) w, q { k with wide := { k.wide with ptr := w } } = q k)
    (g : Nat) (h h0 : Head) (codes scales : List Nat) (L : Nat) (t : State) :
    q ((broadcastAt g h h0 codes scales L p t).core (gangCore g p)) =
      q ((sliceRow t (gangCore g p) h codes scales L).core (gangCore g p)) := by
  rw [broadcastAt]
  dsimp only
  split
  · exact (setHead_core_field q hq ..).trans (pointerStepped_core_field q hp ..)
  · exact (popHead_core_field q hq hc ..).trans (pointerStepped_core_field q hp ..)

theorem broadcastAt_queue (g : Nat) (h h0 : Head) (codes scales : List Nat) (L p : Nat) (t : State) :
    ((broadcastAt g h h0 codes scales L p t).core (gangCore g p)).wide.queue = afterRow h (t.core (gangCore g p)).wide.queue := by
  have hq : ((pointerStepped p (gangCore g p) h0.pa (sliceRow t (gangCore g p) h codes scales L)).core (gangCore g p)).wide.queue =
      (t.core (gangCore g p)).wide.queue :=
    (pointerStepped_core_field (fun k => k.wide.queue) (fun _ _ _ => rfl) ..).trans
      (sliceRow_core_field (fun k => k.wide.queue) (fun _ _ => rfl) (fun _ _ _ => rfl) (fun _ _ => rfl) ..)
  rw [broadcastAt, afterRow]
  dsimp only
  split
  · rw [setHead, State.core_updCore, if_pos rfl, hq]
  · rw [popHead_wide, hq]

theorem broadcastAt_other {g p d : Nat} (hd : d ≠ gangCore g p) (h h0 : Head) (codes scales : List Nat) (L : Nat) (t : State) :
    (broadcastAt g h h0 codes scales L p t).core d = t.core d := by
  rw [broadcastAt]
  dsimp only
  split
  · rw [setHead, State.core_updCore, if_neg hd, pointerStepped_other hd, sliceRow_other hd]
  · rw [popHead_other hd, pointerStepped_other hd, sliceRow_other hd]

theorem broadcastAt_mem (g : Nat) (h h0 : Head) (codes scales : List Nat) (L p : Nat) (t : State) :
    (broadcastAt g h h0 codes scales L p t).mem = t.mem := by
  rw [broadcastAt]
  dsimp only
  split
  · exact pointerStepped_mem ..
  · exact pointerStepped_mem ..

theorem stepsCore_broadcastAt (g : Nat) (h h0 : Head) (codes scales : List Nat) (L p : Nat) (t : State) :
    StepsCore g p (fun k k' => RowAdded p (h.d + h.e.row) (sliceLanes k h codes scales L) (afterRow h k.wide.queue) k k') t
      (broadcastAt g h h0 codes scales L p t) where
  core :=
    { lanes := (broadcastAt_core_field (fun k => k.wide.acc.lanes) (fun _ _ => rfl) (fun _ _ => rfl) (fun _ _ _ => rfl) ..).trans (sliceRow_lanes ..)
      queue := broadcastAt_queue ..
      ptr := fun hp => (broadcastAt_core_field (fun k => k.wide.ptr) (fun _ _ => rfl) (fun _ _ => rfl) (fun e => absurd e hp) ..).trans
        (sliceRow_core_field (fun k => k.wide.ptr) (fun _ _ => rfl) (fun _ _ _ => rfl) (fun _ _ => rfl) ..)
      loc := (broadcastAt_core_field Core.loc (fun _ _ => rfl) (fun _ _ => rfl) (fun _ _ _ => rfl) ..).trans
        (sliceRow_core_field Core.loc (fun _ _ => rfl) (fun _ _ _ => rfl) (fun _ _ => rfl) ..) }
  other _ hd := broadcastAt_other hd ..
  mem := broadcastAt_mem ..

/-- The block length of position `p`, for the A format of position 0 (R246). -/
def gangL (s : State) (g : Nat) (h : Nat → Head) (p : Nat) : Nat :=
  mmulL (h 0).e.afmt (tget 0 (s.core (gangCore g p)).tags (24 + mcBase (s.core (gangCore g p)).wide.mcfg))

/-- The A row of position 0 in the blocks of position `p`. -/
def gangA (s : State) (g : Nat) (h : Nat → Head) (p : Nat) : List Nat × List Nat := aRow (s.core (gangCore g 0)) (h 0) (gangL s g h p)

/-- The core at position `p` of gang `g` when its row of a broadcast from `s` has been added. -/
def RowAddedAt (s : State) (g : Nat) (h : Nat → Head) (p : Nat) (k k' : Core) : Prop :=
  RowAdded p ((h p).d + (h p).e.row) (sliceLanes k (h p) (gangA s g h p).1 (gangA s g h p).2 (gangL s g h p)) (afterRow (h p) k.wide.queue) k k'

theorem execMmulRowBroadcast_adds {s : State} {g : Nat} {h : Nat → Head} {num : Nat × Nat} (hg : GangHas s g h num true) {row : Nat}
    (hr : ∀ p, p < 6 → (h p).e.row = row) : ∃ t, execMmulRowBroadcast g s = .next t ∧ t.mem = s.mem ∧
      ∀ p, p < 6 → RowAddedAt s g h p (s.core (gangCore g p)) (t.core (gangCore g p)) := by
  obtain ⟨hmem, hcore, -⟩ := foldl_stepsCore (P := RowAddedAt s g h) (n := 6) s fun t p _ _ =>
    stepsCore_broadcastAt g (h p) (h 0) (gangA s g h p).1 (gangA s g h p).2 (gangL s g h p) p t
  refine ⟨_, ?_, hmem, hcore⟩
  have hheads : (List.range 6).map h = h 0 :: (List.range 5).map fun p => h (p + 1) := by
    rw [List.range_succ_eq_map, List.map_cons, List.map_map]
    rfl
  have hzip : (h 0 :: (List.range 5).map fun p => h (p + 1)).zipIdx = (List.range 6).map fun p => (h p, p) :=
    hheads ▸ zipIdx_map_range h 6
  rw [execMmulRowBroadcast, hg.rowReady hr, hg.heads, hheads]
  dsimp only
  rw [hzip, List.foldl_map]
  rfl

theorem setRow_lane {a : Acc} (ha : a.lanes.length = 1024) {r : Nat} (hr : r < 16) {ls : List Half} (hl : ls.length = 64) {q l : Nat} (h : l < 64) :
    (setRow a r ls).lanes.getD (64 * q + l) 0 = if q = r then ls.getD l 0 else a.lanes.getD (64 * q + l) 0 := by
  have hw := Acc.withRow_lane ha (.viota 0) hr hl 0 (q := q) h
  rwa [Acc.withRow_lanes] at hw

theorem length_sliceLanes {k : Core} (ha : k.wide.acc.lanes.length = 1024) {h : Head} (hr : h.d + h.e.row < 16) (codes scales : List Nat) (L : Nat) :
    (sliceLanes k h codes scales L).length = 64 := by
  rw [sliceLanes, List.length_map, List.length_zipIdx, accRow_length ha hr]

/-- Lane `q` of the row takes its blocks over the A row and the slice's banks (R247). -/
theorem sliceLanes_lane {k : Core} (ha : k.wide.acc.lanes.length = 1024) {h : Head} (hr : h.d + h.e.row < 16) (codes scales : List Nat) (L : Nat)
    {q : Nat} (hq : q < 64) : ((sliceLanes k h codes scales L).map (·.lane)).getD q 0 =
      (laneBlocks k h.e.afmt (tget 0 k.tags (24 + mcBase k.wide.mcfg)) h.e.rm (mcBase k.wide.mcfg) q L (mmulK h.km1) codes scales
        ((mmulK h.km1 + L - 1) / L) ⟨k.wide.acc.lanes.getD (64 * (h.d + h.e.row) + q) 0, 0, 0⟩).lane := by
  have hlen := accRow_length ha hr
  have hlane : (accRow k.wide.acc (h.d + h.e.row))[q]'(by omega) = k.wide.acc.lanes.getD (64 * (h.d + h.e.row) + q) 0 := by
    rw [List.getD_eq_getElem _ _ (by omega)]
    simp only [accRow, List.getElem_take, List.getElem_drop]
  rw [List.getD_eq_getElem _ _ (by rw [List.length_map, length_sliceLanes ha hr]; exact hq)]
  simp only [sliceLanes, List.getElem_map, List.getElem_zipIdx, hlane, Nat.zero_add]

theorem rowsAreBroadcast : RowsAreBroadcast := by
  intro s g row h num c k fb l a kk r lane hg hrow
  obtain ⟨t, ht, hmem, hcore⟩ := execMmulRowBroadcast_adds hg fun p hp => (hrow p hp).1
  refine ⟨t, (exec_mmulRowBroadcast ..).trans ht, hmem, fun p hp => ?_⟩
  obtain ⟨hr, hlen, hlt⟩ := hrow p hp
  obtain ⟨hlanes, hqueue, hptr, hloc⟩ := hcore p hp
  have hlt' : (h p).d + (h p).e.row < 16 := hr ▸ hlt
  refine ⟨fun r' q _ hq => ?_, ?_, hptr, hloc⟩
  · have hls := length_sliceLanes hlen hlt' (gangA s g h p).1 (gangA s g h p).2 (gangL s g h p)
    rw [hlanes, setRow_lane hlen hlt' (by rw [List.length_map, hls]) hq, sliceLanes_lane hlen hlt' _ _ _ hq, hr]
    rfl
  · rw [hqueue, afterRow, hr]

end Sys2Proof.Machine

/-! # Images of operand banks in memory (R259-R262) -/

namespace Sys2Proof.Machine

open Sys2Proof

/-! ## What watch matches leave of a core and of memory (R422-R425) -/

/-- A part of a core that no watch match, count or trace record changes. -/
def WatchBlind {α : Type} (g : Core → α) : Prop :=
  ∀ (k : Core) d r run hp e l, g { k with dbg := d, reports := r, run := run, haltPend := hp, enc := e, lossOwed := l } = g k

section
variable {α : Type} {g : Core → α} (hg : WatchBlind g)
include hg

theorem WatchBlind.counts (k : Core) (d : Dbg) : g { k with dbg := d } = g k := hg k d k.reports k.run k.haltPend k.enc k.lossOwed

theorem WatchBlind.stop (k : Core) (why x wp : Nat) : g (k.stop why x wp) = g k := by
  have hrun (run : Run) (hp : Bool) : g { k with run := run, haltPend := hp } = g k := hg k k.dbg k.reports run hp k.enc k.lossOwed
  unfold Core.stop
  split
  · rfl
  · exact hrun _ _
  · exact hrun _ _
  · exact hrun _ _
  · exact hrun _ _

theorem WatchBlind.watchAct (core wp : Nat) (ctl : Word) (base i agent : Nat) (acc : Access) (s : State) (d : Nat) :
    g ((watchAct core wp ctl base i agent acc s).core d) = g (s.core d) := by
  unfold Machine.watchAct
  dsimp only
  split
  · split
    · exact core_setCore_field g (hg.counts ..) d
    · exact core_setCore_field g (hg (s.core core) (s.core core).dbg _ _ _ _ _) d
  · exact core_setCore_field g (hg.stop ..) d
  · exact traceIf_core_field g (fun k e l => hg k k.dbg k.reports k.run k.haltPend e l) ..

theorem WatchBlind.watchWrite (kind a n agent : Nat) (acc : Access) (own : Option Nat) (ws : List (Nat × Nat × Nat × Nat)) (s : State) (d : Nat) :
    g ((watchWrite kind a n agent acc own ws s).core d) = g (s.core d) := by
  induction ws generalizing s with
  | nil => rfl
  | cons w ws ih =>
    refine (ih _).trans ?_
    split
    · split
      · exact hg.watchAct ..
      · rfl
    · rfl

theorem WatchBlind.watchBank (s : State) (c a n agent : Nat) (acc : Access) (own : Option Nat) (d : Nat) :
    g ((watchBank s c a n agent acc own).core d) = g (s.core d) :=
  (farMatch_field (fun t => g (t.core d)) (fun _ _ _ => rfl) ..).trans (hg.watchWrite ..)

end

theorem watchWrite_mem (kind a n agent : Nat) (acc : Access) (own : Option Nat) (ws : List (Nat × Nat × Nat × Nat)) (s : State) :
    (watchWrite kind a n agent acc own ws s).mem = s.mem := by
  induction ws generalizing s with
  | nil => rfl
  | cons w ws ih =>
    refine (ih _).trans ?_
    split
    · split
      · unfold watchHit watchAct
        dsimp only
        split
        · split <;> rfl
        · rfl
        · exact traceIf_field State.mem (fun _ _ _ => rfl) ..
      · rfl
    · rfl

theorem watchBank_mem (s : State) (c a n agent : Nat) (acc : Access) (own : Option Nat) : (watchBank s c a n agent acc own).mem = s.mem :=
  (farMatch_field State.mem (fun _ _ _ => rfl) ..).trans (watchWrite_mem ..)

/-! ## What the movement of an image leaves of every core (R259-R262) -/

/-- The state in which the home of a sector takes an access of core `c`. -/
def atHome (s : State) (c key pa : Nat) : State := homeTouch (dropSector s c (pa / 256)) key (pa / 1024) (s.ctx c 0)

/-- A sector becomes poisoned, or nothing changes. -/
def stained (pois : Bool) (sec : Nat) (s : State) : State := if pois then { s with memPoison := nadd s.memPoison sec } else s

theorem stained_field {α : Type} (g : State → α) (hg : ∀ (s : State) p, g { s with memPoison := p } = g s) (pois : Bool) (sec : Nat) (s : State) :
    g (stained pois sec s) = g s := by
  rw [stained]
  split
  · exact hg ..
  · rfl

theorem mem_stained {pois : Bool} {sec q : Nat} {s : State} :
    q ∈ (stained pois sec s).memPoison ↔ q ∈ s.memPoison ∨ pois = true ∧ q = sec := by
  cases pois with
  | true => exact (mem_nadd ..).trans (or_congr_right (and_iff_right rfl).symm)
  | false => exact (or_iff_left fun h => absurd h.1 Bool.false_ne_true).symm

theorem spillRun_gddr {s : State} {c : Nat} {pages : List (Nat × Nat × Nat)} {va pa key : Nat} (hp : pagePlace pages va = some (pa, key))
    (ht : target pa = .gddr) (bs : List Byte) (pois : Bool) : spillRun c pages s va bs pois = stained pois (pa / 256)
      (watchHome (homeWrite (atHome s c key pa) key pa bs) pa bs.length (gidOf s.dev c 0) .remoteStore (some c)) := by
  rw [spillRun, hp]
  dsimp only
  rw [ht]
  rfl

theorem fillRun_gddr {s : State} {c : Nat} {pages : List (Nat × Nat × Nat)} {va pa key : Nat} (hp : pagePlace pages va = some (pa, key))
    (ht : target pa = .gddr) (n : Nat) : fillRun c pages s va n =
      (homeBytes (atHome s c key pa) key pa n, (atHome s c key pa).memPoison.contains (pa / 256), settle (atHome s c key pa) pa n) := by
  rw [fillRun, hp]
  dsimp only
  rw [ht]
  rfl

/-- A part of a core that no watch match, no cache operation and no access of another agent to its banks changes. -/
structure ImageBlind {α : Type} (g : Core → α) : Prop where
  watch : WatchBlind g
  caches : ∀ (k : Core) l1 a n, g { k with l1 := l1, active := a, sent := n } = g k
  banks : ∀ (k : Core) m p, g { k with loc := m, locPoison := p } = g k

section
variable {α : Type} {g : Core → α} (hg : ImageBlind g)
include hg

theorem ImageBlind.writeBack (s : State) (c sec d : Nat) : g ((writeBack s c sec).core d) = g (s.core d) := by
  have hdirty (key base : Nat) (bytes : List Byte) (is : List Nat) (t : State) : (writeDirty key base bytes is t).cores = t.cores := by
    induction is generalizing t with
    | nil => rfl
    | cons i is ih => exact (ih _).trans (rekey_field State.cores (fun _ _ _ _ _ => rfl) ..)
  have hcores (key base : Nat) (bytes : List Byte) (is : List Nat) (line : Nat) (x : Ctx) :
      g ((writeDirty key base bytes is (homeTouch s key line x)).core d) = g (s.core d) :=
    congrArg (fun cs => g (tget Core.reset cs d)) ((hdirty ..).trans (homeTouch_field State.cores (fun _ _ _ _ => rfl) ..))
  unfold Machine.writeBack
  split
  · rfl
  · split
    · rfl
    · exact (core_setCore_field g (hg.caches _ _ _ _) d).trans (hcores ..)

theorem ImageBlind.sendPartial (s : State) (c sec d : Nat) : g ((sendPartial s c sec).core d) = g (s.core d) := by
  unfold Machine.sendPartial sendUpd
  split
  · split
    · exact (core_setCore_field g (hg.caches _ _ _ _) d).trans (core_setCore_field g (hg.caches _ _ _ _) d)
    · rfl
  · rfl

theorem ImageBlind.dropSector (s : State) (c sec d : Nat) : g ((dropSector s c sec).core d) = g (s.core d) :=
  (core_setCore_field g (hg.caches _ _ _ _) d).trans ((hg.sendPartial ..).trans (hg.writeBack ..))

theorem ImageBlind.atHome (s : State) (c key pa d : Nat) : g ((atHome s c key pa).core d) = g (s.core d) :=
  (homeTouch_field (fun t => g (t.core d)) (fun _ _ _ _ => rfl) ..).trans (hg.dropSector ..)

theorem ImageBlind.scratchRuns (c : Nat) (agent : Gid) (acc : Access) (own : Option Nat) (fuel a : Nat) (bs : List Byte) (s : State) (d : Nat) :
    g ((scratchRuns c (fun t a n => watchBank t c a n agent acc own) fuel a bs s).core d) = g (s.core d) := by
  have hrun (t : State) (a n : Nat) (bs : List Byte) : g ((watchBank (locWrite t c a bs) c a n agent acc own).core d) = g (t.core d) :=
    (hg.watch.watchBank ..).trans (core_setCore_field g (hg.banks _ _ _) d)
  induction fuel generalizing a bs s with
  | zero => rfl
  | succ fuel ih =>
    have hone : g ((if bs.isEmpty then s else if (s.core c).role (a / 65536) = .scratch then
        watchBank (locWrite s c a (bs.take (65536 - a % 65536))) c a (min (65536 - a % 65536) bs.length) agent acc own else s).core d) =
        g (s.core d) := by
      split
      · rfl
      · split
        · exact hrun ..
        · rfl
    rw [Machine.scratchRuns]
    split
    · exact hone
    · exact (ih ..).trans hone

theorem ImageBlind.remoteWrite (s : State) (c a : Nat) (bs : List Byte) (agent : Gid) (acc : Access) (own : Option Nat) (d : Nat) :
    g ((remoteWrite s c a bs agent acc own).core d) = g (s.core d) :=
  (hg.scratchRuns ..).trans (count_core_field g hg.watch.counts ..)

theorem ImageBlind.spillRun (c : Nat) (pages : List (Nat × Nat × Nat)) (s : State) (va : Nat) (bs : List Byte) (pois : Bool) (d : Nat) :
    g ((spillRun c pages s va bs pois).core d) = g (s.core d) := by
  cases hp : pagePlace pages va with
  | none => rw [Machine.spillRun, hp]
  | some p =>
    obtain ⟨pa, key⟩ := p
    cases ht : target pa with
    | gddr =>
      rw [spillRun_gddr hp ht, stained_field (State.core · d) fun _ _ => rfl]
      exact (hg.watch.watchWrite ..).trans ((homeWrite_field (fun t => g (t.core d)) (fun _ _ _ _ _ => rfl) ..).trans (hg.atHome ..))
    | window dev core loc =>
      rw [Machine.spillRun, hp]
      dsimp only
      rw [ht]
      dsimp only
      split
      · split
        · exact (core_setCore_field g (hg.banks _ _ _) d).trans (hg.remoteWrite ..)
        · exact hg.remoteWrite ..
      · split
        · rw [toDevice_core, toDevice_core]
        · rw [toDevice_core]
    | host =>
      rw [Machine.spillRun, hp]
      dsimp only
      rw [ht]
      cases pois <;> rfl
    | none =>
      rw [Machine.spillRun, hp]
      dsimp only
      rw [ht]

theorem ImageBlind.spillRuns (c : Nat) (pages : List (Nat × Nat × Nat)) (pois : Nat → Bool) (base : Nat) (runs : List (Nat × Nat)) (bs : List Byte)
    (s : State) (d : Nat) : g ((spillRuns c pages pois base runs bs s).core d) = g (s.core d) := by
  induction runs generalizing bs s with
  | nil => rfl
  | cons r runs ih => exact (ih ..).trans (hg.spillRun ..)

theorem ImageBlind.fillRun (c : Nat) (pages : List (Nat × Nat × Nat)) (s : State) (va n d : Nat) :
    g ((fillRun c pages s va n).2.2.core d) = g (s.core d) := by
  cases hp : pagePlace pages va with
  | none => rw [Machine.fillRun, hp]
  | some p =>
    obtain ⟨pa, key⟩ := p
    cases ht : target pa with
    | gddr =>
      rw [fillRun_gddr hp ht]
      exact (settle_field (fun t => g (t.core d)) (fun _ _ _ _ _ => rfl) ..).trans (hg.atHome ..)
    | window dev core loc =>
      rw [Machine.fillRun, hp]
      dsimp only
      rw [ht]
      dsimp only
      split
      · exact count_core_field g hg.watch.counts ..
      · rfl
    | host | none =>
      rw [Machine.fillRun, hp]
      dsimp only
      rw [ht]
      rfl

theorem ImageBlind.fillRuns (c : Nat) (pages : List (Nat × Nat × Nat)) (runs : List (Nat × Nat)) (s : State) (d : Nat) :
    g ((fillRuns c pages runs s).2.2.core d) = g (s.core d) := by
  induction runs generalizing s with
  | nil => rfl
  | cons r runs ih => exact (ih _).trans (hg.fillRun ..)

end

/-! ## The places of an image (R259, R261) -/

/-- The first `n` bytes from `base` on lie at `place` among the pages, in GDDR 7, each under the key that its sector was written under. -/
def LiesAt (s : State) (pages : List (Nat × Nat × Nat)) (base n : Nat) (place : Nat → Nat) : Prop :=
  ∀ i, i < n → ∃ key, pagePlace pages (base + i) = some (place i, key) ∧ isGddr (place i) = true ∧ KeyHolds s key (place i / 256)

theorem pagePlace_add {pages : List (Nat × Nat × Nat)} {va i : Nat} (hv : va % 256 = 0) (hi : i < 256) :
    pagePlace pages (va + i) = (pagePlace pages va).map fun p => (p.1 + i, p.2) := by
  have hpage : (va + i) / 4096 = va / 4096 := by omega
  have hoff : (va + i) % 4096 = va % 4096 + i := by omega
  rw [pagePlace, pagePlace, hpage, hoff]
  cases pages.find? fun p => p.1 == va / 4096 with
  | none => rfl
  | some p => simp only [Option.map_some, Nat.add_assoc]

section
variable {s : State} {pages : List (Nat × Nat × Nat)} {base n : Nat} {place : Nat → Nat} (hl : LiesAt s pages base n place)
  (hb : base % 256 = 0)
include hl hb

/-- The bytes of a sector of the image lie one after another. -/
theorem LiesAt.add {o i : Nat} (ho : o % 256 = 0) (hi : i < 256) (hn : o + i < n) : place (o + i) = place o + i := by
  obtain ⟨key, hp, -, -⟩ := hl o (by omega)
  obtain ⟨key', hp', -, -⟩ := hl (o + i) hn
  rw [← Nat.add_assoc, pagePlace_add (by omega) hi, hp, Option.map_some, Option.some_inj] at hp'
  exact (congrArg (·.1) hp').symm

/-- A sector of the image is a sector of memory. -/
theorem LiesAt.aligned {o : Nat} (ho : o % 256 = 0) (hn : o < n) : place o % 256 = 0 := by
  obtain ⟨key, hp, -, -⟩ := hl o hn
  obtain ⟨p, -, hp⟩ := Option.map_eq_some_iff.1 hp
  have hpa : p.2.1 * 4096 + (base + o) % 4096 = place o := congrArg (·.1) hp
  omega

theorem LiesAt.sector {i : Nat} (hn : i < n) : place i / 256 * 256 = place (i / 256 * 256) := by
  have ha := hl.aligned hb (o := i / 256 * 256) (by omega) (by omega)
  have hi := hl.add hb (o := i / 256 * 256) (i := i % 256) (by omega) (by omega) (by omega)
  rw [show i / 256 * 256 + i % 256 = i by omega] at hi
  omega

theorem LiesAt.sector_inj (hinj : ∀ i j, i < n → j < n → place i = place j → i = j) {i j : Nat} (hi : i < n) (hj : j < n)
    (h : place i / 256 = place j / 256) : i / 256 = j / 256 := by
  have h' := hinj _ _ (by omega) (by omega) ((hl.sector hb hi).symm.trans ((congrArg (· * 256) h).trans (hl.sector hb hj)))
  omega

end

/-! ## Sectors at the home (R260-R262) -/

/-- An access of the matrix side to memory changes no core, no watchpoint and no key. -/
structure KeepsCores (s t : State) : Prop where
  core : ∀ d, t.core d = s.core d
  watches : t.watches = s.watches
  keyTag : t.keyTag = s.keyTag
  keyGen : t.keyGen = s.keyGen

theorem KeepsCores.trans {s t u : State} (h : KeepsCores s t) (g : KeepsCores t u) : KeepsCores s u where
  core d := (g.core d).trans (h.core d)
  watches := g.watches.trans h.watches
  keyTag := g.keyTag.trans h.keyTag
  keyGen := g.keyGen.trans h.keyGen

theorem KeepsCores.keyHolds {s t : State} (h : KeepsCores s t) {key sec : Nat} (hk : KeyHolds s key sec) : KeyHolds t key sec := by
  rw [KeyHolds, keyNow, h.keyTag, h.keyGen]
  exact hk

theorem KeepsCores.liesAt {s t : State} (h : KeepsCores s t) {pages : List (Nat × Nat × Nat)} {base n : Nat} {place : Nat → Nat}
    (hl : LiesAt s pages base n place) : LiesAt t pages base n place := fun i hi => by
  obtain ⟨key, hp, hgddr, hk⟩ := hl i hi
  exact ⟨key, hp, hgddr, h.keyHolds hk⟩

/-- No sector of core `c`'s L1 and no watchpoint is met. -/
def Unmet (s : State) (c : Nat) : Prop := (s.core c).l1 = [] ∧ s.watches = []

theorem KeepsCores.unmet {s t : State} (h : KeepsCores s t) {c : Nat} (hu : Unmet s c) : Unmet t c := by
  rw [Unmet, h.core, h.watches]
  exact hu

theorem target_of_isGddr {pa : Nat} (h : isGddr pa = true) : target pa = .gddr := by
  rw [isGddr, beq_iff_eq] at h
  exact h

/-- A sector that the L1 does not hold is dropped by nothing. -/
theorem dropSector_nil {s : State} {c : Nat} (h : (s.core c).l1 = []) (sec : Nat) :
    dropSector s c sec = s.setCore c (s.core c) := by
  have hw : writeBack s c sec = s := by simp only [writeBack, h, tfind]
  have hp : sendPartial s c sec = s := by simp only [sendPartial, h, tfind]
  have hk : ({ s.core c with l1 := tdel (s.core c).l1 sec } : Core) = s.core c := by rw [h, tdel, ← h]
  rw [dropSector, hw, hp]
  exact congrArg (s.setCore c) hk

section
variable {s : State} {c : Nat} (hu : Unmet s c) (key pa : Nat)
include hu

theorem atHome_field {α : Type} (g : State → α) (hg : ∀ (s : State) l f d, g { s with llc := l, fsums := f, draws := d } = g s) :
    g (atHome s c key pa) = g (s.setCore c (s.core c)) := by
  rw [atHome, homeTouch_field g hg, dropSector_nil hu.1]

theorem keepsCores_atHome : KeepsCores s (atHome s c key pa) where
  core d := (atHome_field hu key pa (State.core · d) fun _ _ _ _ => rfl).trans (core_setCore_field id rfl d)
  watches := atHome_field hu key pa State.watches fun _ _ _ _ => rfl
  keyTag := atHome_field hu key pa State.keyTag fun _ _ _ _ => rfl
  keyGen := atHome_field hu key pa State.keyGen fun _ _ _ _ => rfl

theorem atHome_mem : (atHome s c key pa).mem = s.mem := atHome_field hu key pa State.mem fun _ _ _ _ => rfl

theorem atHome_memPoison : (atHome s c key pa).memPoison = s.memPoison := atHome_field hu key pa State.memPoison fun _ _ _ _ => rfl

end

/-! ## MSPILL: the image is written (R259, R262) -/

theorem spillRun_unmet {s : State} {c : Nat} (hu : Unmet s c) {pages : List (Nat × Nat × Nat)} {va pa key : Nat}
    (hp : pagePlace pages va = some (pa, key)) (hgddr : isGddr pa = true) (bs : List Byte) (pois : Bool) :
    spillRun c pages s va bs pois = stained pois (pa / 256) (homeWrite (atHome s c key pa) key pa bs) := by
  have hw : (homeWrite (atHome s c key pa) key pa bs).watches = [] :=
    (homeWrite_field State.watches (fun _ _ _ _ _ => rfl) ..).trans ((keepsCores_atHome hu key pa).watches.trans hu.2)
  rw [spillRun_gddr hp (target_of_isGddr hgddr), watchHome_of_no_watch hw]

theorem homeWrite_keyed {s : State} {key a : Nat} {bs : List Byte} (h : ∀ q ∈ sectorsOf a bs.length, KeyHolds s key q) :
    KeepsCores s (homeWrite s key a bs) := by
  have hs : homeWrite s key a bs = { settle s a bs.length with
      mem := memWrite s.mem a bs
      memPoison := s.memPoison.filter fun q => !(wholeSectors a bs.length).contains q } := by
    simp only [homeWrite, foldl_rekey_of_keyHolds h, settle]
  rw [hs]
  exact ⟨fun _ => rfl, rfl, rfl, rfl⟩

/-- A write of whole sectors clears their poison (R276). -/
theorem mem_homeWrite_memPoison {s : State} {key a : Nat} {bs : List Byte} (h : ∀ q ∈ sectorsOf a bs.length, KeyHolds s key q) (q : Nat) :
    q ∈ (homeWrite s key a bs).memPoison ↔ q ∈ s.memPoison ∧ ¬(a ≤ q * 256 ∧ q * 256 + 256 ≤ a + bs.length) := by
  have hp : (homeWrite s key a bs).memPoison = s.memPoison.filter fun q => !(wholeSectors a bs.length).contains q := by
    simp only [homeWrite, foldl_rekey_of_keyHolds h, settle]
  rw [hp, List.mem_filter, Bool.not_eq_true', ← Bool.not_eq_true, List.contains_iff_mem, mem_wholeSectors]

/-- From `s` to `t` the bytes `bs` of an image have been written at the places from offset `o` on, and the sectors that they fill are poisoned
where `pois` says so. -/
structure ImageWritten (place : Nat → Nat) (pois : Nat → Bool) (o : Nat) (bs : List Byte) (s t : State) : Prop where
  keeps : KeepsCores s t
  bytes : ∀ i, i < bs.length → memByte t.mem (place (o + i)) = bs.getD i 0
  others : ∀ a, (∀ i, i < bs.length → place (o + i) ≠ a) → memByte t.mem a = memByte s.mem a
  poison : ∀ i, i / 256 * 256 + 256 ≤ bs.length → (place (o + i) / 256 ∈ t.memPoison ↔ pois (o + i / 256 * 256) = true)
  clean : ∀ q, (∀ i, i < bs.length → place (o + i) / 256 ≠ q) → (q ∈ t.memPoison ↔ q ∈ s.memPoison)

section
variable {s : State} {c : Nat} {pages : List (Nat × Nat × Nat)} {base n : Nat} {place : Nat → Nat} {o : Nat} (hb : base % 256 = 0) (ho : o % 256 = 0)

include hb ho

theorem imageWritten_spillRun (hu : Unmet s c) (hl : LiesAt s pages base n place) {bs : List Byte} (h0 : 0 < bs.length)
    (h256 : bs.length ≤ 256) (hn : o + bs.length ≤ n) (pois : Nat → Bool) :
    ImageWritten place pois o bs s (spillRun c pages s (base + o) bs (pois o)) := by
  obtain ⟨key, hp, hgddr, hk⟩ := hl o (by omega)
  have hal := hl.aligned hb ho (by omega)
  have hadd : ∀ i, i < bs.length → place (o + i) = place o + i := fun i hi => hl.add hb ho (by omega) (by omega)
  have hat := keepsCores_atHome hu key (place o)
  have hkeys : ∀ q ∈ sectorsOf (place o) bs.length, KeyHolds (atHome s c key (place o)) key q := fun q hq => by
    have hq' := (mem_sectorsOf h0).1 hq
    rw [show q = place o / 256 by omega]
    exact hat.keyHolds hk
  rw [spillRun_unmet hu hp hgddr]
  generalize hw : homeWrite (atHome s c key (place o)) key (place o) bs = w
  have hkeeps : KeepsCores s w := hw ▸ hat.trans (homeWrite_keyed hkeys)
  have hmem : (stained (pois o) (place o / 256) w).mem = memWrite s.mem (place o) bs := by
    rw [stained_field State.mem fun _ _ => rfl, ← hw, homeWrite_mem hkeys, atHome_mem hu]
  have hpois (q : Nat) : q ∈ (stained (pois o) (place o / 256) w).memPoison ↔
      (q ∈ s.memPoison ∧ ¬(place o ≤ q * 256 ∧ q * 256 + 256 ≤ place o + bs.length)) ∨ pois o = true ∧ q = place o / 256 := by
    rw [mem_stained, ← hw, mem_homeWrite_memPoison hkeys, atHome_memPoison hu]
  refine ⟨hkeeps.trans ?_, fun i hi => ?_, fun a ha => ?_, fun i hi => ?_, fun q hq => ?_⟩
  · exact ⟨fun d => stained_field (State.core · d) (fun _ _ => rfl) .., stained_field State.watches (fun _ _ => rfl) ..,
      stained_field State.keyTag (fun _ _ => rfl) .., stained_field State.keyGen (fun _ _ => rfl) ..⟩
  · rw [hmem, hadd i hi, memByte_memWrite, if_pos (by omega), Nat.add_sub_cancel_left]
  · rw [hmem, memByte_memWrite, if_neg fun h => ha (a - place o) (by omega) ((hadd _ (by omega)).trans (by omega))]
  · rw [hpois, hadd i (by omega), show o + i / 256 * 256 = o by omega]
    constructor
    · rintro (⟨-, h⟩ | ⟨h, -⟩)
      · omega
      · exact h
    · exact fun h => .inr ⟨h, by omega⟩
  · have hq0 : place o / 256 ≠ q := hq 0 h0
    rw [hpois]
    constructor
    · rintro (⟨h, -⟩ | ⟨-, h⟩)
      · exact h
      · exact absurd h.symm hq0
    · exact fun h => .inl ⟨h, by omega⟩

end

/-- A sector, and then the bytes that follow it. -/
theorem ImageWritten.append {s u t : State} {pages : List (Nat × Nat × Nat)} {base n o : Nat} {place : Nat → Nat} {pois : Nat → Bool}
    {bs cs : List Byte} (hl : LiesAt s pages base n place) (hb : base % 256 = 0) (ho : o % 256 = 0)
    (hinj : ∀ i j, i < n → j < n → place i = place j → i = j) (h256 : bs.length = 256) (hn : o + 256 + cs.length ≤ n)
    (h : ImageWritten place pois o bs s u) (g : ImageWritten place pois (o + 256) cs u t) : ImageWritten place pois o (bs ++ cs) s t := by
  have hsec {i j : Nat} (hi : i < 256) (hj : j < cs.length) : place (o + 256 + j) / 256 ≠ place (o + i) / 256 := fun e => by
    have := hl.sector_inj hb hinj (by omega) (by omega) e
    omega
  refine ⟨h.keeps.trans g.keeps, fun i hi => ?_, fun a ha => ?_, fun i hi => ?_, fun q hq => ?_⟩
  · rw [List.length_append] at hi
    by_cases hlt : i < 256
    · rw [List.getD_append _ _ _ _ (by omega), ← h.bytes i (by omega)]
      exact g.others _ fun j hj e => hsec hlt hj (congrArg (· / 256) e)
    · rw [List.getD_append_right _ _ _ _ (by omega), h256, ← g.bytes (i - 256) (by omega), show o + 256 + (i - 256) = o + i by omega]
  · rw [List.length_append] at ha
    rw [g.others a fun i hi => by rw [Nat.add_assoc]; exact ha (256 + i) (by omega), h.others a fun i hi => ha i (by omega)]
  · rw [List.length_append] at hi
    by_cases hlt : i < 256
    · rw [g.clean _ fun j hj => hsec hlt hj]
      exact h.poison i (by omega)
    · obtain ⟨j, rfl⟩ : ∃ j, i = 256 + j := ⟨i - 256, by omega⟩
      have hj : (256 + j) / 256 * 256 = 256 + j / 256 * 256 := by omega
      rw [hj] at hi
      rw [hj, ← Nat.add_assoc, ← Nat.add_assoc]
      exact g.poison j (by omega)
  · rw [List.length_append] at hq
    have hcs : ∀ i, i < cs.length → place (o + 256 + i) / 256 ≠ q := fun i hi => by
      have := hq (256 + i) (by omega)
      rwa [← Nat.add_assoc] at this
    rw [g.clean q hcs, h.clean q fun i hi => hq i (by omega)]

theorem sectorRuns_last {f a n : Nat} (ha : a % 256 = 0) (hn : n ≤ 256) : sectorRuns (f + 1) a n = [(a, n)] := by
  rw [sectorRuns, ha]
  exact if_pos hn

theorem sectorRuns_more {f a n : Nat} (ha : a % 256 = 0) (hn : ¬n ≤ 256) :
    sectorRuns (f + 1) a n = (a, 256) :: sectorRuns f (a + 256) (n - 256) := by
  rw [sectorRuns, ha]
  exact if_neg hn

/-- R260, R262: the bytes from an offset on, sector after sector. -/
theorem imageWritten_spillRuns {c : Nat} {pages : List (Nat × Nat × Nat)} {base n : Nat} {place : Nat → Nat} (hb : base % 256 = 0)
    (hinj : ∀ i j, i < n → j < n → place i = place j → i = j) (pois : Nat → Bool) {f o : Nat} {s : State} {bs : List Byte} (ho : o % 256 = 0)
    (h0 : 0 < bs.length) (hf : bs.length ≤ 256 * f) (hn : o + bs.length = n) (hu : Unmet s c) (hl : LiesAt s pages base n place) :
    ImageWritten place pois o bs s (spillRuns c pages pois base (sectorRuns f (base + o) bs.length) bs s) := by
  have hoff : base + o - base = o := Nat.add_sub_cancel_left ..
  induction f generalizing o s bs with
  | zero => omega
  | succ f ih =>
    by_cases hlast : bs.length ≤ 256
    · rw [sectorRuns_last (by omega) hlast, spillRuns, spillRuns, hoff, List.take_length]
      exact imageWritten_spillRun hb ho hu hl h0 hlast (by omega) pois
    · have htake : (bs.take 256).length = 256 := by rw [List.length_take]; omega
      have hdrop : (bs.drop 256).length = bs.length - 256 := List.length_drop
      have hfirst := imageWritten_spillRun (bs := bs.take 256) hb ho hu hl (by omega) (by omega) (by omega) pois
      have hrest := ih (o := o + 256) (bs := bs.drop 256) (by omega) (by omega) (by omega) (by omega) (hfirst.keeps.unmet hu)
        (hfirst.keeps.liesAt hl) (by omega)
      rw [sectorRuns_more (by omega) hlast, spillRuns, hoff, ← hdrop, Nat.add_assoc base]
      have := hfirst.append hl hb ho hinj htake (by omega) hrest
      rwa [List.take_append_drop] at this

/-! ## MFILL: the image is read (R260) -/

/-- An access that reads memory. -/
structure OnlyReads (s t : State) : Prop where
  keeps : KeepsCores s t
  mem : t.mem = s.mem
  memPoison : t.memPoison = s.memPoison

theorem onlyReads_atHome {s : State} {c : Nat} (hu : Unmet s c) (key pa : Nat) : OnlyReads s (atHome s c key pa) :=
  ⟨keepsCores_atHome hu key pa, atHome_mem hu key pa, atHome_memPoison hu key pa⟩

/-- A fill has read `n` bytes of an image from offset `o` on, with the poison that it met. -/
structure ImageRead (place : Nat → Nat) (o n : Nat) (s : State) (r : List Byte × Bool × State) : Prop where
  reads : OnlyReads s r.2.2
  bytes : r.1 = (List.range n).map fun i => memByte s.mem (place (o + i))
  poison : r.2.1 = true ↔ ∃ i, i < n ∧ place (o + i) / 256 ∈ s.memPoison

theorem imageRead_fillRun {s : State} {c : Nat} {pages : List (Nat × Nat × Nat)} {base n m o : Nat} {place : Nat → Nat} (hb : base % 256 = 0)
    (ho : o % 256 = 0) (hu : Unmet s c) (hl : LiesAt s pages base n place) (h0 : 0 < m) (h256 : m ≤ 256) (hn : o + m ≤ n) :
    ImageRead place o m s (fillRun c pages s (base + o) m) := by
  obtain ⟨key, hp, hgddr, hk⟩ := hl o (by omega)
  have hal := hl.aligned hb ho (by omega)
  have hadd : ∀ i, i < m → place (o + i) = place o + i := fun i hi => hl.add hb ho (by omega) (by omega)
  obtain ⟨hkeeps, hmem, hpois⟩ := onlyReads_atHome hu key (place o)
  have hr : fillRun c pages s (base + o) m = (homeBytes (atHome s c key (place o)) key (place o) m,
      (atHome s c key (place o)).memPoison.contains (place o / 256), settle (atHome s c key (place o)) (place o) m) :=
    fillRun_gddr hp (target_of_isGddr hgddr) m
  rw [hr]
  generalize atHome s c key (place o) = u at hkeeps hmem hpois
  refine ⟨⟨⟨hkeeps.core, hkeeps.watches, hkeeps.keyTag, hkeeps.keyGen⟩, hmem, hpois⟩, ?_, ?_⟩
  · rw [homeBytes_eq_map]
    refine List.map_congr_left fun i hi => ?_
    have hi' := List.mem_range.1 hi
    rw [homeByte_of_keyHolds (hkeeps.keyHolds hk) (by omega), hmem, hadd i hi']
  · rw [hpois, List.contains_iff_mem]
    refine ⟨fun h => ⟨0, h0, h⟩, fun ⟨i, hi, h⟩ => ?_⟩
    rwa [hadd i hi, show (place o + i) / 256 = place o / 256 by omega] at h

/-- R260: the bytes from an offset on, sector after sector. -/
theorem imageRead_fillRuns {c : Nat} {pages : List (Nat × Nat × Nat)} {base n : Nat} {place : Nat → Nat} (hb : base % 256 = 0) {f o m : Nat} {s : State}
    (ho : o % 256 = 0) (h0 : 0 < m) (hf : m ≤ 256 * f) (hn : o + m ≤ n) (hu : Unmet s c) (hl : LiesAt s pages base n place) :
    ImageRead place o m s (fillRuns c pages (sectorRuns f (base + o) m) s) := by
  induction f generalizing o s m with
  | zero => omega
  | succ f ih =>
    by_cases hlast : m ≤ 256
    · obtain ⟨hreads, hbytes, hpois⟩ := imageRead_fillRun hb ho hu hl h0 hlast hn
      rw [sectorRuns_last (by omega) hlast, fillRuns, fillRuns]
      refine ⟨hreads, (List.append_nil _).trans hbytes, ?_⟩
      rw [Bool.or_false]
      exact hpois
    · obtain ⟨⟨hkeeps, hmem, hmp⟩, hbytes, hpois⟩ := imageRead_fillRun (m := 256) hb ho hu hl (by omega) (by omega) (by omega)
      obtain ⟨⟨hkeeps', hmem', hmp'⟩, hbytes', hpois'⟩ := ih (o := o + 256) (m := m - 256) (by omega) (by omega) (by omega) (by omega)
        (hkeeps.unmet hu) (hkeeps.liesAt hl)
      rw [sectorRuns_more (by omega) hlast, fillRuns, Nat.add_assoc base]
      refine ⟨⟨hkeeps.trans hkeeps', hmem'.trans hmem, hmp'.trans hmp⟩, ?_, ?_⟩
      · dsimp only
        rw [hbytes, hbytes', hmem]
        obtain ⟨k, rfl⟩ : ∃ k, m = 256 + k := ⟨m - 256, by omega⟩
        simp only [Nat.add_sub_cancel_left, List.range_add, List.map_append, List.map_map, Function.comp_def, Nat.add_assoc]
      · rw [Bool.or_eq_true, hpois, hpois', hmp]
        constructor
        · rintro (⟨i, hi, h⟩ | ⟨i, hi, h⟩)
          · exact ⟨i, by omega, h⟩
          · exact ⟨256 + i, by omega, by rwa [← Nat.add_assoc]⟩
        · rintro ⟨i, hi, h⟩
          by_cases hlt : i < 256
          · exact .inl ⟨i, hlt, h⟩
          · exact .inr ⟨i - 256, by omega, by rwa [show o + 256 + (i - 256) = o + i by omega]⟩

end Sys2Proof.Machine

/-! # The matrix unit: MLDB, MSPILL and MFILL (R161, R253, R259-R262, R401) -/

namespace Sys2Proof.Machine

open Sys2Proof

/-! ## MLDB (R253) -/

theorem wideExecute_mldb {s : State} {c : Nat} {e : WEntry} {rest : List WEntry} {rs1 rs2 : Reg} {ft : BitVec 4} {bank : BitVec 3}
    {row0 nrm1 : BitVec 10} {sc : BitVec 1} (hh : HeadIs s c e rest) (hi : e.i = .mldb rs1 rs2 ft bank row0 sc nrm1) :
    exec (.wideExecute c) s = .next (popHead (mldbExec (wideCycles s c) c e ft bank row0 sc nrm1) c) := by
  obtain ⟨hrun, hq⟩ := hh
  obtain ⟨i, v1, v2, rm, x1, x2, x3, x4, x5, x6, x7, x8, x9, x10⟩ := e
  subst hi
  rw [exec_wideExecute, execWideExecute, wideReady, wideRuns, hrun, hq]
  rfl

/-- Of its core, a write of the matrix side to a bank changes the bytes there and the poison of their sectors, but for watch matches. -/
theorem bankWrite_core_field {α : Type} {g : Core → α} (hw : WatchBlind g) (hb : ∀ (k : Core) m p, g { k with loc := m, locPoison := p } = g k)
    (s : State) (c a : Nat) (bs : List Byte) (d : Nat) : g ((bankWrite s c a bs).core d) = g (s.core d) :=
  (hw.watchBank ..).trans (core_setCore_field g (hb _ _ _) d)

theorem bankWrite_loc (s : State) (c a : Nat) (bs : List Byte) : ((bankWrite s c a bs).core c).loc = memWrite (s.core c).loc a bs := by
  have hw : WatchBlind Core.loc := fun _ _ _ _ _ _ _ => rfl
  rw [bankWrite, hw.watchBank, locWrite, State.core_updCore, if_pos rfl]

theorem bankWrite_mem (s : State) (c a : Nat) (bs : List Byte) : (bankWrite s c a bs).mem = s.mem := watchBank_mem ..

/-- Of its core, MLDB changes bytes, poison, the tag and the sidecar, but for watch matches. -/
theorem mldbExec_core_field {α : Type} {g : Core → α} (hw : WatchBlind g) (hb : ∀ (k : Core) m p, g { k with loc := m, locPoison := p } = g k)
    (ht : ∀ (k : Core) t m, g { k with tags := t, sidecar := m } = g k) (s : State) (c : Nat) (e : WEntry) (ft : BitVec 4) (bank : BitVec 3)
    (row0 : BitVec 10) (sc : BitVec 1) (nrm1 : BitVec 10) : g ((mldbExec s c e ft bank row0 sc nrm1).core c) = g (s.core c) := by
  rw [mldbExec, State.core_updCore, if_pos rfl]
  exact (ht ..).trans (bankWrite_core_field hw hb ..)

theorem mldbLoadsTheBank : MldbLoadsTheBank := by
  intro s c e rest rs1 rs2 ft bank row0 nrm1 sc b at_ n hh hi
  obtain ⟨-, hq⟩ := id hh
  refine ⟨_, wideExecute_mldb hh hi, ?_, fun a => ?_, fun q => ?_, ?_, ?_⟩
  · rw [popHead_wide]
    dsimp only
    rw [mldbExec_core_field (g := Core.wide) (fun _ _ _ _ _ _ _ => rfl) (fun _ _ _ => rfl) (fun _ _ _ => rfl), wideCycles_wide, hq, List.tail_cons]
  · have hloc : ((mldbExec (wideCycles s c) c e ft bank row0 sc nrm1).core c).loc =
        memWrite (s.core c).loc at_ (memRead (s.core c).loc (e.v1.toNat % 2 ^ 21) n) := by
      rw [mldbExec, State.core_updCore, if_pos rfl]
      refine (bankWrite_loc ..).trans ?_
      rw [wideCycles_loc]
    rw [locByte, popHead_loc, hloc, memByte_memWrite, memRead_length]
    split
    next h => exact memRead_getD _ _ _ _ (by omega)
    next => rfl
  · have htags : ((mldbExec (wideCycles s c) c e ft bank row0 sc nrm1).core c).tags = tput (s.core c).tags b ((s.core c).wide.fmt.getD ft.toNat 0) := by
      rw [mldbExec, State.core_updCore, if_pos rfl]
      dsimp only
      rw [bankWrite_core_field (g := Core.tags) (fun _ _ _ _ _ _ _ => rfl) (fun _ _ _ => rfl), wideCycles_wide,
        wideCycles_core_field Core.tags fun _ _ => rfl]
    rw [popHead_core_field Core.tags (fun _ _ => rfl) (fun _ _ => rfl), htags, tget_tput]
  · exact (bankWrite_mem ..).trans rfl
  · rw [popHead_ctx_field Ctx.x fun _ _ => rfl]
    exact congrArg Ctx.x ((mldbExec_core_field (g := (Core.ctx · 0)) (fun _ _ _ _ _ _ _ => rfl) (fun _ _ _ => rfl) (fun _ _ _ => rfl) ..).trans
      (wideCycles_ctx s c 0))

/-! ## MSPILL and MFILL at the head, one bank at a time (R161, R262, R401) -/

/-- The mask that is left has the banks behind the lowest one. -/
theorem maskRest_tail (mask : BitVec 8) :
    maskBanks (maskRest mask) = (maskBanks mask).tail ∧ (maskRest mask = 0 ↔ (maskBanks mask).tail = []) := by
  revert mask
  decide

/-- What is left of an image instruction `f` whose mask has the banks `b` and then `bs`. -/
def imageLeft (e : WEntry) (f : BitVec 8 → Instr) (mask : BitVec 8) (b : Nat) (bs : List Nat) : Option WEntry :=
  if bs = [] then none
  else some { e with
    i := f (mask &&& ~~~((1 : BitVec 8) <<< (b - 24)))
    runs := bs.map (fun q => (q * 65536, 65536)) ++ e.runs.filter (fun q => q.2 != 65536) }

theorem entryRest_image {e : WEntry} {rs1 : Reg} {f : BitVec 8 → Instr} (hf : f = .mspill rs1 ∨ f = .mfill rs1) {mask : BitVec 8} (hi : e.i = f mask)
    {b : Nat} {bs : List Nat} (hm : maskBanks mask = b :: bs) : entryRest e = imageLeft e f mask b bs := by
  obtain ⟨hbanks, hzero⟩ := maskRest_tail mask
  rw [hm, List.tail_cons] at hbanks hzero
  have hrest : maskRest mask = mask &&& ~~~((1 : BitVec 8) <<< (b - 24)) := by
    rw [maskRest, hm]
    rfl
  have h : entryRest e = if maskRest mask = 0 then none else some { e with
      i := f (maskRest mask), runs := ((maskBanks (maskRest mask)).map fun b => (b * 65536, 65536)) ++ e.runs.filter fun q => q.2 != 65536 } := by
    unfold entryRest
    rcases hf with rfl | rfl <;> rw [hi]
  rw [h, imageLeft, hbanks, hrest]
  simp only [← hrest, hzero]

/-- The head of the queue gives way to what is left of it, or leaves the queue; whatever waited for it looks again. -/
def headDone (s : State) (c : Nat) : Option WEntry → State
  | some q => (setHead s c q).updCore c fun k => k.wakeIf fun w => match w with
    | .overlap _ _ _ => true
    | _ => false
  | none => popHead s c

theorem headDone_core_field {α : Type} (g : Core → α) (hq : ∀ (k : Core) q, g { k with wide := { k.wide with queue := q } } = g k)
    (hc : ∀ (k : Core) cs, g { k with ctxs := cs } = g k) (s : State) (c : Nat) (r : Option WEntry) : g ((headDone s c r).core c) = g (s.core c) := by
  cases r with
  | none => exact popHead_core_field g hq hc s c
  | some q =>
    rw [headDone, State.core_updCore, if_pos rfl, setHead, State.core_updCore, if_pos rfl]
    exact (hc ..).trans (hq ..)

theorem headDone_queue (s : State) (c : Nat) (r : Option WEntry) :
    ((headDone s c r).core c).wide.queue = r.toList ++ (s.core c).wide.queue.tail := by
  cases r with
  | none => rw [headDone, popHead_wide]; rfl
  | some q => rw [headDone, State.core_updCore, if_pos rfl, setHead, State.core_updCore, if_pos rfl]; rfl

theorem headDone_x (s : State) (c x : Nat) (r : Option WEntry) : ((headDone s c r).ctx c x).x = (s.ctx c x).x := by
  cases r with
  | none => exact popHead_ctx_field Ctx.x (fun _ _ => rfl) ..
  | some q =>
    rw [State.ctx, headDone, State.core_updCore, if_pos rfl, setHead, State.core_updCore, if_pos rfl]
    exact tget_wakeCtxs_field Ctx.x (fun _ _ => rfl) ..

theorem headDone_mem (s : State) (c : Nat) (r : Option WEntry) : (headDone s c r).mem = s.mem := by
  cases r <;> rfl

theorem headDone_memPoison (s : State) (c : Nat) (r : Option WEntry) : (headDone s c r).memPoison = s.memPoison := by
  cases r <;> rfl

theorem imageBusy_of_no_store {k : Core} (h : ∀ q ∈ k.stbuf, q.ctx ≠ 0) (e : WEntry) : imageBusy k e = false := by
  rw [imageBusy, List.any_eq_false]
  intro q hq
  rw [beq_eq_false_iff_ne.2 (h q hq), Bool.false_and]
  exact Bool.false_ne_true

/-- An image instruction at the head, with no buffered store of its context, does its lowest bank by `act`. -/
theorem wideExecute_image {s : State} {c : Nat} {e : WEntry} {rest : List WEntry} (hh : HeadIs s c e rest) (hst : ∀ q ∈ (s.core c).stbuf, q.ctx ≠ 0)
    {rs1 : Reg} {f : BitVec 8 → Instr} {act : State → Nat → State} (hf : f = .mspill rs1 ∧ act = spillBank c e ∨ f = .mfill rs1 ∧ act = fillBank c e)
    {mask : BitVec 8} (hi : e.i = f mask) {b : Nat} {bs : List Nat} (hm : maskBanks mask = b :: bs) :
    exec (.wideExecute c) s = .next (headDone (act (wideCycles s c) b) c (imageLeft e f mask b bs)) := by
  have hrest := entryRest_image (hf.imp And.left And.left) hi hm
  have hready : wideReady s c = true := by
    obtain ⟨hrun, hq⟩ := hh
    rw [wideReady, wideRuns, hrun, hq]
    rcases hf with ⟨rfl, -⟩ | ⟨rfl, -⟩ <;> simp only [List.head?_cons, hi, imageBusy_of_no_store hst, Bool.not_false, Bool.and_self]
  have hexec : entryExec s c e = act (wideCycles s c) b := by
    rcases hf with ⟨rfl, rfl⟩ | ⟨rfl, rfl⟩ <;> simp only [entryExec, hi, isWForm, hm, List.head?_cons, Option.elim_some] <;> rfl
  rw [exec_wideExecute, execWideExecute, hready, hh.2]
  dsimp only [List.head?_cons]
  rw [hrest, hexec]
  cases imageLeft e f mask b bs <;> rfl

/-! ## The bytes of an image (R259) -/

section
variable (k : Core) (b : Nat)

theorem length_bankImage : (bankImage k b).length = 0x10810 := by
  simp only [bankImage, List.length_append, memRead_length, length_bytesOfNat, List.length_replicate]

theorem bankImage_data {i : Nat} (h : i < 65536) : (bankImage k b).getD i 0 = memByte k.loc (b * 65536 + i) := by
  rw [bankImage, List.append_assoc, List.append_assoc, List.getD_append _ _ _ _ (by rwa [memRead_length]), memRead_getD _ _ _ _ h]

theorem bankImage_sidecar {i : Nat} (h : i < 2048) : (bankImage k b).getD (0x10000 + i) 0 = memByte k.sidecar (b * 2048 + i) := by
  rw [bankImage, List.append_assoc, List.append_assoc, List.getD_append_right _ _ _ _ (by rw [memRead_length]; omega), memRead_length,
    Nat.add_sub_cancel_left, List.getD_append _ _ _ _ (by rwa [memRead_length]), memRead_getD _ _ _ _ h]

/-- The tag and the zero bytes behind it are 16 bytes of the tag's number. -/
theorem bankImage_tag {i : Nat} (h : i < 16) : (bankImage k b).getD (0x10800 + i) 0 = BitVec.ofNat 8 ((tget 0 k.tags b).toNat / 2 ^ (8 * i)) := by
  have hlen : (memRead k.loc (b * 65536) 65536 ++ memRead k.sidecar (b * 2048) 2048).length = 0x10800 := by
    rw [List.length_append, memRead_length, memRead_length]
  rw [bankImage, List.append_assoc, List.getD_append_right _ _ _ _ (by rw [hlen]; omega), hlen, Nat.add_sub_cancel_left]
  by_cases h4 : i < 4
  · rw [List.getD_append _ _ _ _ (by rwa [length_bytesOfNat]), getD_bytesOfNat h4]
  · have hz : (tget 0 k.tags b).toNat / 2 ^ (8 * i) = 0 :=
      Nat.div_eq_of_lt (Nat.lt_of_lt_of_le (tget 0 k.tags b).isLt (Nat.pow_le_pow_right (by decide) (by omega)))
    rw [List.getD_append_right _ _ _ _ (by rw [length_bytesOfNat]; omega), hz, length_bytesOfNat, List.getD_replicate _ (by omega)]
    rfl

end

/-! ## MSPILL of a bank (R259, R262) -/

/-- Which sectors of an image are poisoned: those of poisoned sectors of the bank. -/
def bankPoison (k : Core) (b off : Nat) : Bool := off < 65536 && k.locPoison.contains ((b * 65536 + off) / 256)

section
variable {s : State} {c : Nat} {e : WEntry} {b : Nat} {place : Nat → Nat}

theorem imageWritten_spillBank (hb : imageBase e.v1.toNat b % 256 = 0) (hu : Unmet s c) (hl : LiesAt s e.pages (imageBase e.v1.toNat b) 0x10810 place)
    (hinj : ∀ i j, i < 0x10810 → j < 0x10810 → place i = place j → i = j) :
    ImageWritten place (bankPoison (s.core c) b) 0 (bankImage (s.core c) b) s (spillBank c e s b) := by
  have hlen := length_bankImage (s.core c) b
  have h := imageWritten_spillRuns (f := 0x10810 / 256 + 2) (o := 0) (n := 0x10810) (bs := bankImage (s.core c) b) hb hinj (bankPoison (s.core c) b) rfl (by omega) (by omega)
    (by omega) hu hl
  rwa [hlen, Nat.add_zero] at h

end

/-- Of every core, a spill of a bank changes what its accesses to memory change. -/
theorem spillBank_core_field {α : Type} {g : Core → α} (hg : ImageBlind g) (s : State) (c : Nat) (e : WEntry) (b d : Nat) :
    g ((spillBank c e s b).core d) = g (s.core d) := hg.spillRuns ..

/-- An entry at the head is counted before it executes, which the places of an image and the home do not see. -/
theorem unmet_wideCycles {s : State} {c : Nat} (hu : Unmet s c) : Unmet (wideCycles s c) c :=
  ⟨(wideCycles_core_field Core.l1 (fun _ _ => rfl) s c).trans hu.1, hu.2⟩

theorem imageBase_mod {e : WEntry} (h : e.v1.toNat % 4096 = 0) (b : Nat) : imageBase e.v1.toNat b % 256 = 0 := by
  rw [imageBase, Nat.mod_mod_of_dvd _ (by decide)]
  show (e.v1.toNat + 0x11000 * (b - 24) : Nat) % 256 = 0
  omega

/-! ## MFILL of a bank (R260) -/

theorem take_drop_map_range {α : Type} (f : Nat → α) {n o m : Nat} (h : o + m ≤ n) :
    (((List.range n).map f).drop o).take m = (List.range m).map fun i => f (o + i) :=
  List.ext_getElem (by simp; omega) fun i h1 h2 => by simp

theorem natOfBytes_eq_zero_iff (bs : List Byte) : natOfBytes bs = 0 ↔ ∀ v ∈ bs, v = 0 := by
  induction bs with
  | nil => simp [natOfBytes]
  | cons v bs ih =>
    have hv : v.toNat = 0 ↔ v = 0 := ⟨fun h => BitVec.eq_of_toNat_eq h, fun h => by rw [h]; rfl⟩
    rw [List.forall_mem_cons, ← ih, ← hv, natOfBytes]
    omega

/-- The tag that an image of bytes `image` brings, unless it brings none (R260). -/
def imageTag (image : Nat → Byte) : Half := BitVec.ofNat 32 (natOfBytes ((List.range 4).map fun i => image (0x10800 + i)))

/-- A core when an image of bytes `image` has been brought into bank `b`; `pois` says whether a poisoned sector was read. -/
def Core.filled (k : Core) (b : Nat) (image : Nat → Byte) (pois : Bool) : Core :=
  { k with
    loc := memWrite k.loc (b * 65536) ((List.range 65536).map image)
    locPoison := k.locPoison.filter fun q => !(wholeSectors (b * 65536) 65536).contains q
    sidecar := memWrite k.sidecar (b * 2048) ((List.range 2048).map fun i => image (0x10000 + i))
    tags := if pois || natOfBytes ((List.range 12).map fun i => image (0x10804 + i)) != 0 || !operandFmt (imageTag image) then tdel k.tags b
      else tput k.tags b (imageTag image)
    wide := { k.wide with mpois := k.wide.mpois || pois } }

theorem imageRead_fillBank {s : State} {c : Nat} {e : WEntry} {b : Nat} {place : Nat → Nat} (hb : imageBase e.v1.toNat b % 256 = 0) (hu : Unmet s c)
    (hl : LiesAt s e.pages (imageBase e.v1.toNat b) 0x10810 place) :
    ImageRead place 0 0x10810 s (fillRuns c e.pages (cutRuns (imageBase e.v1.toNat b) 0x10810) s) :=
  imageRead_fillRuns (f := 0x10810 / 256 + 2) (o := 0) (m := 0x10810) (n := 0x10810) hb rfl (by omega) (by omega) (by omega) hu hl

/-- R260: what MFILL of a bank leaves of its core, and that it reads memory alone. -/
theorem fillBank_unmet {s : State} {c : Nat} {e : WEntry} {b : Nat} {place : Nat → Nat} (hb : imageBase e.v1.toNat b % 256 = 0) (hu : Unmet s c)
    (hl : LiesAt s e.pages (imageBase e.v1.toNat b) 0x10810 place) : ∃ pois : Bool,
      (pois = true ↔ ∃ i, i < 0x10810 ∧ place i / 256 ∈ s.memPoison) ∧ (fillBank c e s b).mem = s.mem ∧
      (fillBank c e s b).core c = (s.core c).filled b (fun i => memByte s.mem (place i)) pois := by
  obtain ⟨⟨hkeeps, hmem, -⟩, hbytes, hpois⟩ := imageRead_fillBank hb hu hl
  rw [fillBank]
  generalize fillRuns c e.pages (cutRuns (imageBase e.v1.toNat b) 0x10810) s = r at hkeeps hmem hbytes hpois ⊢
  simp only [Nat.zero_add] at hbytes hpois
  have hdata := take_drop_map_range (fun i => memByte s.mem (place i)) (n := 0x10810) (o := 0) (m := 65536) (by omega)
  rw [List.drop_zero] at hdata
  simp only [Nat.zero_add] at hdata
  refine ⟨r.2.1, hpois, (bankWrite_mem ..).trans hmem, ?_⟩
  have hw : bankWrite r.2.2 c (b * 65536) (r.1.take 65536) = locWrite r.2.2 c (b * 65536) (r.1.take 65536) :=
    watchBank_of_no_watch (s := locWrite r.2.2 c (b * 65536) (r.1.take 65536)) (hkeeps.unmet hu).2 ..
  rw [State.core_updCore, if_pos rfl, hw, locWrite, State.core_updCore, if_pos rfl, hkeeps.core, hbytes, hdata]
  simp only [field, take_drop_map_range (fun i => memByte s.mem (place i)) (n := 0x10810) (o := 65536) (m := 2048) (by omega),
    take_drop_map_range (fun i => memByte s.mem (place i)) (n := 0x10810) (o := 0x10800) (m := 4) (by omega),
    take_drop_map_range (fun i => memByte s.mem (place i)) (n := 0x10810) (o := 0x10804) (m := 12) (by omega), Core.filled, imageTag,
    List.length_map, List.length_range]
  rfl

/-! ## An image instruction leaves its head (R161, R262) -/

theorem imageLeft_append (e : WEntry) (f : BitVec 8 → Instr) (mask : BitVec 8) (b : Nat) (bs : List Nat) (rest : List WEntry) :
    (imageLeft e f mask b bs).toList ++ rest = if bs = [] then rest else { e with
      i := f (mask &&& ~~~((1 : BitVec 8) <<< (b - 24)))
      runs := bs.map (fun q => (q * 65536, 65536)) ++ e.runs.filter (fun q => q.2 != 65536) } :: rest := by
  rw [imageLeft]
  split <;> rfl

/-- A bank has been moved by a step that leaves the queue, the X registers and ACC. -/
theorem headDone_moved {s u : State} {c : Nat} {e : WEntry} {rest : List WEntry} (hh : HeadIs s c e rest)
    (hq : (u.core c).wide.queue = (s.core c).wide.queue) (hx : (u.ctx c 0).x = (s.ctx c 0).x) (ha : (u.core c).wide.acc = (s.core c).wide.acc)
    (f : BitVec 8 → Instr) (mask : BitVec 8) (b : Nat) (bs : List Nat) :
    let t := headDone u c (imageLeft e f mask b bs)
    (t.core c).wide.queue = (if bs = [] then rest else { e with
      i := f (mask &&& ~~~((1 : BitVec 8) <<< (b - 24)))
      runs := bs.map (fun q => (q * 65536, 65536)) ++ e.runs.filter (fun q => q.2 != 65536) } :: rest) ∧
    (t.ctx c 0).x = (s.ctx c 0).x ∧ (t.core c).wide.acc = (s.core c).wide.acc := by
  refine ⟨?_, (headDone_x ..).trans hx, (headDone_core_field (fun k => k.wide.acc) (fun _ _ => rfl) (fun _ _ => rfl) ..).trans ha⟩
  rw [headDone_queue, hq, hh.2, List.tail_cons, imageLeft_append]

/-! ## MSPILL: where the parts of the image are found (R259) -/

theorem bankPoison_iff {k : Core} {b i : Nat} (h : i < 65536) : bankPoison k b (i / 256 * 256) = true ↔ (b * 65536 + i) / 256 ∈ k.locPoison := by
  rw [bankPoison, Bool.and_eq_true, decide_eq_true_eq, List.contains_iff_mem, show (b * 65536 + i / 256 * 256) / 256 = (b * 65536 + i) / 256 by omega]
  exact and_iff_right (by omega)

section
variable {place : Nat → Nat} {k : Core} {b : Nat} {s t : State} (h : ImageWritten place (bankPoison k b) 0 (bankImage k b) s t)
include h

theorem ImageWritten.data {i : Nat} (hi : i < 65536) : memByte t.mem (place i) = memByte k.loc (b * 65536 + i) := by
  have := h.bytes i (by rw [length_bankImage]; omega)
  rwa [Nat.zero_add, bankImage_data k b hi] at this

theorem ImageWritten.sidecar {i : Nat} (hi : i < 2048) : memByte t.mem (place (0x10000 + i)) = memByte k.sidecar (b * 2048 + i) := by
  have := h.bytes (0x10000 + i) (by rw [length_bankImage]; omega)
  rwa [Nat.zero_add, bankImage_sidecar k b hi] at this

theorem ImageWritten.tag {i : Nat} (hi : i < 16) :
    memByte t.mem (place (0x10800 + i)) = BitVec.ofNat 8 ((tget 0 k.tags b).toNat / 2 ^ (8 * i)) := by
  have := h.bytes (0x10800 + i) (by rw [length_bankImage]; omega)
  rwa [Nat.zero_add, bankImage_tag k b hi] at this

theorem ImageWritten.elsewhere {a : Nat} (ha : ∀ i, i < 0x10810 → place i ≠ a) : memByte t.mem a = memByte s.mem a :=
  h.others a fun i hi => by rw [Nat.zero_add]; exact ha i (by rwa [length_bankImage] at hi)

theorem ImageWritten.stains {i : Nat} (hi : i < 65536) : place i / 256 ∈ t.memPoison ↔ (b * 65536 + i) / 256 ∈ k.locPoison := by
  have := h.poison i (by rw [length_bankImage]; omega)
  rwa [Nat.zero_add, Nat.zero_add, bankPoison_iff hi] at this

end

/-! ## MFILL: what a bank has got (R260) -/

/-- Of its core, a fill of a bank changes what its accesses to memory change, the sidecar, the tags and POIS. -/
theorem fillBank_core_field {α : Type} {g : Core → α} (hg : ImageBlind g)
    (hf : ∀ (k : Core) m t p, g { k with sidecar := m, tags := t, wide := { k.wide with mpois := p } } = g k) (s : State) (c : Nat) (e : WEntry) (b : Nat) :
    g ((fillBank c e s b).core c) = g (s.core c) := by
  rw [fillBank, State.core_updCore, if_pos rfl]
  exact (hf ..).trans ((bankWrite_core_field hg.watch hg.banks ..).trans (hg.fillRuns ..))

/-- Of the tags, that of the bank alone. -/
theorem fillBank_otherTag (s : State) (c : Nat) (e : WEntry) {b q : Nat} (hq : q ≠ b) :
    tget 0 ((fillBank c e s b).core c).tags q = tget 0 (s.core c).tags q := by
  have hg : ImageBlind fun k : Core => tget 0 k.tags q := ⟨fun _ _ _ _ _ _ _ => rfl, fun _ _ _ _ => rfl, fun _ _ _ => rfl⟩
  have hkeep (a : Nat) (bs : List Byte) (t : State) (ht : tget 0 (t.core c).tags q = tget 0 (s.core c).tags q) :
      tget 0 ((bankWrite t c a bs).core c).tags q = tget 0 (s.core c).tags q := (bankWrite_core_field hg.watch hg.banks ..).trans ht
  have hread := hkeep (b * 65536) ((fillRuns c e.pages (cutRuns (imageBase e.v1.toNat b) 0x10810) s).1.take 65536) _
    (hg.fillRuns c e.pages (cutRuns (imageBase e.v1.toNat b) 0x10810) s c)
  rw [fillBank, State.core_updCore, if_pos rfl]
  dsimp only
  split
  · rwa [tget, tfind_tdel, if_neg hq]
  · rwa [tget_tput, if_neg hq]

section
variable (k : Core) (b : Nat) (image : Nat → Byte) (pois : Bool)

theorem Core.filled_loc (a : Nat) : memByte (k.filled b image pois).loc a =
    if b * 65536 ≤ a ∧ a < b * 65536 + 65536 then image (a - b * 65536) else memByte k.loc a := by
  rw [Core.filled, memByte_memWrite, List.length_map, List.length_range]
  split
  · exact getD_map_range (by omega) ..
  · rfl

theorem Core.filled_sidecar (a : Nat) : memByte (k.filled b image pois).sidecar a =
    if b * 2048 ≤ a ∧ a < b * 2048 + 2048 then image (0x10000 + (a - b * 2048)) else memByte k.sidecar a := by
  rw [Core.filled, memByte_memWrite, List.length_map, List.length_range]
  split
  · exact getD_map_range (by omega) ..
  · rfl

/-- R260: MLDB accepts the image's tag, the bytes behind it are zero, and no poisoned sector was read. -/
def TagGood : Prop := operandFmt (imageTag image) = true ∧ (∀ i, i < 12 → image (0x10804 + i) = 0) ∧ ¬pois = true

theorem tagGood_iff : TagGood image pois ↔
    ¬(pois || natOfBytes ((List.range 12).map fun i => image (0x10804 + i)) != 0 || !operandFmt (imageTag image)) = true := by
  have hz : natOfBytes ((List.range 12).map fun i => image (0x10804 + i)) = 0 ↔ ∀ i, i < 12 → image (0x10804 + i) = 0 := by
    rw [natOfBytes_eq_zero_iff, List.forall_mem_map]
    simp only [List.mem_range]
  rw [TagGood, ← hz]
  simp only [Bool.or_eq_true, bne_iff_ne, Bool.not_eq_true', not_or, not_not, Bool.not_eq_false]
  exact ⟨fun ⟨hfmt, hzero, hclean⟩ => ⟨⟨hclean, hzero⟩, hfmt⟩, fun ⟨⟨hclean, hzero⟩, hfmt⟩ => ⟨hfmt, hzero, hclean⟩⟩

theorem Core.filled_tag_of_good (h : TagGood image pois) : tfind (k.filled b image pois).tags b = some (imageTag image) := by
  rw [Core.filled]
  dsimp only
  rw [if_neg ((tagGood_iff ..).1 h), tfind_tput, if_pos rfl]

theorem Core.filled_tag_of_bad (h : ¬TagGood image pois) : tfind (k.filled b image pois).tags b = none := by
  rw [Core.filled]
  dsimp only
  rw [if_pos (not_not.1 (mt (tagGood_iff ..).2 h)), tfind_tdel, if_pos rfl]

end

/-! ## MSPILL and MFILL (R161, R259-R262, R401) -/

theorem imageBlind_wide {α : Type} (g : Wide → α) : ImageBlind fun k : Core => g k.wide :=
  ⟨fun _ _ _ _ _ _ _ => rfl, fun _ _ _ _ => rfl, fun _ _ _ => rfl⟩

theorem imageBlind_ctx (x : Nat) : ImageBlind (Core.ctx · x) := ⟨fun _ _ _ _ _ _ _ => rfl, fun _ _ _ _ => rfl, fun _ _ _ => rfl⟩

theorem imageBlind_tags : ImageBlind Core.tags := ⟨fun _ _ _ _ _ _ _ => rfl, fun _ _ _ _ => rfl, fun _ _ _ => rfl⟩

section
variable (s : State) (c : Nat) (e : WEntry) (rs1 : Reg) (mask : BitVec 8) (b : Nat) (bs : List Nat)

/-- The state when an MSPILL at the head, counted, has spilled its lowest bank. -/
def afterSpill : State := headDone (spillBank c e (wideCycles s c) b) c (imageLeft e (.mspill rs1) mask b bs)

/-- The state when an MFILL at the head, counted, has filled its lowest bank. -/
def afterFill : State := headDone (fillBank c e (wideCycles s c) b) c (imageLeft e (.mfill rs1) mask b bs)

theorem spillBank_counted {α : Type} (g : Core → α) (hg : ImageBlind g) : g ((spillBank c e (wideCycles s c) b).core c) = g (s.core c) :=
  (spillBank_core_field hg ..).trans (wideCycles_core_field g hg.watch.counts s c)

theorem fillBank_counted {α : Type} (g : Core → α) (hg : ImageBlind g)
    (hf : ∀ (k : Core) m t p, g { k with sidecar := m, tags := t, wide := { k.wide with mpois := p } } = g k) :
    g ((fillBank c e (wideCycles s c) b).core c) = g (s.core c) :=
  (fillBank_core_field hg hf ..).trans (wideCycles_core_field g hg.watch.counts s c)

theorem afterSpill_tags : ((afterSpill s c e rs1 mask b bs).core c).tags = (s.core c).tags :=
  (headDone_core_field Core.tags (fun _ _ => rfl) (fun _ _ => rfl) ..).trans (spillBank_counted s c e b Core.tags imageBlind_tags)

theorem afterFill_otherTag {q : Nat} (hq : q ≠ b) : tget 0 ((afterFill s c e rs1 mask b bs).core c).tags q = tget 0 (s.core c).tags q := by
  rw [afterFill, headDone_core_field Core.tags (fun _ _ => rfl) (fun _ _ => rfl), fillBank_otherTag _ _ _ hq,
    wideCycles_core_field Core.tags fun _ _ => rfl]

section
variable {s c e b} {place : Nat → Nat} (hl : ImageLies s e b place) (hu : Unmet s c)

include hl in
theorem imageLies_counted : LiesAt (wideCycles s c) e.pages (imageBase e.v1.toNat b) 0x10810 place := hl.2

include hl hu

theorem imageWritten_counted (hinj : ∀ i j, i < 0x10810 → j < 0x10810 → place i = place j → i = j) :
    ImageWritten place (bankPoison ((wideCycles s c).core c) b) 0 (bankImage ((wideCycles s c).core c) b) (wideCycles s c)
      (spillBank c e (wideCycles s c) b) :=
  imageWritten_spillBank (imageBase_mod hl.1 b) (unmet_wideCycles hu) (imageLies_counted hl) hinj

/-- With the image in GDDR 7 and nothing met, a spill changes of its core the queue, waits and a counter. -/
theorem afterSpill_core_field (hinj : ∀ i j, i < 0x10810 → j < 0x10810 → place i = place j → i = j) {α : Type} (g : Core → α)
    (hg : ∀ (k : Core) q cs d, g { k with wide := { k.wide with queue := q }, ctxs := cs, dbg := d } = g k) :
    g ((afterSpill s c e rs1 mask b bs).core c) = g (s.core c) :=
  (headDone_core_field g (fun k q => hg k q k.ctxs k.dbg) (fun k cs => hg k k.wide.queue cs k.dbg) ..).trans
    ((congrArg g ((imageWritten_counted hl hu hinj).keeps.core c)).trans (wideCycles_core_field g (fun k d => hg k k.wide.queue k.ctxs d) s c))

/-- With the image in GDDR 7 and nothing met, a fill leaves its core filled, but for the queue, waits and a counter. -/
theorem afterFill_filled : ∃ pois : Bool, (pois = true ↔ ∃ i, i < 0x10810 ∧ place i / 256 ∈ s.memPoison) ∧
    (afterFill s c e rs1 mask b bs).mem = s.mem ∧
    ∀ {α : Type} (g : Core → α), (∀ (k : Core) q cs, g { k with wide := { k.wide with queue := q }, ctxs := cs } = g k) →
      g ((afterFill s c e rs1 mask b bs).core c) = g (((wideCycles s c).core c).filled b (fun i => memByte s.mem (place i)) pois) := by
  obtain ⟨pois, hpois, hmem, hcore⟩ := fillBank_unmet (imageBase_mod hl.1 b) (unmet_wideCycles hu) (imageLies_counted hl)
  exact ⟨pois, hpois, (headDone_mem ..).trans hmem, fun g hg =>
    (headDone_core_field g (fun k q => hg k q k.ctxs) (fun k cs => hg k k.wide.queue cs) ..).trans (congrArg g hcore)⟩

end

end

theorem imagesMoveBankByBank : ImagesMoveBankByBank := by
  intro s c e rest rs1 mask b bs place k left low base lies image tag poisoned good hh hst hm
  refine ⟨fun hi => ⟨afterSpill s c e rs1 mask b bs, ⟨wideExecute_image hh hst (.inl ⟨rfl, rfl⟩) hi hm, ?_⟩, fun q => ?_,
      fun ⟨hl, hu⟩ hinj => ?_⟩,
    fun hi => ⟨afterFill s c e rs1 mask b bs, ⟨wideExecute_image hh hst (.inr ⟨rfl, rfl⟩) hi hm, ?_⟩,
      fun q hq => afterFill_otherTag s c e rs1 mask b bs hq, fun ⟨hl, hu⟩ => ?_⟩⟩
  · exact headDone_moved (u := spillBank c e (wideCycles s c) b) hh (spillBank_counted s c e b (fun k => k.wide.queue) (imageBlind_wide Wide.queue))
      (congrArg Ctx.x (spillBank_counted s c e b (Core.ctx · 0) (imageBlind_ctx 0))) (spillBank_counted s c e b (fun k => k.wide.acc) (imageBlind_wide Wide.acc)) ..
  · rw [afterSpill_tags]
  · have hwr := imageWritten_counted hl hu hinj
    have hcore {α : Type} (g : Core → α) := afterSpill_core_field rs1 mask bs hl hu hinj g
    rw [afterSpill, headDone_mem, headDone_memPoison]
    refine ⟨fun i hi => ⟨?_, ?_⟩, fun i hi => ?_, fun i hi => ?_, fun a ha => hwr.elsewhere ha, hcore Core.loc fun _ _ _ _ => rfl,
      hcore Core.sidecar fun _ _ _ _ => rfl, hcore Core.locPoison fun _ _ _ _ => rfl⟩
    · rw [hwr.data hi, wideCycles_loc]
      rfl
    · rw [hwr.stains hi, wideCycles_core_field Core.locPoison fun _ _ => rfl]
    · rw [hwr.sidecar hi, wideCycles_core_field Core.sidecar fun _ _ => rfl]
    · rw [hwr.tag hi, wideCycles_core_field Core.tags fun _ _ => rfl]
  · exact headDone_moved (u := fillBank c e (wideCycles s c) b) hh (fillBank_counted s c e b (fun k => k.wide.queue) (imageBlind_wide Wide.queue) fun _ _ _ _ => rfl)
      (congrArg Ctx.x (fillBank_counted s c e b (Core.ctx · 0) (imageBlind_ctx 0) fun _ _ _ _ => rfl))
      (fillBank_counted s c e b (fun k => k.wide.acc) (imageBlind_wide Wide.acc) fun _ _ _ _ => rfl) ..
  · obtain ⟨pois, hpois, hmem, hcore⟩ := afterFill_filled rs1 mask bs hl hu
    have htag := hcore (fun k => tfind k.tags b) fun _ _ _ => rfl
    have hgood : TagGood image pois ↔ good := and_congr_right' (and_congr_right' (not_congr hpois))
    refine ⟨fun a => ?_, fun a => ?_, fun h => htag.trans (Core.filled_tag_of_good _ _ _ _ (hgood.2 h)),
      fun h => htag.trans (Core.filled_tag_of_bad _ _ _ _ (mt hgood.1 h)), ?_, hmem⟩
    · rw [locByte, hcore Core.loc fun _ _ _ => rfl, Core.filled_loc, wideCycles_loc]
      rfl
    · rw [hcore Core.sidecar fun _ _ _ => rfl, Core.filled_sidecar, wideCycles_core_field Core.sidecar fun _ _ => rfl]
    · rw [hcore (fun k => k.wide.mpois) fun _ _ _ => rfl, Core.filled]
      dsimp only
      rw [Bool.or_eq_true, hpois, wideCycles_wide]

/-- Settles O24: MLDB, MSPILL and MFILL by what each leaves of its core and of memory, sector after sector for an image; the steps of a gang by the
six cores in turn, each of which sees its own alone. -/
theorem matrixUnitRuns : Obligations.MatrixUnitRuns :=
  ⟨mldbLoadsTheBank, imagesMoveBankByBank, mmulsJoinTogether, rowsAreBroadcast⟩

end Sys2Proof.Machine
